-- ==== Sys2Proof/Word.lean ====
section
/-! DEFINITION. Word.lean: the word types of the package (R2, R3) and nothing else. -/
namespace Sys2Proof

/-- A byte of memory (R3). -/
abbrev Byte := BitVec 8

/-- A vector register of one lane, or a system register: 32 bits (R21, R396). -/
abbrev Word := BitVec 32

/-- A program counter, an address or a register pair: 64 bits (R3, R64). -/
abbrev Dword := BitVec 64

end Sys2Proof
end

