-- ==== Sys2Proof/Config.lean ====
section
/-! DEFINITION. Config.lean: the constants that an implementation fixes and the free values: constants
without a body, so that no proof can see what they are. Each one is named in the assumption log. -/
namespace Sys2Proof.Config

/-- A fresh free truth value, applied to the counter State.free (log 2). -/
opaque freeBool : Nat → Bool

/-- A fresh free number, applied to the counter State.free (log 2). -/
opaque freeNat : Nat → Nat

/-- The hash that chooses a link of a route entry's mask: source package, destination package, channel (R493). -/
opaque linkHash : Nat → Nat → Nat → Nat

/-- Hardware's choice among the expansions of R172, modulo 3: NRANKS, COUNT, packages of the ranks (log 46). -/
opaque colChoice : Nat → Nat → List Nat → Nat

/-- The public key that the root block's mask ROM holds, 57 bytes, first byte lowest (R487). -/
opaque rootKey : Nat

end Sys2Proof.Config
end

