-- ==== Sys2Proof/Syntax.lean ====
section
/-! DEFINITION. Syntax.lean: the one instruction type, a constructor for every row of the opcode table, in the
table's order: first the instructions of the stream (R207 to R239), whose operands are the fields of their
encodings and literal words, then the events, the parts' own steps and the register writes with an effect of
their own. The table gives an event no field: what it acts on stands in the state, with the event that is due. -/
namespace Sys2Proof

/-- One step of the machine: an instruction or an event of the opcode table. -/
inductive Instr where
  /-- MOV_S (R209): Compact move: v[d] := v[b] for registers v0-v31. -/
  | movS (d b : Nat)
  /-- ADD_S (R209): Compact add d := d + b modulo 2^32. -/
  | addS (d b : Nat)
  /-- SUB_S (R209): Compact subtract d := d - b. -/
  | subS (d b : Nat)
  /-- AND_S (R209): Compact bitwise AND. -/
  | andS (d b : Nat)
  /-- OR_S (R209): Compact bitwise OR. -/
  | orS (d b : Nat)
  /-- XOR_S (R209): Compact bitwise XOR. -/
  | xorS (d b : Nat)
  /-- SHL_S (R209): Compact shift left by register. -/
  | shlS (d b : Nat)
  /-- SHR_S (R209): Compact logical shift right by register. -/
  | shrS (d b : Nat)
  /-- SAR_S (R209): Compact arithmetic shift right by register. -/
  | sarS (d b : Nat)
  /-- MUL24_S (R209): Compact signed 24-bit multiply, low 32 bits. -/
  | mul24S (d b : Nat)
  /-- FADD_S (R209): Compact FP32 add under RNE, with quiet bit. -/
  | faddS (d b q : Nat)
  /-- FSUB_S (R209): Compact FP32 subtract under RNE. -/
  | fsubS (d b q : Nat)
  /-- FMUL_S (R209): Compact FP32 multiply under RNE. -/
  | fmulS (d b q : Nat)
  /-- FMIN_S (R209): Compact FP32 minimum. -/
  | fminS (d b q : Nat)
  /-- FMAX_S (R209): Compact FP32 maximum. -/
  | fmaxS (d b q : Nat)
  /-- SETLT (R209): Compact signed compare: d := 1 where d < b, else 0. -/
  | setlt (d b : Nat)
  /-- NOP (R290): Changes no state. -/
  | nop
  /-- GUARD (R218): Evaluates a condition once per active lane and predicates the next n instructions of each lane. -/
  | guard (c n s : Nat)
  /-- MOV (R244): 32-bit move v[d] := v[b]. -/
  | mov (d b : Nat)
  /-- MOVI (R244): Writes the 32-bit literal word to v[d]. -/
  | movi (d imm : Nat)
  /-- ADD_IMM (R246): Adds a sign-extended 10-bit immediate modulo 2^32. -/
  | addImm (d a i : Nat)
  /-- PART (R280): Sets the wave's partition register to tiles of 2-32 lanes from the next bundle. -/
  | part (p : Nat)
  /-- YIELD (R44): Defers each active lane for the next bundle. -/
  | yield
  /-- EXIT (R290): Ends each active lane; may complete named barriers. -/
  | exit
  /-- TRAP (R294): Passes the instruction and takes the software trap with code n. -/
  | trap (n : Nat)
  /-- BRK (R295): Stops the block if debug is enabled, else takes the breakpoint trap. -/
  | brk (n : Nat)
  /-- BAR_SYNC (R291): Each active lane arrives at named barrier n and parks unless its arrival completes it. -/
  | barSync (n : Nat)
  /-- BAR_ARRIVE (R291): Each active lane arrives at named barrier n without parking. -/
  | barArrive (n : Nat)
  /-- BRA (R288): Branches active lanes where vc is nonzero, or always with c 0x7F. -/
  | bra (c o : Nat)
  /-- BRA_Z (R288): Branches active lanes where vc is zero. -/
  | braZ (c o : Nat)
  /-- JMP (R288): Branch with a 32-bit literal halfword offset. -/
  | jmp (c off : Nat)
  /-- CALL (R288): Branches and writes the link p + 4 to a register pair. -/
  | call (c o : Nat)
  /-- JMPR (R288): Jumps to the address in a register pair. -/
  | jmpr (a : Nat)
  /-- CALLR (R288): Jumps to a register-pair target and writes the link pair. -/
  | callr (d a : Nat)
  /-- RET (R288): Returns to the address in the link pair. -/
  | ret (a : Nat)
  /-- SREG (R245): Writes a special value selected by code to vd. -/
  | sreg (d i : Nat)
  /-- ADD (R246): Adds two registers modulo 2^32. -/
  | add (d a b : Nat)
  /-- SUB (R246): Subtracts two registers modulo 2^32. -/
  | sub (d a b : Nat)
  /-- ADDC (R247): Adds with carry-in from vd[0], writing sum to vd and carry to vd+1. -/
  | addc (d a b : Nat)
  /-- SUBB (R247): Subtracts with borrow-in from vd[0], writing borrow to vd+1. -/
  | subb (d a b : Nat)
  /-- NEG (R246): Two's-complement negation. -/
  | neg (d a : Nat)
  /-- ABS (R246): Signed absolute value modulo 2^32. -/
  | abs (d a : Nat)
  /-- MIN (R248): Signed or unsigned integer minimum. -/
  | min (d a b t : Nat)
  /-- MAX (R248): Signed or unsigned integer maximum. -/
  | max (d a b t : Nat)
  /-- AND (R249): Bitwise AND. -/
  | and (d a b : Nat)
  /-- OR (R249): Bitwise OR. -/
  | or (d a b : Nat)
  /-- XOR (R249): Bitwise XOR. -/
  | xor (d a b : Nat)
  /-- ANDN (R249): v[a] AND NOT v[b]. -/
  | andn (d a b : Nat)
  /-- NOT (R249): Bitwise NOT. -/
  | not (d a : Nat)
  /-- SHL (R250): Shift left by a full 32-bit register count. -/
  | shl (d a b : Nat)
  /-- SHR (R250): Logical shift right by register. -/
  | shr (d a b : Nat)
  /-- SAR (R250): Arithmetic shift right by register. -/
  | sar (d a b : Nat)
  /-- ROL (R250): Rotate left by register count modulo 32. -/
  | rol (d a b : Nat)
  /-- ROR (R250): Rotate right by register count modulo 32. -/
  | ror (d a b : Nat)
  /-- SHL_IMM (R250): Shift left by immediate count. -/
  | shlImm (d a c : Nat)
  /-- SHR_IMM (R250): Logical shift right by immediate. -/
  | shrImm (d a c : Nat)
  /-- SAR_IMM (R250): Arithmetic shift right by immediate. -/
  | sarImm (d a c : Nat)
  /-- ROL_IMM (R250): Rotate left by immediate. -/
  | rolImm (d a c : Nat)
  /-- ROR_IMM (R250): Rotate right by immediate. -/
  | rorImm (d a c : Nat)
  /-- MUL24 (R203): 24-bit multiply, low or high part. -/
  | mul24 (d a b t h : Nat)
  /-- MAD24 (R203): 24-bit multiply with vd added modulo 2^32. -/
  | mad24 (d a b t h : Nat)
  /-- MUL32 (R203): 32-bit multiply, low or high part, rate 1/4. -/
  | mul32 (d a b t h : Nat)
  /-- MAD32 (R203): 32-bit multiply-add, rate 1/4. -/
  | mad32 (d a b t h : Nat)
  /-- DIV (R204): Integer quotient rounded toward zero, rate 1/16. -/
  | div (d a b t : Nat)
  /-- REM (R204): Integer remainder with the sign of a, rate 1/16. -/
  | rem (d a b t : Nat)
  /-- POPC (R253): Counts 1 bits. -/
  | popc (d a : Nat)
  /-- CLZ (R253): Counts leading zeros. -/
  | clz (d a : Nat)
  /-- CTZ (R253): Counts trailing zeros. -/
  | ctz (d a : Nat)
  /-- BREV (R253): Reverses the bit order. -/
  | brev (d a : Nat)
  /-- BFE_N32 (R254): Extracts an unsigned bit field. -/
  | bfeN32 (d a n p : Nat)
  /-- BFE_S32 (R254): Extracts a sign-extended bit field. -/
  | bfeS32 (d a n p : Nat)
  /-- BFI (R254): Inserts a bit field into vd. -/
  | bfi (d a n p : Nat)
  /-- BSEL (R248): Bitwise select using the mask held in vd. -/
  | bsel (d a b : Nat)
  /-- BGATH (R255): Gathers four bytes from va and vb under a control word in vd. -/
  | bgath (d a b : Nat)
  /-- LEA (R256): 64-bit address plus sign-extended index shifted by s. -/
  | lea (d a b s : Nat)
  /-- ADD64 (R256): 64-bit add of register pairs. -/
  | add64 (d a b : Nat)
  /-- SUB64 (R256): 64-bit subtract of register pairs. -/
  | sub64 (d a b : Nat)
  /-- SHL64 (R256): 64-bit shift left. -/
  | shl64 (d a b : Nat)
  /-- SHR64 (R256): 64-bit logical shift right. -/
  | shr64 (d a b : Nat)
  /-- CMP_S32 (R248): Signed compare under a condition code, writing 1 or 0. -/
  | cmpS32 (d a b c : Nat)
  /-- CMP_N32 (R248): Unsigned compare under a condition code. -/
  | cmpN32 (d a b c : Nat)
  /-- SEL (R248): Selects va or vb by the condition held in vd. -/
  | sel (d a b : Nat)
  /-- FADD (R263): FP32 add with rounding mode and quiet bit. -/
  | fadd (d a b m q : Nat)
  /-- FSUB (R263): FP32 subtract. -/
  | fsub (d a b m q : Nat)
  /-- FMUL (R263): FP32 multiply. -/
  | fmul (d a b m q : Nat)
  /-- FFMA (R263): Fused multiply-add with addend vd. -/
  | ffma (d a b m q : Nat)
  /-- FFMA3 (R262): Fused multiply-add with addend register named by the literal. -/
  | ffma3 (d a b c m q : Nat)
  /-- FMIN (R265): FP32 minimum, NaN if either is NaN. -/
  | fmin (d a b q : Nat)
  /-- FMAX (R265): FP32 maximum, NaN if either is NaN. -/
  | fmax (d a b q : Nat)
  /-- FMINN (R265): FP32 minimum ignoring a single NaN. -/
  | fminn (d a b q : Nat)
  /-- FMAXN (R265): FP32 maximum ignoring a single NaN. -/
  | fmaxn (d a b q : Nat)
  /-- FABS (R265): Clears the sign bit. -/
  | fabs (d a q : Nat)
  /-- FNEG (R265): Inverts the sign bit. -/
  | fneg (d a q : Nat)
  /-- FCMP_EQ (R266): FP32 equal compare. -/
  | fcmpEq (d a b q : Nat)
  /-- FCMP_LT (R266): FP32 less-than compare. -/
  | fcmpLt (d a b q : Nat)
  /-- FCMP_LE (R266): FP32 less-or-equal compare. -/
  | fcmpLe (d a b q : Nat)
  /-- FCMP_UN (R266): FP32 unordered test. -/
  | fcmpUn (d a b q : Nat)
  /-- FCMP_NE (R266): FP32 not-equal compare. -/
  | fcmpNe (d a b q : Nat)
  /-- FCMP_GT (R266): FP32 greater-than compare. -/
  | fcmpGt (d a b q : Nat)
  /-- FCMP_GE (R266): FP32 greater-or-equal compare. -/
  | fcmpGe (d a b q : Nat)
  /-- FCMP_ORD (R266): FP32 ordered test. -/
  | fcmpOrd (d a b q : Nat)
  /-- FCLASS (R267): Writes a one-hot class mask of an FP32 value. -/
  | fclass (d a q : Nat)
  /-- FDIV (R263): Correctly rounded FP32 divide, rate 1/8. -/
  | fdiv (d a b m q : Nat)
  /-- FSQRT (R263): Correctly rounded FP32 square root, rate 1/8. -/
  | fsqrt (d a m q : Nat)
  /-- FRCP (R268): Correctly rounded reciprocal. -/
  | frcp (d a l q : Nat)
  /-- FRSQ (R268): Correctly rounded reciprocal square root. -/
  | frsq (d a l q : Nat)
  /-- FEXP2 (R268): Correctly rounded 2^x. -/
  | fexp2 (d a l q : Nat)
  /-- FLOG2 (R268): Correctly rounded log2 x. -/
  | flog2 (d a l q : Nat)
  /-- FSIN (R268): Correctly rounded sine. -/
  | fsin (d a l q : Nat)
  /-- FCOS (R268): Correctly rounded cosine. -/
  | fcos (d a l q : Nat)
  /-- FRND (R263): Rounds an FP32 value to an integral value under the mode. -/
  | frnd (d a m q : Nat)
  /-- FLDEXP (R263): Scales an FP32 value by 2^n. -/
  | fldexp (d a b m q : Nat)
  /-- CVT (R274): Converts between formats under the literal's formats, mode and saturation. -/
  | cvt (d a b sf df m sat q : Nat)
  /-- HADD2_F16 (R270): Packed FP16 add. -/
  | hadd2F16 (d a b q : Nat)
  /-- HSUB2_F16 (R270): Packed FP16 subtract. -/
  | hsub2F16 (d a b q : Nat)
  /-- HMUL2_F16 (R270): Packed FP16 multiply. -/
  | hmul2F16 (d a b q : Nat)
  /-- HFMA2_F16 (R270): Packed FP16 fused multiply-add. -/
  | hfma2F16 (d a b q : Nat)
  /-- HADD2_BF16 (R270): Packed BF16 add. -/
  | hadd2Bf16 (d a b q : Nat)
  /-- HSUB2_BF16 (R270): Packed BF16 subtract. -/
  | hsub2Bf16 (d a b q : Nat)
  /-- HMUL2_BF16 (R270): Packed BF16 multiply. -/
  | hmul2Bf16 (d a b q : Nat)
  /-- HFMA2_BF16 (R270): Packed BF16 fused multiply-add. -/
  | hfma2Bf16 (d a b q : Nat)
  /-- HMIN2 (R270): Packed FP16 or BF16 minimum. -/
  | hmin2 (d a b t q : Nat)
  /-- HMAX2 (R270): Packed FP16 or BF16 maximum. -/
  | hmax2 (d a b t q : Nat)
  /-- PACK_H2 (R275): Packs two 16-bit halves into one register. -/
  | packH2 (d a b : Nat)
  /-- PACK_B4 (R275): Packs four bytes from a register group. -/
  | packB4 (d a : Nat)
  /-- PACK_E2M1X8 (R275): Packs eight E2M1 nibbles from a register group. -/
  | packE2m1x8 (d a : Nat)
  /-- UNPACK_H2 (R275): Unpacks two 16-bit halves into a pair. -/
  | unpackH2 (d a : Nat)
  /-- UNPACK_B4 (R275): Unpacks four bytes into a register group. -/
  | unpackB4 (d a : Nat)
  /-- UNPACK_E2M1X8 (R275): Unpacks eight nibbles into a register group. -/
  | unpackE2m1x8 (d a : Nat)
  /-- FLAGR (R276): Reads the lane's sticky flags after earlier flag-setting instructions complete. -/
  | flagr (d : Nat)
  /-- FLAGR_WAVE (R276): Reads the OR of non-helper active lanes' flags. -/
  | flagrWave (d : Nat)
  /-- FLAGC (R276): Clears the sticky flags of each active lane. -/
  | flagc
  /-- VOTE (R282): Writes the vote word over the lane's participants. -/
  | vote (d a : Nat)
  /-- BALLOT (R281): Writes a mask of participants holding true. -/
  | ballot (d a : Nat)
  /-- SHFL_AT (R283): Reads va of a tile position given by vb. -/
  | shflAt (d a b : Nat)
  /-- SHFL_ROT (R283): Rotating shuffle by vb within the tile. -/
  | shflRot (d a b : Nat)
  /-- SHFL_XOR (R283): Butterfly shuffle by vb within the tile. -/
  | shflXor (d a b : Nat)
  /-- SHFL_AT_IMM (R283): Shuffle from an immediate tile position. -/
  | shflAtImm (d a x : Nat)
  /-- SHFL_ROT_IMM (R283): Rotating shuffle by an immediate. -/
  | shflRotImm (d a x : Nat)
  /-- SHFL_XOR_IMM (R283): Butterfly shuffle by an immediate. -/
  | shflXorImm (d a x : Nat)
  /-- SHFL_REV (R283): Mirrors values within the tile. -/
  | shflRev (d a : Nat)
  /-- QUAD (R284): Exchanges values among the four lanes of a quad. -/
  | quad (d a s : Nat)
  /-- RED (R285): Integer reduction over participants. -/
  | red (d a o : Nat)
  /-- RED_F32 (R286): Exact FP32 add, min or max reduction over participants. -/
  | redF32 (d a o q : Nat)
  /-- SCAN_INC (R285): Inclusive integer scan over participants. -/
  | scanInc (d a o : Nat)
  /-- SCAN_EXC (R285): Exclusive integer scan over participants. -/
  | scanExc (d a o : Nat)
  /-- MATCH_B32 (R287): Writes the group word of lanes with equal 32-bit keys. -/
  | matchB32 (d a : Nat)
  /-- MATCH_B64 (R287): Writes the group word of lanes with equal 64-bit keys. -/
  | matchB64 (d a : Nat)
  /-- ELECT (R281): Writes 1 in the lowest participant of each tile. -/
  | elect (d : Nat)
  /-- LD (R304): Plain load of 1-32 bytes per lane. -/
  | ld (d a x w l : Nat)
  /-- LD_ACQ (R304): Acquire load at a scope. -/
  | ldAcq (d a s w l : Nat)
  /-- ST (R304): Plain store of 1-32 bytes per lane. -/
  | st (d a w l : Nat)
  /-- ST_REL (R304): Release store at a scope. -/
  | stRel (d a s w l : Nat)
  /-- LDS (R304): Plain load from the own scratchpad by offset. -/
  | lds (d a x w l : Nat)
  /-- LDS_ACQ (R304): Acquire load from the own scratchpad. -/
  | ldsAcq (d a s w l : Nat)
  /-- STS (R304): Plain store to the own scratchpad. -/
  | sts (d a w l : Nat)
  /-- STS_REL (R304): Release store to the own scratchpad. -/
  | stsRel (d a s w l : Nat)
  /-- ATOM (R309): Global atomic read-modify-write executed at the home bank ALU or controller. -/
  | atom (d a b c op kind scope use f w l : Nat)
  /-- ATOMS (R309): Scratchpad-window atomic. -/
  | atoms (d a b c op kind scope use f w l : Nat)
  /-- RATOM (R312): Issues remote tensor atomics completing to a transaction barrier. -/
  | ratom (a b op tb f w l : Nat)
  /-- PREFETCH_L1 (R313): Starts a line fetch into the L1. -/
  | prefetchL1 (a l : Nat)
  /-- PREFETCH_CM (R313): Starts a line fetch into the commons. -/
  | prefetchCm (a l : Nat)
  /-- FENCE_ACQ (R314): Acquire fence at a scope. -/
  | fenceAcq (s : Nat)
  /-- FENCE_REL (R314): Release fence at a scope. -/
  | fenceRel (s : Nat)
  /-- FENCE_FULL (R314): Full fence at a scope. -/
  | fenceFull (s : Nat)
  /-- TFENCE (R122): Holds later stores and atomics until remote operations are acknowledged. -/
  | tfence
  /-- INVAL (R316): Discards every tensor line of the core's L1. -/
  | inval
  /-- MCFG (R320): Loads a tile configuration block, clearing tiles and the reuse latch. -/
  | mcfg (a l : Nat)
  /-- GANG (R324): Sets the wave's gang register. -/
  | gang (a : Nat)
  /-- MMA_E2M1 (R326): Arrives at the rendezvous with an E2M1 block-scaled matrix multiply. -/
  | mmaE2m1 (d a t r l : Nat)
  /-- MMA_E4M3 (R326): Arrives at the rendezvous with an E4M3 matrix multiply. -/
  | mmaE4m3 (d a s t r l : Nat)
  /-- MMA_E5M2 (R326): Arrives at the rendezvous with an E5M2 matrix multiply. -/
  | mmaE5m2 (d a s t r l : Nat)
  /-- MMA_S8 (R326): Arrives at the rendezvous with an S8 matrix multiply. -/
  | mmaS8 (d t r l : Nat)
  /-- MMA_BF16 (R326): Arrives at the rendezvous with a BF16 matrix multiply. -/
  | mmaBf16 (d t r l : Nat)
  /-- MMA_F16 (R326): Arrives at the rendezvous with an FP16 matrix multiply. -/
  | mmaF16 (d t r l : Nat)
  /-- MZERO (R331): Zeroes an accumulator tile and its KCUR and flags. -/
  | mzero (t l : Nat)
  /-- MRD (R331): Reads eight accumulator elements per lane. -/
  | mrd (d a t l : Nat)
  /-- MWR (R331): Writes eight accumulator elements per lane. -/
  | mwr (d a t l : Nat)
  /-- MSCALE (R331): Sets the band scales of a tile. -/
  | mscale (a t l : Nat)
  /-- RGN_SET (R335): Reads and checks a box descriptor and binds a region entry. -/
  | rgnSet (d a l : Nat)
  /-- RGN_PRE (R82): Starts the inbound copy of an absent entry. -/
  | rgnPre (a l : Nat)
  /-- RGN_FLUSH (R82): Starts the outbound copy of a dirty entry. -/
  | rgnFlush (a l : Nat)
  /-- RGN_DROP (R82): Drops an entry, flushing a dirty one first. -/
  | rgnDrop (a l : Nat)
  /-- RGN_STAT (R336): Returns a region status snapshot. -/
  | rgnStat (d a l : Nat)
  /-- TBAR_INIT (R338): Initialises a transaction barrier in one atomic step. -/
  | tbarInit (a l : Nat)
  /-- TBAR_ARRIVE (R338): Makes n arrivals at a transaction barrier as a block-scope release. -/
  | tbarArrive (a l : Nat)
  /-- TBAR_WAIT (R339): Passes with an acquire if the phase moved, faults on ERR, or parks. -/
  | tbarWait (a l : Nat)
  /-- TBAR_TEST (R339): Writes whether the phase has moved, faulting on ERR. -/
  | tbarTest (d a l : Nat)
  /-- TBAR_READ (R338): Reads the 16 barrier bytes in one step. -/
  | tbarRead (d a l : Nat)
  /-- CHAIN (R340): Reads a chain descriptor and hands element-wise work to the bank ALUs. -/
  | chain (a l : Nat)
  /-- RCAP (R131): Mints a capability over a register range per active lane. -/
  | rcap (d b n l : Nat)
  /-- RCAP_L (R131): Mints a lane-scoped capability. -/
  | rcapL (d b n l : Nat)
  /-- ARM (R132): Sets the pending bits of up to eight registers. -/
  | arm (d n l : Nat)
  /-- SENDSTAT (R348): Reads, and optionally clears, the five send-status counters. -/
  | sendstat (d c l : Nat)
  /-- SEND_W (R134): Sends each lane's value through one capability. -/
  | sendW (d a k s r l : Nat)
  /-- SEND_L (R134): Sends each lane's value through its own capability. -/
  | sendL (d a k s r l : Nat)
  /-- QPUT (R351): Reads a packet image and inserts it into an own-package queue, writing a status. -/
  | qput (d a l : Nat)
  /-- NTF_READ (R358): Reads a notify register's value and pending bit. -/
  | ntfRead (d a l : Nat)
  /-- NTF_WAIT (R359): Consumes a pending notify value or parks the lane. -/
  | ntfWait (d a : Nat)
  /-- NTF_WRITE (R358): Writes a notify register and sets its pending bit. -/
  | ntfWrite (d a l : Nat)
  /-- SQ_PROP (R156): Appends a draft token to a slot. -/
  | sqProp (d a l : Nat)
  /-- SQ_VERIFY (R156): Truncates drafts to the accepted count and marks them verified. -/
  | sqVerify (d a l : Nat)
  /-- SQ_COMMIT (R156): Commits drafts and a final token, evaluating watch entries. -/
  | sqCommit (d a : Nat)
  /-- SQ_COMMIT_D (R156): Commits drafts with no final token. -/
  | sqCommitD (d a : Nat)
  /-- SQ_NEXT (R163): Returns the next input token, draining the forced-token queue. -/
  | sqNext (d a l : Nat)
  /-- SQ_WATCH (R154): Installs a watch entry image into a slot. -/
  | sqWatch (d a l : Nat)
  /-- SQ_READ (R149): Reads one 32-bit word of a slot. -/
  | sqRead (d a l : Nat)
  /-- SQ_CTL_OPEN (R153): Opens the lowest free slot of the partition's range. -/
  | sqCtlOpen (d l : Nat)
  /-- SQ_CTL_CLOSE (R153): Frees a slot and zeroes its words. -/
  | sqCtlClose (d a l : Nat)
  /-- SQ_CTL_RESUME (R153): Returns a stopped or trapped slot to running. -/
  | sqCtlResume (d a l : Nat)
  /-- SQ_CTL_SETCLASS (R153): Writes a token class range. -/
  | sqCtlSetclass (d a l : Nat)
  /-- SQ_CTL_SETMASK (R153): Writes a class mask of a budget counter. -/
  | sqCtlSetmask (d a l : Nat)
  /-- SQ_CTL_SETCNT (R153): Writes a budget counter. -/
  | sqCtlSetcnt (d a l : Nat)
  /-- SQ_CTL_CLRDRAFT (R153): Empties the draft buffer and clears VERIF. -/
  | sqCtlClrdraft (d a l : Nat)
  /-- SQ_CTL_CLRFQ (R153): Empties the forced-token queue. -/
  | sqCtlClrfq (d a l : Nat)
  /-- SYSR (R395): Reads a system register into vd. -/
  | sysr (d n : Nat)
  /-- SYSW (R395): Writes a system register from va. -/
  | sysw (a n : Nat)
  /-- ERET (R400): Leaves handler mode, restoring PCs and guard and park state. -/
  | eret
  /-- HALT (R401): Passes the instruction and saves the block into Halted. -/
  | halt
  /-- WFE (R403): Consumes the event bit or parks the lanes. -/
  | wfe
  /-- TLBINV_PAGE (R404): Discards the issuing partition's translations of one page. -/
  | tlbinvPage (a : Nat)
  /-- TLBINV_PART (R404): Discards all translations of a partition. -/
  | tlbinvPart (a : Nat)
  /-- TLBINV_ALL (R404): Discards every translation of the package. -/
  | tlbinvAll
  /-- BUNDLE_ISSUE (R41): In a free cycle an issue slot selects the next eligible wave round-robin and forms its run at the minimum PC. -/
  | bundleIssue
  /-- INSTRUCTION_COMPLETE (R62): A long-latency instruction completes, releasing the bundle after its lookahead window and any stall. -/
  | instructionComplete
  /-- WAVE_RETIRE (R49): A wave whose lanes have all exited retires once its instructions complete. -/
  | waveRetire
  /-- BLOCK_RETIRE (R49): A block retires once its waves and engine work complete, advancing the generation and releasing resources. -/
  | blockRetire
  /-- LOAD_DATA_RETURN (R304): Load or atomic data returns and is written to the lane's registers. -/
  | loadDataReturn
  /-- STORE_ACKNOWLEDGED (R105): A home acknowledges a store, allowing waiting releases and fences to complete. -/
  | storeAcknowledged
  /-- ATOMIC_AT_HOME (R109): An atomic executes as one read-modify-write at its execution site. -/
  | atomicAtHome
  /-- INBOUND_SECTOR_WRITTEN (R88): A copy writes one 32-byte window sector, counting a sector event and waking waiting loads. -/
  | inboundSectorWritten
  /-- OUTBOUND_SECTOR_ACK (R88): Every in-bounds element of an outbound sector is acknowledged by its home. -/
  | outboundSectorAck
  /-- REDUCE_ON_STORE_COMBINE (R81): A home bank ALU atomically combines an outbound element into memory. -/
  | reduceOnStoreCombine
  /-- MULTICAST_LANDING (R80): A multicast copy lands sectors in a receiving block once its window lock is free. -/
  | multicastLanding
  /-- COPY_COMPLETE (R82): A region copy ends: lock released, entry state updated, and its arrival made. -/
  | copyComplete
  /-- COPY_FAIL (R84): A copy meets an error, records it in the barrier and subtracts remaining sectors. -/
  | copyFail
  /-- RATOM_AT_TARGET (R312): One lane's remote atomic executes at the target's home bank ALU. -/
  | ratomAtTarget
  /-- RATOM_ACKNOWLEDGED (R312): A remote atomic's acknowledgement returns; the last one makes the barrier arrival. -/
  | ratomAcknowledged
  /-- CHAIN_START (R344): The engine checks the chain descriptor and takes its commons locks once free. -/
  | chainStart
  /-- CHAIN_COMPLETE (R343): The bank ALUs finish the chain's elements and make its arrival. -/
  | chainComplete
  /-- MMA_RENDEZVOUS (R325): All gang waves wait at the latch; checks run and the mma enters the pipeline. -/
  | mmaRendezvous
  /-- MATRIX_OPERATION_COMPLETE (R329): The matrix unit finishes an operation on a tile, updating accumulators and KCUR. -/
  | matrixOperationComplete
  /-- LANE_WRITE_DECIDED (R135): A lane write is decided at the target port: stale, partition, range, filled or overwrite. -/
  | laneWriteDecided
  /-- LANE_WRITE_FORWARD (R138): Matins forwards or deposits a lane write for a context not resident where its name points. -/
  | laneWriteForward
  /-- SEND_OUTCOME_RETURN (R140): A lane write's outcome returns to the sender and increments one counter. -/
  | sendOutcomeReturn
  /-- VESPER_REPLY (R362): Vesper's reply writes a sequence or notify instruction's destination registers. -/
  | vesperReply
  /-- QUEUE_INSERTION (R354): A packet reaches a queue and is inserted in arrival order, or refused. -/
  | queueInsertion
  /-- LAUNCH_BEGIN (R415): A LAUNCH packet begins; Matins reads and checks its descriptor. -/
  | launchBegin
  /-- LAUNCH_COMPLETE (R357): All blocks have retired (and acknowledgements arrived under REL); W2 receives W3. -/
  | launchComplete
  /-- COLLECTIVE_BEGIN (R120): A COLLECTIVE begins after earlier launches retire, reading its parameter block. -/
  | collectiveBegin
  /-- WAIT_BEGIN (R357): A WAIT packet begins polling its word. -/
  | waitBegin
  /-- WAIT_POLL (R424): A periodic acquire read of a WAIT word completes the packet when the condition holds. -/
  | waitPoll
  /-- SIGNAL_BEGIN (R357): A SIGNAL begins after earlier packets complete and writes or adds to its word. -/
  | signalBegin
  /-- SIGNAL_COMPLETE (R357): A SIGNAL's write or add is performed at its home as a sys release. -/
  | signalComplete
  /-- FENCE_PACKET (R357): A FENCE packet begins after earlier packets complete and completes at once. -/
  | fencePacket
  /-- MARKER_PACKET (R357): A MARKER writes a trace record and optionally the cycle counter. -/
  | markerPacket
  /-- NOP_PACKET (R357): A NOP packet begins and completes at once. -/
  | nopPacket
  /-- PLACEMENT_OPPORTUNITY (R417): Freed resources or a queue change lead Matins to choose and place spans until no candidate remains. -/
  | placementOpportunity
  /-- EPOCH_BOUNDARY (R422): Every 2^20 cycles each queue's accrual is reset. -/
  | epochBoundary
  /-- CAP_REACHED (R422): A queue's accrual reaches its cap, removing it from candidacy and writing a cap event. -/
  | capReached
  /-- MATINS_PREEMPT (R405): Matins pre-empts a span under its placement policy. -/
  | matinsPreempt
  /-- SAVE_COMPLETE (R405): Drains finish and the block's state is written, leaving it Saved or Halted. -/
  | saveComplete
  /-- DEFERRED_HALT_SAVE (R405): Save-pool room appears and step 7 is performed for a block halted on its core. -/
  | deferredHaltSave
  /-- CONTEXT_RESUME (R407): Matins places a saved span and writes back its state. -/
  | contextResume
  /-- RESTORE_COMPLETE (R407): Restore finishes; the context becomes Resident and a saved sequence trap is delivered. -/
  | restoreComplete
  /-- HANDLER_ENTRY (R399): After in-flight instructions complete, a faulting wave enters handler mode at TVEC, or the block halts. -/
  | handlerEntry
  /-- BREAKPOINT_PC_STOP (R472): A bundle whose PC lies in a breakpoint range stops the block before it issues. -/
  | breakpointPcStop
  /-- STOP_COMPLETE (R469): Engine work drains and the stop image is written; the span becomes Stopped. -/
  | stopComplete
  /-- PAGE_WALK_COMPLETE (R431): A walker finishes a walk, caching a translation or reporting a fault. -/
  | pageWalkComplete
  /-- TLBINV_COMPLETE (R404): Every TLB and earlier walk has stopped using the discarded entries. -/
  | tlbinvComplete
  /-- UNCORRECTABLE_ERROR (R27): An uncorrectable error in a 32-byte unit marks it poisoned. -/
  | uncorrectableError
  /-- COLLECTIVE_STEP (R172): A collective step moves or reduces one chunk between ranks. -/
  | collectiveStep
  /-- COLLECTIVE_COMPLETE (R175): A rank's writes are performed and completion is reported to its barrier or word. -/
  | collectiveComplete
  /-- COLLECTIVE_STEP_TIMEOUT (R180): A step waits past TIMEOUT; the group completes with code 0x07. -/
  | collectiveStepTimeout
  /-- SUSPEND_NOTICE (R178): A rank's suspension notice pauses timers and in-flight steps across the group. -/
  | suspendNotice
  /-- RESUME_NOTICE (R178): A rank re-registers; peers reacquire slots and restart stopped steps. -/
  | resumeNotice
  /-- SUSPENSION_SLOT_RELEASE (R178): After 200 µs of suspension the collective's link reservation slots are released. -/
  | suspensionSlotRelease
  /-- LINK_SLOT_GRANT (R492): A waiting step obtains a free link reservation slot. -/
  | linkSlotGrant
  /-- COH_READ (R451): A read request at the home joins or starts the line's list. -/
  | cohRead
  /-- COH_WRITE (R451): A write at the head purges or pushes later members and takes ownership. -/
  | cohWrite
  /-- COH_ROLLOUT (R451): An agent unlinks its copy, writing back owned data. -/
  | cohRollout
  /-- COMM_ADD_REQUEST (R456): A commutative add merges into an agent partial or requests a C copy. -/
  | commAddRequest
  /-- HOME_ATOMIC_RECALL (R457): The home recalls every copy before applying an atomic to memory. -/
  | homeAtomicRecall
  /-- GATHER (R458): The home recalls C partials and combines them in agent order. -/
  | gather
  /-- MIRROR_UPDATE (R461): A mirror home applies a change sent by the primary home and acknowledges it. -/
  | mirrorUpdate
  /-- AGENT_REPORT (R462): A surviving agent reports and rolls out its copies of a lost slice. -/
  | agentReport
  /-- SLICE_REBUILD_COMPLETE (R462): After all reports, the mirror rebuilds the slice and serves waiting requests. -/
  | sliceRebuildComplete
  /-- FLIT_ARRIVE (R493): A flit arrives on a link and is consumed, forwarded or answered as lost. -/
  | flitArrive
  /-- FLIT_RETRY (R491): A flit failing its CRC is retried from the sender. -/
  | flitRetry
  /-- REMOTE_ACK_ARRIVE (R494): An end-to-end acknowledgement completes a remote request. -/
  | remoteAckArrive
  /-- LINK_RECEIVE_TIMEOUT (R495): An UP link receiving no valid flit for 100 µs goes down. -/
  | linkReceiveTimeout
  /-- LINK_RETRY_EXHAUSTED (R495): A link failing 64 retries in a row goes down. -/
  | linkRetryExhausted
  /-- KEEP_ALIVE (R495): An idle link sends a keep-alive flit at least every 1 µs. -/
  | keepAlive
  /-- LINK_TRAINED (R485): A link completes training, setting TRAINED, and UP when its peer answers. -/
  | linkTrained
  /-- TRAIN_COMPLETE (R485): Every selected unit has passed or failed; SYSSTAT[2] clears and the interrupt is raised. -/
  | trainComplete
  /-- CONTROL_FLIT_REISSUE (R494): A kept control flit is sent again once a link is UP or to the serving home. -/
  | controlFlitReissue
  /-- PACKAGE_RESET (R484): Reset trains control memory and die C0 and enters Dawn service. -/
  | packageReset
  /-- THERMAL_THROTTLE (R499): A die at 100 °C has issue withheld until it cools. -/
  | thermalThrottle
  /-- THERMAL_TRIP (R499): A die at 110 °C stops issue, drops links and sets TRIP. -/
  | thermalTrip
  /-- TRACE_RECORD (R473): A trace record is written into the open page, opening or closing pages, or dropped. -/
  | traceRecord
  /-- TRACE_PAGE_TIMEOUT (R473): A page open for 2^20 cycles is closed with padding and published. -/
  | tracePageTimeout
  /-- TRACE_SAMPLE (R478): Every SPER × 1,024 cycles each core samples one issue slot. -/
  | traceSample
  /-- LANE_CYCLE_INTERVAL (R480): At each interval end a core writes its lane-cycle record and clears its counters. -/
  | laneCycleInterval
  /-- CTX_PREEMPT (R398): Command PREEMPT saves the selected context's span. -/
  | ctxPreempt
  /-- CTX_HALT (R398): Command HALT saves the span into Halted. -/
  | ctxHalt
  /-- CTX_RELEASE (R398): Command RELEASE moves a halted span to Saved or Resident. -/
  | ctxRelease
  /-- CTX_KILL (R398): Command KILL retires a saved, halted or stopped span. -/
  | ctxKill
  /-- CTX_STOP (R398): Command STOP performs a block stop of the span. -/
  | ctxStop
  /-- CTX_CONTINUE (R471): Command CONTINUE resumes a stopped span, reloading a modified image. -/
  | ctxContinue
  /-- CTX_SIGNAL (R403): Command SIGNAL sets every wave's event bit, waking wfe lanes. -/
  | ctxSignal
  /-- CTX_SETDBG0 (R398): Command SETDBG0 clears DBGEN of the selected context. -/
  | ctxSetdbg0
  /-- CTX_SETDBG1 (R398): Command SETDBG1 sets DBGEN of the selected context. -/
  | ctxSetdbg1
  /-- VOP_OPEN (R396): System software opens a slot of VPSEL's range with its owner lapsed. -/
  | vopOpen
  /-- VOP_CLOSE (R396): System software closes slot VSLOT. -/
  | vopClose
  /-- VOP_RESUME (R396): System software resumes slot VSLOT. -/
  | vopResume
  /-- VOP_SETCLASS (R396): System software writes a class range from VSTAGE. -/
  | vopSetclass
  /-- VOP_SETMASK (R396): System software writes a class mask from VSTAGE. -/
  | vopSetmask
  /-- VOP_SETCNT (R396): System software writes a budget counter from VSTAGE. -/
  | vopSetcnt
  /-- VOP_CLRDRAFT (R396): System software empties the draft buffer. -/
  | vopClrdraft
  /-- VOP_CLRFQ (R396): System software empties the forced-token queue. -/
  | vopClrfq
  /-- VOP_INSTALL (R396): System software installs VSTAGE as a watch entry under R154. -/
  | vopInstall
  /-- VDATA_WRITE (R396): A VDATA write to an RW slot word applies as SETCLASS, SETMASK or SETCNT. -/
  | vdataWrite
  /-- VNHI_WRITE (R396): A VNHI write sets the notify value and its pending bit. -/
  | vnhiWrite
  /-- VNPEND_CLEAR (R396): Writing 1 to VNPEND clears the notify pending bit. -/
  | vnpendClear
  /-- GCMD_WRITE (R396): Writes the staged group entry to every member package. -/
  | gcmdWrite
  /-- CMREGION_WRITE (R396): Resizes the commons directly addressed region when no window is open, or is refused. -/
  | cmregionWrite
  /-- CMWINDOW_WRITE (R396): Sets a partition's commons window if it fits and overlaps none, or is refused. -/
  | cmwindowWrite
  /-- QUEUE_PAUSE (R412): PAUSE stops a queue beginning packets and placing blocks. -/
  | queuePause
  /-- QUEUE_UNPAUSE (R412): UNPAUSE returns a queue to its otherwise held state. -/
  | queueUnpause
  /-- QUEUE_EVICT (R412): EVICT pauses a queue and pre-empts its resident contexts. -/
  | queueEvict
  /-- QUEUE_RESET (R412): RESET discards unbegun packets of a paused queue. -/
  | queueReset
  /-- QCTL_WRITE (R411): Writes queue control, enabling or disabling subject to refusal rules. -/
  | qctlWrite
  /-- QPUT_REGISTER (R413): A write to QPUT inserts the staged packet into queue QSEL. -/
  | qputRegister
  /-- PMASK_WRITE (R422): Sets a partition's cluster mask, refused outside the partition's clusters. -/
  | pmaskWrite
  /-- LSEED_WRITE (R423): Loads the lottery generator state, refusing zero. -/
  | lseedWrite
  /-- EVSIZE_WRITE (R410): Sets or disables the event ring size, refusing 1-3. -/
  | evsizeWrite
  /-- ROOT_WRITE (R433): Writes a control, tensor or remote root, refused if misaligned or duplicate-tagged. -/
  | rootWrite
  /-- DOMSELF_WRITE (R447): Sets the package's domain index and size while no control line is held. -/
  | domselfWrite
  /-- CHMAP_WRITE (R461): Assigns a mirror home, copying the slice to the new mirror. -/
  | chmapWrite
  /-- DMPKG_WRITE (R447): Writes a domain map entry, subject to refusal rules. -/
  | dmpkgWrite
  /-- PARTITION_SEAL (R466): SEAL fixes a partition's tag, clusters and firewall, or is refused. -/
  | partitionSeal
  /-- PARTITION_DISSOLVE (R466): DISSOLVE starts dissolution of an idle partition. -/
  | partitionDissolve
  /-- DISSOLUTION_END (R466): Translations discarded and commons windows cleared; the partition returns to Unused. -/
  | dissolutionEnd
  /-- FIREWALL_WINDOW_WRITE (R465): Writes a firewall window bound, refused if not 64 KiB aligned or sealed. -/
  | firewallWindowWrite
  /-- TRACE_ENABLE (R473): Writing EN from 0 to 1 clears trace counters, increments TBEPOCH and draws a SALT. -/
  | traceEnable
  /-- TRACE_DISABLE (R473): Writing EN to 0 closes the open page with padding. -/
  | traceDisable
  /-- VERIFY (R487): Checks the image signature and starts the control cores or sets IMGBAD. -/
  | verify
  /-- LEAVEDAWN (R489): Fixes the feature word, sets 1.4 GHz and enters normal service. -/
  | leavedawn
  /-- TRAIN (R485): Starts training of the dies and links selected by TRAINMASK. -/
  | train
  /-- PKGNUM_WRITE (R486): Sets the package number in Dawn service when idle, or is refused. -/
  | pkgnumWrite
  /-- FEATACC_WRITE (R490): Sets the accepted feature word in Dawn service, refusing unoffered bits. -/
  | feataccWrite
  /-- PEER_DECLARE (R496): DECLARE names a package lost, failing its work and starting slice rebuilds. -/
  | peerDeclare
  /-- PEER_ADMIT (R496): ADMIT clears a declaration so the number becomes a new peer. -/
  | peerAdmit
  /-- PWRCAP_WRITE (R482): Sets the package power limit, clamped to 300-4,200 W. -/
  | pwrcapWrite
  /-- REGISTER_WRITE (R4): A write to a register with no row of its own, under its access code and refusal rules. -/
  | registerWrite
  /-- DIE_COOLS_BELOW_100C (R499): A die that was held at 100 °C cools below 100 °C and the controller stops withholding its issue cycles. -/
  | dieCoolsBelow100c
  /-- PACKAGE_POWER_OVER_PWRCAP (R29): Package power reaches PWRCAP and the power, thermal and clock controller begins or adjusts withholding issue cycles to stay at or below it. -/
  | packagePowerOverPwrcap
  /-- PCIE_CONTROL_MEMORY_ACCESS (R484): The management host reads or writes control memory through BAR2 of the PCIe port, as when it loads the firmware image. -/
  | pcieControlMemoryAccess
  deriving DecidableEq, Repr

/-- Whether the row is an event, which has no encoding. -/
def Instr.isEvent : Instr → Bool
  | .bundleIssue | .instructionComplete | .waveRetire | .blockRetire
  | .loadDataReturn | .storeAcknowledged | .atomicAtHome | .inboundSectorWritten
  | .outboundSectorAck | .reduceOnStoreCombine | .multicastLanding | .copyComplete
  | .copyFail | .ratomAtTarget | .ratomAcknowledged | .chainStart
  | .chainComplete | .mmaRendezvous | .matrixOperationComplete | .laneWriteDecided
  | .laneWriteForward | .sendOutcomeReturn | .vesperReply | .queueInsertion
  | .launchBegin | .launchComplete | .collectiveBegin | .waitBegin
  | .waitPoll | .signalBegin | .signalComplete | .fencePacket
  | .markerPacket | .nopPacket | .placementOpportunity | .epochBoundary
  | .capReached | .matinsPreempt | .saveComplete | .deferredHaltSave
  | .contextResume | .restoreComplete | .handlerEntry | .breakpointPcStop
  | .stopComplete | .pageWalkComplete | .tlbinvComplete | .uncorrectableError
  | .collectiveStep | .collectiveComplete | .collectiveStepTimeout | .suspendNotice
  | .resumeNotice | .suspensionSlotRelease | .linkSlotGrant | .cohRead
  | .cohWrite | .cohRollout | .commAddRequest | .homeAtomicRecall
  | .gather | .mirrorUpdate | .agentReport | .sliceRebuildComplete
  | .flitArrive | .flitRetry | .remoteAckArrive | .linkReceiveTimeout
  | .linkRetryExhausted | .keepAlive | .linkTrained | .trainComplete
  | .controlFlitReissue | .packageReset | .thermalThrottle | .thermalTrip
  | .traceRecord | .tracePageTimeout | .traceSample | .laneCycleInterval
  | .ctxPreempt | .ctxHalt | .ctxRelease | .ctxKill
  | .ctxStop | .ctxContinue | .ctxSignal | .ctxSetdbg0
  | .ctxSetdbg1 | .vopOpen | .vopClose | .vopResume
  | .vopSetclass | .vopSetmask | .vopSetcnt | .vopClrdraft
  | .vopClrfq | .vopInstall | .vdataWrite | .vnhiWrite
  | .vnpendClear | .gcmdWrite | .cmregionWrite | .cmwindowWrite
  | .queuePause | .queueUnpause | .queueEvict | .queueReset
  | .qctlWrite | .qputRegister | .pmaskWrite | .lseedWrite
  | .evsizeWrite | .rootWrite | .domselfWrite | .chmapWrite
  | .dmpkgWrite | .partitionSeal | .partitionDissolve | .dissolutionEnd
  | .firewallWindowWrite | .traceEnable | .traceDisable | .verify
  | .leavedawn | .train | .pkgnumWrite | .feataccWrite
  | .peerDeclare | .peerAdmit | .pwrcapWrite | .registerWrite
  | .dieCoolsBelow100c | .packagePowerOverPwrcap | .pcieControlMemoryAccess => true
  | _ => false

end Sys2Proof
end

