-- ==== Sys2Proof/Machine/Operands.lean ====
section
/-! DEFINITION. Operands.lean: every operand form of the instruction set: the registers an instruction
reads and writes, its length, its lookahead count, and the encoding checks of R221 that concern one
instruction alone. Events (the rows without an encoding) read and write no register. -/
namespace Sys2Proof

/-- n consecutive registers from r (R212). -/
def regGroup (r n : Nat) : List Nat := (List.range n).map (r + ·)

/-- A register pair (R3). -/
def regPair (r : Nat) : List Nat := [r, r + 1]

/-- Bytes of an access of width code w (R214). -/
def widthBytes (w : Nat) : Nat := 2 ^ w

/-- Data registers of an access of width code w (R214). -/
def widthRegs (w : Nat) : Nat := if w ≤ 2 then 1 else 2 ^ (w - 2)

/-- The condition register of a branch; 0x7F means always (R216). -/
def condRegs (c : Nat) : List Nat := if c = 127 then [] else [c]

/-- One register, or a pair for width code 3 (R306). -/
def atomRegs (w r : Nat) : List Nat := if w = 3 then regPair r else [r]

/-- One register, or a pair for the 64-bit formats of cvt (R272). -/
def cvtRegs (fmt r : Nat) : List Nat := if fmt = 13 ∨ fmt = 14 then regPair r else [r]

/-- The registers an instruction reads (each instruction's own rule). -/
def Instr.reads : Instr → List Nat
  | .movS _ b => [b]
  | .addS d b | .subS d b | .andS d b | .orS d b | .xorS d b | .shlS d b | .shrS d b | .sarS d b
  | .mul24S d b | .setlt d b => [d, b]
  | .faddS d b _ | .fsubS d b _ | .fmulS d b _ | .fminS d b _ | .fmaxS d b _ => [d, b]
  | .guard c _ _ => [c]
  | .mov _ b => [b]
  | .addImm _ a _ => [a]
  | .bra c _ | .braZ c _ | .jmp c _ => condRegs c
  | .jmpr a | .ret a => regPair a
  | .callr _ a => regPair a
  | .add _ a b | .sub _ a b => [a, b]
  | .addc d a b | .subb d a b => [a, b, d]
  | .neg _ a | .abs _ a | .not _ a => [a]
  | .min _ a b _ | .max _ a b _ => [a, b]
  | .and _ a b | .or _ a b | .xor _ a b | .andn _ a b => [a, b]
  | .shl _ a b | .shr _ a b | .sar _ a b | .rol _ a b | .ror _ a b => [a, b]
  | .shlImm _ a _ | .shrImm _ a _ | .sarImm _ a _ | .rolImm _ a _ | .rorImm _ a _ => [a]
  | .mul24 _ a b _ _ | .mul32 _ a b _ _ => [a, b]
  | .mad24 d a b _ _ | .mad32 d a b _ _ => [a, b, d]
  | .div _ a b _ | .rem _ a b _ => [a, b]
  | .popc _ a | .clz _ a | .ctz _ a | .brev _ a => [a]
  | .bfeN32 _ a _ _ | .bfeS32 _ a _ _ => [a]
  | .bfi d a _ _ => [a, d]
  | .bsel d a b | .bgath d a b | .sel d a b => [a, b, d]
  | .lea _ a b _ | .shl64 _ a b | .shr64 _ a b => regPair a ++ [b]
  | .add64 _ a b | .sub64 _ a b => regPair a ++ regPair b
  | .cmpS32 _ a b _ | .cmpN32 _ a b _ => [a, b]
  | .fadd _ a b _ _ | .fsub _ a b _ _ | .fmul _ a b _ _ | .fdiv _ a b _ _ | .fldexp _ a b _ _ => [a, b]
  | .ffma d a b _ _ => [a, b, d]
  | .ffma3 _ a b c _ _ => [a, b, c]
  | .fmin _ a b _ | .fmax _ a b _ | .fminn _ a b _ | .fmaxn _ a b _ => [a, b]
  | .fabs _ a _ | .fneg _ a _ | .fclass _ a _ => [a]
  | .fcmpEq _ a b _ | .fcmpLt _ a b _ | .fcmpLe _ a b _ | .fcmpUn _ a b _ => [a, b]
  | .fcmpNe _ a b _ | .fcmpGt _ a b _ | .fcmpGe _ a b _ | .fcmpOrd _ a b _ => [a, b]
  | .fsqrt _ a _ _ | .frnd _ a _ _ => [a]
  | .frcp _ a _ _ | .frsq _ a _ _ | .fexp2 _ a _ _ | .flog2 _ a _ _ | .fsin _ a _ _ | .fcos _ a _ _ => [a]
  | .cvt _ a b sf _ m _ _ => cvtRegs sf a ++ (if m = 4 then [b] else [])
  | .hadd2F16 _ a b _ | .hsub2F16 _ a b _ | .hmul2F16 _ a b _ => [a, b]
  | .hadd2Bf16 _ a b _ | .hsub2Bf16 _ a b _ | .hmul2Bf16 _ a b _ => [a, b]
  | .hfma2F16 d a b _ | .hfma2Bf16 d a b _ => [a, b, d]
  | .hmin2 _ a b _ _ | .hmax2 _ a b _ _ => [a, b]
  | .packH2 _ a b => [a, b]
  | .packB4 _ a => regGroup a 4
  | .packE2m1x8 _ a => regGroup a 8
  | .unpackH2 _ a | .unpackB4 _ a | .unpackE2m1x8 _ a => [a]
  | .vote _ a | .ballot _ a => [a]
  | .shflAt _ a b | .shflRot _ a b | .shflXor _ a b => [a, b]
  | .shflAtImm _ a _ | .shflRotImm _ a _ | .shflXorImm _ a _ | .shflRev _ a | .quad _ a _ => [a]
  | .red _ a _ | .scanInc _ a _ | .scanExc _ a _ | .redF32 _ a _ _ | .matchB32 _ a => [a]
  | .matchB64 _ a => regPair a
  | .ld _ a _ _ _ | .ldAcq _ a _ _ _ => regPair a
  | .st d a w _ | .stRel d a _ w _ => regPair a ++ regGroup d (widthRegs w)
  | .lds _ a _ _ _ | .ldsAcq _ a _ _ _ => [a]
  | .sts d a w _ | .stsRel d a _ w _ => a :: regGroup d (widthRegs w)
  | .atom _ a b c op _ _ _ _ w _ | .atoms _ a b c op _ _ _ _ w _ =>
    regPair a ++ atomRegs w b ++ (if op = 7 then atomRegs w c else [])
  | .ratom a b _ _ _ w _ => regPair a ++ atomRegs w b
  | .prefetchL1 a _ | .prefetchCm a _ | .mcfg a _ => regPair a
  | .gang a => [a]
  | .mmaE2m1 d a _ _ _ | .mmaE4m3 d a _ _ _ _ | .mmaE5m2 d a _ _ _ _ => regGroup d 8 ++ [a]
  | .mmaS8 d _ _ _ | .mmaBf16 d _ _ _ | .mmaF16 d _ _ _ => regGroup d 8
  | .mrd _ a _ _ => [a]
  | .mwr d a _ _ => a :: regGroup d 8
  | .mscale a _ _ => regPair a
  | .rgnSet d a _ => regGroup d 6 ++ regPair a
  | .rgnPre a _ | .rgnFlush a _ | .rgnDrop a _ | .rgnStat _ a _ => [a]
  | .tbarInit a _ => regGroup a 3
  | .tbarArrive a _ | .tbarWait a _ | .tbarTest _ a _ => regPair a
  | .tbarRead _ a _ => [a]
  | .chain a _ => regPair a
  | .sendW d a _ _ _ _ | .sendL d a _ _ _ _ => regPair a ++ [d]
  | .qput d a _ => d :: regPair a
  | .ntfRead _ a _ | .ntfWait _ a => [a]
  | .ntfWrite d a _ => a :: regPair d
  | .sqProp _ a _ | .sqVerify _ a _ | .sqCommit _ a | .sqRead _ a _ => regPair a
  | .sqCommitD _ a | .sqNext _ a _ => [a]
  | .sqWatch _ a _ | .sqCtlSetclass _ a _ => regGroup a 4
  | .sqCtlClose _ a _ | .sqCtlResume _ a _ | .sqCtlClrdraft _ a _ | .sqCtlClrfq _ a _ => [a]
  | .sqCtlSetmask _ a _ | .sqCtlSetcnt _ a _ => regGroup a 3
  | .sysw a _ => [a]
  | .tlbinvPage a => regPair a
  | .tlbinvPart a => [a]
  | _ => []

/-- The registers an instruction writes (each instruction's own rule). -/
def Instr.writes : Instr → List Nat
  | .movS d _ | .addS d _ | .subS d _ | .andS d _ | .orS d _ | .xorS d _ | .shlS d _ | .shrS d _
  | .sarS d _ | .mul24S d _ | .setlt d _ => [d]
  | .faddS d _ _ | .fsubS d _ _ | .fmulS d _ _ | .fminS d _ _ | .fmaxS d _ _ => [d]
  | .mov d _ | .movi d _ | .addImm d _ _ | .sreg d _ => [d]
  | .call c _ => regPair c
  | .callr d _ => regPair d
  | .add d _ _ | .sub d _ _ | .neg d _ | .abs d _ | .min d _ _ _ | .max d _ _ _ => [d]
  | .addc d _ _ | .subb d _ _ => regPair d
  | .and d _ _ | .or d _ _ | .xor d _ _ | .andn d _ _ | .not d _ => [d]
  | .shl d _ _ | .shr d _ _ | .sar d _ _ | .rol d _ _ | .ror d _ _ => [d]
  | .shlImm d _ _ | .shrImm d _ _ | .sarImm d _ _ | .rolImm d _ _ | .rorImm d _ _ => [d]
  | .mul24 d _ _ _ _ | .mad24 d _ _ _ _ | .mul32 d _ _ _ _ | .mad32 d _ _ _ _ => [d]
  | .div d _ _ _ | .rem d _ _ _ | .popc d _ | .clz d _ | .ctz d _ | .brev d _ => [d]
  | .bfeN32 d _ _ _ | .bfeS32 d _ _ _ | .bfi d _ _ _ | .bsel d _ _ | .bgath d _ _ | .sel d _ _ => [d]
  | .lea d _ _ _ | .add64 d _ _ | .sub64 d _ _ | .shl64 d _ _ | .shr64 d _ _ => regPair d
  | .cmpS32 d _ _ _ | .cmpN32 d _ _ _ => [d]
  | .fadd d _ _ _ _ | .fsub d _ _ _ _ | .fmul d _ _ _ _ | .ffma d _ _ _ _ | .ffma3 d _ _ _ _ _
  | .fdiv d _ _ _ _ | .fldexp d _ _ _ _ => [d]
  | .fmin d _ _ _ | .fmax d _ _ _ | .fminn d _ _ _ | .fmaxn d _ _ _ => [d]
  | .fabs d _ _ | .fneg d _ _ | .fclass d _ _ => [d]
  | .fcmpEq d _ _ _ | .fcmpLt d _ _ _ | .fcmpLe d _ _ _ | .fcmpUn d _ _ _ => [d]
  | .fcmpNe d _ _ _ | .fcmpGt d _ _ _ | .fcmpGe d _ _ _ | .fcmpOrd d _ _ _ => [d]
  | .fsqrt d _ _ _ | .frnd d _ _ _ => [d]
  | .frcp d _ _ _ | .frsq d _ _ _ | .fexp2 d _ _ _ | .flog2 d _ _ _ | .fsin d _ _ _ | .fcos d _ _ _ => [d]
  | .cvt d _ _ _ df _ _ _ => cvtRegs df d
  | .hadd2F16 d _ _ _ | .hsub2F16 d _ _ _ | .hmul2F16 d _ _ _ | .hfma2F16 d _ _ _ => [d]
  | .hadd2Bf16 d _ _ _ | .hsub2Bf16 d _ _ _ | .hmul2Bf16 d _ _ _ | .hfma2Bf16 d _ _ _ => [d]
  | .hmin2 d _ _ _ _ | .hmax2 d _ _ _ _ => [d]
  | .packH2 d _ _ | .packB4 d _ | .packE2m1x8 d _ => [d]
  | .unpackH2 d _ => regPair d
  | .unpackB4 d _ => regGroup d 4
  | .unpackE2m1x8 d _ => regGroup d 8
  | .flagr d | .flagrWave d => [d]
  | .vote d _ | .ballot d _ | .elect d => [d]
  | .shflAt d _ _ | .shflRot d _ _ | .shflXor d _ _ => [d]
  | .shflAtImm d _ _ | .shflRotImm d _ _ | .shflXorImm d _ _ | .shflRev d _ | .quad d _ _ => [d]
  | .red d _ _ | .redF32 d _ _ _ | .scanInc d _ _ | .scanExc d _ _ | .matchB32 d _ | .matchB64 d _ => [d]
  | .ld d _ _ w _ | .ldAcq d _ _ w _ | .lds d _ _ w _ | .ldsAcq d _ _ w _ => regGroup d (widthRegs w)
  | .atom d _ _ _ _ _ _ use _ w _ | .atoms d _ _ _ _ _ _ use _ w _ =>
    if use = 2 then [] else atomRegs w d
  | .mrd d _ _ _ => regGroup d 8
  | .rgnStat d _ _ | .tbarTest d _ _ => [d]
  | .tbarRead d _ _ => regGroup d 4
  | .rcap d _ _ _ | .rcapL d _ _ _ => regPair d
  | .sendstat d _ _ => regGroup d 5
  | .qput d _ _ => [d]
  | .ntfRead d _ _ | .ntfWait d _ => regGroup d 3
  | .sqProp d _ _ | .sqVerify d _ _ | .sqCommit d _ | .sqCommitD d _ | .sqWatch d _ _ | .sqRead d _ _ => [d]
  | .sqNext d _ _ => regPair d
  | .sqCtlOpen d _ | .sqCtlClose d _ _ | .sqCtlResume d _ _ | .sqCtlSetclass d _ _
  | .sqCtlSetmask d _ _ | .sqCtlSetcnt d _ _ | .sqCtlClrdraft d _ _ | .sqCtlClrfq d _ _ => regPair d
  | .sysr d _ => [d]
  | _ => []

/-- The registers an instruction names without reading or writing their contents: arm (R132). -/
def Instr.armed : Instr → List Nat
  | .arm d n _ => regGroup d (n + 1)
  | _ => []

/-- Every register an instruction uses (R59). -/
def Instr.regs (i : Instr) : List Nat := i.reads ++ i.writes ++ i.armed

/-- The lookahead count of an M- or T-format instruction (R60, R211); none for the other formats. -/
def Instr.lookahead : Instr → Option Nat
  | .frcp _ _ l _ | .frsq _ _ l _ | .fexp2 _ _ l _ | .flog2 _ _ l _ | .fsin _ _ l _ | .fcos _ _ l _ => some l
  | .ld _ _ _ _ l | .ldAcq _ _ _ _ l | .st _ _ _ l | .stRel _ _ _ _ l => some l
  | .lds _ _ _ _ l | .ldsAcq _ _ _ _ l | .sts _ _ _ l | .stsRel _ _ _ _ l => some l
  | .atom _ _ _ _ _ _ _ _ _ _ l | .atoms _ _ _ _ _ _ _ _ _ _ l | .ratom _ _ _ _ _ _ l => some l
  | .prefetchL1 _ l | .prefetchCm _ l | .mcfg _ l => some l
  | .mmaE2m1 _ _ _ _ l | .mmaE4m3 _ _ _ _ _ l | .mmaE5m2 _ _ _ _ _ l => some l
  | .mmaS8 _ _ _ l | .mmaBf16 _ _ _ l | .mmaF16 _ _ _ l => some l
  | .mzero _ l | .mrd _ _ _ l | .mwr _ _ _ l | .mscale _ _ l => some l
  | .rgnSet _ _ l | .rgnPre _ l | .rgnFlush _ l | .rgnDrop _ l | .rgnStat _ _ l => some l
  | .tbarInit _ l | .tbarArrive _ l | .tbarWait _ l | .tbarTest _ _ l | .tbarRead _ _ l => some l
  | .chain _ l | .rcap _ _ _ l | .rcapL _ _ _ l | .arm _ _ l | .sendstat _ _ l => some l
  | .sendW _ _ _ _ _ l | .sendL _ _ _ _ _ l | .qput _ _ l => some l
  | .ntfRead _ _ l | .ntfWrite _ _ l | .sqProp _ _ l | .sqVerify _ _ l => some l
  | .ntfWait _ _ | .sqCommit _ _ | .sqCommitD _ _ => some 0
  | .sqNext _ _ l | .sqWatch _ _ l | .sqRead _ _ l | .sqCtlOpen _ l => some l
  | .sqCtlClose _ _ l | .sqCtlResume _ _ l | .sqCtlSetclass _ _ l | .sqCtlSetmask _ _ l => some l
  | .sqCtlSetcnt _ _ l | .sqCtlClrdraft _ _ l | .sqCtlClrfq _ _ l => some l
  | _ => none

/-- Length in bytes (R207): 2 for format S, 8 for a literal-taking instruction, 4 for the others, and 0
for an event, which has no encoding. -/
def Instr.length : Instr → Nat
  | .movS _ _ | .addS _ _ | .subS _ _ | .andS _ _ | .orS _ _ | .xorS _ _ | .shlS _ _ | .shrS _ _
  | .sarS _ _ | .mul24S _ _ | .setlt _ _ | .faddS _ _ _ | .fsubS _ _ _ | .fmulS _ _ _ | .fminS _ _ _
  | .fmaxS _ _ _ => 2
  | .movi _ _ | .jmp _ _ | .ffma3 _ _ _ _ _ _ | .cvt _ _ _ _ _ _ _ _ | .atom _ _ _ _ _ _ _ _ _ _ _
  | .atoms _ _ _ _ _ _ _ _ _ _ _ | .ratom _ _ _ _ _ _ _ | .sendW _ _ _ _ _ _ | .sendL _ _ _ _ _ _ => 8
  | i => if i.isEvent then 0 else 4

/-- The combined checks of R235 on the fields of an atomic literal, with f and w of R231. -/
def atomLegal (d c op kind scope use f w : Nat) : Bool :=
  decide ((w = 2 ∨ w = 3) ∧ f ≤ 2 ∧ (f = 2 → w = 2) ∧ op ≤ 7 ∧ kind ≤ 3 ∧ use ≤ 2 ∧ scope ≤ 6 ∧
    (use ≠ 0 → scope = 0 ∧ kind = 0) ∧ (use = 2 → op ≤ 5 ∧ d = 0) ∧ (op ≠ 7 → c = 0) ∧
    (f = 2 → op = 0 ∨ op = 1 ∨ op = 2 ∨ op = 6))

/-- The system register numbers that R396 assigns. -/
def sysAssigned (n : Nat) : Bool :=
  decide (n ≤ 0x00E ∨ (0x040 ≤ n ∧ n ≤ 0x052) ∨ (0x054 ≤ n ∧ n ≤ 0x057) ∨ (0x080 ≤ n ∧ n ≤ 0x08D) ∨
    (0x090 ≤ n ∧ n ≤ 0x0AF) ∨ (0x0C0 ≤ n ∧ n ≤ 0x0C5) ∨ (0x0E0 ≤ n ∧ n ≤ 0x0E5))

/-- The checks of one instruction's own fields under item 2 of R221, beside the group check of R212. -/
def Instr.fieldsLegal : Instr → Bool
  | .part p => decide (1 ≤ p ∧ p ≤ 5)
  | .braZ c _ => decide (c ≠ 127)
  | .sreg _ i => decide (i ≤ 31)
  | .bfeN32 _ _ n p | .bfeS32 _ _ n p | .bfi _ _ n p => decide (p + n + 1 ≤ 32)
  | .cmpS32 _ _ _ c | .cmpN32 _ _ _ c => decide (c ≤ 5)
  | .cvt _ _ b sf df m _ _ =>
    decide (sf ≠ 15 ∧ df ≠ 15 ∧ m ≤ 4 ∧ (m = 4 → 2 ≤ df ∧ df ≤ 5) ∧ (m ≠ 4 → b = 0))
  | .redF32 _ _ o _ => decide (o ≠ 3)
  | .ld _ _ x w _ | .lds _ _ x w _ => decide (w ≤ 5 ∧ (x = 1 → w ≤ 1))
  | .ldAcq _ _ s w _ | .ldsAcq _ _ s w _ => decide (2 ≤ w ∧ w ≤ 5 ∧ s ≤ 6)
  | .st _ _ w _ | .sts _ _ w _ => decide (w ≤ 5)
  | .stRel _ _ s w _ | .stsRel _ _ s w _ => decide (w ≤ 5 ∧ s ≤ 6)
  | .atom d _ _ c op kind scope use f w _ | .atoms d _ _ c op kind scope use f w _ =>
    atomLegal d c op kind scope use f w
  | .ratom _ _ op _ f w _ => decide (op ≤ 5) && atomLegal 0 0 op 0 0 1 f w
  | .fenceAcq s | .fenceRel s | .fenceFull s => decide (s ≤ 6)
  | .sendW _ _ _ s r _ | .sendL _ _ _ s r _ => decide (s ≤ 6 ∧ (r = 0 → s = 0))
  | .sysr _ n | .sysw _ n => sysAssigned n
  | _ => true

/-- No register group extends beyond v127 (R212). -/
def Instr.groupsLegal (i : Instr) : Bool := (i.regs).all fun r => decide (r < 128)

/-- The encoding checks of item 2 of R221 that concern the instruction alone. -/
def Instr.legal (i : Instr) : Bool := i.fieldsLegal && i.groupsLegal

end Sys2Proof
end

