-- ==== Sys2Proof/WellFormed.lean ====
section
/-! DEFINITION. WellFormed.lean: which instructions are well formed: every field fits its bits, and the encoding
checks of R221 that concern the instruction alone hold. An event is no instruction of the stream and is not. -/
namespace Sys2Proof

/-- A field value fits in k bits (R2). -/
def fit (x k : Nat) : Bool := decide (x < 2 ^ k)

/-- Every field fits the bits that its format gives it (R2, R208, R211, R233). -/
def Instr.fits : Instr → Bool
  | .movS d b => fit d 5 && fit b 5
  | .addS d b => fit d 5 && fit b 5
  | .subS d b => fit d 5 && fit b 5
  | .andS d b => fit d 5 && fit b 5
  | .orS d b => fit d 5 && fit b 5
  | .xorS d b => fit d 5 && fit b 5
  | .shlS d b => fit d 5 && fit b 5
  | .shrS d b => fit d 5 && fit b 5
  | .sarS d b => fit d 5 && fit b 5
  | .mul24S d b => fit d 5 && fit b 5
  | .faddS d b q => fit d 5 && fit b 5 && fit q 1
  | .fsubS d b q => fit d 5 && fit b 5 && fit q 1
  | .fmulS d b q => fit d 5 && fit b 5 && fit q 1
  | .fminS d b q => fit d 5 && fit b 5 && fit q 1
  | .fmaxS d b q => fit d 5 && fit b 5 && fit q 1
  | .setlt d b => fit d 5 && fit b 5
  | .guard c n s => fit c 7 && fit n 2 && fit s 1
  | .mov d b => fit d 7 && fit b 7
  | .movi d imm => fit d 7 && fit imm 32
  | .addImm d a i => fit d 7 && fit a 7 && fit i 10
  | .part p => fit p 3
  | .trap n => fit n 10
  | .brk n => fit n 10
  | .barSync n => fit n 4
  | .barArrive n => fit n 4
  | .bra c o => fit c 7 && fit o 17
  | .braZ c o => fit c 7 && fit o 17
  | .jmp c off => fit c 7 && fit off 32
  | .call c o => fit c 7 && fit o 17
  | .jmpr a => fit a 7
  | .callr d a => fit d 7 && fit a 7
  | .ret a => fit a 7
  | .sreg d i => fit d 7 && fit i 10
  | .add d a b => fit d 7 && fit a 7 && fit b 7
  | .sub d a b => fit d 7 && fit a 7 && fit b 7
  | .addc d a b => fit d 7 && fit a 7 && fit b 7
  | .subb d a b => fit d 7 && fit a 7 && fit b 7
  | .neg d a => fit d 7 && fit a 7
  | .abs d a => fit d 7 && fit a 7
  | .min d a b t => fit d 7 && fit a 7 && fit b 7 && fit t 1
  | .max d a b t => fit d 7 && fit a 7 && fit b 7 && fit t 1
  | .and d a b => fit d 7 && fit a 7 && fit b 7
  | .or d a b => fit d 7 && fit a 7 && fit b 7
  | .xor d a b => fit d 7 && fit a 7 && fit b 7
  | .andn d a b => fit d 7 && fit a 7 && fit b 7
  | .not d a => fit d 7 && fit a 7
  | .shl d a b => fit d 7 && fit a 7 && fit b 7
  | .shr d a b => fit d 7 && fit a 7 && fit b 7
  | .sar d a b => fit d 7 && fit a 7 && fit b 7
  | .rol d a b => fit d 7 && fit a 7 && fit b 7
  | .ror d a b => fit d 7 && fit a 7 && fit b 7
  | .shlImm d a c => fit d 7 && fit a 7 && fit c 5
  | .shrImm d a c => fit d 7 && fit a 7 && fit c 5
  | .sarImm d a c => fit d 7 && fit a 7 && fit c 5
  | .rolImm d a c => fit d 7 && fit a 7 && fit c 5
  | .rorImm d a c => fit d 7 && fit a 7 && fit c 5
  | .mul24 d a b t h => fit d 7 && fit a 7 && fit b 7 && fit t 1 && fit h 1
  | .mad24 d a b t h => fit d 7 && fit a 7 && fit b 7 && fit t 1 && fit h 1
  | .mul32 d a b t h => fit d 7 && fit a 7 && fit b 7 && fit t 1 && fit h 1
  | .mad32 d a b t h => fit d 7 && fit a 7 && fit b 7 && fit t 1 && fit h 1
  | .div d a b t => fit d 7 && fit a 7 && fit b 7 && fit t 1
  | .rem d a b t => fit d 7 && fit a 7 && fit b 7 && fit t 1
  | .popc d a => fit d 7 && fit a 7
  | .clz d a => fit d 7 && fit a 7
  | .ctz d a => fit d 7 && fit a 7
  | .brev d a => fit d 7 && fit a 7
  | .bfeN32 d a n p => fit d 7 && fit a 7 && fit n 5 && fit p 5
  | .bfeS32 d a n p => fit d 7 && fit a 7 && fit n 5 && fit p 5
  | .bfi d a n p => fit d 7 && fit a 7 && fit n 5 && fit p 5
  | .bsel d a b => fit d 7 && fit a 7 && fit b 7
  | .bgath d a b => fit d 7 && fit a 7 && fit b 7
  | .lea d a b s => fit d 7 && fit a 7 && fit b 7 && fit s 3
  | .add64 d a b => fit d 7 && fit a 7 && fit b 7
  | .sub64 d a b => fit d 7 && fit a 7 && fit b 7
  | .shl64 d a b => fit d 7 && fit a 7 && fit b 7
  | .shr64 d a b => fit d 7 && fit a 7 && fit b 7
  | .cmpS32 d a b c => fit d 7 && fit a 7 && fit b 7 && fit c 3
  | .cmpN32 d a b c => fit d 7 && fit a 7 && fit b 7 && fit c 3
  | .sel d a b => fit d 7 && fit a 7 && fit b 7
  | .fadd d a b m q => fit d 7 && fit a 7 && fit b 7 && fit m 2 && fit q 1
  | .fsub d a b m q => fit d 7 && fit a 7 && fit b 7 && fit m 2 && fit q 1
  | .fmul d a b m q => fit d 7 && fit a 7 && fit b 7 && fit m 2 && fit q 1
  | .ffma d a b m q => fit d 7 && fit a 7 && fit b 7 && fit m 2 && fit q 1
  | .ffma3 d a b c m q => fit d 7 && fit a 7 && fit b 7 && fit c 7 && fit m 2 && fit q 1
  | .fmin d a b q => fit d 7 && fit a 7 && fit b 7 && fit q 1
  | .fmax d a b q => fit d 7 && fit a 7 && fit b 7 && fit q 1
  | .fminn d a b q => fit d 7 && fit a 7 && fit b 7 && fit q 1
  | .fmaxn d a b q => fit d 7 && fit a 7 && fit b 7 && fit q 1
  | .fabs d a q => fit d 7 && fit a 7 && fit q 1
  | .fneg d a q => fit d 7 && fit a 7 && fit q 1
  | .fcmpEq d a b q => fit d 7 && fit a 7 && fit b 7 && fit q 1
  | .fcmpLt d a b q => fit d 7 && fit a 7 && fit b 7 && fit q 1
  | .fcmpLe d a b q => fit d 7 && fit a 7 && fit b 7 && fit q 1
  | .fcmpUn d a b q => fit d 7 && fit a 7 && fit b 7 && fit q 1
  | .fcmpNe d a b q => fit d 7 && fit a 7 && fit b 7 && fit q 1
  | .fcmpGt d a b q => fit d 7 && fit a 7 && fit b 7 && fit q 1
  | .fcmpGe d a b q => fit d 7 && fit a 7 && fit b 7 && fit q 1
  | .fcmpOrd d a b q => fit d 7 && fit a 7 && fit b 7 && fit q 1
  | .fclass d a q => fit d 7 && fit a 7 && fit q 1
  | .fdiv d a b m q => fit d 7 && fit a 7 && fit b 7 && fit m 2 && fit q 1
  | .fsqrt d a m q => fit d 7 && fit a 7 && fit m 2 && fit q 1
  | .frcp d a l q => fit d 7 && fit a 7 && fit l 4 && fit q 1
  | .frsq d a l q => fit d 7 && fit a 7 && fit l 4 && fit q 1
  | .fexp2 d a l q => fit d 7 && fit a 7 && fit l 4 && fit q 1
  | .flog2 d a l q => fit d 7 && fit a 7 && fit l 4 && fit q 1
  | .fsin d a l q => fit d 7 && fit a 7 && fit l 4 && fit q 1
  | .fcos d a l q => fit d 7 && fit a 7 && fit l 4 && fit q 1
  | .frnd d a m q => fit d 7 && fit a 7 && fit m 2 && fit q 1
  | .fldexp d a b m q => fit d 7 && fit a 7 && fit b 7 && fit m 2 && fit q 1
  | .cvt d a b sf df m sat q => fit d 7 && fit a 7 && fit b 7 && fit sf 4 && fit df 4 && fit m 3 && fit sat 1 && fit q 1
  | .hadd2F16 d a b q => fit d 7 && fit a 7 && fit b 7 && fit q 1
  | .hsub2F16 d a b q => fit d 7 && fit a 7 && fit b 7 && fit q 1
  | .hmul2F16 d a b q => fit d 7 && fit a 7 && fit b 7 && fit q 1
  | .hfma2F16 d a b q => fit d 7 && fit a 7 && fit b 7 && fit q 1
  | .hadd2Bf16 d a b q => fit d 7 && fit a 7 && fit b 7 && fit q 1
  | .hsub2Bf16 d a b q => fit d 7 && fit a 7 && fit b 7 && fit q 1
  | .hmul2Bf16 d a b q => fit d 7 && fit a 7 && fit b 7 && fit q 1
  | .hfma2Bf16 d a b q => fit d 7 && fit a 7 && fit b 7 && fit q 1
  | .hmin2 d a b t q => fit d 7 && fit a 7 && fit b 7 && fit t 1 && fit q 1
  | .hmax2 d a b t q => fit d 7 && fit a 7 && fit b 7 && fit t 1 && fit q 1
  | .packH2 d a b => fit d 7 && fit a 7 && fit b 7
  | .packB4 d a => fit d 7 && fit a 7
  | .packE2m1x8 d a => fit d 7 && fit a 7
  | .unpackH2 d a => fit d 7 && fit a 7
  | .unpackB4 d a => fit d 7 && fit a 7
  | .unpackE2m1x8 d a => fit d 7 && fit a 7
  | .flagr d => fit d 7
  | .flagrWave d => fit d 7
  | .vote d a => fit d 7 && fit a 7
  | .ballot d a => fit d 7 && fit a 7
  | .shflAt d a b => fit d 7 && fit a 7 && fit b 7
  | .shflRot d a b => fit d 7 && fit a 7 && fit b 7
  | .shflXor d a b => fit d 7 && fit a 7 && fit b 7
  | .shflAtImm d a x => fit d 7 && fit a 7 && fit x 5
  | .shflRotImm d a x => fit d 7 && fit a 7 && fit x 5
  | .shflXorImm d a x => fit d 7 && fit a 7 && fit x 5
  | .shflRev d a => fit d 7 && fit a 7
  | .quad d a s => fit d 7 && fit a 7 && fit s 8
  | .red d a o => fit d 7 && fit a 7 && fit o 3
  | .redF32 d a o q => fit d 7 && fit a 7 && fit o 2 && fit q 1
  | .scanInc d a o => fit d 7 && fit a 7 && fit o 3
  | .scanExc d a o => fit d 7 && fit a 7 && fit o 3
  | .matchB32 d a => fit d 7 && fit a 7
  | .matchB64 d a => fit d 7 && fit a 7
  | .elect d => fit d 7
  | .ld d a x w l => fit d 7 && fit a 7 && fit x 1 && fit w 3 && fit l 4
  | .ldAcq d a s w l => fit d 7 && fit a 7 && fit s 3 && fit w 3 && fit l 4
  | .st d a w l => fit d 7 && fit a 7 && fit w 3 && fit l 4
  | .stRel d a s w l => fit d 7 && fit a 7 && fit s 3 && fit w 3 && fit l 4
  | .lds d a x w l => fit d 7 && fit a 7 && fit x 1 && fit w 3 && fit l 4
  | .ldsAcq d a s w l => fit d 7 && fit a 7 && fit s 3 && fit w 3 && fit l 4
  | .sts d a w l => fit d 7 && fit a 7 && fit w 3 && fit l 4
  | .stsRel d a s w l => fit d 7 && fit a 7 && fit s 3 && fit w 3 && fit l 4
  | .atom d a b c op kind scope use f w l => fit d 7 && fit a 7 && fit b 7 && fit c 7 && fit op 4 && fit kind 3 && fit scope 3 && fit use 2 && fit f 3 && fit w 3 && fit l 4
  | .atoms d a b c op kind scope use f w l => fit d 7 && fit a 7 && fit b 7 && fit c 7 && fit op 4 && fit kind 3 && fit scope 3 && fit use 2 && fit f 3 && fit w 3 && fit l 4
  | .ratom a b op tb f w l => fit a 7 && fit b 7 && fit op 4 && fit tb 14 && fit f 3 && fit w 3 && fit l 4
  | .prefetchL1 a l => fit a 7 && fit l 4
  | .prefetchCm a l => fit a 7 && fit l 4
  | .fenceAcq s => fit s 3
  | .fenceRel s => fit s 3
  | .fenceFull s => fit s 3
  | .mcfg a l => fit a 7 && fit l 4
  | .gang a => fit a 7
  | .mmaE2m1 d a t r l => fit d 7 && fit a 7 && fit t 2 && fit r 1 && fit l 4
  | .mmaE4m3 d a s t r l => fit d 7 && fit a 7 && fit s 1 && fit t 2 && fit r 1 && fit l 4
  | .mmaE5m2 d a s t r l => fit d 7 && fit a 7 && fit s 1 && fit t 2 && fit r 1 && fit l 4
  | .mmaS8 d t r l => fit d 7 && fit t 2 && fit r 1 && fit l 4
  | .mmaBf16 d t r l => fit d 7 && fit t 2 && fit r 1 && fit l 4
  | .mmaF16 d t r l => fit d 7 && fit t 2 && fit r 1 && fit l 4
  | .mzero t l => fit t 2 && fit l 4
  | .mrd d a t l => fit d 7 && fit a 7 && fit t 2 && fit l 4
  | .mwr d a t l => fit d 7 && fit a 7 && fit t 2 && fit l 4
  | .mscale a t l => fit a 7 && fit t 2 && fit l 4
  | .rgnSet d a l => fit d 7 && fit a 7 && fit l 4
  | .rgnPre a l => fit a 7 && fit l 4
  | .rgnFlush a l => fit a 7 && fit l 4
  | .rgnDrop a l => fit a 7 && fit l 4
  | .rgnStat d a l => fit d 7 && fit a 7 && fit l 4
  | .tbarInit a l => fit a 7 && fit l 4
  | .tbarArrive a l => fit a 7 && fit l 4
  | .tbarWait a l => fit a 7 && fit l 4
  | .tbarTest d a l => fit d 7 && fit a 7 && fit l 4
  | .tbarRead d a l => fit d 7 && fit a 7 && fit l 4
  | .chain a l => fit a 7 && fit l 4
  | .rcap d b n l => fit d 7 && fit b 7 && fit n 3 && fit l 4
  | .rcapL d b n l => fit d 7 && fit b 7 && fit n 3 && fit l 4
  | .arm d n l => fit d 7 && fit n 3 && fit l 4
  | .sendstat d c l => fit d 7 && fit c 1 && fit l 4
  | .sendW d a k s r l => fit d 7 && fit a 7 && fit k 3 && fit s 3 && fit r 1 && fit l 4
  | .sendL d a k s r l => fit d 7 && fit a 7 && fit k 3 && fit s 3 && fit r 1 && fit l 4
  | .qput d a l => fit d 7 && fit a 7 && fit l 4
  | .ntfRead d a l => fit d 7 && fit a 7 && fit l 4
  | .ntfWait d a => fit d 7 && fit a 7
  | .ntfWrite d a l => fit d 7 && fit a 7 && fit l 4
  | .sqProp d a l => fit d 7 && fit a 7 && fit l 4
  | .sqVerify d a l => fit d 7 && fit a 7 && fit l 4
  | .sqCommit d a => fit d 7 && fit a 7
  | .sqCommitD d a => fit d 7 && fit a 7
  | .sqNext d a l => fit d 7 && fit a 7 && fit l 4
  | .sqWatch d a l => fit d 7 && fit a 7 && fit l 4
  | .sqRead d a l => fit d 7 && fit a 7 && fit l 4
  | .sqCtlOpen d l => fit d 7 && fit l 4
  | .sqCtlClose d a l => fit d 7 && fit a 7 && fit l 4
  | .sqCtlResume d a l => fit d 7 && fit a 7 && fit l 4
  | .sqCtlSetclass d a l => fit d 7 && fit a 7 && fit l 4
  | .sqCtlSetmask d a l => fit d 7 && fit a 7 && fit l 4
  | .sqCtlSetcnt d a l => fit d 7 && fit a 7 && fit l 4
  | .sqCtlClrdraft d a l => fit d 7 && fit a 7 && fit l 4
  | .sqCtlClrfq d a l => fit d 7 && fit a 7 && fit l 4
  | .sysr d n => fit d 7 && fit n 10
  | .sysw a n => fit a 7 && fit n 10
  | .tlbinvPage a => fit a 7
  | .tlbinvPart a => fit a 7
  | i => !i.isEvent

/-- The instruction is one that the stream can hold and that item 2 of R221 does not reject by its encoding alone. -/
def Instr.wellFormed (i : Instr) : Bool := i.fits && i.legal

end Sys2Proof
end

