-- ==== Sys2Proof/Decode.lean ====
section
/-! DEFINITION. Decode.lean: the decoder of the instruction stream (R207 to R239), total on any bytes, and after it
the encoder, written from the same tables. -/
namespace Sys2Proof

/-- Bits [hi:lo] of a word (R2). -/
def bits (w hi lo : Nat) : Nat := w / 2 ^ lo % 2 ^ (hi + 1 - lo)

/-- Why bytes are not an instruction. -/
inductive Reject where
  /-- Fewer bytes than the instruction holds. -/
  | truncated
  /-- No instruction has this major and function, or a reserved bit is set (R221, R238). -/
  | unassigned
  /-- The fields break a check of R212, R221, R234, R235 or of the instruction's chapter. -/
  | illFormed
  deriving DecidableEq, Repr

/-- Format S (R208, R209, R230). -/
def decodeS (h : Nat) : Option Instr :=
  match bits h 4 1 with
  | 0 => if bits h 15 15 = 0 then some (.movS (bits h 9 5) (bits h 14 10)) else none
  | 1 => if bits h 15 15 = 0 then some (.addS (bits h 9 5) (bits h 14 10)) else none
  | 2 => if bits h 15 15 = 0 then some (.subS (bits h 9 5) (bits h 14 10)) else none
  | 3 => if bits h 15 15 = 0 then some (.andS (bits h 9 5) (bits h 14 10)) else none
  | 4 => if bits h 15 15 = 0 then some (.orS (bits h 9 5) (bits h 14 10)) else none
  | 5 => if bits h 15 15 = 0 then some (.xorS (bits h 9 5) (bits h 14 10)) else none
  | 6 => if bits h 15 15 = 0 then some (.shlS (bits h 9 5) (bits h 14 10)) else none
  | 7 => if bits h 15 15 = 0 then some (.shrS (bits h 9 5) (bits h 14 10)) else none
  | 8 => if bits h 15 15 = 0 then some (.sarS (bits h 9 5) (bits h 14 10)) else none
  | 9 => if bits h 15 15 = 0 then some (.mul24S (bits h 9 5) (bits h 14 10)) else none
  | 10 => some (.faddS (bits h 9 5) (bits h 14 10) (bits h 15 15))
  | 11 => some (.fsubS (bits h 9 5) (bits h 14 10) (bits h 15 15))
  | 12 => some (.fmulS (bits h 9 5) (bits h 14 10) (bits h 15 15))
  | 13 => some (.fminS (bits h 9 5) (bits h 14 10) (bits h 15 15))
  | 14 => some (.fmaxS (bits h 9 5) (bits h 14 10) (bits h 15 15))
  | 15 => if bits h 15 15 = 0 then some (.setlt (bits h 9 5) (bits h 14 10)) else none
  | _ => none

/-- Majors 0x00 to 0x0F (R231, R233). -/
def decodeMajor00 (w lit : Nat) : Option Instr :=
  match bits w 7 1 with
  | 0x01 => if bits w 31 8 = 0 then some (.nop) else none
  | 0x02 => if bits w 31 25 = 0 ∧ bits w 21 15 = 0 then some (.guard (bits w 14 8) (bits w 23 22) (bits w 24 24)) else none
  | 0x03 => if bits w 31 29 = 0 ∧ bits w 21 15 = 0 then some (.mov (bits w 14 8) (bits w 28 22)) else none
  | 0x04 => if bits w 31 15 = 0 then some (.movi (bits w 14 8) lit) else none
  | 0x05 => some (.addImm (bits w 14 8) (bits w 21 15) (bits w 31 22))
  | 0x06 => if bits w 31 25 = 0 ∧ bits w 21 8 = 0 then some (.part (bits w 24 22)) else none
  | 0x07 => if bits w 31 8 = 0 then some (.yield) else none
  | 0x08 => if bits w 31 8 = 0 then some (.exit) else none
  | 0x09 => if bits w 21 8 = 0 then some (.trap (bits w 31 22)) else none
  | 0x0A => if bits w 21 8 = 0 then some (.brk (bits w 31 22)) else none
  | 0x0B =>
    if bits w 31 26 = 0 ∧ bits w 21 8 = 0 then some (.barSync (bits w 25 22))
    else if bits w 31 26 = 1 ∧ bits w 21 8 = 0 then some (.barArrive (bits w 25 22))
    else none
  | 0x0C => some (.bra (bits w 14 8) (bits w 31 15))
  | 0x0D => some (.braZ (bits w 14 8) (bits w 31 15))
  | 0x0E => if bits w 31 15 = 0 then some (.jmp (bits w 14 8) lit) else none
  | 0x0F => some (.call (bits w 14 8) (bits w 31 15))
  | _ => none

/-- Majors 0x10 to 0x1F (R231, R233). -/
def decodeMajor10 (w _lit : Nat) : Option Instr :=
  match bits w 7 1 with
  | 0x10 => if bits w 31 22 = 0 ∧ bits w 14 8 = 0 then some (.jmpr (bits w 21 15)) else none
  | 0x11 => if bits w 31 22 = 0 then some (.callr (bits w 14 8) (bits w 21 15)) else none
  | 0x12 => if bits w 31 22 = 0 ∧ bits w 14 8 = 0 then some (.ret (bits w 21 15)) else none
  | 0x13 => if bits w 21 15 = 0 then some (.sreg (bits w 14 8) (bits w 31 22)) else none
  | 0x14 =>
    if bits w 31 29 = 0 then some (.add (bits w 14 8) (bits w 21 15) (bits w 28 22))
    else if bits w 31 29 = 1 then some (.sub (bits w 14 8) (bits w 21 15) (bits w 28 22))
    else if bits w 31 29 = 2 then some (.addc (bits w 14 8) (bits w 21 15) (bits w 28 22))
    else if bits w 31 29 = 3 then some (.subb (bits w 14 8) (bits w 21 15) (bits w 28 22))
    else if bits w 31 22 = 0x200 then some (.neg (bits w 14 8) (bits w 21 15))
    else if bits w 31 22 = 0x280 then some (.abs (bits w 14 8) (bits w 21 15))
    else none
  | 0x15 =>
    if bits w 31 30 = 0 then some (.min (bits w 14 8) (bits w 21 15) (bits w 28 22) (bits w 29 29))
    else if bits w 31 30 = 1 then some (.max (bits w 14 8) (bits w 21 15) (bits w 28 22) (bits w 29 29))
    else none
  | 0x16 =>
    if bits w 31 29 = 0 then some (.and (bits w 14 8) (bits w 21 15) (bits w 28 22))
    else if bits w 31 29 = 1 then some (.or (bits w 14 8) (bits w 21 15) (bits w 28 22))
    else if bits w 31 29 = 2 then some (.xor (bits w 14 8) (bits w 21 15) (bits w 28 22))
    else if bits w 31 29 = 3 then some (.andn (bits w 14 8) (bits w 21 15) (bits w 28 22))
    else if bits w 31 22 = 0x200 then some (.not (bits w 14 8) (bits w 21 15))
    else none
  | 0x17 =>
    if bits w 31 29 = 0 then some (.shl (bits w 14 8) (bits w 21 15) (bits w 28 22))
    else if bits w 31 29 = 1 then some (.shr (bits w 14 8) (bits w 21 15) (bits w 28 22))
    else if bits w 31 29 = 2 then some (.sar (bits w 14 8) (bits w 21 15) (bits w 28 22))
    else if bits w 31 29 = 3 then some (.rol (bits w 14 8) (bits w 21 15) (bits w 28 22))
    else if bits w 31 29 = 4 then some (.ror (bits w 14 8) (bits w 21 15) (bits w 28 22))
    else none
  | 0x18 =>
    if bits w 31 27 = 0 then some (.shlImm (bits w 14 8) (bits w 21 15) (bits w 26 22))
    else if bits w 31 27 = 1 then some (.shrImm (bits w 14 8) (bits w 21 15) (bits w 26 22))
    else if bits w 31 27 = 2 then some (.sarImm (bits w 14 8) (bits w 21 15) (bits w 26 22))
    else if bits w 31 27 = 3 then some (.rolImm (bits w 14 8) (bits w 21 15) (bits w 26 22))
    else if bits w 31 27 = 4 then some (.rorImm (bits w 14 8) (bits w 21 15) (bits w 26 22))
    else none
  | 0x19 => if bits w 31 31 = 0 then some (.mul24 (bits w 14 8) (bits w 21 15) (bits w 28 22) (bits w 29 29) (bits w 30 30)) else none
  | 0x1A => if bits w 31 31 = 0 then some (.mad24 (bits w 14 8) (bits w 21 15) (bits w 28 22) (bits w 29 29) (bits w 30 30)) else none
  | 0x1B => if bits w 31 31 = 0 then some (.mul32 (bits w 14 8) (bits w 21 15) (bits w 28 22) (bits w 29 29) (bits w 30 30)) else none
  | 0x1C => if bits w 31 31 = 0 then some (.mad32 (bits w 14 8) (bits w 21 15) (bits w 28 22) (bits w 29 29) (bits w 30 30)) else none
  | 0x1D =>
    if bits w 31 30 = 0 then some (.div (bits w 14 8) (bits w 21 15) (bits w 28 22) (bits w 29 29))
    else if bits w 31 30 = 1 then some (.rem (bits w 14 8) (bits w 21 15) (bits w 28 22) (bits w 29 29))
    else none
  | 0x1E =>
    if bits w 31 22 = 0 then some (.popc (bits w 14 8) (bits w 21 15))
    else if bits w 31 22 = 0x80 then some (.clz (bits w 14 8) (bits w 21 15))
    else if bits w 31 22 = 0x100 then some (.ctz (bits w 14 8) (bits w 21 15))
    else if bits w 31 22 = 0x180 then some (.brev (bits w 14 8) (bits w 21 15))
    else none
  | 0x1F => some (.bfeN32 (bits w 14 8) (bits w 21 15) (bits w 31 27) (bits w 26 22))
  | _ => none

/-- Majors 0x20 to 0x2F (R231, R233). -/
def decodeMajor20 (w _lit : Nat) : Option Instr :=
  match bits w 7 1 with
  | 0x20 => some (.bfeS32 (bits w 14 8) (bits w 21 15) (bits w 31 27) (bits w 26 22))
  | 0x21 => some (.bfi (bits w 14 8) (bits w 21 15) (bits w 31 27) (bits w 26 22))
  | 0x22 => if bits w 31 29 = 0 then some (.bsel (bits w 14 8) (bits w 21 15) (bits w 28 22)) else none
  | 0x23 => if bits w 31 29 = 0 then some (.bgath (bits w 14 8) (bits w 21 15) (bits w 28 22)) else none
  | 0x24 => some (.lea (bits w 14 8) (bits w 21 15) (bits w 28 22) (bits w 31 29))
  | 0x25 =>
    if bits w 31 29 = 0 then some (.add64 (bits w 14 8) (bits w 21 15) (bits w 28 22))
    else if bits w 31 29 = 1 then some (.sub64 (bits w 14 8) (bits w 21 15) (bits w 28 22))
    else none
  | 0x26 =>
    if bits w 31 29 = 0 then some (.shl64 (bits w 14 8) (bits w 21 15) (bits w 28 22))
    else if bits w 31 29 = 1 then some (.shr64 (bits w 14 8) (bits w 21 15) (bits w 28 22))
    else none
  | 0x27 => some (.cmpS32 (bits w 14 8) (bits w 21 15) (bits w 28 22) (bits w 31 29))
  | 0x28 => some (.cmpN32 (bits w 14 8) (bits w 21 15) (bits w 28 22) (bits w 31 29))
  | 0x29 => if bits w 31 29 = 0 then some (.sel (bits w 14 8) (bits w 21 15) (bits w 28 22)) else none
  | _ => none

/-- Majors 0x30 to 0x3F (R231, R233). -/
def decodeMajor30 (w lit : Nat) : Option Instr :=
  match bits w 7 1 with
  | 0x30 => some (.fadd (bits w 14 8) (bits w 21 15) (bits w 28 22) (bits w 30 29) (bits w 31 31))
  | 0x31 => some (.fsub (bits w 14 8) (bits w 21 15) (bits w 28 22) (bits w 30 29) (bits w 31 31))
  | 0x32 => some (.fmul (bits w 14 8) (bits w 21 15) (bits w 28 22) (bits w 30 29) (bits w 31 31))
  | 0x33 => some (.ffma (bits w 14 8) (bits w 21 15) (bits w 28 22) (bits w 30 29) (bits w 31 31))
  | 0x34 => if lit / 2^7 = 0 then some (.ffma3 (bits w 14 8) (bits w 21 15) (bits w 28 22) (bits lit 6 0) (bits w 30 29) (bits w 31 31)) else none
  | 0x35 =>
    if bits w 30 29 = 0 then some (.fmin (bits w 14 8) (bits w 21 15) (bits w 28 22) (bits w 31 31))
    else if bits w 30 29 = 1 then some (.fmax (bits w 14 8) (bits w 21 15) (bits w 28 22) (bits w 31 31))
    else if bits w 30 29 = 2 then some (.fminn (bits w 14 8) (bits w 21 15) (bits w 28 22) (bits w 31 31))
    else if bits w 30 29 = 3 then some (.fmaxn (bits w 14 8) (bits w 21 15) (bits w 28 22) (bits w 31 31))
    else none
  | 0x36 =>
    if bits w 30 22 = 0 then some (.fabs (bits w 14 8) (bits w 21 15) (bits w 31 31))
    else if bits w 30 22 = 0x80 then some (.fneg (bits w 14 8) (bits w 21 15) (bits w 31 31))
    else none
  | 0x37 =>
    if bits w 30 29 = 0 then some (.fcmpEq (bits w 14 8) (bits w 21 15) (bits w 28 22) (bits w 31 31))
    else if bits w 30 29 = 1 then some (.fcmpLt (bits w 14 8) (bits w 21 15) (bits w 28 22) (bits w 31 31))
    else if bits w 30 29 = 2 then some (.fcmpLe (bits w 14 8) (bits w 21 15) (bits w 28 22) (bits w 31 31))
    else if bits w 30 29 = 3 then some (.fcmpUn (bits w 14 8) (bits w 21 15) (bits w 28 22) (bits w 31 31))
    else none
  | 0x38 =>
    if bits w 30 29 = 0 then some (.fcmpNe (bits w 14 8) (bits w 21 15) (bits w 28 22) (bits w 31 31))
    else if bits w 30 29 = 1 then some (.fcmpGt (bits w 14 8) (bits w 21 15) (bits w 28 22) (bits w 31 31))
    else if bits w 30 29 = 2 then some (.fcmpGe (bits w 14 8) (bits w 21 15) (bits w 28 22) (bits w 31 31))
    else if bits w 30 29 = 3 then some (.fcmpOrd (bits w 14 8) (bits w 21 15) (bits w 28 22) (bits w 31 31))
    else none
  | 0x39 => if bits w 30 22 = 0 then some (.fclass (bits w 14 8) (bits w 21 15) (bits w 31 31)) else none
  | 0x3A => some (.fdiv (bits w 14 8) (bits w 21 15) (bits w 28 22) (bits w 30 29) (bits w 31 31))
  | 0x3B => if bits w 28 22 = 0 then some (.fsqrt (bits w 14 8) (bits w 21 15) (bits w 30 29) (bits w 31 31)) else none
  | 0x3C =>
    if bits w 30 26 = 0 then some (.frcp (bits w 14 8) (bits w 21 15) (bits w 25 22) (bits w 31 31))
    else if bits w 30 26 = 1 then some (.frsq (bits w 14 8) (bits w 21 15) (bits w 25 22) (bits w 31 31))
    else if bits w 30 26 = 2 then some (.fexp2 (bits w 14 8) (bits w 21 15) (bits w 25 22) (bits w 31 31))
    else if bits w 30 26 = 3 then some (.flog2 (bits w 14 8) (bits w 21 15) (bits w 25 22) (bits w 31 31))
    else if bits w 30 26 = 4 then some (.fsin (bits w 14 8) (bits w 21 15) (bits w 25 22) (bits w 31 31))
    else if bits w 30 26 = 5 then some (.fcos (bits w 14 8) (bits w 21 15) (bits w 25 22) (bits w 31 31))
    else none
  | 0x3D => if bits w 28 22 = 0 then some (.frnd (bits w 14 8) (bits w 21 15) (bits w 30 29) (bits w 31 31)) else none
  | 0x3E => some (.fldexp (bits w 14 8) (bits w 21 15) (bits w 28 22) (bits w 30 29) (bits w 31 31))
  | 0x3F => if bits w 30 29 = 0 ∧ lit / 2^12 = 0 then some (.cvt (bits w 14 8) (bits w 21 15) (bits w 28 22) (bits lit 3 0) (bits lit 7 4) (bits lit 10 8) (bits lit 11 11) (bits w 31 31)) else none
  | _ => none

/-- Majors 0x40 to 0x4F (R231, R233). -/
def decodeMajor40 (w _lit : Nat) : Option Instr :=
  match bits w 7 1 with
  | 0x40 =>
    if bits w 30 29 = 0 then some (.hadd2F16 (bits w 14 8) (bits w 21 15) (bits w 28 22) (bits w 31 31))
    else if bits w 30 29 = 1 then some (.hsub2F16 (bits w 14 8) (bits w 21 15) (bits w 28 22) (bits w 31 31))
    else if bits w 30 29 = 2 then some (.hmul2F16 (bits w 14 8) (bits w 21 15) (bits w 28 22) (bits w 31 31))
    else if bits w 30 29 = 3 then some (.hfma2F16 (bits w 14 8) (bits w 21 15) (bits w 28 22) (bits w 31 31))
    else none
  | 0x41 =>
    if bits w 30 29 = 0 then some (.hadd2Bf16 (bits w 14 8) (bits w 21 15) (bits w 28 22) (bits w 31 31))
    else if bits w 30 29 = 1 then some (.hsub2Bf16 (bits w 14 8) (bits w 21 15) (bits w 28 22) (bits w 31 31))
    else if bits w 30 29 = 2 then some (.hmul2Bf16 (bits w 14 8) (bits w 21 15) (bits w 28 22) (bits w 31 31))
    else if bits w 30 29 = 3 then some (.hfma2Bf16 (bits w 14 8) (bits w 21 15) (bits w 28 22) (bits w 31 31))
    else none
  | 0x42 =>
    if bits w 29 29 = 0 then some (.hmin2 (bits w 14 8) (bits w 21 15) (bits w 28 22) (bits w 30 30) (bits w 31 31))
    else if bits w 29 29 = 1 then some (.hmax2 (bits w 14 8) (bits w 21 15) (bits w 28 22) (bits w 30 30) (bits w 31 31))
    else none
  | 0x43 =>
    if bits w 31 29 = 0 then some (.packH2 (bits w 14 8) (bits w 21 15) (bits w 28 22))
    else if bits w 31 22 = 0x80 then some (.packB4 (bits w 14 8) (bits w 21 15))
    else if bits w 31 22 = 0x100 then some (.packE2m1x8 (bits w 14 8) (bits w 21 15))
    else none
  | 0x44 =>
    if bits w 31 22 = 0 then some (.unpackH2 (bits w 14 8) (bits w 21 15))
    else if bits w 31 22 = 0x80 then some (.unpackB4 (bits w 14 8) (bits w 21 15))
    else if bits w 31 22 = 0x100 then some (.unpackE2m1x8 (bits w 14 8) (bits w 21 15))
    else none
  | 0x45 =>
    if bits w 31 15 = 0 then some (.flagr (bits w 14 8))
    else if bits w 31 15 = 0x4000 then some (.flagrWave (bits w 14 8))
    else none
  | 0x46 => if bits w 31 8 = 0 then some (.flagc) else none
  | 0x48 => if bits w 31 22 = 0 then some (.vote (bits w 14 8) (bits w 21 15)) else none
  | 0x49 => if bits w 31 22 = 0 then some (.ballot (bits w 14 8) (bits w 21 15)) else none
  | 0x4A =>
    if bits w 31 29 = 0 then some (.shflAt (bits w 14 8) (bits w 21 15) (bits w 28 22))
    else if bits w 31 29 = 1 then some (.shflRot (bits w 14 8) (bits w 21 15) (bits w 28 22))
    else if bits w 31 29 = 2 then some (.shflXor (bits w 14 8) (bits w 21 15) (bits w 28 22))
    else none
  | 0x4B =>
    if bits w 31 27 = 0 then some (.shflAtImm (bits w 14 8) (bits w 21 15) (bits w 26 22))
    else if bits w 31 27 = 1 then some (.shflRotImm (bits w 14 8) (bits w 21 15) (bits w 26 22))
    else if bits w 31 27 = 2 then some (.shflXorImm (bits w 14 8) (bits w 21 15) (bits w 26 22))
    else if bits w 31 22 = 0x60 then some (.shflRev (bits w 14 8) (bits w 21 15))
    else none
  | 0x4C => if bits w 31 30 = 0 then some (.quad (bits w 14 8) (bits w 21 15) (bits w 29 22)) else none
  | 0x4D => if bits w 28 22 = 0 then some (.red (bits w 14 8) (bits w 21 15) (bits w 31 29)) else none
  | 0x4E => if bits w 28 22 = 0 then some (.redF32 (bits w 14 8) (bits w 21 15) (bits w 30 29) (bits w 31 31)) else none
  | 0x4F => if bits w 28 22 = 0 then some (.scanInc (bits w 14 8) (bits w 21 15) (bits w 31 29)) else none
  | _ => none

/-- Majors 0x50 to 0x5F (R231, R233). -/
def decodeMajor50 (w _lit : Nat) : Option Instr :=
  match bits w 7 1 with
  | 0x50 => if bits w 28 22 = 0 then some (.scanExc (bits w 14 8) (bits w 21 15) (bits w 31 29)) else none
  | 0x51 =>
    if bits w 31 22 = 0 then some (.matchB32 (bits w 14 8) (bits w 21 15))
    else if bits w 31 22 = 0x80 then some (.matchB64 (bits w 14 8) (bits w 21 15))
    else none
  | 0x52 => if bits w 31 15 = 0 then some (.elect (bits w 14 8)) else none
  | 0x58 => if bits w 31 30 = 0 then some (.ld (bits w 14 8) (bits w 21 15) (bits w 29 29) (bits w 28 26) (bits w 25 22)) else none
  | 0x59 => some (.ldAcq (bits w 14 8) (bits w 21 15) (bits w 31 29) (bits w 28 26) (bits w 25 22))
  | 0x5A => if bits w 31 29 = 0 then some (.st (bits w 14 8) (bits w 21 15) (bits w 28 26) (bits w 25 22)) else none
  | 0x5B => some (.stRel (bits w 14 8) (bits w 21 15) (bits w 31 29) (bits w 28 26) (bits w 25 22))
  | 0x5C => if bits w 31 30 = 0 then some (.lds (bits w 14 8) (bits w 21 15) (bits w 29 29) (bits w 28 26) (bits w 25 22)) else none
  | 0x5D => some (.ldsAcq (bits w 14 8) (bits w 21 15) (bits w 31 29) (bits w 28 26) (bits w 25 22))
  | 0x5E => if bits w 31 29 = 0 then some (.sts (bits w 14 8) (bits w 21 15) (bits w 28 26) (bits w 25 22)) else none
  | 0x5F => some (.stsRel (bits w 14 8) (bits w 21 15) (bits w 31 29) (bits w 28 26) (bits w 25 22))
  | _ => none

/-- Majors 0x60 to 0x6F (R231, R233). -/
def decodeMajor60 (w lit : Nat) : Option Instr :=
  match bits w 7 1 with
  | 0x60 => if lit / 2^26 = 0 then some (.atom (bits w 14 8) (bits w 21 15) (bits lit 18 12) (bits lit 25 19) (bits lit 3 0) (bits lit 6 4) (bits lit 9 7) (bits lit 11 10) (bits w 31 29) (bits w 28 26) (bits w 25 22)) else none
  | 0x61 => if lit / 2^26 = 0 then some (.atoms (bits w 14 8) (bits w 21 15) (bits lit 18 12) (bits lit 25 19) (bits lit 3 0) (bits lit 6 4) (bits lit 9 7) (bits lit 11 10) (bits w 31 29) (bits w 28 26) (bits w 25 22)) else none
  | 0x62 => if bits w 14 8 = 0 ∧ lit / 2^25 = 0 then some (.ratom (bits w 21 15) (bits lit 10 4) (bits lit 3 0) (bits lit 24 11) (bits w 31 29) (bits w 28 26) (bits w 25 22)) else none
  | 0x63 =>
    if bits w 31 26 = 0 ∧ bits w 14 8 = 0 then some (.prefetchL1 (bits w 21 15) (bits w 25 22))
    else if bits w 31 26 = 8 ∧ bits w 14 8 = 0 then some (.prefetchCm (bits w 21 15) (bits w 25 22))
    else none
  | 0x64 =>
    if bits w 31 25 = 0 ∧ bits w 21 8 = 0 then some (.fenceAcq (bits w 24 22))
    else if bits w 31 25 = 1 ∧ bits w 21 8 = 0 then some (.fenceRel (bits w 24 22))
    else if bits w 31 25 = 2 ∧ bits w 21 8 = 0 then some (.fenceFull (bits w 24 22))
    else none
  | 0x65 => if bits w 31 8 = 0 then some (.tfence) else none
  | 0x66 => if bits w 31 8 = 0 then some (.inval) else none
  | 0x68 => if bits w 31 26 = 0 ∧ bits w 14 8 = 0 then some (.mcfg (bits w 21 15) (bits w 25 22)) else none
  | 0x69 => if bits w 31 22 = 0 ∧ bits w 14 8 = 0 then some (.gang (bits w 21 15)) else none
  | 0x6A => if bits w 31 29 = 0 then some (.mmaE2m1 (bits w 14 8) (bits w 21 15) (bits w 27 26) (bits w 28 28) (bits w 25 22)) else none
  | 0x6B => if bits w 31 30 = 0 then some (.mmaE4m3 (bits w 14 8) (bits w 21 15) (bits w 29 29) (bits w 27 26) (bits w 28 28) (bits w 25 22)) else none
  | 0x6C => if bits w 31 30 = 0 then some (.mmaE5m2 (bits w 14 8) (bits w 21 15) (bits w 29 29) (bits w 27 26) (bits w 28 28) (bits w 25 22)) else none
  | 0x6D => if bits w 31 29 = 0 ∧ bits w 21 15 = 0 then some (.mmaS8 (bits w 14 8) (bits w 27 26) (bits w 28 28) (bits w 25 22)) else none
  | 0x6E => if bits w 31 29 = 0 ∧ bits w 21 15 = 0 then some (.mmaBf16 (bits w 14 8) (bits w 27 26) (bits w 28 28) (bits w 25 22)) else none
  | 0x6F => if bits w 31 29 = 0 ∧ bits w 21 15 = 0 then some (.mmaF16 (bits w 14 8) (bits w 27 26) (bits w 28 28) (bits w 25 22)) else none
  | _ => none

/-- Majors 0x70 to 0x7F (R231, R233). -/
def decodeMajor70 (w lit : Nat) : Option Instr :=
  match bits w 7 1 with
  | 0x70 =>
    if bits w 31 28 = 0 ∧ bits w 21 8 = 0 then some (.mzero (bits w 27 26) (bits w 25 22))
    else if bits w 31 28 = 1 then some (.mrd (bits w 14 8) (bits w 21 15) (bits w 27 26) (bits w 25 22))
    else if bits w 31 28 = 2 then some (.mwr (bits w 14 8) (bits w 21 15) (bits w 27 26) (bits w 25 22))
    else if bits w 31 28 = 3 ∧ bits w 14 8 = 0 then some (.mscale (bits w 21 15) (bits w 27 26) (bits w 25 22))
    else none
  | 0x71 =>
    if bits w 31 26 = 0 then some (.rgnSet (bits w 14 8) (bits w 21 15) (bits w 25 22))
    else if bits w 31 26 = 1 ∧ bits w 14 8 = 0 then some (.rgnPre (bits w 21 15) (bits w 25 22))
    else if bits w 31 26 = 2 ∧ bits w 14 8 = 0 then some (.rgnFlush (bits w 21 15) (bits w 25 22))
    else if bits w 31 26 = 3 ∧ bits w 14 8 = 0 then some (.rgnDrop (bits w 21 15) (bits w 25 22))
    else if bits w 31 26 = 4 then some (.rgnStat (bits w 14 8) (bits w 21 15) (bits w 25 22))
    else none
  | 0x72 =>
    if bits w 31 26 = 0 ∧ bits w 14 8 = 0 then some (.tbarInit (bits w 21 15) (bits w 25 22))
    else if bits w 31 26 = 1 ∧ bits w 14 8 = 0 then some (.tbarArrive (bits w 21 15) (bits w 25 22))
    else if bits w 31 26 = 2 ∧ bits w 14 8 = 0 then some (.tbarWait (bits w 21 15) (bits w 25 22))
    else if bits w 31 26 = 3 then some (.tbarTest (bits w 14 8) (bits w 21 15) (bits w 25 22))
    else if bits w 31 26 = 4 then some (.tbarRead (bits w 14 8) (bits w 21 15) (bits w 25 22))
    else none
  | 0x73 => if bits w 31 26 = 0 ∧ bits w 14 8 = 0 then some (.chain (bits w 21 15) (bits w 25 22)) else none
  | 0x74 =>
    if bits w 31 31 = 0 ∧ bits w 27 26 = 0 then some (.rcap (bits w 14 8) (bits w 21 15) (bits w 30 28) (bits w 25 22))
    else if bits w 31 31 = 0 ∧ bits w 27 26 = 1 then some (.rcapL (bits w 14 8) (bits w 21 15) (bits w 30 28) (bits w 25 22))
    else if bits w 31 31 = 0 ∧ bits w 27 26 = 2 ∧ bits w 21 15 = 0 then some (.arm (bits w 14 8) (bits w 30 28) (bits w 25 22))
    else if bits w 30 26 = 3 ∧ bits w 21 15 = 0 then some (.sendstat (bits w 14 8) (bits w 31 31) (bits w 25 22))
    else none
  | 0x75 =>
    if bits w 31 28 = 0 ∧ bits w 26 26 = 0 ∧ lit / 2^6 = 0 then some (.sendW (bits w 14 8) (bits w 21 15) (bits lit 2 0) (bits lit 5 3) (bits w 27 27) (bits w 25 22))
    else if bits w 31 28 = 0 ∧ bits w 26 26 = 1 ∧ lit / 2^6 = 0 then some (.sendL (bits w 14 8) (bits w 21 15) (bits lit 2 0) (bits lit 5 3) (bits w 27 27) (bits w 25 22))
    else none
  | 0x76 => if bits w 31 26 = 0 then some (.qput (bits w 14 8) (bits w 21 15) (bits w 25 22)) else none
  | 0x77 =>
    if bits w 31 26 = 0 then some (.ntfRead (bits w 14 8) (bits w 21 15) (bits w 25 22))
    else if bits w 31 22 = 0x10 then some (.ntfWait (bits w 14 8) (bits w 21 15))
    else if bits w 31 26 = 2 then some (.ntfWrite (bits w 14 8) (bits w 21 15) (bits w 25 22))
    else none
  | 0x78 =>
    if bits w 31 26 = 0 then some (.sqProp (bits w 14 8) (bits w 21 15) (bits w 25 22))
    else if bits w 31 26 = 1 then some (.sqVerify (bits w 14 8) (bits w 21 15) (bits w 25 22))
    else if bits w 31 22 = 0x20 then some (.sqCommit (bits w 14 8) (bits w 21 15))
    else if bits w 31 22 = 0x30 then some (.sqCommitD (bits w 14 8) (bits w 21 15))
    else if bits w 31 26 = 4 then some (.sqNext (bits w 14 8) (bits w 21 15) (bits w 25 22))
    else if bits w 31 26 = 5 then some (.sqWatch (bits w 14 8) (bits w 21 15) (bits w 25 22))
    else if bits w 31 26 = 6 then some (.sqRead (bits w 14 8) (bits w 21 15) (bits w 25 22))
    else if bits w 31 26 = 7 ∧ bits w 21 15 = 0 then some (.sqCtlOpen (bits w 14 8) (bits w 25 22))
    else if bits w 31 26 = 0xF then some (.sqCtlClose (bits w 14 8) (bits w 21 15) (bits w 25 22))
    else if bits w 31 26 = 0x17 then some (.sqCtlResume (bits w 14 8) (bits w 21 15) (bits w 25 22))
    else if bits w 31 26 = 0x1F then some (.sqCtlSetclass (bits w 14 8) (bits w 21 15) (bits w 25 22))
    else if bits w 31 26 = 0x27 then some (.sqCtlSetmask (bits w 14 8) (bits w 21 15) (bits w 25 22))
    else if bits w 31 26 = 0x2F then some (.sqCtlSetcnt (bits w 14 8) (bits w 21 15) (bits w 25 22))
    else if bits w 31 26 = 0x37 then some (.sqCtlClrdraft (bits w 14 8) (bits w 21 15) (bits w 25 22))
    else if bits w 31 26 = 0x3F then some (.sqCtlClrfq (bits w 14 8) (bits w 21 15) (bits w 25 22))
    else none
  | 0x79 => if bits w 21 15 = 0 then some (.sysr (bits w 14 8) (bits w 31 22)) else none
  | 0x7A => if bits w 14 8 = 0 then some (.sysw (bits w 21 15) (bits w 31 22)) else none
  | 0x7B =>
    if bits w 31 8 = 0 then some (.eret)
    else if bits w 31 8 = 0x200000 then some (.halt)
    else if bits w 31 8 = 0x400000 then some (.wfe)
    else none
  | 0x7C =>
    if bits w 31 22 = 0 ∧ bits w 14 8 = 0 then some (.tlbinvPage (bits w 21 15))
    else if bits w 31 22 = 0x80 ∧ bits w 14 8 = 0 then some (.tlbinvPart (bits w 21 15))
    else if bits w 31 8 = 0x400000 then some (.tlbinvAll)
    else none
  | _ => none

/-- The 32-bit formats: the major selects the operation (R210, R211, R231). -/
def decode32 (w lit : Nat) : Option Instr :=
  match bits w 7 5 with
  | 0 => decodeMajor00 w lit
  | 1 => decodeMajor10 w lit
  | 2 => decodeMajor20 w lit
  | 3 => decodeMajor30 w lit
  | 4 => decodeMajor40 w lit
  | 5 => decodeMajor50 w lit
  | 6 => decodeMajor60 w lit
  | 7 => decodeMajor70 w lit
  | _ => none

/-- The length bit and the literal-taking majors give the length in bytes (R207, R231). -/
def lengthOf (w : Nat) : Nat :=
  if w % 2 = 0 then 2
  else match bits w 7 1 with
    | 0x04 | 0x0E | 0x34 | 0x3F | 0x60 | 0x61 | 0x62 | 0x75 => 8
    | _ => 4

/-- The candidate that a word of 64 bits names: its first word in bits [31:0], its literal above. -/
def candidate (w : Nat) : Option Instr :=
  if w % 2 = 0 then decodeS (w % 2 ^ 16) else decode32 (w % 2 ^ 32) (bits w 63 32)

/-- The decoder on a word. -/
def decode (w : Nat) : Except Reject Instr :=
  match candidate w with
  | none => .error .unassigned
  | some i => if i.wellFormed then .ok i else .error .illFormed

/-- Little-endian value of bytes (R3, R207). -/
def bytesValue : List Byte → Nat
  | [] => 0
  | b :: bs => b.toNat + 256 * bytesValue bs

/-- The decoder on a stream of bytes: the instruction and the rest of the stream (R207). -/
def decodeBytes (bs : List Byte) : Except Reject (Instr × List Byte) :=
  if bs.length < 2 then .error .truncated
  else
    let n := lengthOf (bytesValue (bs.take 2))
    if bs.length < n then .error .truncated
    else match decode (bytesValue (bs.take n)) with
      | .ok i => .ok (i, bs.drop n)
      | .error r => .error r

/-- The bytes of a word of n bytes, low byte first (R3). -/
def wordBytes : Nat → Nat → List Byte
  | 0, _ => []
  | n + 1, w => BitVec.ofNat 8 w :: wordBytes n (w / 256)

/-- The instruction the decoder reads from a word of nbits bits, numbered as the opcode table numbers them;
the bits above are zero. The halfwords are laid out in ascending order, each low byte first (R207). -/
def decodeTableWord (nbits w : Nat) : Option Instr :=
  match decodeBytes (wordBytes 8 (w % 2 ^ nbits)) with
  | .ok (i, _) => some i
  | .error _ => none

/-- The word of a well-formed instruction, bit 0 the least significant bit of its first halfword and a literal word
in bits [63:32] (R208, R211, R231, R233). An event has no word. -/
def encode : Instr → Nat
  | .movS d b => 0 + d * 0x20 + b * 0x400
  | .addS d b => 2 + d * 0x20 + b * 0x400
  | .subS d b => 4 + d * 0x20 + b * 0x400
  | .andS d b => 6 + d * 0x20 + b * 0x400
  | .orS d b => 8 + d * 0x20 + b * 0x400
  | .xorS d b => 0xA + d * 0x20 + b * 0x400
  | .shlS d b => 0xC + d * 0x20 + b * 0x400
  | .shrS d b => 0xE + d * 0x20 + b * 0x400
  | .sarS d b => 0x10 + d * 0x20 + b * 0x400
  | .mul24S d b => 0x12 + d * 0x20 + b * 0x400
  | .faddS d b q => 0x14 + d * 0x20 + b * 0x400 + q * 0x8000
  | .fsubS d b q => 0x16 + d * 0x20 + b * 0x400 + q * 0x8000
  | .fmulS d b q => 0x18 + d * 0x20 + b * 0x400 + q * 0x8000
  | .fminS d b q => 0x1A + d * 0x20 + b * 0x400 + q * 0x8000
  | .fmaxS d b q => 0x1C + d * 0x20 + b * 0x400 + q * 0x8000
  | .setlt d b => 0x1E + d * 0x20 + b * 0x400
  | .nop => 3
  | .guard c n s => 5 + c * 0x100 + n * 0x400000 + s * 0x1000000
  | .mov d b => 7 + d * 0x100 + b * 0x400000
  | .movi d imm => 0x09 + d * 0x100 + imm * 0x100000000
  | .addImm d a i => 0xB + d * 0x100 + a * 0x8000 + i * 0x400000
  | .part p => 0xD + p * 0x400000
  | .yield => 0xF
  | .exit => 0x11
  | .trap n => 0x13 + n * 0x400000
  | .brk n => 0x15 + n * 0x400000
  | .barSync n => 0x17 + n * 0x400000
  | .barArrive n => 0x4000017 + n * 0x400000
  | .bra c o => 0x19 + c * 0x100 + o * 0x8000
  | .braZ c o => 0x1B + c * 0x100 + o * 0x8000
  | .jmp c off => 0x1D + c * 0x100 + off * 0x100000000
  | .call c o => 0x1F + c * 0x100 + o * 0x8000
  | .jmpr a => 0x21 + a * 0x8000
  | .callr d a => 0x23 + d * 0x100 + a * 0x8000
  | .ret a => 0x25 + a * 0x8000
  | .sreg d i => 0x27 + d * 0x100 + i * 0x400000
  | .add d a b => 0x29 + d * 0x100 + a * 0x8000 + b * 0x400000
  | .sub d a b => 0x20000029 + d * 0x100 + a * 0x8000 + b * 0x400000
  | .addc d a b => 0x40000029 + d * 0x100 + a * 0x8000 + b * 0x400000
  | .subb d a b => 0x60000029 + d * 0x100 + a * 0x8000 + b * 0x400000
  | .neg d a => 0x80000029 + d * 0x100 + a * 0x8000
  | .abs d a => 0xA0000029 + d * 0x100 + a * 0x8000
  | .min d a b t => 0x2B + d * 0x100 + a * 0x8000 + b * 0x400000 + t * 0x20000000
  | .max d a b t => 0x4000002B + d * 0x100 + a * 0x8000 + b * 0x400000 + t * 0x20000000
  | .and d a b => 0x2D + d * 0x100 + a * 0x8000 + b * 0x400000
  | .or d a b => 0x2000002D + d * 0x100 + a * 0x8000 + b * 0x400000
  | .xor d a b => 0x4000002D + d * 0x100 + a * 0x8000 + b * 0x400000
  | .andn d a b => 0x6000002D + d * 0x100 + a * 0x8000 + b * 0x400000
  | .not d a => 0x8000002D + d * 0x100 + a * 0x8000
  | .shl d a b => 0x2F + d * 0x100 + a * 0x8000 + b * 0x400000
  | .shr d a b => 0x2000002F + d * 0x100 + a * 0x8000 + b * 0x400000
  | .sar d a b => 0x4000002F + d * 0x100 + a * 0x8000 + b * 0x400000
  | .rol d a b => 0x6000002F + d * 0x100 + a * 0x8000 + b * 0x400000
  | .ror d a b => 0x8000002F + d * 0x100 + a * 0x8000 + b * 0x400000
  | .shlImm d a c => 0x31 + d * 0x100 + a * 0x8000 + c * 0x400000
  | .shrImm d a c => 0x8000031 + d * 0x100 + a * 0x8000 + c * 0x400000
  | .sarImm d a c => 0x10000031 + d * 0x100 + a * 0x8000 + c * 0x400000
  | .rolImm d a c => 0x18000031 + d * 0x100 + a * 0x8000 + c * 0x400000
  | .rorImm d a c => 0x20000031 + d * 0x100 + a * 0x8000 + c * 0x400000
  | .mul24 d a b t h => 0x33 + d * 0x100 + a * 0x8000 + b * 0x400000 + t * 0x20000000 + h * 0x40000000
  | .mad24 d a b t h => 0x35 + d * 0x100 + a * 0x8000 + b * 0x400000 + t * 0x20000000 + h * 0x40000000
  | .mul32 d a b t h => 0x37 + d * 0x100 + a * 0x8000 + b * 0x400000 + t * 0x20000000 + h * 0x40000000
  | .mad32 d a b t h => 0x39 + d * 0x100 + a * 0x8000 + b * 0x400000 + t * 0x20000000 + h * 0x40000000
  | .div d a b t => 0x3B + d * 0x100 + a * 0x8000 + b * 0x400000 + t * 0x20000000
  | .rem d a b t => 0x4000003B + d * 0x100 + a * 0x8000 + b * 0x400000 + t * 0x20000000
  | .popc d a => 0x3D + d * 0x100 + a * 0x8000
  | .clz d a => 0x2000003D + d * 0x100 + a * 0x8000
  | .ctz d a => 0x4000003D + d * 0x100 + a * 0x8000
  | .brev d a => 0x6000003D + d * 0x100 + a * 0x8000
  | .bfeN32 d a n p => 0x3F + d * 0x100 + a * 0x8000 + p * 0x400000 + n * 0x8000000
  | .bfeS32 d a n p => 0x41 + d * 0x100 + a * 0x8000 + p * 0x400000 + n * 0x8000000
  | .bfi d a n p => 0x43 + d * 0x100 + a * 0x8000 + p * 0x400000 + n * 0x8000000
  | .bsel d a b => 0x45 + d * 0x100 + a * 0x8000 + b * 0x400000
  | .bgath d a b => 0x47 + d * 0x100 + a * 0x8000 + b * 0x400000
  | .lea d a b s => 0x49 + d * 0x100 + a * 0x8000 + b * 0x400000 + s * 0x20000000
  | .add64 d a b => 0x4B + d * 0x100 + a * 0x8000 + b * 0x400000
  | .sub64 d a b => 0x2000004B + d * 0x100 + a * 0x8000 + b * 0x400000
  | .shl64 d a b => 0x4D + d * 0x100 + a * 0x8000 + b * 0x400000
  | .shr64 d a b => 0x2000004D + d * 0x100 + a * 0x8000 + b * 0x400000
  | .cmpS32 d a b c => 0x4F + d * 0x100 + a * 0x8000 + b * 0x400000 + c * 0x20000000
  | .cmpN32 d a b c => 0x51 + d * 0x100 + a * 0x8000 + b * 0x400000 + c * 0x20000000
  | .sel d a b => 0x53 + d * 0x100 + a * 0x8000 + b * 0x400000
  | .fadd d a b m q => 0x61 + d * 0x100 + a * 0x8000 + b * 0x400000 + m * 0x20000000 + q * 0x80000000
  | .fsub d a b m q => 0x63 + d * 0x100 + a * 0x8000 + b * 0x400000 + m * 0x20000000 + q * 0x80000000
  | .fmul d a b m q => 0x65 + d * 0x100 + a * 0x8000 + b * 0x400000 + m * 0x20000000 + q * 0x80000000
  | .ffma d a b m q => 0x67 + d * 0x100 + a * 0x8000 + b * 0x400000 + m * 0x20000000 + q * 0x80000000
  | .ffma3 d a b c m q => 0x69 + d * 0x100 + a * 0x8000 + b * 0x400000 + m * 0x20000000 + q * 0x80000000 + c * 0x100000000
  | .fmin d a b q => 0x6B + d * 0x100 + a * 0x8000 + b * 0x400000 + q * 0x80000000
  | .fmax d a b q => 0x2000006B + d * 0x100 + a * 0x8000 + b * 0x400000 + q * 0x80000000
  | .fminn d a b q => 0x4000006B + d * 0x100 + a * 0x8000 + b * 0x400000 + q * 0x80000000
  | .fmaxn d a b q => 0x6000006B + d * 0x100 + a * 0x8000 + b * 0x400000 + q * 0x80000000
  | .fabs d a q => 0x6D + d * 0x100 + a * 0x8000 + q * 0x80000000
  | .fneg d a q => 0x2000006D + d * 0x100 + a * 0x8000 + q * 0x80000000
  | .fcmpEq d a b q => 0x6F + d * 0x100 + a * 0x8000 + b * 0x400000 + q * 0x80000000
  | .fcmpLt d a b q => 0x2000006F + d * 0x100 + a * 0x8000 + b * 0x400000 + q * 0x80000000
  | .fcmpLe d a b q => 0x4000006F + d * 0x100 + a * 0x8000 + b * 0x400000 + q * 0x80000000
  | .fcmpUn d a b q => 0x6000006F + d * 0x100 + a * 0x8000 + b * 0x400000 + q * 0x80000000
  | .fcmpNe d a b q => 0x71 + d * 0x100 + a * 0x8000 + b * 0x400000 + q * 0x80000000
  | .fcmpGt d a b q => 0x20000071 + d * 0x100 + a * 0x8000 + b * 0x400000 + q * 0x80000000
  | .fcmpGe d a b q => 0x40000071 + d * 0x100 + a * 0x8000 + b * 0x400000 + q * 0x80000000
  | .fcmpOrd d a b q => 0x60000071 + d * 0x100 + a * 0x8000 + b * 0x400000 + q * 0x80000000
  | .fclass d a q => 0x73 + d * 0x100 + a * 0x8000 + q * 0x80000000
  | .fdiv d a b m q => 0x75 + d * 0x100 + a * 0x8000 + b * 0x400000 + m * 0x20000000 + q * 0x80000000
  | .fsqrt d a m q => 0x77 + d * 0x100 + a * 0x8000 + m * 0x20000000 + q * 0x80000000
  | .frcp d a l q => 0x79 + d * 0x100 + a * 0x8000 + l * 0x400000 + q * 0x80000000
  | .frsq d a l q => 0x4000079 + d * 0x100 + a * 0x8000 + l * 0x400000 + q * 0x80000000
  | .fexp2 d a l q => 0x8000079 + d * 0x100 + a * 0x8000 + l * 0x400000 + q * 0x80000000
  | .flog2 d a l q => 0xC000079 + d * 0x100 + a * 0x8000 + l * 0x400000 + q * 0x80000000
  | .fsin d a l q => 0x10000079 + d * 0x100 + a * 0x8000 + l * 0x400000 + q * 0x80000000
  | .fcos d a l q => 0x14000079 + d * 0x100 + a * 0x8000 + l * 0x400000 + q * 0x80000000
  | .frnd d a m q => 0x7B + d * 0x100 + a * 0x8000 + m * 0x20000000 + q * 0x80000000
  | .fldexp d a b m q => 0x7D + d * 0x100 + a * 0x8000 + b * 0x400000 + m * 0x20000000 + q * 0x80000000
  | .cvt d a b sf df m sat q => 0x7F + d * 0x100 + a * 0x8000 + b * 0x400000 + q * 0x80000000 + sf * 0x100000000 + df * 0x1000000000 + m * 0x10000000000 + sat * 0x80000000000
  | .hadd2F16 d a b q => 0x81 + d * 0x100 + a * 0x8000 + b * 0x400000 + q * 0x80000000
  | .hsub2F16 d a b q => 0x20000081 + d * 0x100 + a * 0x8000 + b * 0x400000 + q * 0x80000000
  | .hmul2F16 d a b q => 0x40000081 + d * 0x100 + a * 0x8000 + b * 0x400000 + q * 0x80000000
  | .hfma2F16 d a b q => 0x60000081 + d * 0x100 + a * 0x8000 + b * 0x400000 + q * 0x80000000
  | .hadd2Bf16 d a b q => 0x83 + d * 0x100 + a * 0x8000 + b * 0x400000 + q * 0x80000000
  | .hsub2Bf16 d a b q => 0x20000083 + d * 0x100 + a * 0x8000 + b * 0x400000 + q * 0x80000000
  | .hmul2Bf16 d a b q => 0x40000083 + d * 0x100 + a * 0x8000 + b * 0x400000 + q * 0x80000000
  | .hfma2Bf16 d a b q => 0x60000083 + d * 0x100 + a * 0x8000 + b * 0x400000 + q * 0x80000000
  | .hmin2 d a b t q => 0x85 + d * 0x100 + a * 0x8000 + b * 0x400000 + t * 0x40000000 + q * 0x80000000
  | .hmax2 d a b t q => 0x20000085 + d * 0x100 + a * 0x8000 + b * 0x400000 + t * 0x40000000 + q * 0x80000000
  | .packH2 d a b => 0x87 + d * 0x100 + a * 0x8000 + b * 0x400000
  | .packB4 d a => 0x20000087 + d * 0x100 + a * 0x8000
  | .packE2m1x8 d a => 0x40000087 + d * 0x100 + a * 0x8000
  | .unpackH2 d a => 0x89 + d * 0x100 + a * 0x8000
  | .unpackB4 d a => 0x20000089 + d * 0x100 + a * 0x8000
  | .unpackE2m1x8 d a => 0x40000089 + d * 0x100 + a * 0x8000
  | .flagr d => 0x8B + d * 0x100
  | .flagrWave d => 0x2000008B + d * 0x100
  | .flagc => 0x8D
  | .vote d a => 0x91 + d * 0x100 + a * 0x8000
  | .ballot d a => 0x93 + d * 0x100 + a * 0x8000
  | .shflAt d a b => 0x95 + d * 0x100 + a * 0x8000 + b * 0x400000
  | .shflRot d a b => 0x20000095 + d * 0x100 + a * 0x8000 + b * 0x400000
  | .shflXor d a b => 0x40000095 + d * 0x100 + a * 0x8000 + b * 0x400000
  | .shflAtImm d a x => 0x97 + d * 0x100 + a * 0x8000 + x * 0x400000
  | .shflRotImm d a x => 0x8000097 + d * 0x100 + a * 0x8000 + x * 0x400000
  | .shflXorImm d a x => 0x10000097 + d * 0x100 + a * 0x8000 + x * 0x400000
  | .shflRev d a => 0x18000097 + d * 0x100 + a * 0x8000
  | .quad d a s => 0x99 + d * 0x100 + a * 0x8000 + s * 0x400000
  | .red d a o => 0x9B + d * 0x100 + a * 0x8000 + o * 0x20000000
  | .redF32 d a o q => 0x9D + d * 0x100 + a * 0x8000 + o * 0x20000000 + q * 0x80000000
  | .scanInc d a o => 0x9F + d * 0x100 + a * 0x8000 + o * 0x20000000
  | .scanExc d a o => 0xA1 + d * 0x100 + a * 0x8000 + o * 0x20000000
  | .matchB32 d a => 0xA3 + d * 0x100 + a * 0x8000
  | .matchB64 d a => 0x200000A3 + d * 0x100 + a * 0x8000
  | .elect d => 0xA5 + d * 0x100
  | .ld d a x w l => 0xB1 + d * 0x100 + a * 0x8000 + l * 0x400000 + w * 0x4000000 + x * 0x20000000
  | .ldAcq d a s w l => 0xB3 + d * 0x100 + a * 0x8000 + l * 0x400000 + w * 0x4000000 + s * 0x20000000
  | .st d a w l => 0xB5 + d * 0x100 + a * 0x8000 + l * 0x400000 + w * 0x4000000
  | .stRel d a s w l => 0xB7 + d * 0x100 + a * 0x8000 + l * 0x400000 + w * 0x4000000 + s * 0x20000000
  | .lds d a x w l => 0xB9 + d * 0x100 + a * 0x8000 + l * 0x400000 + w * 0x4000000 + x * 0x20000000
  | .ldsAcq d a s w l => 0xBB + d * 0x100 + a * 0x8000 + l * 0x400000 + w * 0x4000000 + s * 0x20000000
  | .sts d a w l => 0xBD + d * 0x100 + a * 0x8000 + l * 0x400000 + w * 0x4000000
  | .stsRel d a s w l => 0xBF + d * 0x100 + a * 0x8000 + l * 0x400000 + w * 0x4000000 + s * 0x20000000
  | .atom d a b c op kind scope use f w l => 0xC1 + d * 0x100 + a * 0x8000 + l * 0x400000 + w * 0x4000000 + f * 0x20000000 + op * 0x100000000 + kind * 0x1000000000 + scope * 0x8000000000 + use * 0x40000000000 + b * 0x100000000000 + c * 0x8000000000000
  | .atoms d a b c op kind scope use f w l => 0xC3 + d * 0x100 + a * 0x8000 + l * 0x400000 + w * 0x4000000 + f * 0x20000000 + op * 0x100000000 + kind * 0x1000000000 + scope * 0x8000000000 + use * 0x40000000000 + b * 0x100000000000 + c * 0x8000000000000
  | .ratom a b op tb f w l => 0xC5 + a * 0x8000 + l * 0x400000 + w * 0x4000000 + f * 0x20000000 + op * 0x100000000 + b * 0x1000000000 + tb * 0x80000000000
  | .prefetchL1 a l => 0xC7 + a * 0x8000 + l * 0x400000
  | .prefetchCm a l => 0x200000C7 + a * 0x8000 + l * 0x400000
  | .fenceAcq s => 0xC9 + s * 0x400000
  | .fenceRel s => 0x20000C9 + s * 0x400000
  | .fenceFull s => 0x40000C9 + s * 0x400000
  | .tfence => 0xCB
  | .inval => 0xCD
  | .mcfg a l => 0xD1 + a * 0x8000 + l * 0x400000
  | .gang a => 0xD3 + a * 0x8000
  | .mmaE2m1 d a t r l => 0xD5 + d * 0x100 + a * 0x8000 + l * 0x400000 + t * 0x4000000 + r * 0x10000000
  | .mmaE4m3 d a s t r l => 0xD7 + d * 0x100 + a * 0x8000 + l * 0x400000 + t * 0x4000000 + r * 0x10000000 + s * 0x20000000
  | .mmaE5m2 d a s t r l => 0xD9 + d * 0x100 + a * 0x8000 + l * 0x400000 + t * 0x4000000 + r * 0x10000000 + s * 0x20000000
  | .mmaS8 d t r l => 0xDB + d * 0x100 + l * 0x400000 + t * 0x4000000 + r * 0x10000000
  | .mmaBf16 d t r l => 0xDD + d * 0x100 + l * 0x400000 + t * 0x4000000 + r * 0x10000000
  | .mmaF16 d t r l => 0xDF + d * 0x100 + l * 0x400000 + t * 0x4000000 + r * 0x10000000
  | .mzero t l => 0xE1 + l * 0x400000 + t * 0x4000000
  | .mrd d a t l => 0x100000E1 + d * 0x100 + a * 0x8000 + l * 0x400000 + t * 0x4000000
  | .mwr d a t l => 0x200000E1 + d * 0x100 + a * 0x8000 + l * 0x400000 + t * 0x4000000
  | .mscale a t l => 0x300000E1 + a * 0x8000 + l * 0x400000 + t * 0x4000000
  | .rgnSet d a l => 0xE3 + d * 0x100 + a * 0x8000 + l * 0x400000
  | .rgnPre a l => 0x40000E3 + a * 0x8000 + l * 0x400000
  | .rgnFlush a l => 0x80000E3 + a * 0x8000 + l * 0x400000
  | .rgnDrop a l => 0xC0000E3 + a * 0x8000 + l * 0x400000
  | .rgnStat d a l => 0x100000E3 + d * 0x100 + a * 0x8000 + l * 0x400000
  | .tbarInit a l => 0xE5 + a * 0x8000 + l * 0x400000
  | .tbarArrive a l => 0x40000E5 + a * 0x8000 + l * 0x400000
  | .tbarWait a l => 0x80000E5 + a * 0x8000 + l * 0x400000
  | .tbarTest d a l => 0xC0000E5 + d * 0x100 + a * 0x8000 + l * 0x400000
  | .tbarRead d a l => 0x100000E5 + d * 0x100 + a * 0x8000 + l * 0x400000
  | .chain a l => 0xE7 + a * 0x8000 + l * 0x400000
  | .rcap d b n l => 0xE9 + d * 0x100 + b * 0x8000 + l * 0x400000 + n * 0x10000000
  | .rcapL d b n l => 0x40000E9 + d * 0x100 + b * 0x8000 + l * 0x400000 + n * 0x10000000
  | .arm d n l => 0x80000E9 + d * 0x100 + l * 0x400000 + n * 0x10000000
  | .sendstat d c l => 0xC0000E9 + d * 0x100 + l * 0x400000 + c * 0x80000000
  | .sendW d a k s r l => 0xEB + d * 0x100 + a * 0x8000 + l * 0x400000 + r * 0x8000000 + k * 0x100000000 + s * 0x800000000
  | .sendL d a k s r l => 0x40000EB + d * 0x100 + a * 0x8000 + l * 0x400000 + r * 0x8000000 + k * 0x100000000 + s * 0x800000000
  | .qput d a l => 0xED + d * 0x100 + a * 0x8000 + l * 0x400000
  | .ntfRead d a l => 0xEF + d * 0x100 + a * 0x8000 + l * 0x400000
  | .ntfWait d a => 0x40000EF + d * 0x100 + a * 0x8000
  | .ntfWrite d a l => 0x80000EF + d * 0x100 + a * 0x8000 + l * 0x400000
  | .sqProp d a l => 0xF1 + d * 0x100 + a * 0x8000 + l * 0x400000
  | .sqVerify d a l => 0x40000F1 + d * 0x100 + a * 0x8000 + l * 0x400000
  | .sqCommit d a => 0x80000F1 + d * 0x100 + a * 0x8000
  | .sqCommitD d a => 0xC0000F1 + d * 0x100 + a * 0x8000
  | .sqNext d a l => 0x100000F1 + d * 0x100 + a * 0x8000 + l * 0x400000
  | .sqWatch d a l => 0x140000F1 + d * 0x100 + a * 0x8000 + l * 0x400000
  | .sqRead d a l => 0x180000F1 + d * 0x100 + a * 0x8000 + l * 0x400000
  | .sqCtlOpen d l => 0x1C0000F1 + d * 0x100 + l * 0x400000
  | .sqCtlClose d a l => 0x3C0000F1 + d * 0x100 + a * 0x8000 + l * 0x400000
  | .sqCtlResume d a l => 0x5C0000F1 + d * 0x100 + a * 0x8000 + l * 0x400000
  | .sqCtlSetclass d a l => 0x7C0000F1 + d * 0x100 + a * 0x8000 + l * 0x400000
  | .sqCtlSetmask d a l => 0x9C0000F1 + d * 0x100 + a * 0x8000 + l * 0x400000
  | .sqCtlSetcnt d a l => 0xBC0000F1 + d * 0x100 + a * 0x8000 + l * 0x400000
  | .sqCtlClrdraft d a l => 0xDC0000F1 + d * 0x100 + a * 0x8000 + l * 0x400000
  | .sqCtlClrfq d a l => 0xFC0000F1 + d * 0x100 + a * 0x8000 + l * 0x400000
  | .sysr d n => 0xF3 + d * 0x100 + n * 0x400000
  | .sysw a n => 0xF5 + a * 0x8000 + n * 0x400000
  | .eret => 0xF7
  | .halt => 0x200000F7
  | .wfe => 0x400000F7
  | .tlbinvPage a => 0xF9 + a * 0x8000
  | .tlbinvPart a => 0x200000F9 + a * 0x8000
  | .tlbinvAll => 0x400000F9
  | _ => 0

/-- The bytes of a well-formed instruction in memory order (R207). -/
def encodeBytes (i : Instr) : List Byte := wordBytes (i.length) (encode i)

end Sys2Proof
end

