-- ==== Sys2Proof/Machine/SMap.lean ====
section
/-! DEFINITION. SMap.lean: finite maps held as plain lists of (key, value) pairs in one canonical form:
keys strictly rising, one entry a key. A map with a default value lists no entry equal to the default, so
that equal maps are equal lists. Memory, register files and every table of the machine are such maps. -/
namespace Sys2Proof.Machine.SMap

variable {α : Type}

/-- The value listed for key k, if any. -/
def find? : List (Nat × α) → Nat → Option α
  | [], _ => none
  | (j, v) :: m, k => if j = k then some v else find? m k

/-- The map with key k listed as v. -/
def insert : List (Nat × α) → Nat → α → List (Nat × α)
  | [], k, v => [(k, v)]
  | (j, w) :: m, k, v =>
    if k < j then (k, v) :: (j, w) :: m
    else if j = k then (k, v) :: m
    else (j, w) :: insert m k v

/-- The map without key k. -/
def erase : List (Nat × α) → Nat → List (Nat × α)
  | [], _ => []
  | (j, w) :: m, k => if j = k then erase m k else (j, w) :: erase m k

/-- The value of key k in a map whose unlisted keys have the value d. -/
def get (d : α) (m : List (Nat × α)) (k : Nat) : α := (find? m k).getD d

/-- Sets key k to v in a map whose unlisted keys have the value d. -/
def set [DecidableEq α] (d : α) (m : List (Nat × α)) (k : Nat) (v : α) : List (Nat × α) :=
  if v = d then erase m k else insert m k v

/-- Applies f to the value listed for key k; an unlisted key stays unlisted. -/
def modify (m : List (Nat × α)) (k : Nat) (f : α → α) : List (Nat × α) :=
  match find? m k with
  | some v => insert m k (f v)
  | none => m

/-- Applies f to every listed value. -/
def mapVals (m : List (Nat × α)) (f : Nat → α → α) : List (Nat × α) :=
  m.map fun (k, v) => (k, f k v)

/-- The listed keys, rising. -/
def keys (m : List (Nat × α)) : List Nat := m.map (·.1)

/-- The keys of m are strictly rising and none is below lo. -/
def sortedFrom : Nat → List (Nat × α) → Bool
  | _, [] => true
  | lo, (k, _) :: m => decide (lo ≤ k) && sortedFrom (k + 1) m

/-- The canonical form of a map whose unlisted keys have the value d. -/
def wf [DecidableEq α] (d : α) (m : List (Nat × α)) : Bool :=
  sortedFrom 0 m && m.all fun (_, v) => decide (v ≠ d)

end Sys2Proof.Machine.SMap
end

