-- ==== Sys2Proof/Machine/State.lean ====
section
/-! DEFINITION. State.lean: everything the spec gives the machine, as plain data, and the state after reset. -/
namespace Sys2Proof.Machine

/-! ### Lanes, waves and contexts -/

/-- A lane that is not absent is present or a helper (R39). Absent lanes are not listed. -/
inductive LaneKind where
  | present
  | helper
  deriving DecidableEq, Repr

/-- Where a lane waits (R41, PARK and PBAR of R406). -/
inductive Park where
  | none
  | bar (n : Nat)
  | tbar (i : Nat)
  | ntf (n : Nat)
  | wfe
  deriving DecidableEq, Repr

/-- Whose parked state waits for a second arrival: the lane's, the one kept at handler entry, or, after an eret, none. -/
inductive Waits where
  | lane
  | kept
  | none
  deriving DecidableEq, Repr

/-- An arrival of a lane at a named barrier in whose phase it has arrived already: it is applied to a later phase (R292). Its barrier,
whether it is of bar.sync, and what waits for it. -/
structure Owed where
  bar : Nat
  sync : Bool
  waits : Waits
  deriving DecidableEq, Repr

/-- The guard and parked state a lane keeps while its wave is in handler mode (R399). -/
structure Kept where
  gcount : Nat
  gpred : Bool
  park : Park
  deriving DecidableEq, Repr

/-- One lane (R36, R43, R63, R218, R406). -/
structure Lane where
  kind : LaneKind
  pc : Dword
  exited : Bool
  park : Park
  /-- arrivals still to be applied, oldest first -/
  owed : List Owed
  gcount : Nat
  gpred : Bool
  kept : Kept
  age : Nat
  ageAddr : Dword
  deferred : Bool
  lsw : Word
  epc : Dword
  ovrec : Dword
  /-- widest scope code plus one of the release and full fences the lane has executed; 0 for none (R102, R113) -/
  fenced : Nat
  deriving DecidableEq, Repr

/-- A fault or trap with the record of R437: class, DETAIL, LANE, TMASK and TVAL. -/
structure Trap where
  cls : Nat
  detail : Nat
  lane : Nat
  mask : Nat
  tval : Nat
  deriving DecidableEq, Repr

/-- An open lookahead window (R60, R61): the instruction's number, its count L, the bundles issued since,
the registers it writes and its active set. -/
structure Window where
  id : Nat
  span : Nat
  pos : Nat
  regs : List Nat
  lanes : List Nat
  deriving DecidableEq, Repr

/-- An issued bundle: the instruction at the lowest PC, for its run (R41). -/
structure Bundle where
  ctx : Nat
  wave : Nat
  pc : Dword
  run : List Nat
  instr : Instr
  raw : Nat
  deriving DecidableEq, Repr

/-- An mma waiting at the rendezvous latch (R325): its bundle, its active set and its fields. -/
structure Rend where
  bundle : Bundle
  act : List Nat
  fmt : Nat
  tile : Nat
  reuse : Bool
  d : Nat
  a : Nat
  bs : Nat
  deriving DecidableEq, Repr

/-- One wave of a context (R21, R36, R46, R132, R140, R324, R396, R406). -/
structure Wave where
  slot : Nat
  lanes : List (Nat × Lane)
  /-- register r of lane l at key 32 r + l; an unlisted register holds 0 -/
  regs : List (Nat × Word)
  /-- pending bits of register r at key r, bit l for lane l -/
  pend : List (Nat × Word)
  /-- scope plus one of a send.rel arrival not yet read, at key 32 r + l (R125) -/
  acq : List (Nat × Nat)
  part : Nat
  gang : Nat
  hmode : Bool
  event : Bool
  sqtrap : Bool
  tcause : Word
  tmask : Word
  tval : Dword
  /-- the five send-status counters by index (R140) -/
  sends : List (Nat × Nat)
  windows : List Window
  rend : Option Rend
  trap : Option Trap
  retired : Bool
  /-- breakpoint units, each with the address of the bundle that they do not match once it issues after CONTINUE (R472) -/
  skip : List (Nat × Dword)
  /-- the wave's next bundle has an access that waits for a walk: a drain waits for it (R445) -/
  walk : Bool
  deriving DecidableEq, Repr

/-- States of a region entry (R82, codes of R336). -/
inductive RState where
  | unbound
  | absent
  | filling
  | present
  | dirty
  deriving DecidableEq, Repr

/-- A region table entry (R74): state, bound descriptor, box origin and the copy in flight. -/
structure Region where
  state : RState
  desc : Nat
  origin : List Int
  copy : Option Nat
  deriving DecidableEq, Repr

/-- A range-lock table entry (R90): the operation holding it, the context whose allocation it covers, SPACE, KIND,
START and LAST. -/
structure Lock where
  op : Nat
  ctx : Nat
  commons : Bool
  kind : Nat
  start : Nat
  last : Nat
  deriving DecidableEq, Repr

/-- Flags and cursor of an accumulator tile (R318). -/
structure Tile where
  kcur : Nat
  dirty : Bool
  inuse : Bool
  deriving DecidableEq, Repr

/-- An operation in the matrix pipeline (R319). -/
inductive MatOp where
  /-- an mma on a tile: M, N, K-blocks, format; the rows of A, the columns of B and their block scales, each packed with
  element 0 lowest -/
  | mma (tile : Nat) (m n nb fmt : Nat) (a b sa sb : List (Nat × Nat))
  | mzero (tile : Nat)
  /-- the operation it returns to, its first register, and by lane the first element, or none for a zero result -/
  | mrd (tile id d : Nat) (lanes : List (Nat × Option Nat))
  /-- values by element -/
  | mwr (tile : Nat) (vals : List (Nat × Word))
  | mscale (tile a0 a1 b : Nat)
  deriving DecidableEq, Repr

/-- The reuse latch (R330): the gang, the register numbers of each wave and the values held. -/
structure Latch where
  gang : Nat
  regs : List (Nat × Nat × Nat)
  vals : List (Nat × Word)
  deriving DecidableEq, Repr

/-- The matrix unit of a block (R318). Accumulator element (i, j) of tile t is at key 6144 t + 64 i + j. -/
structure Matrix where
  loaded : Bool
  cfg : Nat
  acc : List (Nat × Word)
  tiles : List (Nat × Tile)
  latch : Option Latch
  pipe : List MatOp
  deriving DecidableEq, Repr

/-- States of a context (R398). -/
inductive CState where
  | free
  | resident
  | saving
  | saved
  | restoring
  | halted
  | retiring
  | stopped
  deriving DecidableEq, Repr

/-- Why a drain runs: the state it ends in (R405, R469). -/
inductive Goal where
  | none
  | saved
  | halted
  | stopped
  deriving DecidableEq, Repr

/-- The stop record of R470. -/
structure StopRec where
  cause : Nat
  unit : Nat
  lane : Nat
  wave : Nat
  addr : Nat
  deriving DecidableEq, Repr

/-- One block's context: its table entry (R397) and the state of the block (R406). -/
structure Ctx where
  state : CState
  goal : Goal
  /-- halted on its core because the save pool is full (R405), or retiring from its core -/
  onCore : Bool
  part : Nat
  ptag : Nat
  queue : Nat
  /-- number of the launch, linear index of the span in it, and of the block in the span (R36, R51) -/
  launch : Nat
  span : Nat
  index : Nat
  descAddr : Dword
  desc : Nat
  tvec : Dword
  tscr : Dword
  lx : Nat
  ly : Nat
  lz : Nat
  /-- fabric name: die, core within die, generation, and each wave's first slot (R128) -/
  fdie : Nat
  fcore : Nat
  fgen : Nat
  fslots : List (Nat × Nat)
  /-- current placement (PLACE of R397) -/
  die : Nat
  core : Nat
  savea : Nat
  pinned : Bool
  dbgen : Bool
  priv : Bool
  busy : Bool
  feat : Nat
  waves : List (Nat × Wave)
  regions : List (Nat × Region)
  /-- tids that have arrived at a named barrier in its current phase, at key 512 n + tid (R55, R406) -/
  nbar : List (Nat × Bool)
  mat : Matrix
  /-- clock at which the present residency began, and the cycles of the earlier ones (R420) -/
  since : Nat
  cycles : Nat
  /-- INDEX of the LAUNCH packet in its queue (R470) -/
  lindex : Nat
  /-- the last 16 insertions by qput, latest first: queue, INDEX and TAG (R470) -/
  inserts : List (Nat × Nat × Nat)
  stop : StopRec
  deriving DecidableEq, Repr

/-- One core (R21, R48, R68, R90, R128, R479). -/
structure Core where
  gen : Nat
  carve : Nat
  /-- wave slot last issued by each issue slot, plus one; 0 before the first issue (R48) -/
  last : List (Nat × Nat)
  /-- wave slots whose wave could not issue since their issue slot last issued or found none that could (R42, R48) -/
  held : List Nat
  locks : List (Nat × Lock)
  /-- lane-cycle counters: bins of active lanes by issue slot, IDLE and CYC (R479) -/
  counts : List (Nat × Nat)
  sample : Nat
  /-- the issue slot whose bundle of this cycle is sampled, and the partition that samples it (R478) -/
  want : Option (Nat × Nat)
  deriving DecidableEq, Repr

/-! ### Work in flight -/

/-- One lane's step of an atomic (R309): lane, memory key, operand, compare value, and whether the add is merged at
the issuing die's agent (R455). -/
structure AStep where
  lane : Nat
  key : Nat
  x : Nat
  c : Nat
  comm : Bool
  deriving DecidableEq, Repr

/-- What an operation in flight will do (R60, R62, R88, R314, R362). -/
inductive OpKind where
  /-- a load: first register, bytes, sign extension, the values read by lane, the lanes' scratchpad offsets still
  waiting for sectors of a filling window (R83, R304), the lanes and memory keys of what is performed only when the data return (R100),
  and the scope of an acquire that is -/
  | load (d n : Nat) (ext : Bool) (vals waits todo : List (Nat × Nat)) (acq : Option Nat)
  /-- a store not yet acknowledged by its homes (R105): its bytes per lane, the scope of a release, and the lanes, memory keys and
  values of what is not yet performed, in ascending lane order (R100) -/
  | store (n : Nat) (rel : Option Nat) (todo : List (Nat × Nat × Nat))
  /-- an atomic of use `.unpaired` or `.comm` not yet performed (R111): operation, type, bytes, first register, whether it
  returns a value, its steps in ascending lane order (R309), and the values found by lane -/
  | atomic (op f n d : Nat) (ret : Bool) (steps : List AStep) (vals : List (Nat × Nat))
  /-- register results at keys 32 r + l, with the flags to set by lane (R198, R268) -/
  | result (writes : List (Nat × Word)) (flags : List (Nat × Nat))
  /-- Vesper's reply: register results at keys 32 r + l (R362) -/
  | reply (writes : List (Nat × Word))
  /-- qput: the lanes' queue numbers and packet images (R351) -/
  | insertion (d : Nat) (steps : List (Nat × Nat × Nat))
  /-- a region copy (R79 to R84): entry, direction, drop, descriptor, origin, sectors done, multicast targets, those landed, and, where
  BASE is another package's, the link that its flits take plus one (R498), else 0 -/
  | copy (entry : Nat) (out drop : Bool) (desc : Nat) (origin : List Int) (done : List (Nat × Bool))
      (targets landed : List Nat) (link : Nat)
  /-- a remote atomic: operation, type, bytes, barrier index, steps by lane not yet performed here, and the lanes not yet
  acknowledged, each with the link that its flit took plus one, 0 for the own package (R312, R498) -/
  | ratom (op f n tb : Nat) (steps : List (Nat × Nat × Nat)) (todo : List (Nat × Nat))
  /-- a chain: its descriptor and whether it has started (R340, R344) -/
  | chain (desc : Nat) (started : Bool)
  /-- a lane write: capability, offset, target lane, value, sender's tag, lane and fabric name, scope plus one of a
  send.rel, its outcome plus one (R134, R135, R140), and the link that it took plus one, or 0 (R145, R498) -/
  | laneWrite (cap k lane : Nat) (value : Word) (tag slane : Nat) (name rel outcome link : Nat)
  /-- a fence of kind 0 acquire, 1 release, 2 full, waiting for the numbered operations (R314) -/
  | fence (kind scope : Nat) (waits : List Nat)
  /-- a tfence waiting for the numbered operations (R122) -/
  | tfence (waits : List Nat)
  /-- a tlbinv waiting for the numbered operations: form 0 page, 1 partition, 2 all; partition and virtual address (R404) -/
  | tlbinv (form part va : Nat) (waits : List Nat)
  /-- an accumulator read waiting in the matrix pipeline (R331) -/
  | mrd
  deriving DecidableEq, Repr

/-- An operation in flight: the context, wave and lanes that issued it, and what it will do. -/
structure Op where
  ctx : Nat
  wave : Nat
  lanes : List Nat
  kind : OpKind
  deriving DecidableEq, Repr

/-- A cached translation (R434): the cache that holds it (a core's by its number, a cluster's from 4096 on, the hub's 8192),
partition, or partition tag in the hub's cache, space, page, level and leaf entry. -/
structure Xlat where
  cache : Nat
  part : Nat
  tensor : Bool
  page : Nat
  lvl : Nat
  leaf : Nat
  deriving DecidableEq, Repr

/-- A pointer entry that the walkers of a die have cached (R434): die, or 4 for the walks made for other packages, partition or
tag, space, the level of the table it leads to, the virtual offset over that table's span, and the table. -/
structure Pointer where
  die : Nat
  part : Nat
  tensor : Bool
  lvl : Nat
  area : Nat
  table : Nat
  deriving DecidableEq, Repr

/-- A synchronisation record (R113): the releaser, its scope and the chained bit. -/
structure Rec where
  pkg : Nat
  die : Nat
  ctx : Nat
  wave : Nat
  lane : Nat
  launch : Nat
  span : Nat
  block : Nat
  scope : Nat
  chained : Bool
  deriving DecidableEq, Repr

/-- A core at reset: generation 0 and no lock (R90, R128); carve-out 0, round robin before its first slot,
counters 0 (log 7), no sample due. -/
def Core.reset : Core := ⟨0, 0, [], [], [], [], 0, none⟩

/-! ### Control-space coherence (R446 to R463) -/

/-- States of a cached copy; a copy in I is not listed (R449, R450). -/
inductive Coh where
  | s
  | e
  | o
  | m
  | c
  deriving DecidableEq, Repr

/-- The partial of one element in a C copy (R456): the adds merged, their sum (for f32 in units of 2^-149), and
whether a NaN, +infinity or -infinity was among them. -/
structure Partial where
  count : Nat
  sum : Int
  nan : Bool
  pinf : Bool
  ninf : Bool
  deriving DecidableEq, Repr

/-- A cached copy of a control line with its tag (R449); PREV, NEXT, HEADF and TAILF are its place in the list. -/
structure Copy where
  agent : Nat
  state : Coh
  reread : Bool
  pwriter : Nat
  used : Bool
  cfmt : Nat
  /-- 128 bytes, low byte first -/
  data : Nat
  /-- partials by element, in state C -/
  parts : List (Nat × Partial)
  deriving DecidableEq, Repr

/-- The list and directory entry of a control line (R448): its copies from HEAD to tail, and PCC. -/
structure CLine where
  members : List Copy
  pcc : Nat
  deriving DecidableEq, Repr

/-- A request that waits for a home, a link or a rebuild (R444, R494, R500): the home or package it waits for, the control
line that it keeps busy plus one, or 0 (R451), whether it stands on the agenda again, the event and its operands, and whether that
event is being performed. -/
structure Waiting where
  home : Nat
  line : Nat
  posted : Bool
  event : Instr
  args : List Nat
  turn : Bool
  deriving DecidableEq, Repr

/-- A slice rebuild in progress (R462): the package whose declaration began it, the agents whose report is awaited, the data of the lines reported valid, and the
partials reported. -/
structure Rebuild where
  pkg : Nat
  left : List Nat
  data : List (Nat × Nat)
  parts : List (Nat × List Copy)
  deriving DecidableEq, Repr

/-! ### Queues, launches and collectives -/

/-- An occupied ring entry (R409): INDEX of its packet, its place in the ring, packet image and whether the packet has begun. -/
structure Entry where
  index : Nat
  slot : Nat
  image : Nat
  begun : Bool
  deriving DecidableEq, Repr

/-- A queue's state beside its registers (R409 to R422): occupied entries, oldest first, deficit in core-cycles,
PAUSE or EVICT applied, suspension, and the accrual of one epoch in sixteenths of a core-cycle, with its cap event. -/
structure Queue where
  entries : List Entry
  deficit : Int
  paused : Bool
  suspended : Bool
  epoch : Nat
  accrual : Nat
  capped : Bool
  deriving DecidableEq, Repr

/-- A queue at reset. -/
def Queue.reset : Queue := ⟨[], 0, false, false, 0, 0, false⟩

/-- A begun LAUNCH (R357, R417): its queue and INDEX, packet, descriptor, the next span and the number of spans, its
rejection code (R415, R412), or 0, the partition of its queue when it began, and whether its packet has completed while its
completion word still waits for a home (R357). -/
structure Launch where
  queue : Nat
  index : Nat
  image : Nat
  desc : Nat
  next : Nat
  spans : Nat
  code : Nat
  part : Nat
  done : Bool
  deriving DecidableEq, Repr

/-- A begun COLLECTIVE of one rank (R168 to R180): its queue and INDEX, group, rank and number of ranks, which of the group's
collectives it is, its parameter block, the blocks of the ranks known to have begun, the inputs staged and the bytes of them
by rank, the suspended ranks (twice the rank, plus one for a completion target), the clock of the suspension, the links whose
slots it holds, and the code once it has failed. -/
structure Coll where
  queue : Nat
  index : Nat
  group : Nat
  rank : Nat
  nranks : Nat
  inst : Nat
  block : Nat
  blocks : List (Nat × Nat)
  /-- expert-to-rank map: rank and local index of each expert; of a COMBINE, the rank's local experts -/
  experts : List (Nat × Nat)
  /-- expansion (R172): 0 direct, 1 ring, 2 tree, 3 halving-doubling -/
  alg : Nat
  /-- of an expansion of R172: the step in progress; whether its chunk has left, and how many bytes of it have; what has come with
  it; and of each Nth of the piece the ranks of whose contributions the rank's partial is made, none before the first step -/
  step : Nat
  left : Bool
  sent : Nat
  inbox : Option (List (Nat × List Nat))
  parts : List (Nat × List Nat)
  /-- byte i of rank k's input at key 2^48 k + i -/
  staged : List (Nat × Byte)
  /-- bytes staged of rank k's input, at key k; of the own input sent to rank r, at key nranks + r -/
  got : List (Nat × Nat)
  suspended : List Nat
  /-- clock at which the suspension began -/
  since : Nat
  /-- links whose slot is held, and links whose slot is awaited (R492) -/
  slots : List Nat
  want : List Nat
  /-- cycles that no timer counts, and the clock at which such cycles began (R178, R180) -/
  idle : Nat
  halt : Nat
  code : Nat
  /-- the results are written: only the report is left (R176) -/
  done : Bool
  deriving DecidableEq, Repr

/-- An open trace page (R473): its header and the key in force at its opening, its record area so far, the bytes of it in use, and the clock of its opening. -/
structure Page where
  head : Nat
  key : List Nat
  area : Nat
  fill : Nat
  loss : Nat
  opened : Nat
  deriving DecidableEq, Repr

/-- The whole machine. -/
structure State where
  /-- the 64-bit cycle counter (R30) -/
  clock : Dword
  /-- the model's counter of free values taken (log 2) -/
  free : Nat
  /-- the model's number of the next operation in flight (log 2) -/
  nextId : Nat
  /-- events that are due, each with its operands, oldest first (log 4) -/
  agenda : List (Instr × List Nat)
  /-- what the event being performed acts on: its operands, in the order its meaning gives -/
  args : List Nat
  /-- the bundle issued and not yet performed (R41) -/
  cur : Option Bundle
  /-- the issue slot served last over all cores (log 4) -/
  port : Nat
  /-- every byte of memory that is not an unlisted byte -/
  mem : List Host.Cell
  /-- poisoned 32-byte units, each with the mask of its bytes that have not been rewritten (R27) -/
  poison : List (Nat × Nat)
  /-- lines of the cores' first-level caches (R26, R105) -/
  l1 : List (Nat × Nat)
  /-- cached translations (R434), the latest first -/
  tlb : List Xlat
  /-- cached pointer entries (R434), the latest first -/
  walkers : List Pointer
  /-- synchronisation records by line (R113) -/
  recs : List (Nat × Rec)
  /-- cores by 768 die + core (R20, R21) -/
  cores : List (Nat × Core)
  /-- the context table and its blocks (R397) -/
  ctxs : List (Nat × Ctx)
  /-- work in flight -/
  ops : List (Nat × Op)
  /-- the hub system register window (R394) -/
  hub : List (Nat × Word)
  /-- platform interrupts raised to the control cores (R425, R485, R495) -/
  interrupts : Nat
  /-- flits forwarded or answered, and not yet taken by their link: link, source and destination package, hop count, kind, and what
  each carries (R493) -/
  egress : List (List Nat)
  /-- control lines with a copy in some agent (R448), by line number of the domain -/
  lines : List (Nat × CLine)
  /-- copies in M or O that their agent is rolling out, agent and line: the data stand in its write-back buffer until the home has
  acknowledged them, and whoever asks for the line meets the crossing (R459) -/
  leaving : List (Nat × Nat)
  /-- purged tags of each agent, oldest first: line and writer (R449) -/
  purged : List (Nat × List (Nat × Nat))
  /-- directory entries of mirrored lines as their mirror holds them: HV, HEAD and PCC of R448, by line (R461) -/
  mdir : List (Nat × Nat)
  /-- the next sequence number of each agent of the package (R461) -/
  seqs : List (Nat × Nat)
  /-- applied requests of each home, oldest first: agent, sequence number and result (R461) -/
  applied : List (Nat × List (Nat × Nat × Nat))
  /-- homes declared lost, with the index of the home that serves plus one, or 0 for none (R444, R447, R462) -/
  lost : List (Nat × Nat)
  /-- rebuilds in progress, by home (R462) -/
  rebuilds : List (Nat × Rebuild)
  /-- requests that wait (R444, R494, R500), in arrival order -/
  waiting : List Waiting
  /-- sequence slots: word w of slot n at key 512 n + w (R149). Two words more are Vesper's own: 384 the commits since OPEN,
  to 8 (R155), and 385 whether a token has left the draft buffer (bit 0) or the forced-token queue (bit 1) -/
  vesper : List (Nat × Word)
  /-- notify registers: the value, plus 2^64 while pending (R165) -/
  notify : List (Nat × Nat)
  /-- queues (R409) -/
  queues : List (Nat × Queue)
  /-- begun LAUNCH packets by number (R357) -/
  launches : List (Nat × Launch)
  /-- begun COLLECTIVE packets by number (R168) -/
  colls : List (Nat × Coll)
  /-- the group table, 128 bits an entry (R167), plus 2^128 once a member's package has been declared lost (R177) -/
  groups : List (Nat × Nat)
  /-- COLLECTIVE packets that each rank's queue has delivered for a group, at key 2^20 group + rank (R168) -/
  colseq : List (Nat × Nat)
  /-- codes with which collectives of a group have failed, by number, at key 2^64 group + number (R176) -/
  colfail : List (Nat × Nat)
  /-- local experts of the last DISPATCH of a rank of a group, at key 2^20 group + rank (R184, log 10) -/
  routes : List (Nat × List Nat)
  /-- ptr of each priority (R418) -/
  ptrs : List (Nat × Nat)
  /-- cluster of the last span of each partition, plus one (R419) -/
  placed : List (Nat × Nat)
  /-- save areas in use, by context: address and bytes (R405) -/
  saves : List (Nat × Nat × Nat)
  /-- contexts whose refused save wrote a type 5 event already, and not pre-emptable until the pool grows (R405) -/
  unsaved : List Nat
  /-- open trace pages by partition (R473) -/
  pages : List (Nat × Page)
  /-- SALT of each partition's trace (R474) -/
  salts : List (Nat × Nat)
  /-- partitions whose trace has closed page 2^32 - 1 since its enable, as a mask (R474) -/
  spent : Nat
  /-- partitions whose key has been written since they became Unused, as a mask (R466) -/
  keyed : Nat
  /-- packages declared lost (R496) -/
  dead : List (Nat × Bool)
  /-- dies whose issue is withheld by temperature, and units in training, as masks; bit 4 of the latter is the links
  (R485, R499) -/
  hot : Nat
  training : Nat
  deriving DecidableEq, Repr

/-- The machine right after package reset (R484): Dawn service with die C0 and the control memory trained and the
lottery on; the registers' reset values are those of hubReset; no context, queue, copy, access or event. -/
def State.reset : State where
  clock := 0
  free := 0
  nextId := 0
  agenda := []
  args := []
  cur := none
  port := 0
  mem := []
  poison := []
  l1 := []
  tlb := []
  walkers := []
  recs := []
  cores := []
  ctxs := []
  ops := []
  hub := []
  interrupts := 0
  egress := []
  lines := []
  leaving := []
  purged := []
  mdir := []
  seqs := []
  applied := []
  lost := []
  rebuilds := []
  waiting := []
  vesper := []
  notify := []
  queues := []
  launches := []
  colls := []
  groups := []
  colseq := []
  colfail := []
  routes := []
  ptrs := []
  placed := []
  saves := []
  unsaved := []
  pages := []
  salts := []
  spent := 0
  keyed := 0
  dead := []
  hot := 0
  training := 0

/-- Faults of the model: the machine stops. Faults of the architecture are taken and end in a next state. -/
inductive Fault where
  /-- Raised by the meaning of an instruction of the stream when no bundle is issued: no such state arises in a
  step, which performs an instruction only for the bundle it issued. Safe. -/
  | noBundle
  deriving DecidableEq, Repr

/-- Refusals of the model. -/
inductive Refusal where
  /-- Answered by exec alone for an instruction without a meaning yet, by its mnemonic. Safe. -/
  | notModelled (mnemonic : String)
  deriving DecidableEq, Repr

end Sys2Proof.Machine
end

