-- ==== Sys2Proof/Machine/Base.lean ====
section
/-! DEFINITION. Base.lean: the named operations over raw memory, registers, lanes, waves, contexts, the hub registers, the
first-level caches, the agenda and the operations in flight. -/
namespace Sys2Proof.Machine

/-! ### Numbers -/

/-- The low n bits of x read as two's complement (R11). -/
def signExtend (x n : Nat) : Int :=
  let y := x % 2 ^ n
  if y < 2 ^ (n - 1) then (y : Int) else (y : Int) - (2 ^ n : Nat)

/-- x modulo 2^n, for an integer x. -/
def wrapNat (x : Int) (n : Nat) : Nat := (x % ((2 ^ n : Nat) : Int)).toNat

/-- A 32-bit word of a natural number. -/
def word (x : Nat) : Word := BitVec.ofNat 32 x

/-- A 32-bit word of an integer. -/
def wordInt (x : Int) : Word := BitVec.ofNat 32 (wrapNat x 32)

/-- The lane mask of a list of lanes. -/
def laneMask (ls : List Nat) : Nat := ls.foldl (fun m l => m ||| 2 ^ l) 0

/-- The lanes of a mask, rising. -/
def maskLanes (m : Nat) : List Nat := (List.range 32).filter fun l => m.testBit l

/-- Bits [hi:lo] of x with the bits of v put in their place. -/
def setBits (x hi lo v : Nat) : Nat :=
  let w := 2 ^ (hi + 1 - lo)
  (x / 2 ^ (hi + 1)) * 2 ^ (hi + 1) + (v % w) * 2 ^ lo + x % 2 ^ lo

/-- The least element of a list, if any. -/
def least : List Nat → Option Nat
  | [] => none
  | x :: xs => match least xs with
    | none => some x
    | some y => some (if x ≤ y then x else y)

/-! ### Raw memory

One sparse map of bytes for every store of the package, at keys that put each store apart. -/

/-- Key of a control-memory byte: the domain offset, home index in bits [45:36] (R64, R428). -/
def ctlKey (off : Nat) : Nat := 0x1000000000000000 + off

/-- Key of a byte of own-package tensor memory: its physical address (R24). -/
def tensorKey (pa : Nat) : Nat := 0x2000000000000000 + pa

/-- Key of a byte of a context's scratchpad allocation (R71). -/
def scratchKey (c off : Nat) : Nat := 0x3000000000000000 + c * 0x40000 + off

/-- Key of a byte of a die's directly addressed commons region (R72). -/
def commonsKey (die off : Nat) : Nat := 0x4000000000000000 + die * 0x8000000 + off

/-- What an unlisted byte of memory reads as (log 3). -/
def emptyByte : Byte := 0

/-- The canonical form of memory: keys strictly rising, no entry equal to an unlisted byte. -/
def Memory.wf (m : List Host.Cell) : Bool := SMap.wf emptyByte m

/-- One byte of memory. -/
def readByte (m : List Host.Cell) (k : Nat) : Byte := SMap.get emptyByte m k

/-- Memory with one byte written. -/
def writeByte (m : List Host.Cell) (k : Nat) (b : Byte) : List Host.Cell := SMap.set emptyByte m k b

/-- The n-byte value at key k, little-endian (R3, R11). -/
def readMem (m : List Host.Cell) (k : Nat) : Nat → Nat
  | 0 => 0
  | n + 1 => (readByte m k).toNat + 256 * readMem m (k + 1) n

/-- The low 8n bits of x stored at key k, little-endian (R3, R11). -/
def writeMem (m : List Host.Cell) (k : Nat) : Nat → Nat → List Host.Cell
  | 0, _ => m
  | n + 1, x => writeMem (writeByte m k (BitVec.ofNat 8 x)) (k + 1) n (x / 256)

/-- Some byte of the n bytes at k lies in a poisoned 32-byte unit (R27). -/
def poisoned (s : State) (k n : Nat) : Bool :=
  (List.range ((k % 32 + n + 31) / 32)).any fun j => SMap.get 0 s.poison (k / 32 + j) != 0

/-- The bytes of 32-byte unit u among the n bytes at k, as a mask. -/
def unitMask (k n u : Nat) : Nat := 2 ^ (Nat.min (k + n) (32 * u + 32) - 32 * u) - 2 ^ (Nat.max k (32 * u) - 32 * u)

/-- A write of the n bytes at k: a unit whose every byte has been rewritten is poisoned no more (R27). -/
def clearPoison (s : State) (k n : Nat) : State :=
  if s.poison.isEmpty then s
  else { s with poison := (List.range ((k % 32 + n + 31) / 32)).foldl (fun p j =>
    let m := SMap.get 0 p (k / 32 + j)
    SMap.set 0 p (k / 32 + j) (m - (m &&& unitMask k n (k / 32 + j)))) s.poison }

/-- n bytes written at a key. -/
def State.put (s : State) (k n v : Nat) : State := clearPoison { s with mem := writeMem s.mem k n v } k n

/-! ### Contexts, waves, lanes and registers -/

def State.ctx? (s : State) (c : Nat) : Option Ctx := SMap.find? s.ctxs c

def State.wave? (s : State) (c w : Nat) : Option Wave :=
  match s.ctx? c with
  | some x => SMap.find? x.waves w
  | none => none

def State.modCtx (s : State) (c : Nat) (f : Ctx → Ctx) : State :=
  { s with ctxs := SMap.modify s.ctxs c f }

def State.modWave (s : State) (c w : Nat) (f : Wave → Wave) : State :=
  s.modCtx c fun x => { x with waves := SMap.modify x.waves w f }

/-- Changes every lane of a wave, each by its number. -/
def State.modLanesBy (s : State) (c w : Nat) (f : Nat → Lane → Lane) : State :=
  s.modWave c w fun v => { v with lanes := SMap.mapVals v.lanes f }

/-- Changes the lanes of a list. -/
def State.modLanes (s : State) (c w : Nat) (ls : List Nat) (f : Lane → Lane) : State :=
  s.modLanesBy c w fun l n => if ls.contains l then f n else n

/-- The least number of a context not in use (R397). -/
def freeCtxNum (s : State) : Nat :=
  ((List.range (s.ctxs.length + 1)).find? fun c => (s.ctx? c).isNone).getD 0

def State.core (s : State) (k : Nat) : Core := SMap.get Core.reset s.cores k

def State.setCore (s : State) (k : Nat) (x : Core) : State :=
  { s with cores := SMap.set Core.reset s.cores k x }

/-- The number of a core in its package: 768 die + core (R16). -/
def Ctx.place (x : Ctx) : Nat := 768 * x.die + x.core

/-- The block is on its core. -/
def Ctx.placed (x : Ctx) : Bool :=
  match x.state with
  | .free | .saved => false
  | .halted | .retiring => x.onCore
  | _ => true

/-- Register r of lane l (R36). -/
def Wave.reg (v : Wave) (r l : Nat) : Word := SMap.get 0 v.regs (32 * r + l)

/-- The pair vr, v(r+1) of lane l as a number (R3). -/
def Wave.pair (v : Wave) (r l : Nat) : Nat := (v.reg r l).toNat + 0x100000000 * (v.reg (r + 1) l).toNat

/-- n registers from vr of lane l as one number, vr lowest (R304). -/
def Wave.group (v : Wave) (r l : Nat) : Nat → Nat
  | 0 => 0
  | n + 1 => (v.reg r l).toNat + 0x100000000 * v.group (r + 1) l n

/-- Bit l of register r's pending bits (R132). -/
def Wave.pending (v : Wave) (r l : Nat) : Bool := (SMap.get 0 v.pend r).toNat.testBit l

/-- The lanes of a list that are helpers (R39). -/
def Wave.isHelper (v : Wave) (l : Nat) : Bool :=
  match SMap.find? v.lanes l with
  | some n => decide (n.kind = .helper)
  | none => false

/-- The lanes of ls that are not helpers. -/
def Wave.present (v : Wave) (ls : List Nat) : List Nat := ls.filter fun l => !v.isHelper l

/-- A lane that is not absent and has not exited. -/
def Lane.live (n : Lane) : Bool := !n.exited

def Wave.lane? (v : Wave) (l : Nat) : Option Lane := SMap.find? v.lanes l

/-- A field of the launch descriptor in force (R57). -/
def Ctx.field (x : Ctx) (hi lo : Nat) : Nat := bits x.desc hi lo

/-- Declared registers per lane (R57). -/
def Ctx.declared (x : Ctx) : Nat := 8 * (x.field 67 64 + 1)
def Ctx.scratchBytes (x : Ctx) : Nat := 256 * x.field 82 72
def Ctx.nbarriers (x : Ctx) : Nat := x.field 87 83
def Ctx.ntbars (x : Ctx) : Nat := x.field 93 88
def Ctx.nregions (x : Ctx) : Nat := x.field 99 94
def Ctx.fvesper (x : Ctx) : Bool := x.field 100 100 == 1
def Ctx.ffabric (x : Ctx) : Bool := x.field 101 101 == 1
def Ctx.fmatrix (x : Ctx) : Bool := x.field 102 102 == 1
def Ctx.bdimx (x : Ctx) : Nat := x.field 137 128
def Ctx.bdimy (x : Ctx) : Nat := x.field 147 138
def Ctx.bdimz (x : Ctx) : Nat := x.field 157 148
def Ctx.sdimx (x : Ctx) : Nat := x.field 165 160
def Ctx.sdimy (x : Ctx) : Nat := x.field 171 166
def Ctx.sdimz (x : Ctx) : Nat := x.field 177 172
def Ctx.ldimx (x : Ctx) : Nat := x.field 223 192
def Ctx.ldimy (x : Ctx) : Nat := x.field 239 224
def Ctx.ldimz (x : Ctx) : Nat := x.field 255 240
/-- Threads of the block (R39). -/
def Ctx.threads (x : Ctx) : Nat := x.bdimx * x.bdimy * x.bdimz
/-- Waves of the block (R37). -/
def Ctx.nwaves (x : Ctx) : Nat := (x.threads + 31) / 32

/-- Empties the reuse latch of a block if p holds of it (R330). -/
def Ctx.unlatch (x : Ctx) (p : Latch → Bool) : Ctx :=
  match x.mat.latch with
  | some t => if p t then { x with mat := { x.mat with latch := none } } else x
  | none => x

/-- Whether a latch holds register r of wave w. -/
def Latch.holds (t : Latch) (w r : Nat) : Bool :=
  t.regs.any fun (v, d, a) => v == w && ((d ≤ r && r < d + 8) || r == a)

/-- Whether a latch holds registers of wave w. -/
def Latch.ofWave (t : Latch) (w : Nat) : Bool := t.regs.any fun (v, _, _) => v == w

/-- Writes register r of lane l; a write to a latched register empties the reuse latch (R330). -/
def State.setReg (s : State) (c w r l : Nat) (v : Word) : State :=
  s.modCtx c fun x =>
    ({ x with waves := SMap.modify x.waves w fun y => { y with regs := SMap.set 0 y.regs (32 * r + l) v } }).unlatch
      fun t => t.holds w r

/-- Writes a list of register values at keys 32 r + l. -/
def State.setRegs (s : State) (c w : Nat) (ws : List (Nat × Word)) : State :=
  ws.foldl (fun t (k, v) => t.setReg c w (k / 32) (k % 32) v) s

/-- ORs flags into the lane status word of a lane (R198). -/
def State.orFlags (s : State) (c w : Nat) (fs : List (Nat × Nat)) : State :=
  fs.foldl (fun t (l, f) => t.modLanes c w [l] fun n => { n with lsw := n.lsw ||| word (f % 32) }) s

/-! ### Hub registers

Register n of the hub system register window, one word for each value of its selector (R394, R396). -/

/-- The value of a hub register after package reset: LSEED 1 (R410), LMODE 1 on entry to Dawn service (R423), SVC with
STATE 1, CMEM and DIES bit 0 (R484), the offer of features 0 to 9 (R490), PWRCAP 4,200 (R482); 0 elsewhere. -/
def hubReset (n : Nat) : Word :=
  if n = 0x425 then 1
  else if n = 0x426 then 1
  else if n = 0x800 then 0x61
  else if n = 0x808 then 0x3FF
  else if n = 0x828 then 4200
  else 0

def State.hubGet (s : State) (n sel : Nat) : Nat := (SMap.get (hubReset n) s.hub (n * 0x10000 + sel)).toNat

def State.hubSet (s : State) (n sel v : Nat) : State :=
  { s with hub := SMap.set (hubReset n) s.hub (n * 0x10000 + sel) (word v) }

/-- A lo, hi register pair as one number. -/
def State.hubGet64 (s : State) (n sel : Nat) : Nat := s.hubGet n sel + 0x100000000 * s.hubGet (n + 1) sel

/-- Bit 0 of a status register under selector sel tells whether the last write was refused. -/
def State.refuseAt (s : State) (n sel : Nat) (r : Bool) : State :=
  s.hubSet n sel (setBits (s.hubGet n sel) 0 0 (if r then 1 else 0))

/-- First domain offset of the package's own control memory: its domain index in DOMSELF (R64, R447). -/
def State.homeBase (s : State) : Nat := (s.hubGet 0x600 0 % 1024) * 0x1000000000

/-- The package number (R16, R486). -/
def State.pkg (s : State) : Nat := s.hubGet 0x806 0 % 0x100000

/-! ### First-level caches

A line of core k's L1 is held at key 2^33 k + line, as one number of 128 bytes, low byte first. -/

/-- Discards every line of a core's L1 (R105, R126, R316). -/
def State.dropL1 (s : State) (k : Nat) : State :=
  { s with l1 := s.l1.filter fun (j, _) => j / 0x200000000 ≠ k }

/-- The acquire side of scope code sc on core k: at block scope or wider the L1 is invalidated (R105). -/
def State.acquire (s : State) (k sc : Nat) : State := if 1 ≤ sc then s.dropL1 k else s

/-! ### Events and operations in flight -/

/-- Puts an event at the end of the agenda. -/
def State.post (s : State) (e : Instr) (args : List Nat) : State := { s with agenda := s.agenda ++ [(e, args)] }

/-- Keeps an event that is not yet due; a cycle passes. -/
def State.later (s : State) (e : Instr) (as : List Nat) : State := { s.post e as with clock := s.clock + 1 }

/-- Operand k of the event being performed. -/
def State.arg (s : State) (k : Nat) : Nat := s.args.getD k 0

/-- A new operation in flight, under the number nextId. -/
def State.addOp (s : State) (o : Op) : State :=
  { s with ops := SMap.insert s.ops s.nextId o, nextId := s.nextId + 1 }

def State.op? (s : State) (id : Nat) : Option Op := SMap.find? s.ops id

/-- Takes a fresh free number. -/
def State.takeFree (s : State) : Nat × State := (s.free, { s with free := s.free + 1 })

/-- Operations in flight that are instructions not yet complete (R62, R314, R315): the others are the engines' work. -/
def OpKind.isInstr : OpKind → Bool
  | .load .. | .result .. | .reply .. | .insertion .. | .fence .. | .tfence .. | .tlbinv .. | .mrd => true
  | .atomic _ _ _ _ ret _ _ => ret
  | .store .. | .copy .. | .ratom .. | .chain .. | .laneWrite .. => false

/-- The instruction with this number is in flight (R60, R62, R300). -/
def State.inFlight (s : State) (id : Nat) : Bool :=
  match s.op? id with
  | some o => o.kind.isInstr
  | none => false

/-- Some instruction of the wave is in flight (R399 step 1, R290). -/
def State.waveBusy (s : State) (c w : Nat) : Bool :=
  s.ops.any fun (_, o) => o.ctx == c && o.wave == w && o.kind.isInstr

/-- Work that the context issued is in flight, or stands in its matrix pipeline (R49). -/
def State.ctxWorks (s : State) (c : Nat) : Bool :=
  (s.ops.any fun (_, o) => o.ctx == c) ||
  match s.ctx? c with
  | some x => !x.mat.pipe.isEmpty
  | none => false

/-- Work of the context that a save or a stop waits for: its own, and landings in its windows (R405 steps 1 to 5). -/
def State.ctxBusy (s : State) (c : Nat) : Bool :=
  s.ctxWorks c || s.ops.any fun (_, o) => match o.kind with
    | .copy _ _ _ _ _ _ ts _ _ => ts.contains c
    | _ => false

end Sys2Proof.Machine
end

