-- ==== Sys2Proof/Machine/Flags.lean ====
section
/-! DEFINITION. Flags.lean: the five sticky lane flags (R63, R197, R198): their bits, and those of a lane. -/
namespace Sys2Proof.Machine

/-- FINVALID, LSW[0]. -/
def flInvalid : Nat := 1
/-- FDIVZERO, LSW[1]. -/
def flDivZero : Nat := 2
/-- FOVER, LSW[2]. -/
def flOver : Nat := 4
/-- FUNDER, LSW[3]. -/
def flUnder : Nat := 8
/-- FINEXACT, LSW[4]. -/
def flInexact : Nat := 16

/-- The flag f where p holds. -/
def flagIf (p : Bool) (f : Nat) : Nat := if p then f else 0

/-- The five flags of a lane. -/
def Wave.flags (v : Wave) (l : Nat) : Nat :=
  match v.lane? l with
  | some n => n.lsw.toNat % 32
  | none => 0

end Sys2Proof.Machine
end

