-- ==== Sys2Proof/Machine/Numeric.lean ====
section
/-! DEFINITION. Numeric.lean: the number formats and their arithmetic (R185 to R202, R206): exact values, the one
rounding helper roundToFormat, conversions, and the special functions as exact values with a sticky last bit. -/
namespace Sys2Proof.Machine

/-! ### Formats -/

/-- What the largest exponent code holds (R186). -/
inductive Top where
  /-- infinity and NaN -/
  | ieee
  /-- normal values, and NaN at fraction 0b111 -/
  | e4m3
  /-- normal values -/
  | e2m1
  /-- normal values, and NaN at code 0xFF -/
  | e3m5
  deriving DecidableEq, Repr

/-- A floating-point format (R185). -/
structure Fmt where
  sgn : Bool
  eb : Nat
  fb : Nat
  bias : Nat
  top : Top
  deriving DecidableEq, Repr

def fmtF32 : Fmt := ⟨true, 8, 23, 127, .ieee⟩
def fmtF16 : Fmt := ⟨true, 5, 10, 15, .ieee⟩
def fmtBf16 : Fmt := ⟨true, 8, 7, 127, .ieee⟩
def fmtE4m3 : Fmt := ⟨true, 4, 3, 7, .e4m3⟩
def fmtE5m2 : Fmt := ⟨true, 5, 2, 15, .ieee⟩
def fmtE2m1 : Fmt := ⟨true, 2, 1, 1, .e2m1⟩
def fmtE3m5 : Fmt := ⟨false, 3, 5, 3, .e3m5⟩

/-- The floating-point format of a cvt code (R234); none for the integer formats. -/
def cvtFmt : Nat → Option Fmt
  | 0 => some fmtF32
  | 1 => some fmtF16
  | 2 => some fmtBf16
  | 3 => some fmtE4m3
  | 4 => some fmtE5m2
  | 5 => some fmtE2m1
  | 6 => some fmtE3m5
  | _ => none

/-- Width and signedness of an integer cvt code (R191, R234). -/
def cvtInt : Nat → Nat × Bool
  | 7 => (8, true)
  | 8 => (8, false)
  | 9 => (16, true)
  | 10 => (16, false)
  | 11 => (32, true)
  | 12 => (32, false)
  | 13 => (64, true)
  | _ => (64, false)

/-- Bits of a code. -/
def Fmt.width (f : Fmt) : Nat := (if f.sgn then 1 else 0) + f.eb + f.fb

/-- Exponent of the smallest normal. -/
def Fmt.emin (f : Fmt) : Int := 1 - f.bias

def Fmt.infinities (f : Fmt) : Bool := f.top == .ieee

/-- Magnitude code of the largest finite value. -/
def Fmt.maxCode (f : Fmt) : Nat :=
  match f.top with
  | .ieee => (2 ^ f.eb - 1) * 2 ^ f.fb - 1
  | .e4m3 => 0x7E
  | .e2m1 => 7
  | .e3m5 => 0xFE

/-- Largest finite value, as mantissa and exponent. -/
def Fmt.maxMant (f : Fmt) : Nat := f.maxCode % 2 ^ f.fb + 2 ^ f.fb
def Fmt.maxExp (f : Fmt) : Int := (f.maxCode / 2 ^ f.fb : Nat) - (f.bias : Int) - f.fb

/-- The canonical NaN (R190); +0 for E2M1, which has none. -/
def Fmt.nan (f : Fmt) : Nat :=
  match f.top with
  | .ieee => (2 ^ f.eb - 1) * 2 ^ f.fb + 2 ^ (f.fb - 1)
  | .e4m3 => 0x7F
  | .e2m1 => 0
  | .e3m5 => 0xFF

/-- The sign bit of a code, in place. -/
def Fmt.signCode (f : Fmt) (neg : Bool) : Nat := if neg && f.sgn then 2 ^ (f.eb + f.fb) else 0

/-- The infinity of sign neg. -/
def Fmt.infCode (f : Fmt) (neg : Bool) : Nat := f.signCode neg + (2 ^ f.eb - 1) * 2 ^ f.fb

/-! ### Exact values -/

/-- NaN, an infinity, or (-1)^neg × m × 2^e. -/
inductive XVal where
  | nan
  | inf (neg : Bool)
  | fin (neg : Bool) (m : Nat) (e : Int)
  deriving DecidableEq, Repr

/-- The sign bit of code c. -/
def Fmt.neg (f : Fmt) (c : Nat) : Bool := f.sgn && c.testBit (f.eb + f.fb)

/-- value(c, fmt) of R186. -/
def Fmt.value (f : Fmt) (c : Nat) : XVal :=
  let e := c / 2 ^ f.fb % 2 ^ f.eb
  let m := c % 2 ^ f.fb
  let normal : XVal := .fin (f.neg c) (m + 2 ^ f.fb) ((e : Int) - f.bias - f.fb)
  if e = 0 then .fin (f.neg c) m (f.emin - f.fb)
  else if e + 1 < 2 ^ f.eb then normal
  else match f.top with
    | .ieee => if m = 0 then .inf (f.neg c) else .nan
    | .e4m3 => if m = 7 then .nan else normal
    | .e2m1 => normal
    | .e3m5 => if m = 31 then .nan else normal

def Fmt.isNaN (f : Fmt) (c : Nat) : Bool := f.value c == .nan

/-- Only FP32, FP16 and BF16 have signalling NaNs (R185, R186). -/
def Fmt.isSignalling (f : Fmt) (c : Nat) : Bool :=
  f.isNaN c && f.top == .ieee && decide (7 ≤ f.fb) && !c.testBit (f.fb - 1)

def XVal.isNaN : XVal → Bool
  | .nan => true
  | _ => false

def XVal.isInf : XVal → Bool
  | .inf _ => true
  | _ => false

def XVal.isZero : XVal → Bool
  | .fin _ m _ => m == 0
  | _ => false

/-- The sign; a NaN has none and counts as positive. -/
def XVal.neg : XVal → Bool
  | .nan => false
  | .inf n => n
  | .fin n _ _ => n

def XVal.negate : XVal → XVal
  | .nan => .nan
  | .inf n => .inf (!n)
  | .fin n m e => .fin (!n) m e

/-- A signed integer m times 2^e. -/
def XVal.ofInt (m : Int) (e : Int) : XVal := .fin (decide (m < 0)) m.natAbs e

/-- Exact sum (R260): rd tells whether an exact zero sum of unlike signs is -0. -/
def XVal.add (rd : Bool) : XVal → XVal → XVal
  | .nan, _ => .nan
  | _, .nan => .nan
  | .inf a, .inf b => if a = b then .inf a else .nan
  | .inf a, _ => .inf a
  | _, .inf b => .inf b
  | .fin a m e, .fin b n g =>
    if m = 0 ∧ n = 0 then .fin (if a = b then a else rd) 0 0
    else if m = 0 then .fin b n g
    else if n = 0 then .fin a m e
    else
      let k := Min.min e g
      let x : Int := (m * 2 ^ (e - k).toNat : Nat)
      let y : Int := (n * 2 ^ (g - k).toNat : Nat)
      let z := (if a then -x else x) + (if b then -y else y)
      if z = 0 then .fin rd 0 0 else XVal.ofInt z k

/-- Exact product; NaN where an infinity meets a zero. -/
def XVal.mul : XVal → XVal → XVal
  | .nan, _ => .nan
  | _, .nan => .nan
  | .inf a, .inf b => .inf (a != b)
  | .inf a, .fin b m _ => if m = 0 then .nan else .inf (a != b)
  | .fin a m _, .inf b => if m = 0 then .nan else .inf (a != b)
  | .fin a m e, .fin b n g => .fin (a != b) (m * n) (e + g)

/-! ### Rounding -/

/-- m × 2^e rounded to a multiple of 2^q: the multiple, and whether it differs (R193, R194). Where the unit is far above
the value, a shift that keeps every comparison stands for the exact one. -/
def roundAt (neg : Bool) (m : Nat) (e q : Int) (mode rnd : Nat) : Nat × Bool :=
  if q ≤ e then (m * 2 ^ (e - q).toNat, false)
  else
    let sh := if 4096 < (q - e).toNat then m.log2 + 40 else (q - e).toNat
    let lo := m / 2 ^ sh
    let rem := m % 2 ^ sh
    if rem = 0 then (lo, false)
    else
      let up := match mode with
        | 0 => decide (2 ^ sh < 2 * rem) || (decide (2 ^ sh = 2 * rem) && lo % 2 == 1)
        | 1 => false
        | 2 => !neg
        | 3 => neg
        | _ => decide (rnd < rem * 2 ^ 32 / 2 ^ sh)
      (if up then lo + 1 else lo, true)

/-- a × 2^p > b × 2^q, for b below 2^64. -/
def scaledGt (a : Nat) (p : Int) (b : Nat) (q : Int) : Bool :=
  if a = 0 then false
  else if q ≤ p then (if 64 < p - q then true else decide (b < a * 2 ^ (p - q).toNat))
  else if (a.log2 : Int) + 70 < q - p then false
  else decide (b * 2 ^ (q - p).toNat < a)

/-- roundToFormat(x, fmt, mode, sat, rnd) of R194: the code and the flags. -/
def roundToFormat (f : Fmt) (mode : Nat) (sat : Bool) (rnd : Nat) : XVal → Nat × Nat
  | .nan => if f.top = .e2m1 then (0, flInvalid) else (f.nan, 0)
  | .inf n =>
    if f.top = .e3m5 ∧ n = true then (if sat then 0x00 else 0xFF, flInvalid)
    else if f.infinities && !sat then (f.infCode n, 0)
    else
      let fl := flagIf (!f.infinities) flInvalid
      if sat || f.top == .e2m1 then (f.signCode n + f.maxCode, fl) else (f.nan, fl)
  | .fin n m e =>
    if m = 0 then (f.signCode n, 0)
    else if f.top = .e3m5 ∧ n = true then (if sat then 0x00 else 0xFF, flInvalid)
    else
      let top : Int := (m.log2 : Int) + e
      let q := Max.max top f.emin - f.fb
      let (y, inexact) := roundAt n m e q mode rnd
      if scaledGt y q f.maxMant f.maxExp then
        let fl := flOver ||| flInexact
        if mode = 1 ∨ (mode = 3 ∧ n = false) ∨ (mode = 2 ∧ n = true) then (f.signCode n + f.maxCode, fl)
        else if sat || f.top == .e2m1 then (f.signCode n + f.maxCode, fl)
        else if f.infinities then (f.infCode n, fl)
        else (f.nan, fl)
      else
        let (z, _) := roundAt n m e (top - f.fb) mode rnd
        let tiny := inexact && !scaledGt z (top - f.fb) 1 f.emin &&
          !(decide (top - f.fb ≤ f.emin) && decide (z = 2 ^ (f.emin - (top - f.fb)).toNat))
        (f.signCode n + ((q + f.fb + f.bias - 1).toNat * 2 ^ f.fb + y),
          flagIf inexact flInexact ||| flagIf tiny flUnder)

/-- The code of roundToFormat without saturation. -/
def roundCode (f : Fmt) (mode : Nat) (x : XVal) : Nat := (roundToFormat f mode false 0 x).1

/-- roundToInteger(x, mode) of R206, for a finite value. -/
def roundToInteger (neg : Bool) (m : Nat) (e : Int) (mode : Nat) : Int :=
  let y := (roundAt neg m e 0 mode 0).1
  if neg then -(y : Int) else y

/-- Range of an integer format (R191). -/
def intMin (n : Nat) (sg : Bool) : Int := if sg then -((2 ^ (n - 1) : Nat) : Int) else 0
def intMax (n : Nat) (sg : Bool) : Int := if sg then ((2 ^ (n - 1) : Nat) : Int) - 1 else ((2 ^ n : Nat) : Int) - 1

/-- clampInt(v, fmt) of R206. -/
def clampInt (n : Nat) (sg : Bool) (v : Int) : Int := Max.max (intMin n sg) (Min.min (intMax n sg) v)

/-- The float-to-integer row of R196. A value far beyond every integer format clamps without being formed. -/
def toInteger (n : Nat) (sg : Bool) (mode : Nat) : XVal → Int × Nat
  | .nan => (0, flInvalid)
  | .inf neg => (if neg then intMin n sg else intMax n sg, flInvalid)
  | .fin neg m e =>
    let r := roundToInteger neg m e mode
    (clampInt n sg r, flagIf (decide (clampInt n sg r ≠ r)) flInvalid)

/-! ### Scalar arithmetic in any format (R260 to R266, R270) -/

/-- `invalid` for each signalling source (R261). -/
def sigFlags (f : Fmt) (cs : List Nat) : Nat := flagIf (cs.any f.isSignalling) flInvalid

/-- The body of R263: the sources' codes, whether they form an invalid case, and the exact result otherwise. -/
def arith (f : Fmt) (mode : Nat) (cs : List Nat) (invalid : Bool) (e : XVal) : Nat × Nat :=
  let fl := sigFlags f cs
  if invalid then (f.nan, fl ||| flInvalid)
  else if cs.any f.isNaN then (f.nan, fl)
  else
    let (r, g) := roundToFormat f mode false 0 e
    (r, fl ||| g)

/-- Infinities of opposite sign meet. -/
def oppositeInf : XVal → XVal → Bool
  | .inf a, .inf b => a != b
  | _, _ => false

/-- 0 × infinity. -/
def zeroTimesInf (x y : XVal) : Bool := (x.isZero && y.isInf) || (x.isInf && y.isZero)

def fpAdd (f : Fmt) (mode a b : Nat) : Nat × Nat :=
  arith f mode [a, b] (oppositeInf (f.value a) (f.value b)) ((f.value a).add (mode == 3) (f.value b))

def fpSub (f : Fmt) (mode a b : Nat) : Nat × Nat :=
  arith f mode [a, b] (oppositeInf (f.value a) (f.value b).negate) ((f.value a).add (mode == 3) (f.value b).negate)

def fpMul (f : Fmt) (mode a b : Nat) : Nat × Nat :=
  arith f mode [a, b] (zeroTimesInf (f.value a) (f.value b)) ((f.value a).mul (f.value b))

/-- a × b + c, fused (R262, R264). -/
def fpFma (f : Fmt) (mode a b c : Nat) : Nat × Nat :=
  let p := (f.value a).mul (f.value b)
  arith f mode [a, b, c] (zeroTimesInf (f.value a) (f.value b) || oppositeInf p (f.value c))
    (p.add (mode == 3) (f.value c))

/-- The quotient m / n to more bits than any rounding needs, its last bit set where it is not exact. -/
def quotient (neg : Bool) (m : Nat) (e : Int) (n : Nat) (g : Int) : XVal :=
  let p := 64 + n.log2
  let q := m * 2 ^ p / n
  .fin neg (2 * q + if m * 2 ^ p % n = 0 then 0 else 1) (e - g - p - 1)

def fpDiv (mode a b : Nat) : Nat × Nat :=
  let f := fmtF32
  match f.value a, f.value b with
  | .fin s m e, .fin t n g =>
    if n = 0 then
      if m = 0 then (f.nan, flInvalid) else (f.infCode (s != t), flDivZero)
    else arith f mode [a, b] false (quotient (s != t) m e n g)
  | x, y => arith f mode [a, b] (x.isInf && y.isInf)
      (if x.isInf then .inf (x.neg != y.neg) else .fin (x.neg != y.neg) 0 0)

/-- floor of the square root, by k bits from the top: r is the root so far. -/
def isqrtFrom (n : Nat) : Nat → Nat → Nat
  | 0, r => r
  | k + 1, r =>
    let c := r + 2 ^ k
    isqrtFrom n k (if c * c ≤ n then c else r)

/-- floor of the square root of n. -/
def isqrt (n : Nat) : Nat := isqrtFrom n (n.log2 / 2 + 1) 0

/-- The square root of m × 2^e with a sticky last bit. -/
def rootOf (m : Nat) (e : Int) : XVal :=
  let n := m * 2 ^ (if e % 2 = 0 then 128 else 129)
  let r := isqrt n
  .fin false (2 * r + if r * r = n then 0 else 1) ((e - (if e % 2 = 0 then 128 else 129)) / 2 - 1)

def fpSqrt (mode a : Nat) : Nat × Nat :=
  let f := fmtF32
  match f.value a with
  | .fin neg m e =>
    if m = 0 then (a, 0) else arith f mode [a] neg (rootOf m e)
  | x => arith f mode [a] (x.isInf && x.neg) x

/-- x × 2^n (R262). -/
def fpLdexp (mode a : Nat) (n : Int) : Nat × Nat :=
  let f := fmtF32
  match f.value a with
  | .fin neg m e => arith f mode [a] false (.fin neg m (if m = 0 then 0 else e + n))
  | x => arith f mode [a] false x

/-- The integral value nearest x under the mode, with the sign of x; no inexact, overflow or underflow (R263). -/
def fpRnd (mode a : Nat) : Nat × Nat :=
  let f := fmtF32
  match f.value a with
  | .fin neg m e => (roundCode f 0 (.fin neg (roundAt neg m e 0 mode 0).1 0), 0)
  | x => arith f mode [a] false x

/-- Order key of a code that is not NaN: its magnitude code with the sign of the code; both zeros give 0. -/
def Fmt.key (f : Fmt) (c : Nat) : Int :=
  let k : Nat := c % 2 ^ (f.eb + f.fb)
  if f.neg c then -(k : Int) else k

/-- a is less than b, with -0 less than +0 (R265). -/
def Fmt.less (f : Fmt) (a b : Nat) : Bool :=
  decide (f.key a < f.key b) || (decide (f.key a = f.key b) && f.neg a && !f.neg b)

/-- fmin, fmax (R265): mx tells which. -/
def fpMinMax (f : Fmt) (mx : Bool) (a b : Nat) : Nat × Nat :=
  let fl := sigFlags f [a, b]
  if f.isNaN a || f.isNaN b then (f.nan, fl)
  else (if (if mx then f.less a b else f.less b a) then b else a, fl)

/-- fminn, fmaxn (R265): a single NaN is ignored. -/
def fpMinMaxN (f : Fmt) (mx : Bool) (a b : Nat) : Nat × Nat :=
  let fl := sigFlags f [a, b]
  if f.isNaN a && f.isNaN b then (f.nan, fl)
  else if f.isNaN a then (b, fl)
  else if f.isNaN b then (a, fl)
  else fpMinMax f mx a b

/-- fabs and fneg (R265). -/
def fpAbs (f : Fmt) (a : Nat) : Nat × Nat :=
  if f.isNaN a then (f.nan, sigFlags f [a]) else (a % 2 ^ (f.eb + f.fb), 0)

def fpNeg (f : Fmt) (a : Nat) : Nat × Nat :=
  if f.isNaN a then (f.nan, sigFlags f [a]) else (a % 2 ^ (f.eb + f.fb) + f.signCode (!f.neg a), 0)

/-- Conditions of R266: 0 eq, 1 lt, 2 le, 3 un, 4 ne, 5 gt, 6 ge, 7 ord. -/
def fpCmp (c a b : Nat) : Nat × Nat :=
  let f := fmtF32
  let un := f.isNaN a || f.isNaN b
  let x := f.key a
  let y := f.key b
  let r := match c with
    | 0 => !un && decide (x = y)
    | 1 => !un && decide (x < y)
    | 2 => !un && decide (x ≤ y)
    | 3 => un
    | 4 => un || decide (x ≠ y)
    | 5 => !un && decide (y < x)
    | 6 => !un && decide (y ≤ x)
    | _ => !un
  let strict := c = 1 ∨ c = 2 ∨ c = 5 ∨ c = 6
  (if r then 1 else 0, if strict then flagIf un flInvalid else sigFlags f [a, b])

/-- fclass (R267). -/
def fpClass (a : Nat) : Nat :=
  let f := fmtF32
  let e := a / 2 ^ 23 % 256
  let m := a % 2 ^ 23
  let bit :=
    if e = 255 then
      if m = 0 then (if f.neg a then 0 else 7) else if f.isSignalling a then 8 else 9
    else if e = 0 then
      if m = 0 then (if f.neg a then 3 else 4) else (if f.neg a then 2 else 5)
    else if f.neg a then 1 else 6
  2 ^ bit

/-! ### Special functions (R268, R269)

Exact values formed to some hundreds of bits, far closer than any rounding boundary, with the last bit set where
the value is not exact (log 8). -/

/-- Bits of the fixed-point constants and series. -/
def fixBits : Nat := 512

/-- Sum of the first n terms t_k / (2k + 1) with alternating sign where alt, t_0 = x, t_(k+1) = t_k × z. Fixed point. -/
def oddSeries (alt : Bool) (mulZ : Nat → Nat) : Nat → Nat → Nat → Int → Int
  | 0, _, _, acc => acc
  | n + 1, k, t, acc =>
    let term : Int := (t / (2 * k + 1) : Nat)
    oddSeries alt mulZ n (k + 1) (mulZ t) (if alt && k % 2 == 1 then acc - term else acc + term)

/-- arctan(1/n), fixed point. -/
def atanInv (n : Nat) : Int := oddSeries true (fun t => t / (n * n)) 230 0 (2 ^ fixBits / n) 0

/-- pi, fixed point, by Machin's formula. -/
def piFix : Int := 16 * atanInv 5 - 4 * atanInv 239

/-- 2 artanh(p / q) = ln((q + p) / (q - p)), fixed point, for p at most q / 3. -/
def lnFix (p q : Nat) : Int :=
  2 * oddSeries false (fun t => t * p / q * p / q) 170 0 (2 ^ fixBits * p / q) 0

/-- ln 2, fixed point. -/
def ln2Fix : Int := lnFix 1 3

/-- Taylor terms t_k with t_(k+1) = t_k × z / d(k) and signs by period: sum of the terms of exp, sin or cos. -/
def taylor (alt : Bool) (z : Nat) (d : Nat → Nat) : Nat → Nat → Nat → Int → Int
  | 0, _, _, acc => acc
  | n + 1, k, t, acc =>
    taylor alt z d n (k + 1) (t * z / 2 ^ fixBits / d k) (if alt && k % 2 == 1 then acc - (t : Int) else acc + (t : Int))

def expFix (y : Nat) : Int := taylor false y (fun k => k + 1) 110 0 (2 ^ fixBits) 0
def sinFix (r : Nat) : Int := taylor true (r * r / 2 ^ fixBits) (fun k => (2 * k + 2) * (2 * k + 3)) 60 0 r 0
def cosFix (r : Nat) : Int := taylor true (r * r / 2 ^ fixBits) (fun k => (2 * k + 1) * (2 * k + 2)) 60 0 (2 ^ fixBits) 0

/-- A fixed-point value that is not exact. -/
def fixVal (x : Int) : XVal := .fin (decide (x < 0)) (2 * x.natAbs + 1) (-(fixBits : Int) - 1)

/-- m × 2^e in fixed point. -/
def toFix (m : Nat) (e : Int) : Nat := if 0 ≤ e then m * 2 ^ (e.toNat + fixBits) else m * 2 ^ fixBits / 2 ^ (-e).toNat

/-- 2^x for a finite x: exact where x is an integer. Far arguments need only lie beyond the format's range. -/
def exp2Of (neg : Bool) (m : Nat) (e : Int) : XVal :=
  if 8 < (m.log2 : Int) + e then .fin false 3 (if neg then -400 else 400)
  else
    let x : Int := if neg then -(toFix m e : Int) else (toFix m e : Int)
    let n := x / (2 ^ fixBits : Nat)
    let fr := (x % (2 ^ fixBits : Nat)).toNat
    if fr = 0 then .fin false 1 n
    else
      let y := (expFix (fr * ln2Fix.toNat / 2 ^ fixBits)).toNat
      .fin false (2 * y + 1) (n - fixBits - 1)

/-- log2 of m × 2^e, m not 0: exact where m is a power of two. -/
def log2Of (m : Nat) (e : Int) : XVal :=
  let k := m.log2
  let d := 2 ^ k
  let n : Int := (k : Int) + e
  if m = d then XVal.ofInt n 0
  else fixVal (n * (2 ^ fixBits : Nat) + lnFix (m - d) (m + d) * (2 ^ fixBits : Nat) / ln2Fix)

/-- Quadrant and remainder of |x| = m × 2^e by pi / 2. -/
def reduce (m : Nat) (e : Int) : Nat × Nat :=
  let x := toFix m e
  let h := piFix.toNat
  (2 * x / h, x - 2 * x / h * h / 2)

def sinOf (neg : Bool) (m : Nat) (e : Int) : XVal :=
  let (q, r) := reduce m e
  let y := match q % 4 with
    | 0 => sinFix r
    | 1 => cosFix r
    | 2 => -sinFix r
    | _ => -cosFix r
  fixVal (if neg then -y else y)

def cosOf (m : Nat) (e : Int) : XVal :=
  let (q, r) := reduce m e
  fixVal (match q % 4 with
    | 0 => cosFix r
    | 1 => -sinFix r
    | 2 => -cosFix r
    | _ => sinFix r)

/-- 1 / sqrt(m × 2^e) with a sticky last bit. -/
def rsqrtOf (m : Nat) (e : Int) : XVal :=
  let m' := if e % 2 = 0 then m else 2 * m
  let e' := if e % 2 = 0 then e else e - 1
  let r := isqrt (2 ^ 400 / m')
  .fin false (2 * r + if r * r * m' = 2 ^ 400 then 0 else 1) (-(e' / 2) - 201)

/-- frcp (R268). DEDUCED: R269's row for a finite x < 0 writes -1/x; it is read as the negative value 1/x, as R268 and the rows of
-0 and -infinity have it (log 54). Unsafe. -/
def fpRcp (a : Nat) : Nat × Nat :=
  let f := fmtF32
  match f.value a with
  | .nan => (f.nan, sigFlags f [a])
  | .inf n => (f.signCode n, 0)
  | .fin n m e => if m = 0 then (f.infCode n, flDivZero) else roundToFormat f 0 false 0 (quotient n 1 0 m e)

def fpRsq (a : Nat) : Nat × Nat :=
  let f := fmtF32
  match f.value a with
  | .nan => (f.nan, sigFlags f [a])
  | .inf n => if n then (f.nan, flInvalid) else (0, 0)
  | .fin n m e =>
    if m = 0 then (f.infCode n, flDivZero)
    else if n then (f.nan, flInvalid)
    else roundToFormat f 0 false 0 (rsqrtOf m e)

def fpExp2 (a : Nat) : Nat × Nat :=
  let f := fmtF32
  match f.value a with
  | .nan => (f.nan, sigFlags f [a])
  | .inf n => (if n then 0 else f.infCode false, 0)
  | .fin n m e => if m = 0 then (0x3F800000, 0) else roundToFormat f 0 false 0 (exp2Of n m e)

def fpLog2 (a : Nat) : Nat × Nat :=
  let f := fmtF32
  match f.value a with
  | .nan => (f.nan, sigFlags f [a])
  | .inf n => if n then (f.nan, flInvalid) else (f.infCode false, 0)
  | .fin n m e =>
    if m = 0 then (f.infCode true, flDivZero)
    else if n then (f.nan, flInvalid)
    else roundToFormat f 0 false 0 (log2Of m e)

/-- The magnitude of a sine or cosine never exceeds 1.0 (R268): the rounded values of the series do not either. -/
def fpSin (a : Nat) : Nat × Nat :=
  let f := fmtF32
  match f.value a with
  | .nan => (f.nan, sigFlags f [a])
  | .inf _ => (f.nan, flInvalid)
  | .fin n m e => if m = 0 then (a, 0) else roundToFormat f 0 false 0 (sinOf n m e)

def fpCos (a : Nat) : Nat × Nat :=
  let f := fmtF32
  match f.value a with
  | .nan => (f.nan, sigFlags f [a])
  | .inf _ => (f.nan, flInvalid)
  | .fin _ m e => if m = 0 then (0x3F800000, 0) else roundToFormat f 0 false 0 (cosOf m e)

/-! ### Conversions (R196, R271 to R274) -/

/-- Low bits of a register or pair that a format reads (R192, R271). -/
def cvtWidth (k : Nat) : Nat :=
  match cvtFmt k with
  | some f => f.width
  | none => (cvtInt k).1

/-- `.sat` acts on a conversion between these floating-point formats: not to FP32 or FP16 from one whose range fits (R196, R274). -/
def satActs (sf df : Nat) : Bool := !(df == 0 || (df == 1 && sf != 0 && sf != 2))

/-- cvt: the result as the bits written to the destination, and the flags. -/
def convert (sf df mode : Nat) (sat : Bool) (rnd src : Nat) : Nat × Nat :=
  let c := src % 2 ^ cvtWidth sf
  let wide (v : Int) : Nat := wrapNat v (if (cvtInt df).1 = 64 then 64 else 32)
  match cvtFmt sf, cvtFmt df with
  | some f, some g =>
    let (r, fl) := roundToFormat g mode (sat && satActs sf df) rnd (f.value c)
    (r, fl ||| sigFlags f [c])
  | some f, none =>
    let (r, fl) := toInteger (cvtInt df).1 (cvtInt df).2 mode (f.value c)
    (wide r, fl ||| sigFlags f [c])
  | none, some g =>
    let v : Int := if (cvtInt sf).2 then signExtend c (cvtInt sf).1 else c
    roundToFormat g mode sat rnd (XVal.ofInt v 0)
  | none, none =>
    let v : Int := if (cvtInt sf).2 then signExtend c (cvtInt sf).1 else c
    let (n, sg) := cvtInt df
    if sat then (wide (clampInt n sg v), 0)
    else
      let low := wrapNat v n
      (wide (if sg then signExtend low n else low), 0)

/-! ### Elements of EFMT (R76) -/

/-- Bytes of an element. -/
def efmtBytes : Nat → Nat
  | 1 | 7 | 8 => 2
  | 2 | 9 | 11 => 4
  | 3 => 8
  | _ => 1

/-- The floating-point format of an EFMT code. -/
def efmtFmt : Nat → Option Fmt
  | 4 => some fmtE2m1
  | 5 => some fmtE4m3
  | 6 => some fmtE5m2
  | 7 => some fmtF16
  | 8 => some fmtBf16
  | 9 => some fmtF32
  | 10 => some fmtE3m5
  | _ => none

end Sys2Proof.Machine
end

