-- ==== Sys2Proof/Machine/Coherence.lean ====
section
/-! DEFINITION. Coherence.lean: control-space coherence (R446 to R463, R500): the list and directory entry of each line,
the requests of R451 that core accesses and the coherence events make, commutative partials, recall and gather,
mirrors, and rebuild after a loss. Requests for one line are applied one at a time, each as a whole; one that meets a write-back on its
way waits for it (R459, log 15). -/
namespace Sys2Proof.Machine

/-! ### Agents, homes and reachability -/

/-- The agent identifier of a compute die's commons (R19, R446). -/
def State.dieAgent (s : State) (die : Nat) : Nat := (s.hubGet 0x600 0 % 1024) * 64 + die

/-- Home index of a line (R64). -/
def lineHome (line : Nat) : Nat := line / 0x20000000

/-- Domain size (R447). -/
def State.domSize (s : State) : Nat := bits (s.hubGet 0x600 0) 25 16 + 1

/-- The package that a domain index names, if its map entry is valid (R447). -/
def State.domPkg? (s : State) (i : Nat) : Option Nat :=
  let e := s.hubGet 0x605 i
  if i < s.domSize ∧ e.testBit 31 = true then some (e % 0x100000) else none

/-- The link mask that the route table gives for package p (R493). -/
def State.routeMask (s : State) (p : Nat) : Nat :=
  if p / 256 % 4096 = s.pkg / 256 % 4096 then s.hubGet 0x821 (4096 + p % 256) else s.hubGet 0x821 (p / 256 % 4096)

/-- Link l is UP (R482). -/
def State.linkUp (s : State) (l : Nat) : Bool := (s.hubGet 0x811 l).testBit 0

/-- Package p can be reached for channels 0 and 1: some link of its mask is UP, and it is not declared lost (R494, R496). -/
def State.reachable (s : State) (p : Nat) : Bool :=
  p == s.pkg || (!SMap.get false s.dead p && (List.range 32).any fun l => (s.routeMask p).testBit l && s.linkUp l)

/-- The link that flits of a channel from one package to another take here (R493). -/
def State.linkFor (s : State) (src p ch : Nat) : Option Nat :=
  let ls := (List.range 32).filter fun l => (s.routeMask p).testBit l
  if ls.isEmpty then none else some (ls.getD (Config.linkHash src p ch % ls.length) 0)

/-- The link that this package's flits of a channel to package p take. -/
def State.chosenLink (s : State) (p ch : Nat) : Option Nat := s.linkFor s.pkg p ch

/-- The link that flits to package p take, plus one; beyond every link when the mask is zero. -/
def State.flitLink (s : State) (p ch : Nat) : Nat :=
  match s.chosenLink p ch with
  | some l => l + 1
  | none => 33

/-- Requests of channels 2 to 4 to package p are sent; otherwise they complete as accesses to a lost peer (R493, R496). -/
def State.pathUp (s : State) (p ch : Nat) : Bool :=
  !SMap.get false s.dead p &&
    match s.chosenLink p ch with
    | some l => s.linkUp l
    | none => false

/-- The package at a domain index is declared lost. -/
def State.deadIndex (s : State) (i : Nat) : Bool :=
  match s.domPkg? i with
  | some p => SMap.get false s.dead p
  | none => false

def State.deadAgent (s : State) (a : Nat) : Bool := s.deadIndex (a / 64)

/-- The package of an agent can be reached. -/
def State.agentReachable (s : State) (a : Nat) : Bool :=
  a / 64 == s.hubGet 0x600 0 % 1024 ||
    match s.domPkg? (a / 64) with
    | some p => s.reachable p
    | none => false

/-- What a home answers: it serves now, the request waits (R444, R494), or the slice is lost (R444). -/
inductive HomeState where
  | serves
  | waits
  | gone
  deriving DecidableEq, Repr

def State.homeState (s : State) (home : Nat) : HomeState :=
  match SMap.find? s.lost home with
  | some 0 => .gone
  | some (i + 1) =>
    if (SMap.find? s.rebuilds home).isSome then .waits
    else if s.agentReachable (64 * i) then .serves else .waits
  | none => if s.agentReachable (64 * home) then .serves else .waits

/-- Requests of a slice wait for its rebuild whatever they ask (R444, R462). -/
def State.rebuilding (s : State) (home : Nat) : Bool :=
  (SMap.find? s.lost home).isSome && (SMap.find? s.rebuilds home).isSome

/-! ### Lines -/

def CLine.empty : CLine := ⟨[], 0⟩

def State.line (s : State) (n : Nat) : CLine := SMap.get CLine.empty s.lines n

def CLine.copy? (x : CLine) (a : Nat) : Option Copy := x.members.find? fun c => c.agent == a

/-- The line's list is a C list (R450). -/
def CLine.isC (x : CLine) : Bool := x.members.any fun c => c.state == .c

/-- Key of a mirrored control byte (R461). -/
def mirrorKey (off : Nat) : Nat := 0x5000000000000000 + off

/-- Sets a line's list; an empty list has PCC 0 (R451). While the home has a mirror, every change is sent to it (R461). -/
def State.setLine (s : State) (n : Nat) (x : CLine) : State :=
  let t := { s with lines := SMap.set CLine.empty s.lines n { x with pcc := if x.members.isEmpty then 0 else x.pcc } }
  if (s.hubGet 0x602 (lineHome n)).testBit 31 then t.post .mirrorUpdate [n] else t

/-- The directory entry of a line (R448): HV, HEAD and PCC. -/
def CLine.entry (x : CLine) : Nat :=
  match x.members with
  | [] => 0
  | c :: _ => 2 ^ 18 + c.agent % 2 ^ 16 * 4 + x.pcc % 4

/-- The home's memory data of a line. -/
def State.homeData (s : State) (n : Nat) : Nat := readMem s.mem (ctlKey (128 * n)) 128

def State.setHomeData (s : State) (n d : Nat) : State := { s with mem := writeMem s.mem (ctlKey (128 * n)) 128 d }

/-- The synchronisation record of a control line (R113). -/
def State.lineRec (s : State) (n : Nat) : Option Rec := SMap.find? s.recs (ctlKey (128 * n) / 128)

/-- Sets the synchronisation record of a control line, or clears it. -/
def State.setLineRec (s : State) (n : Nat) (r : Option Rec) : State :=
  { s with recs := match r with
      | some x => SMap.insert s.recs (ctlKey (128 * n) / 128) x
      | none => SMap.erase s.recs (ctlKey (128 * n) / 128) }

/-- n bytes at offset o of a line's data. -/
def dataBytes (d o n : Nat) : Nat := d / 2 ^ (8 * o) % 2 ^ (8 * n)

def setDataBytes (d o n v : Nat) : Nat := setBits d (8 * (o + n) - 1) (8 * o) v

/-! ### Partials (R456, R458) -/

def Partial.zero : Partial := ⟨0, 0, false, false, false⟩

/-- Bytes of a CFMT element. -/
def cfmtBytes (f : Nat) : Nat := if f = 1 then 8 else 4

/-- The partial with operand x merged. -/
def Partial.merge (p : Partial) (f x : Nat) : Partial :=
  let q := { p with count := p.count + 1 }
  if f = 2 then
    match fmtF32.value x with
    | .nan => { q with nan := true }
    | .inf n => if n then { q with ninf := true } else { q with pinf := true }
    | .fin n m e =>
      let k : Int := (m * 2 ^ (e + 149).toNat : Nat)
      { q with sum := p.sum + (if n then -k else k) }
  else { q with sum := (p.sum + x) % ((2 ^ (8 * cfmtBytes f) : Nat) : Int) }

/-- The exact value of an f32 partial. -/
def Partial.value (p : Partial) : XVal :=
  if p.nan || (p.pinf && p.ninf) then .nan
  else if p.pinf then .inf false
  else if p.ninf then .inf true
  else XVal.ofInt p.sum (-149)

/-- x combined with a partial (R458). -/
def Partial.combine (p : Partial) (f x : Nat) : Nat :=
  if f = 2 then roundCode fmtF32 0 ((fmtF32.value x).add false p.value)
  else (x + p.sum.toNat) % 2 ^ (8 * cfmtBytes f)

/-- A C copy's partials combined into a line's data: the partial of every element, +0 where nothing was merged. -/
def Copy.combine (c : Copy) (d : Nat) : Nat :=
  let n := cfmtBytes c.cfmt
  (List.range (128 / n)).foldl (fun d e =>
    setDataBytes d (n * e) n ((SMap.get Partial.zero c.parts e).combine c.cfmt (dataBytes d (n * e) n))) d

/-- C copies in ascending agent order. -/
def insertCopy (c : Copy) : List Copy → List Copy
  | [] => [c]
  | d :: ds => if c.agent ≤ d.agent then c :: d :: ds else d :: insertCopy c ds

def sortCopies (cs : List Copy) : List Copy := cs.foldl (fun l c => insertCopy c l) []

/-! ### Recall, gather and rollout -/

/-- The home removes every member: M and O data become memory, C partials are gathered in agent order (R457, R458). -/
def State.recall (s : State) (n : Nat) : State :=
  let x := s.line n
  if x.members.isEmpty then s
  else
    let d := match x.members.find? fun c => c.state == .m || c.state == .o with
      | some c => c.data
      | none => s.homeData n
    let d := (sortCopies (x.members.filter fun c => c.state == .c)).foldl (fun d c => c.combine d) d
    (s.setHomeData n d).setLine n CLine.empty

/-- A non-commutative access gathers a C list first (R458). -/
def State.gatherC (s : State) (n : Nat) : State := if (s.line n).isC then s.recall n else s

/-- Rollout of an agent's copy (R451): M and O data and C partials go to the home. -/
def State.rollout (s : State) (a n : Nat) : State :=
  let x := s.line n
  match x.copy? a with
  | none => s
  | some c =>
    let t := match c.state with
      | .m | .o => s.setHomeData n c.data
      | .c => s.setHomeData n (c.combine (s.homeData n))
      | _ => s
    t.setLine n { x with members := x.members.filter fun d => d.agent != a }

/-! ### Reads and writes (R451 to R454) -/

/-- The writer named by an agent's purged tag for a line (R449). -/
def State.tag? (s : State) (a n : Nat) : Option Nat :=
  ((SMap.get [] s.purged a).find? fun (m, _) => m == n).map (·.2)

/-- Keeps a purged tag: at most 256, the oldest replaced. -/
def State.keepTag (s : State) (a n w : Nat) : State :=
  let ts := (SMap.get [] s.purged a).filter fun (m, _) => m != n
  let ts := ts.drop (ts.length - 255) ++ [(n, w)]
  { s with purged := SMap.set [] s.purged a ts }

/-- Replaces the purged tag of a line by the copy taken. -/
def State.dropTag (s : State) (a n : Nat) : State :=
  { s with purged := SMap.set [] s.purged a ((SMap.get [] s.purged a).filter fun (m, _) => m != n) }

/-- A new copy of agent a, with the tag fields of a copy just taken. -/
def State.newCopy (s : State) (a n : Nat) (st : Coh) (d : Nat) : Copy :=
  ⟨a, st, (s.tag? a n).isSome, (s.tag? a n).getD 0, true, 0, d, []⟩

/-- Agent a joins as for a read, or uses the copy it has. -/
def State.cohRead (s : State) (a n : Nat) : State :=
  let s := s.gatherC n
  let x := s.line n
  match x.copy? a with
  | some _ => s.setLine n { x with members := x.members.map fun c => if c.agent = a then { c with used := true } else c }
  | none =>
    match x.members with
    | [] => (s.dropTag a n).setLine n { x with members := [s.newCopy a n .e (s.homeData n)] }
    | h :: cs =>
      let h' := { h with state := match h.state with
        | .m => .o
        | .e => .s
        | k => k }
      (s.dropTag a n).setLine n { x with members := s.newCopy a n .s h.data :: h' :: cs }

/-- The data a reader of line n receives after cohRead. -/
def State.copyData (s : State) (a n : Nat) : Nat :=
  match (s.line n).copy? a with
  | some c => c.data
  | none => s.homeData n

/-- A write at the head: the purge or push of the later members, and the counter (R451 to R454). w is the writer's copy
with the new data. -/
def State.writeAtHead (s : State) (n : Nat) (w : Copy) (later : List Copy) (pcc : Nat) : State :=
  match later with
  | [] => s.setLine n ⟨[{ w with state := .m }], pcc⟩
  | _ =>
    if pcc = 3 then
      let kept := (later.filter fun c => c.used).map fun c => { c with state := .s, data := w.data, used := false }
      let pcc' := if later.all fun c => c.used then 3 else 0
      s.setLine n ⟨{ w with state := if kept.isEmpty then .m else .o } :: kept, pcc'⟩
    else
      let round := later.all fun c => c.reread && c.pwriter == w.agent
      let t := later.foldl (fun t c => t.keepTag c.agent n w.agent) s
      t.setLine n ⟨[{ w with state := .m }], if round then pcc + 1 else 0⟩

/-- A write by agent a of the line's data, changed by f. -/
def State.cohWrite (s : State) (a n : Nat) (f : Nat → Nat) : State :=
  let s := s.gatherC n
  let x := s.line n
  match x.copy? a with
  | some c =>
    let w := { c with data := f c.data, used := true }
    if c.state = .m ∨ c.state = .e then s.setLine n ⟨[{ w with state := .m }], x.pcc⟩
    else s.writeAtHead n w (x.members.filter fun d => d.agent != a) x.pcc
  | none =>
    let d := match x.members with
      | [] => s.homeData n
      | h :: _ => h.data
    (s.dropTag a n).writeAtHead n (s.newCopy a n .m (f d)) x.members x.pcc

/-! ### Commutative adds (R455, R456) -/

/-- An add of x to element e in format f at agent a. A list that is not a C list of this format is recalled first. -/
def State.commAdd (s : State) (a n e f x : Nat) : State :=
  let l := s.line n
  let mergeIn (c : Copy) : Copy :=
    { c with parts := SMap.set Partial.zero c.parts e ((SMap.get Partial.zero c.parts e).merge f x) }
  let fresh : Copy := { s.newCopy a n .c 0 with cfmt := f }
  let same := l.members.all fun c => c.state == .c && c.cfmt == f
  let s := if same then s else s.recall n
  let l := s.line n
  match l.copy? a with
  | some c =>
    if (SMap.get Partial.zero c.parts e).count + 1 = 2 ^ 32 then
      let t := s.rollout a n
      let l := t.line n
      t.setLine n { l with members := mergeIn fresh :: l.members }
    else s.setLine n { l with members := l.members.map fun d => if d.agent = a then mergeIn d else d }
  | none => (s.dropTag a n).setLine n { l with members := mergeIn fresh :: l.members }

/-! ### Waiting (R451, R500)

Kinds of request: 0 read, 1 write, 2 recall, 3 rollout, 4 + f + 3 e a commutative add of CFMT f to element e. -/

/-- CFMT and element of a commutative add, by its kind. -/
def kindFmt (k : Nat) : Nat := (k - 4) % 3

def kindElement (k : Nat) : Nat := (k - 4) / 3

/-- A commutative add to element e that its partial's count does not admit: the agent rolls its copy out first (R456). -/
def Copy.full (c : Copy) (e : Nat) : Bool := (SMap.get Partial.zero c.parts e).count + 1 == 2 ^ 32

/-- The list holds only C copies of CFMT f. -/
def CLine.onlyC (x : CLine) (f : Nat) : Bool := x.members.all fun c => c.state == .c && c.cfmt == f

/-- The other agents that must take a step in a request of agent a for the line (R500). -/
def State.partners (s : State) (kind a n : Nat) : List Nat :=
  let x := s.line n
  let all := x.members.map fun c => c.agent
  let others := all.filter fun b => b != a
  let sides := match all.findIdx? (· == a) with
    | some i => ((if i = 0 then [] else all.drop (i - 1)).take 1) ++ (all.drop (i + 1)).take 1
    | none => []
  match kind with
  | 0 => if x.isC then others else if (x.copy? a).isSome then [] else all.take 1
  | 1 => if x.members.any fun c => c.agent == a && (c.state == .m || c.state == .e) then [] else others
  | 2 => all
  | 3 => sides
  | k =>
    if x.onlyC (kindFmt k) then (if (x.copy? a).any fun c => c.full (kindElement k) then sides else [])
    else others

/-- The request takes a step at the home: agent a has no copy that serves it alone (R451, R456). -/
def State.asksHome (s : State) (kind a n : Nat) : Bool :=
  let x := s.line n
  match kind with
  | 0 => x.isC || (x.copy? a).isNone
  | 1 => x.isC || match x.members with
      | [] => true
      | h :: cs => h.agent != a || !cs.isEmpty
  | 2 => true
  | 3 => match x.copy? a with
      | some c => c.state != .s || (x.members.head?.map fun h => h.agent) == some a
      | none => false
  | k => match x.copy? a with
      | some c => !(c.state == .c && c.cfmt == kindFmt k) || c.full (kindElement k)
      | none => true

/-- Some step of the request must be taken by an agent that cannot be reached. -/
def State.blocked (s : State) (kind a n : Nat) : Bool := (s.partners kind a n).any fun b => !s.agentReachable b

/-- A request of the line waits, and keeps the line busy (R451): of the one being performed, those before it. -/
def State.busy (s : State) (n : Nat) : Bool := (s.waiting.takeWhile fun w => !w.turn).any fun w => w.line == n + 1

/-- A copy of the line is on its way to the home: whoever else asks for the line waits until the write-back has arrived (R459). -/
def State.crossing (s : State) (kind a n : Nat) : Bool := s.leaving.any fun (b, m) => m == n && !(kind == 3 && b == a)

/-- What a request for a line may do, were the line not busy: proceed, wait, or meet a lost slice. A step that the home does not
take needs no home, except while the slice is rebuilt. -/
def State.lineServes (s : State) (kind a n : Nat) : HomeState :=
  let k := s.homeState (lineHome n)
  if k = .gone then .gone
  else if s.crossing kind a n || s.rebuilding (lineHome n) || (s.asksHome kind a n && k != .serves) || s.blocked kind a n then .waits
  else .serves

/-- What a core access to a line of control space may do: a request that the home must take waits behind those that wait. -/
def State.lineState (s : State) (kind a n : Nat) : HomeState :=
  match s.lineServes kind a n with
  | .serves => if s.busy n && s.asksHome kind a n then .waits else .serves
  | k => k

/-- The event being performed is the one that a waiting request posted again: its turn. -/
def State.taken (s : State) (e : Instr) : State :=
  match s.waiting.findIdx? fun w => w.posted && w.event == e && w.args == s.args with
  | some i => { s with waiting := s.waiting.modify i fun w => { w with turn := true } }
  | none => s

/-- Keeps a request that waits, and with it a control line busy, given plus one; 0 for none. One whose turn it is keeps its place. -/
def State.waitLine (s : State) (home line : Nat) (e : Instr) (args : List Nat) : State :=
  match s.waiting.findIdx? fun w => w.turn && w.event == e && w.args == args with
  | some i => { s with waiting := s.waiting.modify i fun w => { w with home := home, line := line, posted := false, turn := false } }
  | none => { s with waiting := s.waiting ++ [⟨home, line, false, e, args, false⟩] }

/-- Keeps a request that waits, of no control line. -/
def State.wait (s : State) (home : Nat) (e : Instr) (args : List Nat) : State := s.waitLine home 0 e args

/-- Posts again the waiting requests that p selects, in arrival order: each is examined anew. One that keeps a line busy stays
in its place until it is applied. -/
def State.repost (s : State) (p : Waiting → Bool) : State :=
  let kept := s.waiting.filter fun w => !(p w && w.line == 0)
  let kept := kept.map fun (w : Waiting) => { w with posted := w.posted || p w }
  (s.waiting.filter fun w => p w && !w.posted).foldl (fun t w => t.post w.event w.args) { s with waiting := kept }

/-- Posts again every request that waits for a home, a link or a rebuild; those that wait for a context stay in their order. -/
def State.retryWaiting (s : State) : State := s.repost fun w => decide (w.home < 2 ^ 32)

/-- Lets what waits behind a request of line n go on. -/
def State.freeLine (s : State) (n : Nat) : State := s.repost fun w => w.line == n + 1

/-- The request whose turn it is waits no more, and what waits behind it for its line goes on. -/
def State.settled (s : State) : State :=
  match s.waiting.find? fun w => w.turn with
  | some w =>
    let t := { s with waiting := s.waiting.eraseP fun w => w.turn }
    if w.line = 0 then t else t.freeLine (w.line - 1)
  | none => s

/-- Performs the event of a unit of the package, which waits for its turn at a line when it must: f leaves it waiting or done. -/
def State.inTurn (s : State) (e : Instr) (f : State → State) : State := (f (s.taken e)).settled

/-- Keeps an event that cannot be served now: at a control line, given plus one, or, with 0, for a cycle. -/
def State.waitOr (s : State) (line : Nat) (e : Instr) (args : List Nat) : State :=
  if line = 0 then s.later e args else s.waitLine (lineHome (line - 1)) line e args

/-- The lines of the n bytes at a domain offset that some agent holds, or that a request keeps busy. -/
def State.heldLines (s : State) (off n : Nat) : List Nat :=
  (s.lines.map (·.1) ++ s.waiting.filterMap fun (w : Waiting) => if w.line = 0 then none else some (w.line - 1)).filter fun l =>
    decide (off < 128 * l + 128) && decide (128 * l < off + n)

/-! ### Applied requests (R461) -/

/-- Whether a request with a sequence number has been applied at the home; the number stands plus one as operand k,
0 for none (R461). -/
def State.seen (s : State) (home a seq : Nat) : Bool :=
  seq != 0 && (SMap.get [] s.applied home).any fun (b, q, _) => b == a && q == seq

/-- Records an applied request with its result; the last 4,096 are kept, of a home and of its mirror alike. -/
def State.record (s : State) (home a seq r : Nat) : State :=
  if seq = 0 then s
  else
    let l := SMap.get [] s.applied home
    { s with applied := SMap.set [] s.applied home (l.drop (l.length - 4095) ++ [(a, seq, r)]) }

/-- The sequence number that operand q names, of 16 bits, plus one; 0 for none. -/
def seqOf (q : Nat) : Nat := if q = 0 then 0 else (q - 1) % 0x10000 + 1

/-- A request of agent a of the package that the home has applied with a result: its number and the result are recorded. -/
def State.ownNumber (s : State) (a n r : Nat) : State :=
  let q := SMap.get 0 s.seqs a
  ({ s with seqs := SMap.set 0 s.seqs a ((q + 1) % 0x10000) } : State).record (lineHome n) a (q + 1) r

/-- A request of agent a of the package, made in state u, that the home has applied, if it asked the home. -/
def State.ownRequest (s u : State) (kind a n : Nat) : State :=
  if u.asksHome kind a n then s.ownNumber a n (s.copyData a n) else s

/-- The update of a line's mirror has not been acknowledged yet: no change of the line is acknowledged before it (R461). -/
def State.mirrorPending (s : State) (n : Nat) : Bool :=
  (s.agenda.any fun (e, as) => e == .mirrorUpdate && as == [n]) || s.waiting.any fun w => w.event == .mirrorUpdate && w.args == [n]

/-- Of the memory keys given, the control lines whose home has a mirror. -/
def State.mirroredLines (s : State) (ks : List Nat) : List Nat :=
  (ks.filterMap fun k =>
    let n := k % 0x1000000000000000 / 128
    if k / 0x1000000000000000 = 1 ∧ (s.hubGet 0x602 (lineHome n)).testBit 31 = true then some n else none).eraseDups

/-! ### Synchronisation records (R98, R113, R114, R440) -/

/-- A record that names a thread, not Matins or a control core. -/
def Rec.thread (r : Rec) : Bool := decide (r.ctx < 0xFFFE)

/-- The record that names a lane. -/
def recOf (s : State) (x : Ctx) (c w l sc : Nat) : Rec :=
  ⟨s.pkg, x.die, c, w, l, x.launch, x.span, x.index, sc, false⟩

/-- Two records name the same lane. -/
def Rec.sameLane (p q : Rec) : Bool :=
  p.thread && q.thread && p.pkg == q.pkg && p.launch == q.launch && p.span == q.span && p.block == q.block &&
    p.wave == q.wave && p.lane == q.lane

/-- Party q lies in the instance of party p at a scope (R96, R97). The die's instance contains the span's, wherever its blocks have
been resumed. -/
def State.inScope (s : State) (sc : Nat) (p q : Rec) : Bool :=
  match sc with
  | 0 => p.thread && q.thread && p.pkg == q.pkg && p.launch == q.launch && p.span == q.span && p.block == q.block &&
      p.wave == q.wave
  | 1 => p.thread && q.thread && p.pkg == q.pkg && p.launch == q.launch && p.span == q.span && p.block == q.block
  | 2 => p.thread && q.thread && p.pkg == q.pkg && p.launch == q.launch && p.span == q.span
  | 3 => p.thread && q.thread && p.pkg == q.pkg && (p.die == q.die || (p.launch == q.launch && p.span == q.span))
  | 4 => p.pkg == q.pkg
  | 5 => p.pkg == q.pkg || (List.range s.domSize).any fun i => s.domPkg? i == some q.pkg
  | _ => true

/-- The scope check of R114 for a lane at scope sc on the record of a line. -/
def State.scopeOk (s : State) (me r : Rec) : Bool :=
  r.chained || (s.inScope me.scope me r && s.inScope r.scope r me)

/-- The new value of an atomic on n bytes: operation of R307, type 0 signed, 1 unsigned, 2 f32. -/
def atomicNew (op f n old x c : Nat) : Nat :=
  let sx (y : Nat) : Int := if f = 0 then signExtend y (8 * n) else (y : Int)
  match op with
  | 0 => if f = 2 then roundCode fmtF32 0 ((fmtF32.value old).add false (fmtF32.value x)) else (old + x) % 2 ^ (8 * n)
  | 1 => if f = 2 then (fpMinMax fmtF32 false old x).1 else if sx old ≤ sx x then old else x
  | 2 => if f = 2 then (fpMinMax fmtF32 true old x).1 else if sx old ≤ sx x then x else old
  | 3 => Nat.land old x
  | 4 => Nat.lor old x
  | 5 => Nat.xor old x
  | 6 => x
  | _ => if old = c then x else old

/-- The record after a step of an atomic (R113): a release side names its lane, with the chained bit set where a valid record
named another lane; another `.sync` atomic leaves it; the other uses clear it. -/
def atomicRecord (old : Option Rec) (me : Rec) (kind use fenced : Nat) : Option Rec :=
  if use ≠ 0 then none
  else if 2 ≤ kind ∨ fenced ≠ 0 then
    let me := if 2 ≤ kind then me else { me with scope := fenced - 1 }
    some { me with chained := match old with
      | some r => !r.sameLane me
      | none => false }
  else old

/-- The party that the operands from k on name (R97, R440): package, die, context, wave, lane, launch, span, block, scope. A
control core is context 0xFFFF, wave 0, scope 5. -/
def partyOf (as : List Nat) (k : Nat) : Rec :=
  let g (i : Nat) : Nat := as.getD (k + i) 0
  ⟨g 0, g 1, g 2, g 3, g 4, g 5, g 6, g 7, g 8, false⟩

/-- The party of an acquire, or of a `.sync` atomic, may read the line: no record out of its scope stands (R114). -/
def State.passes (s : State) (n : Nat) (me : Rec) : Bool :=
  match s.lineRec n with
  | some r => s.scopeOk me r
  | none => true

/-! ### Single values for the package's own units -/

/-- n bytes at a domain offset, read by agent a. -/
def State.ctlRead (s : State) (a off n : Nat) : Nat × State :=
  let t := (s.cohRead a (off / 128)).ownRequest s 0 a (off / 128)
  (dataBytes (t.copyData a (off / 128)) (off % 128) n, t)

/-- n bytes stored at a domain offset by agent a. -/
def State.ctlWrite (s : State) (a off n v : Nat) : State :=
  (s.cohWrite a (off / 128) fun d => setDataBytes d (off % 128) n v).ownRequest s 1 a (off / 128)

/-- A recall, then a change of memory at the home (R457). -/
def State.homeUpdate (s : State) (off n v : Nat) : State :=
  ((s.recall (off / 128)).put (ctlKey off) n v).setLine (off / 128) CLine.empty

/-- A write at the home by an engine of the package: it clears the record of the line (R113). -/
def State.homeStore (s : State) (off n v : Nat) : State := (s.homeUpdate off n v).setLineRec (off / 128) none

/-- Such a write of n bytes within a line, kept while an agent that holds the line cannot be reached: what it keeps is performed by
PCIE_CONTROL_MEMORY_ACCESS, whose way to the home is the same (R500, log 15). -/
def State.homeStoreOr (s : State) (off n v : Nat) : State :=
  if s.lineState 2 0 (off / 128) = .serves then s.homeStore off n v
  else s.waitLine (lineHome (off / 128)) (off / 128 + 1) .pcieControlMemoryAccess [2, off, n, v]

/-- An atomic at the home on n bytes: the value found, and the state (R457). -/
def State.homeAtomic (s : State) (off n : Nat) (f : Nat → Nat) : Nat × State :=
  let old := readMem (s.recall (off / 128)).mem (ctlKey off) n
  (old, s.homeUpdate off n (f old))

/-- A commutative add on a commutative page: merged at the agent, or, when the line holds a C list of another format,
executed at the home (R455, R456); one that meets poison there changes nothing (R27). -/
def State.pageAdd (s : State) (a n e f x : Nat) : State :=
  let l := s.line n
  if l.isC && l.members.any fun c => c.cfmt != f then
    if poisoned s (ctlKey (128 * n + cfmtBytes f * e)) (cfmtBytes f) then s
    else (s.homeAtomic (128 * n + cfmtBytes f * e) (cfmtBytes f) fun old =>
      if f = 2 then (fpAdd fmtF32 0 old x).1 else (old + x) % 2 ^ (8 * cfmtBytes f)).2
  else s.commAdd a n e f x

/-! ### The coherence events -/

/-- The rollout of a copy is over. -/
def State.arrived (s : State) (kind a n : Nat) : State :=
  if kind = 3 then { s with leaving := s.leaving.filter fun k => k != (a, n) } else s

/-- The repair after a declaration is due: what arrived before the declaration is applied before it (R498). -/
def State.repairDue (s : State) : Bool := s.agenda.any fun (e, as) => e == .peerDeclare && !as.isEmpty

/-- A coherence request for a line: applied once, or kept, with its line busy, while its home or a partner cannot act or an
earlier request of the line waits. A lost slice answers nothing, and an agent of a declared package is answered nothing. apply gives
the state and the result. -/
def cohRequest (e : Instr) (s : State) (kind a n q : Nat) (apply : State → Nat × State) :
    Host.Outcome State Fault Refusal :=
  let seq := seqOf q
  let u := s.taken e
  let kept := u.waitLine (lineHome n) (n + 1) e s.args
  let gone : State := { u with waiting := u.waiting.eraseP fun w => w.turn }.arrived kind a n
  .next (
    if s.seen (lineHome n) a seq || (s.deadAgent a && !s.repairDue) then gone.freeLine n
    else if u.busy n then kept
    else match u.lineServes kind a n with
      | .serves =>
        let (r, t) := apply gone
        (t.record (lineHome n) a seq r).freeLine n
      | .waits => kept
      | .gone => gone.freeLine n)

/-- The state after a request whose result is the data of agent a's copy. -/
def State.dataOf (s : State) (a n : Nat) : Nat × State := (s.copyData a n, s)

/-- COH_READ: agent, line, sequence number plus one, 1 for an acquire and its party. An acquire out of scope is not performed: its
issuer traps (R114). -/
def execCohRead (s : State) := cohRequest .cohRead s 0 (s.arg 0) (s.arg 1) (s.arg 2) fun t =>
  if s.arg 3 = 1 ∧ t.passes (s.arg 1) (partyOf s.args 4) = false then (0, t)
  else (t.cohRead (s.arg 0) (s.arg 1)).dataOf (s.arg 0) (s.arg 1)

/-- COH_WRITE: agent, line, sequence number plus one, byte offset, bytes, value, 1 for a release and its party. A plain store
clears the record of the line, a release sets it (R113). -/
def execCohWrite (s : State) :=
  cohRequest .cohWrite s 1 (s.arg 0) (s.arg 1) (s.arg 2) fun t =>
    let o := s.arg 3 % 128
    let k := Nat.min (s.arg 4) (128 - o)
    let u := t.cohWrite (s.arg 0) (s.arg 1) fun d => setDataBytes d o k (s.arg 5)
    let u := clearPoison u (ctlKey (128 * s.arg 1 + o)) k
    (u.setLineRec (s.arg 1) (if s.arg 6 = 1 then some (partyOf s.args 7) else none)).dataOf (s.arg 0) (s.arg 1)

/-- COH_ROLLOUT: agent, line, sequence number plus one. A copy in M or O goes into the agent's write-back buffer, and the request to the
home follows (R459). -/
def execCohRollout (s : State) :=
  if ((s.line (s.arg 1)).copy? (s.arg 0)).any (fun c => c.state == .m || c.state == .o) && !s.leaving.contains (s.arg 0, s.arg 1) &&
      !s.seen (lineHome (s.arg 1)) (s.arg 0) (seqOf (s.arg 2)) then
    .next (({ s with leaving := (s.arg 0, s.arg 1) :: s.leaving } : State).post .cohRollout s.args)
  else cohRequest .cohRollout s 3 (s.arg 0) (s.arg 1) (s.arg 2) fun t => (t.rollout (s.arg 0) (s.arg 1)).dataOf (s.arg 0) (s.arg 1)

/-- COMM_ADD_REQUEST: agent, line, sequence number plus one, element, CFMT, operand. A C list of another format makes
the add non-commutative: it executes at the home (R455, R457). -/
def execCommAddRequest (s : State) :=
  let f := s.arg 4 % 3
  let e := s.arg 3 % (128 / cfmtBytes f)
  cohRequest .commAddRequest s (4 + f + 3 * e) (s.arg 0) (s.arg 1) (s.arg 2) fun t =>
    (0, (t.pageAdd (s.arg 0) (s.arg 1) e f (s.arg 5 % 2 ^ (8 * cfmtBytes f))).setLineRec (s.arg 1) none)

/-- A lane's step of an atomic of a control core or of another package at the home: the record it leaves (R113), and its old value with
those of the lanes before it, 64 bits each. As far as an earlier lane's record concerns it, the lanes of one wave are in scope. -/
def homeLane (off k op f use kind fenced : Nat) (me : Rec) (acc : Nat × Nat × State) (l : Nat × Nat × Nat) : Nat × Nat × State :=
  let (i, r, t) := acc
  let (old, u) := t.homeAtomic off k fun old => atomicNew op f k old (l.2.1 % 2 ^ (8 * k)) (l.2.2 % 2 ^ (8 * k))
  (i + 1, r + old * 2 ^ (64 * i),
    u.setLineRec (off / 128) (atomicRecord (t.lineRec (off / 128)) { me with lane := l.1 } kind use fenced))

/-- The further lanes of an instruction on one word: lane, operand and compare value of each. -/
def moreLanes : List Nat → List (Nat × Nat × Nat)
  | l :: x :: c :: as => (l, x, c) :: moreLanes as
  | _ => []

/-- HOME_ATOMIC_RECALL: line; and, for an atomic of a control core or of another package's lanes, its agent, sequence number plus
one, byte offset, bytes 4 or 8, operation, type, operand, compare value, USE, KIND and its party, the widest scope of a fence with a
release side before it plus one, and lane, operand and compare value of each further lane that names the word, in lane order. The
home recalls the line, and the lanes' steps execute there with nothing between them (R109, R113, R124, R457); one that traps, or meets
poison, changes nothing (R27, R114). -/
def execHomeAtomicRecall (s : State) :=
  let n := s.arg 0
  let g (k : Nat) : Nat := s.arg k
  cohRequest .homeAtomicRecall s 2 (if g 4 = 0 then s.dieAgent 0 else g 1) n (g 2) fun t =>
    let k := if g 4 = 8 then 8 else 4
    let off := 128 * n + g 3 % 128 / k * k
    let me := partyOf s.args 11
    if g 4 = 0 then (0, t.recall n)
    else if poisoned t (ctlKey off) k || (g 9 == 0 && !t.passes n me) then (0, t)
    else ((me.lane, g 7, g 8) :: moreLanes (s.args.drop 21)).foldl
      (homeLane off k (g 5 % 8) (g 6 % 3) (g 9) (g 10 % 4) (g 20) me) (0, 0, t) |>.2

/-- GATHER: line. -/
def execGather (s : State) :=
  cohRequest .gather s 2 (s.dieAgent 0) (s.arg 0) 0 fun t => (0, t.gatherC (s.arg 0))

/-- Copies a slice's memory, records and directory entries to its mirror. -/
def State.mirrorSlice (s : State) (h : Nat) : State :=
  let inSlice (base k : Nat) : Bool := decide (base + h * 0x1000000000 ≤ k) && decide (k < base + (h + 1) * 0x1000000000)
  let old := s.mem.filter fun (k, _) => !inSlice 0x5000000000000000 k
  let own := s.mem.filter fun (k, _) => inSlice 0x1000000000000000 k
  let mem := own.foldl (fun m (k, b) => SMap.insert m (k + 0x4000000000000000) b) old
  let oldR := s.recs.filter fun (k, _) => !inSlice 0x5000000000000000 (128 * k)
  let ownR := s.recs.filter fun (k, _) => inSlice 0x1000000000000000 (128 * k)
  let recs := ownR.foldl (fun m (k, r) => SMap.insert m (k + 0x80000000000000) r) oldR
  let kept := s.mdir.filter fun (n, _) => lineHome n != h
  let mdir := s.lines.foldl (fun m (n, (x : CLine)) => if lineHome n = h then SMap.set 0 m n x.entry else m) kept
  { s with mem := mem, recs := recs, mdir := mdir }

/-- A re-mirroring is in progress: a new mirror has been written, and the slice is still to be copied (R447, R461). -/
def State.remirroring (s : State) : Bool :=
  (s.agenda.any fun (e, as) => e == .mirrorUpdate && as.length == 3) || s.waiting.any fun w => w.event == .mirrorUpdate && w.args.length == 3

/-- The mirror takes a line's memory data, but what is poisoned of it, its synchronisation record and its directory entry (R461). -/
def State.updateMirror (s : State) (n : Nat) : State :=
  let t := (List.range 4).foldl (fun (t : State) j =>
    let k := 128 * n + 32 * j
    if poisoned t (ctlKey k) 32 then t else t.put (mirrorKey k) 32 (readMem t.mem (ctlKey k) 32)) s
  let recs := match s.lineRec n with
    | some r => SMap.insert t.recs (mirrorKey (128 * n) / 128) r
    | none => SMap.erase t.recs (mirrorKey (128 * n) / 128)
  { t with recs := recs, mdir := SMap.set 0 t.mdir n (s.line n).entry }

/-- MIRROR_UPDATE: line; or home, its new mirror and 1, for a copy of every line of the slice, after which the new mirror takes effect
(R461). While the mirror cannot be reached the update waits, and with it its line. -/
def execMirrorUpdate (s : State) : Host.Outcome State Fault Refusal :=
  let u := s.taken .mirrorUpdate
  .next (
    if s.args.length = 3 then
      let h := s.arg 0
      if s.agentReachable (64 * s.arg 1) then (u.settled.mirrorSlice h).hubSet 0x602 h (s.arg 1 % 1024 + 2 ^ 31)
      else u.wait (s.arg 1) .mirrorUpdate s.args
    else
      let n := s.arg 0
      let m := s.hubGet 0x602 (lineHome n)
      if m.testBit 31 && !s.agentReachable (64 * (m % 1024)) then u.waitLine (m % 1024) (n + 1) .mirrorUpdate s.args
      else u.settled.updateMirror n)

/-- AGENT_REPORT: agent, home. The agent rolls out its copies of the slice: the data of a valid copy is the data of record,
partials wait for the gather (R462 step 2). The last report leads to the rebuild. A report made before this package declares
the loss waits for its declaration, the one of a second loss too; that of an agent of a lost package, and any on a slice that is gone,
changes nothing. -/
def execAgentReport (s : State) : Host.Outcome State Fault Refusal :=
  let a := s.arg 0
  let h := s.arg 1
  .next (match SMap.find? s.rebuilds h with
    | none =>
      if s.deadAgent a || SMap.find? s.lost h == some 0 then (s.taken .agentReport).settled
      else (s.taken .agentReport).wait h .agentReport s.args
    | some r =>
      if r.left.contains a then
        let mine := s.lines.filter fun (n, x) => lineHome n == h && (x.copy? a).isSome
        let r := mine.foldl (fun r (n, x) => match x.copy? a with
          | some c =>
            if c.state = .c then { r with parts := SMap.set [] r.parts n (c :: SMap.get [] r.parts n) }
            else { r with data := SMap.insert r.data n c.data }
          | none => r) r
        let r := { r with left := r.left.filter fun b => b != a }
        let ls := mine.foldl (fun ls (n, x) =>
          SMap.set CLine.empty ls n { x with members := x.members.filter fun c => c.agent != a }) s.lines
        let t := { s with lines := ls, rebuilds := SMap.insert s.rebuilds h r }
        if r.left.isEmpty then t.post .sliceRebuildComplete [h] else t
      else s)

/-- The bytes of a home's slice at the keys of another store: base is the store's first key of domain offset 0. -/
def sliceKey (base h k : Nat) : Bool :=
  decide (base + h * 0x1000000000 ≤ k) && decide (k < base + (h + 1) * 0x1000000000)

/-- The mirror rebuilds the slice (R462 step 3): memory, and what of it is poisoned, is the mirror's, then the data of record,
then the partials; the entries are empty and the records the mirrored ones. Waiting requests are served next. -/
def State.rebuildSlice (s : State) (h : Nat) (r : Rebuild) : State :=
  let kept := s.mem.filter fun (k, _) => !sliceKey 0x1000000000000000 h k
  let back := s.mem.filter fun (k, _) => sliceKey 0x5000000000000000 h k
  let mem := back.foldl (fun m (k, b) => SMap.set emptyByte m (k - 0x4000000000000000) b) kept
  let recKept := s.recs.filter fun (k, _) => !sliceKey 0x1000000000000000 h (128 * k)
  let recBack := s.recs.filter fun (k, _) => sliceKey 0x5000000000000000 h (128 * k)
  let recs := recBack.foldl (fun m (k, x) => SMap.insert m (k - 0x80000000000000) x) recKept
  let poisonKept := s.poison.filter fun (u, _) => !sliceKey 0x1000000000000000 h (32 * u)
  let poisonBack := s.poison.filter fun (u, _) => sliceKey 0x5000000000000000 h (32 * u)
  let poison := poisonBack.foldl (fun m (u, x) => SMap.insert m (u - 0x4000000000000000 / 32) x) poisonKept
  let t := { s with
    mem := mem, recs := recs, poison := poison
    lines := s.lines.filter fun (n, _) => lineHome n != h
    leaving := s.leaving.filter fun (_, n) => lineHome n != h
    mdir := s.mdir.filter fun (n, _) => lineHome n != h
    rebuilds := SMap.erase s.rebuilds h }
  let t := r.data.foldl (fun t (n, d) => t.put (ctlKey (128 * n)) 128 d) t
  let t := r.parts.foldl (fun t (n, cs) =>
    t.setHomeData n ((sortCopies cs).foldl (fun d c => c.combine d) (t.homeData n))) t
  t.retryWaiting

/-- SLICE_REBUILD_COMPLETE: home. SYSSTAT[1] and CHSTAT[1] clear with the last rebuild (R447, R496). -/
def execSliceRebuildComplete (s : State) : Host.Outcome State Fault Refusal :=
  .next (match SMap.find? s.rebuilds (s.arg 0) with
    | some r => if r.left.isEmpty then s.rebuildSlice (s.arg 0) r else s
    | none => s)

end Sys2Proof.Machine
end

