-- ==== Sys2Proof/Machine/Ops.lean ====
section
/-! DEFINITION. Ops.lean: event records (R425), spans and drains (R398, R405), taking a fault or trap (R399, R442) and the
return from one (R400), and the end of an operation in flight. -/
namespace Sys2Proof.Machine

/-! ### Event records (R425, R426) -/

/-- Writes an event record with its time into the ring, at the home of its line, and raises the interrupt, or drops it (R425, R426).
One whose line cannot be recalled waits for it, and EVTAIL with it (R500, log 15). -/
def State.eventRecordAt (s : State) (type queue ctx code data time : Nat) : State :=
  let size := s.hubGet 0x432 0
  let lost := s.hubSet 0x435 0 (Nat.min 0xFFFFFFFF (s.hubGet 0x435 0 + 1))
  if size = 0 then lost
  else if s.hubGet 0x433 0 = (s.hubGet 0x434 0 + 2 ^ size) % 0x100000000 then lost
  else
    let rec' := type + queue * 2 ^ 36 + ctx * 2 ^ 48 + code * 2 ^ 64 + data * 2 ^ 128 + time * 2 ^ 192
    let off := (s.hubGet64 0x430 0 + 32 * (s.hubGet 0x433 0 % 2 ^ size)) % 2 ^ 36 + s.homeBase
    if s.lineState 2 0 (off / 128) = .serves then
      ({ s.homeStore off 32 rec' with interrupts := s.interrupts + 1 } : State).hubSet 0x433 0 ((s.hubGet 0x433 0 + 1) % 0x100000000)
    else s.waitLine (lineHome (off / 128)) (off / 128 + 1) .pcieControlMemoryAccess [3, type, queue, ctx, code, data, time]

/-- Writes an event record of now. -/
def State.eventRecord (s : State) (type queue ctx code data : Nat) : State :=
  s.eventRecordAt type queue ctx code data s.clock.toNat

/-! ### Spans and drains -/

/-- The live contexts of the span of context c (R51, R398). -/
def State.spanOf (s : State) (c : Nat) : List Nat :=
  match s.ctx? c with
  | none => []
  | some x => (s.ctxs.filter fun (_, y) => y.launch == x.launch && y.span == x.span && y.state != .free && y.state != .retiring).map (·.1)

/-- Starts the drain of every block of the span of c, to end in the given state (R398, R405, R469). A resident
block stops issuing at once; waves at the rendezvous latch stay before their mma (R332). A trap with no handler that falls
into a drain makes it one to Halted (R399, R408). -/
def State.startDrain (s : State) (c : Nat) (g : Goal) (e : Instr) : State :=
  (s.spanOf c).foldl (fun t b =>
    match t.ctx? b with
    | some x =>
      if (x.state = .resident ∧ x.goal = .none) ∨ (g = .halted ∧ (x.goal = .saved ∨ x.goal = .stopped)) then
        (t.modCtx b fun y => { y with
            goal := g, state := (if g = .stopped then .resident else .saving), busy := true,
            waves := SMap.mapVals y.waves fun _ v => { v with rend := none },
            mat := { y.mat with latch := none } }).post e [b]
      else t
    | none => t) s

/-- The stop record of every block of the span of c: the given one for c, cause 5 for the others (R469, R470). -/
def State.markStop (s : State) (c : Nat) (k : StopRec) : State :=
  (s.spanOf c).foldl (fun t b => t.modCtx b fun x =>
    { x with stop := if b = c then k else ⟨5, 0, 0, k.wave, 0⟩ }) s

/-! ### Taking a fault or trap, and the return from one -/

/-- The record in TCAUSE, TMASK and TVAL (R437). Delivery of an overwrite fault clears OVWPEND of its lanes (R137). -/
def Wave.record (v : Wave) (t : Trap) : Wave :=
  { v with
    lanes := if t.cls = 6 then SMap.mapVals v.lanes fun l n =>
        if t.mask.testBit l then { n with lsw := word (setBits n.lsw.toNat 8 8 0) } else n
      else v.lanes
    tcause := word (t.cls + t.detail * 0x100 + t.lane * 0x40000)
    tmask := word t.mask
    tval := BitVec.ofNat 64 t.tval }

/-- Handler entry (R399 steps 2 to 4): EPC receives each lane's resume point, its guard and parked state are
kept, and the lane continues unparked and unguarded at TVEC. A lane parked at tbar.wait or ntf.wait holds that
instruction's address as its program counter, one parked at bar.sync or wfe the address after it. -/
def Wave.enter (v : Wave) (tvec : Dword) (t : Trap) : Wave :=
  let u := v.record t
  { u with
    hmode := true
    trap := none
    lanes := SMap.mapVals u.lanes fun _ n =>
      if n.exited then n
      else { n with
        epc := n.pc
        kept := ⟨n.gcount, n.gpred, n.park⟩, owed := n.owed.map fun o => if o.waits = .lane then { o with waits := .kept } else o
        park := .none, gcount := 0, gpred := false
        pc := tvec, age := 0 } }

/-- Delivers a trap to a wave with no instruction in flight: handler mode, or with no handler the block halts with
the record kept and an event of type 2 (R399, R442). -/
def State.deliver (s : State) (c w : Nat) (t : Trap) : State :=
  match s.ctx? c, s.wave? c w with
  | some x, some v =>
    if x.tvec = 0 ∨ v.hmode = true then
      ((s.modWave c w fun u => { u.record t with trap := none }).startDrain c .halted .saveComplete).eventRecord
        2 x.queue c t.cls t.tval
    else s.modWave c w fun u => u.enter x.tvec t
  | _, _ => s

/-- Taking a fault or trap (R399, R442): at once when no instruction of the wave is in flight; otherwise the
wave waits for them, and HANDLER_ENTRY follows. A trap empties a latch of the wave (R330). -/
def State.takeTrap (s : State) (c w : Nat) (t : Trap) : State :=
  let u := s.modCtx c fun x => x.unlatch fun k => k.ofWave w
  if u.waveBusy c w then u.modWave c w fun v => { v with trap := some t } else u.deliver c w t

/-- An arrival still to be applied, at the return from handler mode: one that the kept state waits for is the lane's again, and no lane
waits for one made in handler mode, which is not lost (R292). -/
def Owed.left (o : Owed) : Owed :=
  { o with waits := match o.waits with
      | .kept => .lane
      | _ => .none }

/-- The return from handler mode (R400). What a phase that completed in the meantime did to a lane parked at a
named barrier stands in its kept state; a lane parked at tbar.wait or ntf.wait issues that instruction again. -/
def Wave.leave (v : Wave) : Wave :=
  { v with
    hmode := false
    event := if v.lanes.any (fun (_, n) => !n.exited && n.kept.park == .wfe) then false else v.event
    lanes := SMap.mapVals v.lanes fun _ n =>
      if n.exited then n
      else
        { n with
          pc := n.epc, gcount := n.kept.gcount, gpred := n.kept.gpred, age := 0
          park := (match n.kept.park with
            | .bar b => .bar b
            | .wfe => if v.event then .none else .wfe
            | _ => .none)
          owed := n.owed.map Owed.left
          kept := ⟨0, false, .none⟩ } }

/-- What may go on when a wave of context c has nothing in flight: its pending handler entry (R399), its retirement (R290);
and when the context has none: its stop, its save or halt (R405, R469), and, whatever others do with its windows, its
retirement (R49). -/
def State.afterWork (s : State) (c w : Nat) : State :=
  let t := match s.wave? c w with
    | some v =>
      if s.waveBusy c w then s
      else
        let t := if v.trap.isSome then s.post .handlerEntry [c, w] else s
        if !v.retired && v.lanes.all (fun (_, n) => n.exited) then t.post .waveRetire [c, w] else t
    | none => s
  match t.ctx? c with
  | some x =>
    if x.goal = .none then
      if !t.ctxWorks c && x.waves.all (fun (_, v) => v.retired) then t.post .blockRetire [c] else t
    else if t.ctxBusy c then t
    else if x.goal = .stopped then t.post .stopComplete [c]
    else t.post .saveComplete [c]
  | none => t

/-- An operation that no longer waits for operation id. -/
def OpKind.without (id : Nat) (k : OpKind) : OpKind :=
  match k with
  | .fence k sc ws => .fence k sc (ws.filter (· ≠ id))
  | .tfence ws => .tfence (ws.filter (· ≠ id))
  | .tlbinv f p a ws => .tlbinv f p a (ws.filter (· ≠ id))
  | k => k

/-- It waits for operation id alone. -/
def OpKind.waitsFor (id : Nat) (k : OpKind) : Bool :=
  match k with
  | .fence _ _ ws | .tfence ws | .tlbinv _ _ _ ws => ws == [id]
  | _ => false

/-- The event that completes an operation which has waited. -/
def OpKind.endEvent (k : OpKind) : Instr :=
  match k with
  | .tlbinv .. => .tlbinvComplete
  | _ => .instructionComplete

/-- The contexts into whose windows an operation lands. -/
def OpKind.receivers (k : OpKind) : List Nat :=
  match k with
  | .copy _ _ _ _ _ _ ts _ _ => ts
  | _ => []

/-- Ends an operation in flight. Fences and tlbinv that waited for it alone complete next (R314, R122, R404), and what waited for its wave,
its context and its receivers goes on. -/
def State.endOp (s : State) (id : Nat) : State :=
  match s.op? id with
  | none => s
  | some o =>
    let t := (s.ops.filter fun (_, p) => p.kind.waitsFor id).foldl (fun (t : State) (j, (p : Op)) => t.post p.kind.endEvent [j]) s
    let t := { t with ops := SMap.mapVals (SMap.erase s.ops id) fun _ p => { p with kind := p.kind.without id } }
    o.kind.receivers.foldl (fun t c => t.afterWork c 0) (t.afterWork o.ctx o.wave)

end Sys2Proof.Machine
end

