-- ==== Sys2Proof/Machine/Issue.lean ====
section
/-! DEFINITION. Issue.lean: issuing an instruction for its run: the checks every instruction meets (R221, R441),
what passing an instruction does to the lanes of the run (R41, R207, R218 to R220), and what a meaning answers. -/
namespace Sys2Proof.Machine

/-- What a meaning answers: the state after its effect; the state after it and a trap that follows the
instruction; a precise fault, of which no effect stands (R11); one of an access, beside the state whose translation caches stay,
for a cached translation without the permission is gone (R435); or that it cannot issue yet (R42). -/
inductive Result where
  | done (s : State)
  | after (s : State) (t : Trap)
  | trap (t : Trap)
  | miss (t : Trap) (u : State)
  | stall (s : State)
  deriving DecidableEq, Repr

end Sys2Proof.Machine

namespace Sys2Proof

/-- The feature-word bits an instruction belongs to (R237). -/
def Instr.features : Instr → List Nat
  | .mcfg _ _ | .gang _ | .mmaS8 _ _ _ _ | .mmaBf16 _ _ _ _ | .mmaF16 _ _ _ _ | .mzero _ _ | .mrd _ _ _ _
  | .mwr _ _ _ _ | .mscale _ _ _ => [0]
  | .mmaE2m1 _ _ _ _ _ | .mmaE4m3 _ _ _ _ _ _ | .mmaE5m2 _ _ _ _ _ _ => [0, 1]
  | .rgnSet _ _ _ | .rgnPre _ _ | .rgnFlush _ _ | .rgnDrop _ _ | .rgnStat _ _ _ | .tbarInit _ _
  | .tbarArrive _ _ | .tbarWait _ _ | .tbarTest _ _ _ | .tbarRead _ _ _ => [2]
  | .chain _ _ => [3]
  | .rcap _ _ _ _ | .rcapL _ _ _ _ | .arm _ _ _ | .sendstat _ _ _ | .sendW _ _ _ _ _ _ | .sendL _ _ _ _ _ _ => [4]
  | .ntfRead _ _ _ | .ntfWait _ _ | .ntfWrite _ _ _ | .sqProp _ _ _ | .sqVerify _ _ _ | .sqCommit _ _
  | .sqCommitD _ _ | .sqNext _ _ _ | .sqWatch _ _ _ | .sqRead _ _ _ | .sqCtlOpen _ _ | .sqCtlClose _ _ _
  | .sqCtlResume _ _ _ | .sqCtlSetclass _ _ _ | .sqCtlSetmask _ _ _ | .sqCtlSetcnt _ _ _
  | .sqCtlClrdraft _ _ _ | .sqCtlClrfq _ _ _ => [5]
  | .cvt _ _ _ _ _ m _ _ => if m = 4 then [6] else []
  | .qput _ _ _ => [7]
  | _ => []

/-- Bit of the launch descriptor that an instruction needs: 102 FMATRIX, 101 FFABRIC, 100 FVESPER (R59, R237). -/
def Instr.flagBit (i : Instr) : Option Nat :=
  match i.features with
  | 0 :: _ => some 102
  | [5] => some 100
  | _ => match i with
    | .rcap _ _ _ _ | .rcapL _ _ _ _ | .arm _ _ _ => some 101
    | _ => none

/-- The privileged majors 0x79 to 0x7C (R236). -/
def Instr.privileged : Instr → Bool
  | .sysr _ _ | .sysw _ _ | .eret | .halt | .wfe | .tlbinvPage _ | .tlbinvPart _ | .tlbinvAll => true
  | _ => false

/-- sysr and sysw of the group table registers, refused at every level (R396). -/
def Instr.groupRegister : Instr → Bool
  | .sysr _ n | .sysw _ n => decide (0x0E0 ≤ n ∧ n ≤ 0x0E4) || decide (n = 0x0E5)
  | _ => false

/-- Instructions that read or write memory, themselves or by the operation they issue (R116, R119, R314, R338, R501). -/
def Instr.accesses : Instr → Bool
  | .ld _ _ _ _ _ | .ldAcq _ _ _ _ _ | .st _ _ _ _ | .stRel _ _ _ _ _ | .lds _ _ _ _ _ | .ldsAcq _ _ _ _ _
  | .sts _ _ _ _ | .stsRel _ _ _ _ _ | .atom _ _ _ _ _ _ _ _ _ _ _ | .atoms _ _ _ _ _ _ _ _ _ _ _
  | .ratom _ _ _ _ _ _ _ | .mcfg _ _ | .rgnSet _ _ _ | .chain _ _ | .sqWatch _ _ _ | .qput _ _ _ => true
  | .tbarInit _ _ | .tbarArrive _ _ | .tbarWait _ _ | .tbarTest _ _ _ | .tbarRead _ _ _ => true
  | .rgnPre _ _ | .rgnFlush _ _ | .rgnDrop _ _ | .mmaE2m1 _ _ _ _ _ | .mmaE4m3 _ _ _ _ _ _ | .mmaE5m2 _ _ _ _ _ _
  | .mmaS8 _ _ _ _ | .mmaBf16 _ _ _ _ | .mmaF16 _ _ _ _ => true
  | _ => false

/-- Instructions whose accesses the checks of a lane's address do not hold back: those that hand accesses to an engine, step a
barrier, or read operands of the matrix unit. They wait for the wave's earlier stores and atomics (R100, R116, R117, R119). -/
def Instr.handsOver : Instr → Bool
  | .tbarInit _ _ | .tbarArrive _ _ | .tbarWait _ _ | .tbarTest _ _ _ | .tbarRead _ _ _ => true
  | .rgnPre _ _ | .rgnFlush _ _ | .rgnDrop _ _ | .chain _ _ => true
  | .mmaE2m1 _ _ _ _ _ | .mmaE4m3 _ _ _ _ _ _ | .mmaE5m2 _ _ _ _ _ _
  | .mmaS8 _ _ _ _ | .mmaBf16 _ _ _ _ | .mmaF16 _ _ _ _ => true
  | _ => false

/-- Stores and atomics (R122, R315). -/
def Instr.stores : Instr → Bool
  | .st _ _ _ _ | .stRel _ _ _ _ _ | .sts _ _ _ _ | .stsRel _ _ _ _ _ | .atom _ _ _ _ _ _ _ _ _ _ _
  | .atoms _ _ _ _ _ _ _ _ _ _ _ | .ratom _ _ _ _ _ _ _ => true
  | _ => false

/-- Sends with release: a tfence holds them with the stores (R125). -/
def Instr.sendsRelease : Instr → Bool
  | .sendW _ _ _ _ r _ | .sendL _ _ _ _ r _ => decide (r = 1)
  | _ => false

/-- Instructions that act as a release of the lane's earlier accesses before they take effect
(R105, R118, R121, R293, R350, R354, R360, R395). -/
def Instr.releases : Instr → Bool
  | .stRel _ _ _ _ _ | .stsRel _ _ _ _ _ => true
  | .atom _ _ _ _ _ kind _ _ _ _ _ | .atoms _ _ _ _ _ kind _ _ _ _ _ => decide (2 ≤ kind)
  | .sendW _ _ _ _ r _ | .sendL _ _ _ _ r _ => decide (r = 1)
  | .barSync _ | .barArrive _ | .tbarArrive _ _ | .sqCommit _ _ | .sqCommitD _ _ | .sqProp _ _ _
  | .ntfWrite _ _ _ | .qput _ _ _ | .tlbinvPage _ | .tlbinvPart _ | .tlbinvAll => true
  | .sysw _ n => decide (0x040 ≤ n)
  | _ => false

/-- Release accesses: they do not order an earlier `.unpaired` atomic before themselves (R100). Every other release orders all earlier
accesses of the lane (R118, R121, R125, R293). -/
def Instr.releaseAccess : Instr → Bool
  | .stRel _ _ _ _ _ | .stsRel _ _ _ _ _ | .atom _ _ _ _ _ _ _ _ _ _ _ | .atoms _ _ _ _ _ _ _ _ _ _ _ => true
  | _ => false

/-- `.unpaired` atomics, which an acquire does not order after itself (R100). -/
def Instr.unpaired : Instr → Bool
  | .atom _ _ _ _ _ _ _ use _ _ _ | .atoms _ _ _ _ _ _ _ use _ _ _ => decide (use = 1)
  | _ => false

/-- Stores, atomics, sends and named-barrier arrivals make the aging count zero (R43, R142, R291). -/
def Instr.resetsAge : Instr → Bool
  | .sendW _ _ _ _ _ _ | .sendL _ _ _ _ _ _ | .barSync _ | .barArrive _ => true
  | i => i.stores

/-- Registers numbered by rcap's range (R131). -/
def Instr.minted : Instr → List Nat
  | .rcap _ b n _ | .rcapL _ b n _ => regGroup b (n + 1)
  | _ => []

end Sys2Proof

namespace Sys2Proof.Machine

/-- Instructions that read a lane's flags or clear them, and so wait for every earlier flag-setting instruction of
the wave (R198, R245, R276). -/
def readsFlags : Instr → Bool
  | .flagr _ | .flagrWave _ | .flagc => true
  | .sreg _ i => decide (i = 31)
  | _ => false

/-- The lanes, of 0 to 31 (R36), of the run that are not predicated off by a guard (R10, R219). -/
def Wave.active (v : Wave) (run : List Nat) : List Nat :=
  run.filter fun l => decide (l < 32) && match v.lane? l with
    | some n => n.gcount == 0 || n.gpred
    | none => false

/-- The source lane of an exchange for lane l: position in the tile by mode 0 at, 1 rot, 2 xor, 3 rev (R283). -/
def shflSource (part mode x l : Nat) : Nat :=
  let t := 2 ^ part
  let p := l % t
  let j := match mode with
    | 0 => x % t
    | 1 => (p + t - x % t) % t
    | 2 => Nat.xor p (x % t)
    | _ => t - 1 - p
  l - p + j

/-- The source lane of quad for lane l (R284). -/
def quadSource (sel l : Nat) : Nat := 4 * (l / 4) + bits sel (2 * (l % 4) + 1) (2 * (l % 4))

/-- The lanes whose registers an instruction reads beside its own: the sources of an exchange (R278) and all
lanes of an mma (R327). -/
def otherLanes (i : Instr) (v : Wave) (act : List Nat) : List Nat :=
  match i with
  | .shflAt _ _ b => act.map fun l => shflSource v.part 0 (v.reg b l).toNat l
  | .shflRot _ _ b => act.map fun l => shflSource v.part 1 (v.reg b l).toNat l
  | .shflXor _ _ b => act.map fun l => shflSource v.part 2 (v.reg b l).toNat l
  | .shflAtImm _ _ x => act.map (shflSource v.part 0 x)
  | .shflRotImm _ _ x => act.map (shflSource v.part 1 x)
  | .shflXorImm _ _ x => act.map (shflSource v.part 2 x)
  | .shflRev _ _ => act.map (shflSource v.part 3 0)
  | .quad _ _ s => act.map (quadSource s)
  | .mmaE2m1 _ _ _ _ _ | .mmaE4m3 _ _ _ _ _ _ | .mmaE5m2 _ _ _ _ _ _ | .mmaS8 _ _ _ _ | .mmaBf16 _ _ _ _
  | .mmaF16 _ _ _ _ => List.range 32
  | _ => []

/-- The registers read in those lanes (R278, R327). -/
def otherRegs : Instr → List Nat
  | .shflAt _ a _ | .shflRot _ a _ | .shflXor _ a _ | .shflAtImm _ a _ | .shflRotImm _ a _ | .shflXorImm _ a _
  | .shflRev _ a | .quad _ a _ => [a]
  | i => i.reads

/-- A trap of the whole active set. -/
def trapOf (cls detail : Nat) (lanes : List Nat) (tval : Nat) : Trap := ⟨cls, detail, 0, laneMask lanes, tval⟩

/-- A trap of one lane (R437). -/
def trapLane (cls detail l tval : Nat) : Trap := ⟨cls, detail, l, 2 ^ l, tval⟩

/-- Checks 2 of R221 that depend on the context or the wave: features, a nested guard, eret outside handler mode. -/
def illegalHere (i : Instr) (x : Ctx) (v : Wave) (run : List Nat) : Bool :=
  i.features.any (fun f => !x.feat.testBit f) ||
  match i with
  | .guard _ _ _ => run.any fun l => match v.lane? l with
    | some n => n.gcount != 0
    | none => false
  | .eret => x.priv && !v.hmode
  | _ => false

/-- rcap, which tests FFABRIC before the registers it names (R131). -/
def mintsCapability : Instr → Bool
  | .rcap _ _ _ _ | .rcapL _ _ _ _ => true
  | _ => false

/-- Resource overreach named by the encoding: a register, a named barrier, a barrier index in the literal word, or a
descriptor flag (R59, R221 item 4). A barrier whose bytes lie beyond the scratchpad is class 4 detail 4 (log 12). -/
def overreach (i : Instr) (x : Ctx) (act : List Nat) : Option Trap :=
  if mintsCapability i && !x.ffabric then some (trapOf 4 5 act 0)
  else match least ((i.regs ++ i.minted).filter fun r => x.declared ≤ r) with
  | some r => some (trapOf 4 0 act r)
  | none =>
    match i with
    | .barSync n | .barArrive n => if x.nbarriers ≤ n then some (trapOf 4 1 act n) else none
    | .ratom _ _ _ tb _ _ _ =>
      if x.ntbars ≤ tb then some (trapOf 4 3 act tb)
      else if x.scratchBytes < 16 * tb + 16 then some (trapOf 4 4 act (16 * tb)) else none
    | _ => match i.flagBit with
      | some b => if x.field b b = 0 then some (trapOf 4 5 act 0) else none
      | none => none

/-- Resource overreach named by a register operand: a region entry or a barrier index (R335, R337, R338). -/
def operandOverreach (i : Instr) (x : Ctx) (v : Wave) (act : List Nat) : Option Trap :=
  let low := act.headD 0
  let region (r : Nat) : Option Trap :=
    if x.nregions ≤ (v.reg r low).toNat then some (trapOf 4 2 act (v.reg r low).toNat) else none
  let once (r : Nat) : Option Trap :=
    let k := (v.reg r low).toNat % 0x4000
    if x.ntbars ≤ k then some (trapOf 4 3 act k) else none
  let each (r : Nat) : Option Trap :=
    match (v.present act).find? fun l => decide (x.ntbars ≤ (v.reg r l).toNat % 0x4000) with
    | some l => some (trapOf 4 3 act ((v.reg r l).toNat % 0x4000))
    | none => none
  match i with
  | .rgnSet d _ _ => region d
  | .rgnPre a _ | .rgnFlush a _ | .rgnDrop a _ | .rgnStat _ a _ => region a
  | .tbarInit a _ | .tbarArrive a _ => once a
  | .tbarWait a _ | .tbarTest _ a _ | .tbarRead _ a _ => each a
  | _ => none

/-- A lookahead violation: the position in the window, the register and the shared lanes (R61), one of which is no helper
(R441). The windows are held most recently issued first, so the first violated window has the smallest LADIST. -/
def violation (i : Instr) (v : Wave) (act : List Nat) : Option (Nat × Nat × List Nat) :=
  let other := otherLanes i v act
  let shared (k : Window) (r : Nat) : List Nat :=
    k.lanes.filter fun l => act.contains l || (other.contains l && (otherRegs i).contains r)
  v.windows.findSome? fun k =>
    if k.span ≤ k.pos then none
    else match least ((i.reads ++ i.writes).filter fun r => k.regs.contains r && !(v.present (shared k r)).isEmpty) with
      | some r => some (k.pos + 1, r, shared k r)
      | none => none

/-- The lane status word with a violation recorded (R63). -/
def recordViolation (lsw : Word) (dist reg : Nat) : Word :=
  word (setBits (setBits (setBits lsw.toNat 23 20 dist) 19 13 reg) 12 12 1)

/-- Lanes of the active set, helpers apart (R441), whose overwrite record names a register the instruction reads (R137). -/
def overwritten (i : Instr) (v : Wave) (act : List Nat) : List Nat :=
  (v.present act).filter fun l => match v.lane? l with
    | some n => n.lsw.toNat.testBit 8 && i.reads.contains (bits n.ovrec.toNat 47 41)
    | none => false

/-- The instruction cannot issue yet: an awaiting source register (R133), unread flags (R198), a fence or tfence
in front of a memory access (R314, R315) or a tfence in front of a send with release (R125), a release in front of
loads not yet performed, unacknowledged stores and atomics (R100, R105, R112), an engine's work in front of accesses not yet performed
(R116), an access in front of an acquire not yet performed. A release access does not wait for an `.unpaired` atomic, nor does such an
atomic for an acquire (R100). -/
def cannotIssue (i : Instr) (s : State) (b : Bundle) (v : Wave) (act : List Nat) : Bool :=
  i.reads.any (fun r => SMap.get 0 v.pend r != 0) ||
  s.ops.any fun (_, o) => o.ctx == b.ctx && o.wave == b.wave &&
    match o.kind with
    | .result _ fl => readsFlags i && !fl.isEmpty
    | .fence .. => i.accesses
    | .tfence .. => i.stores || i.sendsRelease
    | .tlbinv .. => i.accesses
    | .store _ _ todo => (i.releases && o.lanes.any act.contains) || (i.handsOver && !todo.isEmpty)
    | .atomic _ _ _ _ ret _ _ => (ret && i.handsOver) || (i.releases && !(ret && i.releaseAccess) && o.lanes.any act.contains)
    | .load _ _ _ _ waits todo acq =>
      ((!waits.isEmpty || !todo.isEmpty) && ((i.releases && o.lanes.any act.contains) || i.handsOver)) ||
        (acq.isSome && i.accesses && !i.unpaired && o.lanes.any act.contains)
    | _ => false

/-- What the checks before an instruction's own meaning answer. -/
inductive Check where
  | go (act : List Nat)
  | stall
  | trap (t : Trap) (s : State)
  deriving DecidableEq, Repr

/-- The overwrite fault of the lanes l and ls of a wave (R137). -/
def overwriteTrap (v : Wave) (l : Nat) (ls : List Nat) : Trap :=
  trapOf 6 0 (l :: ls) (match v.lane? l with
    | some n => bits n.ovrec.toNat 47 41
    | none => 0)

/-- The checks of R221 and R441 that every instruction meets, in their order, for a bundle of a wave. A run with no
active lane raises none of them (R220). DEDUCED: the faults that lie in the encoding, or in an operand taken once for the wave, are
raised by any active lane, a helper too (R59, R220); R441's last line holds for those that a lane decides (log 17). -/
def issueCheck (i : Instr) (b : Bundle) (s : State) : Check :=
  match s.ctx? b.ctx, s.wave? b.ctx b.wave with
  | some x, some v =>
    let act := v.active b.run
    if act.isEmpty then (if cannotIssue i s b v act then .stall else .go [])
    else if illegalHere i x v b.run then .trap (trapOf 2 0 b.run b.raw) s
    else if i.groupRegister || (i.privileged && !(x.priv || v.hmode)) then .trap (trapOf 3 0 b.run b.raw) s
    else match overreach i x act with
      | some t => .trap t s
      | none =>
        if cannotIssue i s b v act then .stall
        else match operandOverreach i x v act with
          | some t => .trap t s
          | none => match violation i v act with
            | some (dist, r, ls) =>
              .trap (trapOf 5 0 ls r)
                (s.modLanes b.ctx b.wave ls fun n => { n with lsw := recordViolation n.lsw dist r })
            | none => match overwritten i v act with
              | [] => .go act
              | l :: ls => .trap (overwriteTrap v l ls) s
  | _, _ => .stall

/-- Bits of a bundle's issue slot occupied: the rate 1/n of an instruction, as n (R205 and each instruction). -/
def issueRate : Instr → Nat
  | .mul32 _ _ _ _ _ | .mad32 _ _ _ _ _ => 4
  | .div _ _ _ _ | .rem _ _ _ _ => 16
  | .fdiv _ _ _ _ _ | .fsqrt _ _ _ _ => 8
  | .frcp _ _ _ _ | .frsq _ _ _ _ | .fexp2 _ _ _ _ | .flog2 _ _ _ _ => 4
  | .fsin _ _ _ _ | .fcos _ _ _ _ => 8
  | .cvt _ _ _ sf df _ _ _ => if sf = 13 ∨ sf = 14 ∨ df = 13 ∨ df = 14 then 2 else 1
  | .red _ _ _ | .scanInc _ _ _ | .scanExc _ _ _ | .matchB32 _ _ => 2
  | .redF32 _ _ _ _ | .matchB64 _ _ => 4
  | _ => 1

/-- The wave after its bundle has passed: the lanes of the run advance by the instruction's length (R207) and their
guard counts decrease (R219); lanes deferred before the bundle cease to be (R41); every open window moves on by
one bundle and ends where its instruction is complete (R60); and an M- or T-format instruction opens its own. -/
def Wave.pass (v : Wave) (i : Instr) (run act : List Nat) (id : Nat) (inFlight : Nat → Bool) : Wave :=
  { v with
    lanes := SMap.mapVals v.lanes fun l n =>
      if run.contains l then
        { n with
          pc := n.pc + BitVec.ofNat 64 i.length, gcount := n.gcount - 1, deferred := false
          age := if i.resetsAge && act.contains l then 0 else n.age }
      else { n with deferred := false }
    windows :=
      (match i.lookahead with
       | some k => [⟨id, k, 0, i.writes, act⟩]
       | none => []) ++
      ((v.windows.map fun k => { k with pos := k.pos + 1 }).filter fun k => decide (k.pos < k.span) || inFlight k.id) }

/-- The first read of an arrival sent with release, with its lane in the active set, is the acquire side at the
send's scope (R125). -/
def acquireArrivals (i : Instr) (b : Bundle) (act : List Nat) (s : State) : State :=
  match s.ctx? b.ctx, s.wave? b.ctx b.wave with
  | some x, some v =>
    let ks := i.reads.flatMap fun r => (act.map fun l => 32 * r + l).filter fun k => SMap.get 0 v.acq k != 0
    let sc := ks.foldl (fun m k => Nat.max m (SMap.get 0 v.acq k - 1)) 0
    if ks.isEmpty then s
    else (s.modWave b.ctx b.wave fun u => { u with acq := ks.foldl (fun m k => SMap.set 0 m k 0) u.acq }).acquire x.place sc
  | _, _ => s

/-! ### Lane-cycle counts (R479)

Of a core's counts, key 4 b + k holds category k of range b, b 64 the unbinned set. -/

/-- The lowest enabled PC range of a partition that holds p, or 64. The ranges in force are those that stood when the interval
began: registers 0x72B to 0x72F, held again at 0x2000 above their numbers. -/
def pcBin (s : State) (part : Nat) (p : Dword) : Nat :=
  ((List.range 64).find? fun k =>
    (s.hubGet 0x272B (64 * part + k)).testBit 0 && decide (s.hubGet64 0x272C (64 * part + k) ≤ p.toNat) &&
      decide (p.toNat ≤ s.hubGet64 0x272E (64 * part + k))).getD 64

/-- Counts every lane of a bundle that occupies its slot for n cycles. -/
def countBundle (b : Bundle) (n : Nat) (s : State) : State :=
  match s.ctx? b.ctx, s.wave? b.ctx b.wave with
  | some x, some v =>
    if (s.hubGet 0x720 x.part &&& 3) = 3 then
      let act := v.active b.run
      let base := 4 * pcBin s x.part b.pc
      let cat (l : Nat) : Nat := match v.lane? l with
        | some m => if m.kind = .helper ∨ m.exited = true then 3
            else if act.contains l then 0 else if b.run.contains l then 2 else 1
        | none => 3
      let k := s.core x.place
      let cs := (List.range 32).foldl (fun m l =>
        let j := base + cat l
        SMap.set 0 m j (Nat.min 0xFFFFFFFF (SMap.get 0 m j + n))) k.counts
      s.setCore x.place { k with counts := cs }
    else s
  | _, _ => s

/-! ### What the trace unit keeps (R476 to R478) -/

/-- Bit k of TRCTL is on with EN. -/
def State.traceOn (s : State) (part k : Nat) : Bool :=
  (s.hubGet 0x720 part).testBit 0 && (s.hubGet 0x720 part).testBit k

/-- Produces a record: its header, and the content from bit 128 on. -/
def State.produce (s : State) (part type n body : Nat) : State :=
  s.post .traceRecord [part, n, type + n * 2 ^ 16 + s.clock.toNat * 2 ^ 64 + body * 2 ^ 128]

/-- TPHV, TPH of a context: PHASE of transaction barrier 0 (R477). -/
def State.phaseCount (s : State) (c : Nat) (x : Ctx) : Nat × Nat :=
  if 0 < x.ntbars ∧ 16 ≤ x.scratchBytes then (1, bits (readMem s.mem (scratchKey c 0) 16) 3 0) else (0, 0)

/-- CORE, DIE and SLOT of a sample. -/
def samplePlace (core islot : Nat) : Nat := core / 768 * 2 ^ 152 + core % 768 * 2 ^ 154 + islot * 2 ^ 164

/-- The sample that a core owes its partition is produced with a content. -/
def State.giveSample (s : State) (core part body : Nat) : State :=
  (s.setCore core { s.core core with want := none }).produce part 2 64 body

/-- An issue slot issues nothing in a cycle: a sample due of it is IDLE. -/
def State.idleSample (s : State) (core islot : Nat) : State :=
  match (s.core core).want with
  | some (k, part) => if k = islot then s.giveSample core part (samplePlace core islot + 2 ^ 166) else s
  | none => s

/-- An issue slot issues a bundle: a sample due of it shows the bundle, its run and its active set. -/
def State.bundleSample (s : State) (x : Ctx) (islot : Nat) (b : Bundle) (act : List Nat) : State :=
  match (s.core x.place).want with
  | some (k, part) =>
    if k = islot ∧ part = x.part then
      let (v, p) := s.phaseCount b.ctx x
      s.giveSample x.place part (samplePlace x.place islot + p * 2 ^ 167 + v * 2 ^ 171 + b.wave * 2 ^ 172 + b.ctx * 2 ^ 176 +
        x.lz * 2 ^ 192 + x.ly * 2 ^ 208 + x.lx * 2 ^ 224 + b.pc.toNat * 2 ^ 256 + laneMask b.run * 2 ^ 320 + laneMask act * 2 ^ 352)
    else s
  | none => s

/-! ### Passing -/

/-- The issue slot of a wave has issued its bundle: the next selection begins after it (R48). -/
def State.slotIssued (s : State) (core slot : Nat) : State :=
  let k := s.core core
  s.setCore core { k with
    last := SMap.set 0 k.last (slot % 4) (slot + 1)
    held := k.held.filter fun j => j % 4 != slot % 4 }

/-- A bundle at pc of a wave has issued: its issue slot has issued the wave last, and breakpoint units match the bundle again (R48,
R472). -/
def State.issuedAt (s : State) (c w : Nat) (pc : Dword) : State :=
  match s.ctx? c, s.wave? c w with
  | some x, some v =>
    (s.slotIssued x.place v.slot).modWave c w fun u => { u with skip := u.skip.filter fun k => k.2 != pc }
  | _, _ => s

/-- The bundle has issued. -/
def State.noteIssue (s : State) (b : Bundle) : State := s.issuedAt b.ctx b.wave b.pc

/-- The sample that a bundle with its active set gives, if its issue slot owes one. -/
def State.noteSample (s : State) (b : Bundle) (act : List Nat) : State :=
  match s.ctx? b.ctx, s.wave? b.ctx b.wave with
  | some x, some v => s.bundleSample x (v.slot % 4) b act
  | _, _ => s

/-- The state after a bundle has passed, before the instruction's own effect: the bundle's number is nextId, which the
instruction takes over for the operation it may put in flight. -/
def pass (i : Instr) (b : Bundle) (act : List Nat) (s : State) : State :=
  let t := ((countBundle b (issueRate i) (s.noteSample b act)).noteIssue b).modWave b.ctx b.wave fun v => v.pass i b.run act s.nextId s.inFlight
  let t := acquireArrivals i b act t
  { t with cur := none, nextId := s.nextId + 1, clock := t.clock + BitVec.ofNat 64 (issueRate i) }

/-- The number of the instruction that has just passed. -/
def State.thisId (s : State) : Nat := s.nextId - 1

/-- Puts an operation in flight under a number. -/
def State.launchAt (s : State) (id : Nat) (b : Bundle) (lanes : List Nat) (k : OpKind) : State :=
  { s with ops := SMap.insert s.ops id ⟨b.ctx, b.wave, lanes, k⟩ }

/-- Puts the instruction that has just passed in flight. -/
def State.launchOp (s : State) (b : Bundle) (lanes : List Nat) (k : OpKind) : State := s.launchAt s.thisId b lanes k

/-- Nothing issues: the cycle passes. -/
def idle (s : State) : State := { s with cur := none, clock := s.clock + 1 }

/-- A bundle has issued in this cycle and faults: its issue slot has issued it, and the sample and the lane-cycle counts show it (R472,
R478, R479). -/
def State.noteFaulted (s : State) (b : Bundle) : State :=
  match s.wave? b.ctx b.wave with
  | some v => (countBundle b 1 (s.noteSample b (v.active b.run))).noteIssue b
  | none => s

/-- A bundle raises a fault: nothing of it stands. -/
def faultBundle (b : Bundle) (s : State) (k : Trap) : State :=
  ({ s.noteFaulted b with cur := none, clock := s.clock + 1 }).takeTrap b.ctx b.wave k

/-- A state with the translation caches of another (R434). -/
def State.keepCaches (s u : State) : State := { s with tlb := u.tlb, walkers := u.walkers }

/-- The state that a result stands for. -/
def settle (b : Bundle) (s : State) : Result → State
  | .done t => t
  | .after t k => t.takeTrap b.ctx b.wave k
  | .trap k => faultBundle b s k
  | .miss k u => faultBundle b (s.keepCaches u) k
  | .stall t => idle t

/-- Issues an instruction for the current bundle: its checks, then its meaning on the bundle, the active set and
the state in which the bundle has passed. -/
def issue (i : Instr) (s : State) (body : Bundle → List Nat → State → Result) :
    Host.Outcome State Fault Refusal :=
  match s.cur with
  | none => .fault .noBundle
  | some b => .next (match issueCheck i b s with
    | .go act => settle b s (body b act (pass i b act s))
    | .stall => idle s
    | .trap k t => settle b t (.trap k))

end Sys2Proof.Machine
end

