-- ==== Sys2Proof/Machine/Translate.lean ====
section
/-! DEFINITION. Translate.lean: page-table walks and cached translations (R428 to R436), the firewall (R467), the windows of
the commons region (R72), and the addresses of work that completes after its instruction (R443). -/
namespace Sys2Proof.Machine

/-- The space of an address (R64). -/
def addrSpace (a : Nat) : Nat := a / 2 ^ 60 % 16

/-- Package field of a tensor address (R64). -/
def addrPkg (a : Nat) : Nat := a / 2 ^ 40 % 2 ^ 20

/-- Domain offset of a control address (R64). -/
def addrOff (a : Nat) : Nat := a % 2 ^ 46

/-- Why a translation fails: a fault of R431 or R432 with its kind and level, a poisoned table entry, a firewall
refusal, or a slice that is lost; or it must wait for a home. -/
inductive Miss where
  | walk (kind lvl : Nat)
  | poison
  | lost
  | waits
  deriving DecidableEq, Repr

/-- Permission masks of a leaf (R430, R432). -/
def permR : Nat := 8
def permW : Nat := 16
def permX : Nat := 32

/-! ### Walks (R429 to R431) -/

/-- log2 of the page that a leaf at a level maps. -/
def pageBits : Nat → Nat
  | 0 => 16
  | 1 => 21
  | _ => 30

/-- Index of a virtual offset at a level. -/
def tableIndex (va lvl : Nat) : Nat :=
  match lvl with
  | 0 => bits va 20 16
  | 1 => bits va 29 21
  | 2 => bits va 38 30
  | _ => bits va 45 39

/-- An entry breaks a reserved, alignment or zero rule of R430, or is a leaf at level 3 or a pointer at level 0. -/
def entryMalformed (tensor : Bool) (e lvl : Nat) : Bool :=
  let leaf := e.testBit 1
  bits e 63 52 != 0 || e.testBit 6 || e.testBit 2 ||
  (if leaf then
    lvl == 3 || bits e 51 8 * 256 % 2 ^ pageBits lvl != 0 ||
      (if tensor then bits e 51 40 != 0 || e.testBit 7 else bits e 51 36 != 0)
  else
    lvl == 0 || bits e 7 3 != 0 || (tensor && bits e 51 40 != 0) ||
      (lvl != 1 && bits e 11 8 != 0))

/-- Reads an 8-byte entry at a physical address of the control or tensor store, through the commons of a die as agent. A
control address beyond the store wraps in it (log 9). -/
def State.readEntry (s : State) (a : Nat) (tensor : Bool) (t : Nat) : Except Miss Nat × State :=
  if tensor then
    let k := tensorKey (t % 2 ^ 40)
    if poisoned s k 8 then (.error .poison, s) else (.ok (readMem s.mem k 8), s)
  else
    let off := s.homeBase + t % 2 ^ 36
    match s.lineState 0 a (off / 128) with
    | .waits => (.error .waits, s)
    | .gone => (.error .lost, s)
    | .serves =>
      if poisoned s (ctlKey off) 8 then (.error .poison, s)
      else
        let (v, u) := s.ctlRead a off 8
        (.ok v, u)

/-- The walk of R431 from table t at level lvl: the leaf and its level. -/
def walkFrom (a : Nat) (tensor : Bool) (va : Nat) : Nat → Nat → State → Except Miss (Nat × Nat) × State
  | lvl, t, s =>
    match s.readEntry a tensor (t + 8 * tableIndex va lvl) with
    | (.error m, u) => (.error m, u)
    | (.ok e, u) =>
      if !e.testBit 0 then (.error (.walk 0 lvl), u)
      else if entryMalformed tensor e lvl then (.error (.walk 2 lvl), u)
      else if e.testBit 1 then (.ok (e, lvl), u)
      else
        match lvl with
        | 0 => (.error (.walk 2 0), u)
        | k + 1 => walkFrom a tensor va k (bits e 51 8 * 256) u

/-- A whole walk: a root of 0 maps nothing. -/
def walk (a : Nat) (tensor : Bool) (root va : Nat) (s : State) : Except Miss (Nat × Nat) × State :=
  if root = 0 then (.error (.walk 0 3), s) else walkFrom a tensor va 3 root s

/-- The physical address of a leaf: control keeps va[45:36]. -/
def leafAddr (tensor : Bool) (leaf lvl va : Nat) : Nat :=
  let p := bits leaf 51 8 * 256 + va % 2 ^ pageBits lvl
  if tensor then p % 2 ^ 40 else va / 2 ^ 36 % 1024 * 2 ^ 36 + p % 2 ^ 36

/-- Roots of a partition (R433). -/
def State.root (s : State) (tensor : Bool) (part : Nat) : Nat :=
  if tensor then s.hubGet64 0x503 part else s.hubGet64 0x501 part

/-! ### Cached translations (R434, R435) -/

/-- The cache of a core, of a cluster, and of the hub, which holds what was made for other packages by partition tag. -/
def coreCache (place : Nat) : Nat := place
def clusterCache (place : Nat) : Nat := 4096 + place / 48
def hubCache : Nat := 8192

/-- Entries of a cache. -/
def cacheSize (c : Nat) : Nat := if c < 4096 then 64 else if c < 8192 then 2048 else 8192

def Xlat.covers (x : Xlat) (cache part : Nat) (tensor : Bool) (va : Nat) : Bool :=
  x.cache == cache && x.part == part && x.tensor == tensor && x.page == va / 2 ^ pageBits x.lvl

/-- A list without the last of its entries that p selects. -/
def dropLast (p : Xlat → Bool) : List Xlat → List Xlat
  | [] => []
  | x :: xs => if p x && !xs.any p then xs else x :: dropLast p xs

/-- Caches a translation; a full cache lets its oldest go. -/
def State.cacheXlat (s : State) (x : Xlat) : State :=
  let mine (y : Xlat) : Bool := y.cache == x.cache
  { s with tlb := x :: if (s.tlb.filter mine).length < cacheSize x.cache then s.tlb else dropLast mine s.tlb }

/-- Free bit k of the current instruction's free number (log 2). -/
def State.freeBit (s : State) (k : Nat) : Bool := (Config.freeNat s.free).testBit k

/-- The translation that a cache still holds: any may have been let go, as free bit k tells; with no k it is held. -/
def State.heldXlat (s : State) (cache part : Nat) (tensor : Bool) (va : Nat) (k : Option Nat) : Option Xlat :=
  match s.tlb.find? fun x => x.covers cache part tensor va with
  | none => none
  | some x => match k with
    | none => some x
    | some j => if s.freeBit j then some x else none

/-- The span of virtual offsets that a table of level k maps. -/
def tableSpan (k : Nat) : Nat := match k with
  | 0 => 2 ^ 21
  | 1 => 2 ^ 30
  | _ => 2 ^ 39

def Pointer.covers (p : Pointer) (die part : Nat) (tensor : Bool) (va : Nat) : Bool :=
  p.die == die && p.part == part && p.tensor == tensor && p.area == va / tableSpan p.lvl

/-- The tables below the one at level lvl that a walk passes through, each with its level. -/
def pathFrom (a : Nat) (tensor : Bool) (va : Nat) : Nat → Nat → State → List (Nat × Nat)
  | lvl, t, s =>
    match s.readEntry a tensor (t + 8 * tableIndex va lvl) with
    | (.error _, _) => []
    | (.ok e, u) =>
      if !e.testBit 0 || e.testBit 1 then []
      else match lvl with
        | 0 => []
        | k + 1 => (k, bits e 51 8 * 256) :: pathFrom a tensor va k (bits e 51 8 * 256) u

/-- The cached pointer entry from which a walk begins, as free bit k tells; with no k none. -/
def State.heldPointer (s : State) (die part : Nat) (tensor : Bool) (va : Nat) (k : Option Nat) : Option Pointer :=
  match s.walkers.find? (fun p => p.covers die part tensor va), k with
  | some p, some j => if s.freeBit j then some p else none
  | _, _ => none

/-- A walk from a cached pointer entry's table, or from the root. -/
def walkAt (a : Nat) (tensor : Bool) (root va : Nat) (start : Option Pointer) (s : State) : Except Miss (Nat × Nat) × State :=
  match start with
  | some p => walkFrom a tensor va p.lvl p.table s
  | none => walk a tensor root va s

/-- The tables that such a walk passes through below its first. -/
def pathAt (a : Nat) (tensor : Bool) (root va : Nat) (start : Option Pointer) (s : State) : List (Nat × Nat) :=
  match start with
  | some p => pathFrom a tensor va p.lvl p.table s
  | none => if root = 0 then [] else pathFrom a tensor va 3 root s

/-- A walk by the walkers of a die for a partition, or for a tag with die 4. What it passes is cached; a walk that faults leaves
nothing cached. -/
def State.walkTables (s : State) (die agent part : Nat) (tensor : Bool) (root va : Nat) (k : Option Nat) :
    Except Miss (Nat × Nat) × State :=
  let start := s.heldPointer die part tensor va k
  match walkAt agent tensor root va start s with
  | (.error m, w) => (.error m, w)
  | (.ok x, w) =>
    let ps := (pathAt agent tensor root va start s).map fun (l, t) => (⟨die, part, tensor, l, va / tableSpan l, t⟩ : Pointer)
    (.ok x, { w with walkers := ps.reverse ++ w.walkers.filter fun p => !ps.any fun q => p.covers die part tensor va && p.lvl == q.lvl })

/-- The die whose walkers serve a core: its own, and die C0 in Dawn service. -/
def State.walkDie (s : State) (place : Nat) : Nat := if bits (s.hubGet 0x800 0) 2 0 = 1 then 0 else place / 768

/-- Discards the translations that p selects (R404). -/
def State.discardTlb (s : State) (p : Xlat → Bool) : State := { s with tlb := s.tlb.filter fun x => !p x }

/-- Translates a virtual offset for a core and partition: by the core's cache, the cluster's, or a walk, whose translation both
cache. Free bits from k on tell what the caches have let go. A cached translation without a permission needed is discarded and the
tables walked again; a walk that faults leaves nothing cached. -/
def State.translate (s : State) (place part : Nat) (tensor : Bool) (va need : Nat) (k : Option Nat) :
    Except Miss (Nat × Nat) × State :=
  let die := s.walkDie place
  let entry (c leaf lvl : Nat) : Xlat := ⟨c, part, tensor, va / 2 ^ pageBits lvl, lvl, leaf⟩
  let mine (x : Xlat) : Bool :=
    x.covers (coreCache place) part tensor va || x.covers (clusterCache place) part tensor va
  let miss (u : State) : Except Miss (Nat × Nat) × State :=
    match u.walkTables die (s.dieAgent die) part tensor (u.root tensor part) va (k.map (· + 2)) with
    | (.error m, w) => (.error m, w)
    | (.ok (leaf, lvl), w) =>
      if leaf &&& need = need then
        (.ok (leafAddr tensor leaf lvl va, leaf),
          (w.cacheXlat (entry (clusterCache place) leaf lvl)).cacheXlat (entry (coreCache place) leaf lvl))
      else (.error (.walk 1 lvl), { w with walkers := u.walkers })
  match s.heldXlat (coreCache place) part tensor va k with
  | some x => if x.leaf &&& need = need then (.ok (leafAddr tensor x.leaf x.lvl va, x.leaf), s) else miss (s.discardTlb mine)
  | none => match s.heldXlat (clusterCache place) part tensor va (k.map (· + 1)) with
    | some x =>
      if x.leaf &&& need = need then
        (.ok (leafAddr tensor x.leaf x.lvl va, x.leaf),
          (s.discardTlb fun y => y.covers (coreCache place) part tensor va).cacheXlat (entry (coreCache place) x.leaf x.lvl))
      else miss (s.discardTlb mine)
    | none => miss (s.discardTlb mine)

/-! ### The firewall (R467) -/

/-- State code of a partition (R466): 0 Unused, 1 Sealed, 2 Dissolving. -/
def State.partState (s : State) (p : Nat) : Nat := bits (s.hubGet 0x701 p) 31 30

/-- n bytes at pa lie in one valid window of the partition with the matching SPACE, and with WRITE where needed. -/
def State.firewall (s : State) (part : Nat) (tensor : Bool) (pa n : Nat) (write : Bool) : Bool :=
  s.partState part != 1 ||
  (List.range 16).any fun w =>
    let c := s.hubGet 0x709 (16 * part + w)
    c.testBit 0 && (c.testBit 1 == !tensor) && (!write || c.testBit 2) &&
      decide (s.hubGet64 0x70A (16 * part + w) ≤ pa) && decide (pa + n ≤ s.hubGet64 0x70C (16 * part + w) + 1)

/-- Window of a partition in a die's commons region, in bytes: base and size (R72). -/
def State.cmWindow (s : State) (die part : Nat) : Nat × Nat :=
  (s.hubGet 0x0C3 (16 * die + part) % 128 * 0x100000, s.hubGet 0x0C4 (16 * die + part) % 128 * 0x100000)

/-- The cluster of a context in its package. -/
def Ctx.cluster (x : Ctx) : Nat := x.place / 48

/-! ### Addresses of work that completes later (R443) -/

/-- The memory key of n bytes that an engine accesses for a context, or the code of R87. -/
def State.engineAddr (s : State) (x : Ctx) (a n need : Nat) : Except Nat Nat × State :=
  match addrSpace a with
  | 2 =>
    match s.translate x.place x.part true (a % 2 ^ 40) need (some (256 + 4 * (a % 2 ^ 40 / 2 ^ 16))) with
    | (.error .poison, u) => (.error 4, u)
    | (.error _, u) => (.error 2, u)
    | (.ok (pa, _), u) =>
      if u.firewall x.part true pa n (need &&& permW != 0) then (.ok (tensorKey pa), u) else (.error 3, u)
  | 4 =>
    let (base, size) := s.cmWindow x.die x.part
    if a % 2 ^ 27 + n ≤ size ∧ bits a 59 27 = 0 then (.ok (commonsKey x.die (base + a % 2 ^ 27)), s) else (.error 8, s)
  | _ => (.error 2, s)

/-- An engine's read of n bytes: the value, or the code. -/
def State.engineRead (s : State) (x : Ctx) (a n : Nat) : Except Nat Nat × State :=
  match s.engineAddr x a n permR with
  | (.error c, u) => (.error c, u)
  | (.ok k, u) => if poisoned u k n then (.error 4, u) else (.ok (readMem u.mem k n), u)

/-- A write of memory by an engine: the synchronisation record of the line is cleared (R113). -/
def State.engineStore (s : State) (k n v : Nat) : State :=
  clearPoison { s with mem := writeMem s.mem k n v, recs := SMap.erase s.recs (k / 128) } k n

/-- An engine's write of n bytes: the code of a failure, if any. -/
def State.engineWrite (s : State) (x : Ctx) (a n v : Nat) : Option Nat × State :=
  match s.engineAddr x a n permW with
  | (.error c, u) => (some c, u)
  | (.ok k, u) => (none, u.engineStore k n v)

/-- PAGE_WALK_COMPLETE (R431, R434): core of the package, partition, 1 for tensor space, virtual offset, permissions. A walk ends:
its translation is cached; a fault leaves nothing cached and is reported by the access that meets it. -/
def execPageWalkComplete (s : State) : Host.Outcome State Fault Refusal :=
  .next (
    let drop (x : Xlat) : Bool := x.part == s.arg 1 % 16 && x.tensor == (s.arg 2 == 1) && x.page == s.arg 3 / 2 ^ pageBits x.lvl &&
      (x.cache == coreCache (s.arg 0 % 3072) || x.cache == clusterCache (s.arg 0 % 3072))
    ((s.discardTlb drop).translate (s.arg 0 % 3072) (s.arg 1 % 16) (s.arg 2 == 1) (s.arg 3) (s.arg 4 % 64) (some 128)).2)

end Sys2Proof.Machine
end

