-- ==== Sys2Proof/Machine/Perform.lean ====
section
/-! DEFINITION. Perform.lean: box descriptors (R74 to R78), where an access goes, and how stores and atomics are performed there: at
issue or, as R100 lets them, later (R101 to R113, R117, R305, R309). -/
namespace Sys2Proof.Machine

/-! ### Box descriptors (R75 to R78) -/

def boxBase (d : Nat) : Nat := bits d 511 448
/-- DIM of dimension i. -/
def boxDim (d i : Nat) : Nat := bits d (351 + 24 * i) (328 + 24 * i)
/-- EXT of dimension i. -/
def boxExt (d i : Nat) : Nat := bits d (263 + 16 * i) (248 + 16 * i)
/-- STRIDE of dimension i, 1 to 4, in 16-byte units. -/
def boxStride (d i : Nat) : Nat := bits d (151 + 32 * (i - 1)) (120 + 32 * (i - 1))
def boxMcast (d : Nat) : Nat := bits d 119 72
def boxTbar (d : Nat) : Nat := bits d 71 58
def boxSwin (d : Nat) : Nat := 256 * bits d 57 48
def boxEfmt (d : Nat) : Nat := bits d 13 10
def boxSwz (d : Nat) : Nat := bits d 9 8
def boxFill (d : Nat) : Nat := bits d 7 7
def boxRedop (d : Nat) : Nat := bits d 6 5

/-- Box size in bytes (R77). -/
def boxSize (d : Nat) : Nat :=
  efmtBytes (boxEfmt d) * (boxExt d 0 * boxExt d 1 * boxExt d 2 * boxExt d 3 * boxExt d 4)

/-- Window size: the box size rounded up to 256 bytes (R77). -/
def boxWindow (d : Nat) : Nat := (boxSize d + 255) / 256 * 256

/-- 32-byte sectors of the window, those beyond the box included (R77, R88). -/
def boxSectors (d : Nat) : Nat := boxWindow d / 32

/-- The swizzle of R78: code 0 none, 1, 2, 3 over 32, 64, 128 bytes. It is its own inverse. -/
def swizzle (code x : Nat) : Nat :=
  if code = 0 then x
  else
    let w := 16 * 2 ^ code
    w * (x / w) + 16 * Nat.xor (x / 16 % (w / 16)) (x / w % (w / 16)) + x % 16

/-- Malformed under R75 to R78 and R80; blocks is the span's block count, home the own package number. -/
def boxMalformed (d blocks : Nat) : Bool :=
  let e := boxEfmt d
  let red := boxRedop d
  let sp := addrSpace (boxBase d)
  bits d 47 14 != 0 || bits d 4 0 != 0 ||
  !(sp == 2 || (sp == 4 && bits (boxBase d) 59 27 == 0)) || boxBase d % 16 != 0 ||
  decide (12 ≤ e) ||
  (boxFill d == 1 && !(e == 5 || e == 6 || e == 7 || e == 8 || e == 9 || e == 10)) ||
  (red != 0 && !(e == 8 || e == 9 || e == 11)) ||
  (boxMcast d != 0 && red != 0) || boxMcast d / 2 ^ blocks != 0 ||
  boxExt d 0 * efmtBytes e % 16 != 0 || decide (0x40000 < boxSize d) ||
  (boxSwz d != 0 && boxSize d % (16 * 2 ^ boxSwz d) != 0)

/-- Box positions of the element at logical offset x. -/
def boxPos (d x : Nat) : List Nat :=
  let p := x / efmtBytes (boxEfmt d)
  let e (i : Nat) := boxExt d i
  [p % e 0, p / e 0 % e 1, p / (e 0 * e 1) % e 2, p / (e 0 * e 1 * e 2) % e 3, p / (e 0 * e 1 * e 2 * e 3) % e 4]

/-- The element address at logical offset x, if in bounds (R77). -/
def boxElement (d : Nat) (origin : List Int) (x : Nat) : Option Nat :=
  let t : List Int := ((boxPos d x).zip origin).map fun (p, o) => (p : Int) + o
  let ok := ((List.range 5).zip t).all fun (i, c) => decide (0 ≤ c) && decide (c < boxDim d i)
  if ok then
    let at' (i : Nat) : Nat := (t.getD i 0).toNat
    some (boxBase d + at' 0 * efmtBytes (boxEfmt d) +
      16 * (at' 1 * boxStride d 1 + at' 2 * boxStride d 2 + at' 3 * boxStride d 3 + at' 4 * boxStride d 4))
  else none

/-- The address lies in the space, and for tensor space the package, of BASE (R77). DESIGN CHOICE: of an element whose address in the
commons region passes bit 26, the spec does not say whether its code is 0x09 or 0x08; the model lets it fail here, with 0x09
(log 38). Unsafe. -/
def boxInSpace (d a : Nat) : Bool :=
  decide (a < 2 ^ 64) && addrSpace a == addrSpace (boxBase d) &&
    (addrSpace a != 2 || addrPkg a == addrPkg (boxBase d)) && (addrSpace a != 4 || bits a 59 27 == 0)

/-- First and last byte of the in-bounds elements, as offsets from BASE. -/
def boxRange (d : Nat) (origin : List Int) : Option (Nat × Nat) :=
  let lo (i : Nat) : Int := Max.max 0 (origin.getD i 0)
  let hi (i : Nat) : Int := Min.min ((boxDim d i : Nat) : Int) (origin.getD i 0 + ((boxExt d i : Nat) : Int)) - 1
  if (List.range 5).all fun i => decide (lo i ≤ hi i) then
    let off (f : Nat → Int) : Nat :=
      (f 0).toNat * efmtBytes (boxEfmt d) + 16 * ((f 1).toNat * boxStride d 1 + (f 2).toNat * boxStride d 2
        + (f 3).toNat * boxStride d 3 + (f 4).toNat * boxStride d 4)
    some (off lo, off hi + efmtBytes (boxEfmt d) - 1)
  else none

/-! ### Places -/

/-- Where an access goes: its space, memory key, the scratchpad's context, its offset (domain offset, physical tensor
address, scratchpad offset or offset in the commons region), and whether the page is commutative (R430). -/
structure Place where
  space : Nat
  key : Nat
  ctx : Nat
  off : Nat
  comm : Bool
  deriving DecidableEq, Repr

/-! ### Records and first-level caches (R26, R105, R113) -/

/-- The record of a place, if its space keeps records. -/
def State.record? (s : State) (p : Place) : Option Rec :=
  if p.space = 3 then none else SMap.find? s.recs (p.key / 128)

/-- Sets the record of a place, or clears it. -/
def State.setRecord (s : State) (p : Place) (r : Option Rec) : State :=
  if p.space = 3 then s
  else match r with
    | some x => { s with recs := SMap.insert s.recs (p.key / 128) x }
    | none => { s with recs := SMap.erase s.recs (p.key / 128) }

def l1Key (core pa : Nat) : Nat := 0x200000000 * core + pa / 128

/-- Updates a core's copy of a tensor line if one is present (R105, R109). -/
def State.updateL1 (s : State) (core pa n v : Nat) : State :=
  match SMap.find? s.l1 (l1Key core pa) with
  | some d => { s with l1 := SMap.insert s.l1 (l1Key core pa) (setDataBytes d (pa % 128) n v) }
  | none => s

/-- A store into the window of a present entry makes it dirty (R82, R305). -/
def State.markDirty (s : State) (c o n : Nat) : State :=
  match s.ctx? c with
  | some x =>
    if x.regions.any fun (_, r) => r.state == .present && decide (boxSwin r.desc < o + n) &&
        decide (o < boxSwin r.desc + boxWindow r.desc) then
      s.modCtx c fun y => { y with regions := SMap.mapVals y.regions fun _ r =>
        if r.state = .present ∧ boxSwin r.desc < o + n ∧ o < boxSwin r.desc + boxWindow r.desc then
          { r with state := .dirty }
        else r }
    else s
  | none => s

/-- A store of n bytes at a place, with the record it leaves (R105, R113, R304, R305). -/
def State.storePlace (s : State) (x : Ctx) (p : Place) (n v : Nat) (r : Option Rec) : State :=
  match p.space with
  | 1 => clearPoison ((s.ctlWrite (s.dieAgent x.die) p.off n v).setRecord p r) p.key n
  | 2 => ((s.put p.key n v).setRecord p r).updateL1 x.place p.off n v
  | 3 => (s.put p.key n v).markDirty p.ctx p.off n
  | _ => (s.put p.key n v).setRecord p r

/-! ### Atomics at their homes (R109, R112, R113, R309) -/

/-- The CFMT of a commutative add of a type and size (R455). -/
def atomicCfmt (f n : Nat) : Nat := if f = 2 then 2 else if n = 8 then 1 else 0

/-- The place of a memory key of the package's stores. -/
def keyPlace (k : Nat) : Place :=
  let o := k % 0x1000000000000000
  if k / 0x1000000000000000 = 3 then ⟨3, k, o / 0x40000, o % 0x40000, false⟩ else ⟨k / 0x1000000000000000, k, 0, o, false⟩

/-- One lane's read-modify-write: the value found, and the state. ret tells whether it returns a value, r what becomes of the
record of the line. -/
def atomicStep (s : State) (x : Ctx) (op f n : Nat) (ret : Bool) (r : Option Rec → Option Rec) (a : AStep) : Nat × State :=
  let p := keyPlace a.key
  match p.space with
  | 1 =>
    let me := s.dieAgent x.die
    let line := p.off / 128
    if a.comm then
      let e := p.off % 128 / n
      let t := (s.pageAdd me line e (atomicCfmt f n) a.x).setRecord p none
      (0, if s.asksHome (4 + atomicCfmt f n + 3 * e) me line then t.ownNumber me line 0 else t)
    else
      let (old, t) := s.homeAtomic p.off n fun old => atomicNew op f n old a.x a.c
      (old, (t.setRecord p (r (s.record? p))).ownNumber me line old)
  | 3 =>
    let old := readMem s.mem p.key n
    (old, (s.put p.key n (atomicNew op f n old a.x a.c)).markDirty p.ctx p.off n)
  | _ =>
    let old := readMem s.mem p.key n
    let new := atomicNew op f n old a.x a.c
    let t := (s.put p.key n new).setRecord p (r (s.record? p))
    (old, if p.space = 2 ∧ ret = true then t.updateL1 x.place p.off n new else t)

/-- The steps of an atomic, ascending, with the values found by lane; r tells by lane what becomes of a record. -/
def atomicSteps (x : Ctx) (op f n : Nat) (ret : Bool) (r : Nat → Option Rec → Option Rec) :
    List AStep → State → List (Nat × Nat) → List (Nat × Nat) × State
  | [], s, vals => (vals, s)
  | a :: as, s, vals =>
    let (old, t) := atomicStep s x op f n ret (r a.lane) a
    atomicSteps x op f n ret r as t (SMap.insert vals a.lane old)

/-- The code of an f32 value plus the exact sum of an operand and others, rounded once (R112). -/
def addMerged (old x : Nat) (xs : List Nat) : Nat :=
  roundCode fmtF32 0 ((fmtF32.value old).add false (xs.foldl (fun a y => a.add false (fmtF32.value y)) (fmtF32.value x)))

/-- One application of several `.comm` f32 adds at a word: their operands are summed exactly, and the sum is added with one rounding
(R112). -/
def State.applyMerged (s : State) (c : Ctx) (k x : Nat) (xs : List Nat) : State :=
  let p := keyPlace k
  if p.space = 1 then
    let (old, t) := s.homeAtomic p.off 4 fun old => addMerged old x xs
    (t.setRecord p none).ownNumber (s.dieAgent c.die) (p.off / 128) old
  else
    let t := (s.put p.key 4 (addMerged (readMem s.mem p.key 4) x xs)).setRecord p none
    if p.space = 3 then t.markDirty p.ctx p.off 4 else t

/-- Steps of `.comm` f32 adds, each with its place in the list: free bits choose which later ones of the same word are merged
with the first into one application; the others follow (R112). -/
def mergedAdds (x : Ctx) : Nat → List (Nat × AStep) → State → State
  | 0, _, s => s
  | _, [], s => s
  | fuel + 1, (i, a) :: as, s =>
    let joins (b : Nat × AStep) : Bool := b.2.key == a.key && s.freeBit (2 ^ 40 + 2 ^ 16 * i + b.1)
    let same := (as.filter joins).map fun b => b.2.x
    let t := if same.isEmpty then (atomicStep s x 0 2 4 false (fun _ => none) a).2 else s.applyMerged x a.key a.x same
    mergedAdds x fuel (as.filter fun b => !joins b) t

/-- The steps on a word of other `.comm` f32 adds in flight that free bits choose to merge with an operation's adds on it: all that
another has on the word, so that nothing falls between the lanes of either (R112, R124). -/
def State.joined (s : State) (id k : Nat) : List (Nat × AStep) :=
  s.ops.flatMap fun (j, o) => match o.kind with
    | .atomic 0 2 4 _ false as _ =>
      if j ≠ id ∧ s.freeBit (2 ^ 100 * (j + 1) + k) = true then (as.filter fun a => a.key == k).map fun a => (j, a) else []
    | _ => []

/-- Takes steps out of the operations that they belong to: they are performed with another's. -/
def State.dropSteps (s : State) (js : List (Nat × AStep)) : State :=
  { s with ops := SMap.mapVals s.ops fun j o => { o with kind := match o.kind with
      | .atomic op f n d ret as vals => .atomic op f n d ret (as.filter fun a => !js.contains (j, a)) vals
      | k => k } }

/-! ### Performing what was issued (R100, R105, R111) -/

/-- The lanes and keys of an operation in flight that is not yet performed, and the bytes at each. -/
def OpKind.pendingBy : OpKind → List (Nat × Nat) × Nat
  | .load _ n _ _ _ todo _ => (todo, n)
  | .store n _ todo => (todo.map fun (l, k, _) => (l, k), n)
  | .atomic _ _ n _ _ steps _ => (steps.map fun a => (a.lane, a.key), n)
  | _ => ([], 0)

/-- The keys of an operation in flight that is not yet performed, and the bytes at each. -/
def OpKind.pending (o : OpKind) : List Nat × Nat := (o.pendingBy.1.map (·.2), o.pendingBy.2)

/-- An operation has yet to touch one of the n bytes at a key. -/
def OpKind.meets (o : OpKind) (k n : Nat) : Bool :=
  o.pending.1.any fun j => decide (j < k + n) && decide (k < j + o.pending.2)

/-- Lane l of a wave has issued an access that has yet to touch one of the n bytes at a key: a later access of the lane to them
waits. A `.comm` atomic holds none (R100, R112). -/
def State.ownPending (s : State) (c w l k n : Nat) : Bool :=
  s.ops.any fun (_, o) => o.ctx == c && o.wave == w &&
    (o.kind.pendingBy.1.any fun j => j.1 == l && decide (j.2 < k + n) && decide (k < j.2 + o.kind.pendingBy.2)) && (match o.kind with
    | .atomic _ _ _ _ ret _ _ => ret
    | _ => true)

/-! What an operation in flight does at several lines of control space it does line by line, as the home of each serves it. The event
names the operation alone, for all that is left to do; the operation and a line plus one, for what waits at that line; or the operation,
0 and lines whose mirrors have yet to take what was done there (R451, R461, R500). -/

/-- The control line of a memory key, plus one; 0 for another space. -/
def keyLine (k : Nat) : Nat := if (keyPlace k).space = 1 then (keyPlace k).off / 128 + 1 else 0

/-- The event being performed concerns what an operation has left to do at a key. -/
def State.partOf (s : State) (k : Nat) : Bool := match s.args with
  | [_] => true
  | [_, n] => n != 0 && keyLine k == n
  | _ => false

/-- What is left at a key must wait: its line does not serve a request of this kind now. -/
def State.keyWaits (s : State) (kind : Nat) (x : Ctx) (k : Nat) : Bool :=
  keyLine k != 0 && s.lineState kind (s.dieAgent x.die) (keyLine k - 1) == .waits

/-- Operation id keeps waiting at the lines of the keys given, each busy; the request whose turn it was and that is done lets the
next of its line go on. -/
def State.waitLines (s : State) (e : Instr) (id : Nat) (ks : List Nat) : State :=
  ((ks.map keyLine).eraseDups.foldl (fun (t : State) n =>
    if t.waiting.any fun w => !w.turn && w.event == e && w.args == [id, n] then t
    else t.waitLine (lineHome (n - 1)) n e [id, n]) s).settled

/-- What was done at the keys waits for the mirrors of their lines, if any has one (R461). -/
def State.awaitMirrors (s : State) (e : Instr) (id : Nat) (ks : List Nat) : State :=
  match s.mirroredLines ks with
  | [] => s
  | ns => s.post e (id :: 0 :: ns)

/-- Posts an operation's end: at once, or once the mirrors of the lines of the keys have taken what was done there (R461). -/
def State.postEnd (s : State) (e : Instr) (id : Nat) (ks : List Nat) : State :=
  match s.mirroredLines ks with
  | [] => s.post e [id]
  | ns => s.post e (id :: 0 :: ns)

/-- A mirror that the event being performed waits for has not taken its update yet. -/
def State.unmirrored (s : State) : Bool := (s.args.drop 2).any fun n => s.mirrorPending n

/-- Some part of what operation id has done still waits for its mirrors. -/
def State.mirrorsAwaited (s : State) (e : Instr) (id : Nat) : Bool :=
  s.agenda.any fun (f, as) => f == e && as.length != 1 && as.take 2 == [id, 0]

/-- Performs the stores of the lanes, ascending, so that the highest lane's bytes stand (R124). A store to a slice lost since it was
issued goes nowhere (R444). -/
def State.performStores (s : State) (c w : Nat) (x : Ctx) (n : Nat) (rel : Option Nat) : List (Nat × Nat × Nat) → State
  | [] => s
  | (l, k, v) :: todo =>
    let p := keyPlace k
    let gone := decide (p.space = 1) && s.homeState (lineHome (p.off / 128)) == .gone
    let t := if gone then s else s.storePlace x p n v (rel.map fun sc => recOf s x c w l sc)
    t.performStores c w x n rel todo

/-- Performs the `.comm` f32 adds of an operation in flight, word by word: where another's are merged with them, as one application. -/
def State.performAdds (s : State) (id : Nat) (x : Ctx) (steps : List AStep) : List Nat → State
  | [] => s
  | k :: ks =>
    let own := steps.filter fun a => a.key == k
    let js := s.joined id k
    let t := match own, js with
      | a :: as, _ :: _ => (s.dropSteps js).applyMerged x k a.x ((as ++ js.map fun (j : Nat × AStep) => j.2).map fun (b : AStep) => b.x)
      | _, _ => mergedAdds x own.length ((List.range own.length).zip own) s
    t.performAdds id x steps ks

/-- Performs the atomic of an operation in flight, of use `.unpaired` or `.comm`: the values found by lane, and the state. -/
def State.performAtomic (s : State) (id : Nat) (x : Ctx) (op f n : Nat) (ret : Bool) (steps : List AStep)
    (vals : List (Nat × Nat)) : List (Nat × Nat) × State :=
  if ret = false ∧ op = 0 ∧ f = 2 then (vals, s.performAdds id x steps (steps.map fun a => a.key).eraseDups)
  else atomicSteps x op f n ret (fun _ _ => none) steps s vals

/-- The slice of a step is lost. -/
def State.stepGone (s : State) (a : AStep) : Bool :=
  (keyPlace a.key).space == 1 && s.homeState (lineHome ((keyPlace a.key).off / 128)) == .gone

/-- The value that a lane finds in a slice lost since its atomic was issued is free: R444 names none (log 5). -/
def State.lostValues (s : State) (steps : List AStep) (vals : List (Nat × Nat)) : List (Nat × Nat) :=
  steps.foldl (fun m a => if s.stepGone a then SMap.insert m a.lane (Config.freeNat (s.free + 2 ^ 20 + a.lane) % 2 ^ 64) else m) vals

/-- The values that an atomic found go back to its lanes, or its acknowledgement does, once the mirrors have taken what it did at the
keys given. -/
def State.atomicReturn (s : State) (id : Nat) (o : Op) (n d : Nat) (ret : Bool) (vals : List (Nat × Nat)) (ks : List Nat) : State :=
  if ret then
    ({ s with ops := SMap.insert s.ops id { o with kind := .load d n false vals [] [] none } } : State).postEnd .loadDataReturn id ks
  else
    ({ s with ops := SMap.insert s.ops id { o with kind := .store n none [] } } : State).postEnd .storeAcknowledged id ks

/-- An atomic in flight is over when no step of it is left and no mirror is awaited. -/
def State.atomicOver (s : State) (id : Nat) : State :=
  match s.op? id with
  | some o => match o.kind with
    | .atomic _ _ n d ret [] vals => if s.mirrorsAwaited .atomicAtHome id then s else s.atomicReturn id o n d ret vals []
    | _ => s
  | none => s

/-- ATOMIC_AT_HOME: id, and what of it. The steps of an atomic of use `.unpaired` or `.comm` execute at their homes (R109, R111), each
as its line serves them. -/
def execAtomicAtHome (s : State) : Host.Outcome State Fault Refusal :=
  let id := s.arg 0
  let u := s.taken .atomicAtHome
  .next (match u.op? id with
    | some o => match o.kind with
      | .atomic op f n d ret steps vals =>
        match u.ctx? o.ctx with
        | some x =>
          if u.unmirrored then u.later .atomicAtHome u.args
          else
            let mine := steps.filter fun a => u.partOf a.key
            let wait := mine.filter fun a => u.keyWaits 2 x a.key
            let now := mine.filter fun a => !u.keyWaits 2 x a.key
            let left := steps.filter fun a => !now.contains a
            let (vals, t) := u.performAtomic id x op f n ret (now.filter fun a => !u.stepGone a) (u.lostValues now vals)
            let t : State := { t with ops := SMap.insert t.ops id { o with kind := .atomic op f n d ret left vals } }
            let t := (t.takeFree).2.waitLines .atomicAtHome id (wait.map fun a => a.key)
            (t.awaitMirrors .atomicAtHome id (now.map fun a => a.key)).atomicOver id
        | none => u.settled
      | _ => u.settled
    | none => u.settled)

end Sys2Proof.Machine
end

