-- ==== Sys2Proof/Machine/Engine.lean ====
section
/-! DEFINITION. Engine.lean: what the tensor copy engine does (R74 to R92): box descriptors, transaction barriers, range
locks, copies by sector, multicast landings, reduce-on-store, completion and failure. -/
namespace Sys2Proof.Machine

/-! ### Transaction barriers (R85, R86) -/

/-- The reserved field of R85 is not zero: a thread store has set it (R89). DEDUCED: R5 has the barrier rejected whole, so no step of
R86 changes it or releases a lane until `tbar.init` writes it anew; neither R85 nor R86 names a report (log 52). Unsafe. -/
def barrierMalformed (b : Nat) : Bool := bits b 127 92 != 0

/-- One step of R86 with the given arrivals and sectors: the barrier, and whether parked lanes are released. -/
def barrierStep (b arr sec : Nat) : Nat × Bool :=
  if barrierMalformed b then (b, false) else
  let pa := bits b 19 4
  let ps := bits b 43 20
  let under := decide (pa < arr) || decide (ps < sec)
  let sets := under && !b.testBit 84
  let b := if sets then setBits (setBits b 84 84 1) 91 85 1 else b
  if pa - arr = 0 ∧ ps - sec = 0 then
    (setBits (setBits (setBits b 3 0 (bits b 3 0 + 1)) 19 4 (bits b 59 44)) 43 20 (bits b 83 60), true)
  else (setBits (setBits b 19 4 (pa - arr)) 43 20 (ps - sec), sets)

/-- Records error code k, if none is recorded (R86). -/
def barrierError (b k : Nat) : Nat × Bool :=
  if b.testBit 84 || barrierMalformed b then (b, false) else (setBits (setBits b 84 84 1) 91 85 k, true)

def State.barrier (s : State) (c i : Nat) : Nat := readMem s.mem (scratchKey c (16 * i)) 16

/-- Lanes of a context parked at barrier i issue their tbar.wait again (R339). -/
def State.wakeTbar (s : State) (c i : Nat) : State :=
  s.modCtx c fun x => { x with waves := SMap.mapVals x.waves fun _ v =>
    { v with lanes := SMap.mapVals v.lanes fun _ n => if n.park = .tbar i then { n with park := .none } else n } }

/-- Applies a step to barrier i of context c, in its live or saved scratchpad. -/
def State.stepBarrier (s : State) (c i : Nat) (r : Nat × Bool) : State :=
  let t := { s with mem := writeMem s.mem (scratchKey c (16 * i)) 16 r.1 }
  if r.2 then t.wakeTbar c i else t

def State.barrierArrive (s : State) (c i n sec : Nat) : State := s.stepBarrier c i (barrierStep (s.barrier c i) n sec)

def State.barrierFail (s : State) (c i k : Nat) : State := s.stepBarrier c i (barrierError (s.barrier c i) k)

/-! ### Range locks (R90 to R92) -/

/-- The unit of a lock: 32-byte sectors of a scratchpad, 128-byte lines of the commons. -/
def Lock.unit (l : Lock) : Nat := if l.commons then 128 else 32

/-- The lock covers some unit that holds a byte of the n bytes at offset o. -/
def Lock.covers (l : Lock) (o n : Nat) : Bool :=
  decide (l.start / l.unit ≤ (o + n - 1) / l.unit) && decide (o / l.unit ≤ l.last / l.unit)

/-- The locks on a context's scratchpad allocation. -/
def State.scratchLocks (s : State) (c : Nat) : List Lock :=
  match s.ctx? c with
  | some x => ((s.core x.place).locks.map (·.2)).filter fun l => !l.commons && l.ctx == c
  | none => []

/-- The locks on a die's commons region. Those of collectives cover staging buffers that no program address reaches (R172). -/
def State.commonsLocks (s : State) (die : Nat) : List Lock :=
  s.cores.flatMap fun (k, x) => if k / 768 = die then (x.locks.map (·.2)).filter fun l => l.commons else []

/-- A load, store or atomic issued but not yet performed touches a sector or line that a lock would cover: it was issued before the lock
is taken, and the operation waits for it. An outbound copy waits for atomics alone: what it writes out of another wave's store is
open (R117). -/
def State.lockMeets (s : State) (die : Nat) (l : Lock) : Bool :=
  let a := l.start / l.unit * l.unit
  let n := (l.last / l.unit + 1) * l.unit - a
  let k := if l.commons then commonsKey die a else scratchKey l.ctx a
  s.ops.any fun (_, o) => o.kind.meets k n && (l.kind != 1 || match o.kind with
    | .atomic .. => true
    | _ => false)

/-- Takes an entry of a core's table; none when all 32 are held, or an earlier access of the range is not yet performed. -/
def State.takeLock (s : State) (core : Nat) (l : Lock) : Option State :=
  let x := s.core core
  if s.lockMeets (core / 768) l then none
  else match (List.range 32).find? fun i => (SMap.find? x.locks i).isNone with
  | some i => some (s.setCore core { x with locks := SMap.insert x.locks i l })
  | none => none

/-- Takes several locks of one core, all or none. -/
def State.takeLocks (s : State) (core : Nat) : List Lock → Option State
  | [] => some s
  | l :: ls => match s.takeLock core l with
    | some t => t.takeLocks core ls
    | none => none

/-- Posts what waits for a lock: landings not made (R80). -/
def State.retryLocks (s : State) : State :=
  s.ops.foldl (fun t (j, o) => match o.kind with
    | .copy _ false _ _ _ _ ts landed _ =>
      (ts.filter fun c => !landed.contains c).foldl (fun t c => t.post .multicastLanding [j, c]) t
    | _ => t) s

/-- Releases the locks of an operation that p selects, and lets what waits for them go on. -/
def State.releaseLocks (s : State) (id : Nat) (p : Lock → Bool) : State :=
  let keep (x : Core) : Core := { x with locks := x.locks.filter fun (_, l) => !(l.op == id && p l) }
  let cs := s.cores.filterMap fun (k, x) => if keep x = Core.reset then none else some (k, keep x)
  ({ s with cores := cs } : State).retryLocks

/-! ### Starting a copy (R82, R83, R116) -/

/-- The context of the span of c whose linear index is k. -/
def State.spanBlock (s : State) (c k : Nat) : Option Nat :=
  (s.spanOf c).find? fun b => match s.ctx? b with
    | some x => x.index == k
    | none => false

/-- Receiving blocks of a multicast: the set bits of MCAST other than the issuing block. DESIGN CHOICE: R80 does not say what the
issuing block's own bit means; it is ignored, for the block receives its window anyway (log 51). Unsafe. -/
def State.mcastTargets (s : State) (c d : Nat) : List Nat :=
  ((List.range 48).filter fun k => (boxMcast d).testBit k).filterMap fun k =>
    match s.spanBlock c k with
    | some b => if b = c then none else some b
    | none => none

/-- The window lock of an operation on a context's allocation. -/
def windowLock (id c kind d : Nat) : Lock := ⟨id, c, false, kind, boxSwin d, boxSwin d + boxWindow d - 1⟩

/-- The window sectors of a box that hold no in-bounds element. -/
def emptySectors (d : Nat) (origin : List Int) : List Nat :=
  let e := efmtBytes (boxEfmt d)
  (List.range (boxSectors d)).filter fun j =>
    (List.range (Nat.min 32 (boxSize d - 32 * j) / e)).all fun i =>
      (boxElement d origin (swizzle (boxSwz d) (32 * j + e * i))).isNone

/-- Some in-bounds element of a box lies in a poisoned unit of the window of context c. -/
def State.windowPoisoned (s : State) (c d : Nat) (origin : List Int) : Bool :=
  let e := efmtBytes (boxEfmt d)
  !s.poison.isEmpty && (List.range (boxSize d / e)).any fun i =>
    (boxElement d origin (swizzle (boxSwz d) (e * i))).isSome && poisoned s (scratchKey c (boxSwin d + e * i)) e

/-- The first events of a copy whose BASE is another package's: the failure of one that meets a lost peer, an element outside the
package (R77) or poison in the window that it writes out (R27); and the sectors that hold no in-bounds element, of which nothing is
asked of the other package (R79, R88). The other sectors come as it answers. -/
def State.remoteCopy (s : State) (c id d : Nat) (origin : List Int) (out : Bool) : State :=
  let outside := match boxRange d origin with
    | some (_, hi) => !boxInSpace d (boxBase d + hi)
    | none => false
  if !s.pathUp (addrPkg (boxBase d)) (if out && boxRedop d != 0 then 3 else 2) then s.post .copyFail [id, 5]
  else if outside then s.post .copyFail [id, 9]
  else if out && s.windowPoisoned c d origin then s.post .copyFail [id, 4]
  else (emptySectors d origin).foldl (fun t j => t.post (if out then .outboundSectorAck else .inboundSectorWritten) [id, j + 1]) s

/-- Starts the copy of entry n of context c for a wave: out tells the direction. It takes the window lock, a lock on its
BASE range in the commons region, and the locks of free receiving windows; none when an entry of the own table is
wanting or an earlier access of the ranges is not yet performed, and then the instruction waits (R92, R116). A box of zero extent
moves nothing and arrives at once, in each receiving block too (R80, R83). -/
def State.startCopy (s : State) (c w n : Nat) (out drop : Bool) : Option State :=
  match s.ctx? c with
  | none => some s
  | some x =>
    match SMap.find? x.regions n with
    | none => some s
    | some r =>
      let d := r.desc
      if boxSize d = 0 then
        let t := s.modCtx c fun y =>
          { y with regions := SMap.insert y.regions n { r with state := if out && drop then .absent else .present } }
        some (((if out then [] else s.mcastTargets c d)).foldl (fun t b => t.barrierArrive b (boxTbar d) 1 0)
          (t.barrierArrive c (boxTbar d) 1 0))
      else
        let id := s.nextId
        let remote := addrSpace (boxBase d) == 2 && addrPkg (boxBase d) != s.pkg
        let kind := if out then 1 else 0
        let base := if addrSpace (boxBase d) = 4 then
            match boxRange d r.origin with
            | some (lo, hi) =>
              let o := (s.cmWindow x.die x.part).1 + boxBase d % 2 ^ 27
              [(⟨id, c, true, kind, o + lo, o + hi⟩ : Lock)]
            | none => []
          else []
        match s.takeLocks x.place (windowLock id c kind d :: base) with
        | none => none
        | some t =>
          let ts := if out then [] else s.mcastTargets c d
          let t := ts.foldl (fun t b => match t.ctx? b with
            | some y =>
              if (t.scratchLocks b).any fun l => l.covers (boxSwin d) (boxWindow d) then t
              else (t.takeLock y.place (windowLock id b 4 d)).getD t
            | none => t) t
          let t := t.modCtx c fun y =>
            { y with
              pinned := y.pinned || addrSpace (boxBase d) == 4
              regions := SMap.insert y.regions n
                { r with state := if out then .dirty else .filling, copy := some id } }
          let t := t.addOp ⟨c, w, [], .copy n out drop d r.origin [] ts [] (if remote then s.flitLink (addrPkg (boxBase d)) (if out && boxRedop d != 0 then 3 else 2) else 0)⟩
          let t := ts.foldl (fun t b => t.post .multicastLanding [id, b]) t
          some (if remote then t.remoteCopy c id d r.origin out
            else t.post (if out then .outboundSectorAck else .inboundSectorWritten) [id])

/-! ### Moving sectors -/

/-- What a position outside the bounds receives (R79). -/
def boxFillCode (d : Nat) : Nat :=
  if boxFill d = 1 then (match efmtFmt (boxEfmt d) with
    | some f => f.nan
    | none => 0) else 0

/-- The data of a sector that another package's memory sent, with the positions outside the bounds filled (R79). -/
def fillSector (d : Nat) (origin : List Int) (j data : Nat) : Nat :=
  let e := efmtBytes (boxEfmt d)
  (List.range (Nat.min 32 (boxSize d - 32 * j) / e)).foldl (fun v i =>
    match boxElement d origin (swizzle (boxSwz d) (32 * j + e * i)) with
    | none => v + boxFillCode d * 2 ^ (8 * e * i)
    | some _ => v + dataBytes data (e * i) e * 2 ^ (8 * e * i)) 0

/-- The data of window sector j for an inbound copy: every byte from its element, or fill; or the first failing code. -/
def State.sectorIn (s : State) (x : Ctx) (d : Nat) (origin : List Int) (j : Nat) : Except Nat Nat × State :=
  let e := efmtBytes (boxEfmt d)
  let fill := boxFillCode d
  let len := Nat.min 32 (boxSize d - 32 * j)
  (List.range (len / e)).foldl (fun (acc : Except Nat Nat × State) i =>
    match acc with
    | (.error c, u) => (.error c, u)
    | (.ok v, u) =>
      match boxElement d origin (swizzle (boxSwz d) (32 * j + e * i)) with
      | none => (.ok (v + fill * 2 ^ (8 * e * i)), u)
      | some a =>
        if !boxInSpace d a then (.error 9, u)
        else match u.engineRead x a e with
          | (.error c, u) => (.error c, u)
          | (.ok y, u) => (.ok (v + y * 2 ^ (8 * e * i)), u)) (.ok 0, s)

/-- Reduce-on-store of one element (R81): 1 add, 2 max, 3 min. -/
def reduceElement (efmt op old x : Nat) : Nat :=
  match efmtFmt efmt with
  | some f =>
    if op = 1 then roundCode f 0 ((f.value old).add false (f.value x))
    else (fpMinMax f (op == 2) old x).1
  | none =>
    if op = 1 then (old + x) % 0x100000000
    else
      let p := decide (signExtend old 32 < signExtend x 32)
      if p == (op == 2) then x else old

/-- Writes or combines every in-bounds element of window sector j; the first failing code, if any. -/
def State.sectorOut (s : State) (c : Nat) (x : Ctx) (d : Nat) (origin : List Int) (j : Nat) : Option Nat × State :=
  let e := efmtBytes (boxEfmt d)
  let len := Nat.min 32 (boxSize d - 32 * j)
  (List.range (len / e)).foldl (fun (acc : Option Nat × State) i =>
    let (err, u) := acc
    match boxElement d origin (swizzle (boxSwz d) (32 * j + e * i)) with
    | none => (err, u)
    | some a =>
      let v := readMem u.mem (scratchKey c (boxSwin d + 32 * j + e * i)) e
      let r : Option Nat × State :=
        if !boxInSpace d a then (some 9, u)
        else if poisoned u (scratchKey c (boxSwin d + 32 * j + e * i)) e then (some 4, u)
        else if boxRedop d = 0 then u.engineWrite x a e v
        else match u.engineAddr x a e (permR + permW) with
          | (.error k, u) => (some k, u)
          | (.ok k, u) =>
            if poisoned u k e then (some 4, u)
            else (none, u.engineStore k e (reduceElement (boxEfmt d) (boxRedop d) (readMem u.mem k e) v))
      (match err with
        | some k => some k
        | none => r.1, r.2)) (none, s)

/-- Sectors of a copy not yet moved. -/
def leftSectors (d : Nat) (done : List (Nat × Bool)) : List Nat :=
  (List.range (boxSectors d)).filter fun j => (SMap.find? done j).isNone

/-- The copy's own choice of its next sector: any of those left (R88). -/
def State.pickSector (s : State) (left : List Nat) : Nat := left.getD (Config.freeNat s.free % left.length) 0

/-- Some sector that the n bytes at an offset of context c touch is in a filling window and not yet written (R83). -/
def State.unwritten (s : State) (c o n : Nat) : Bool :=
  s.ops.any fun (_, p) => match p.kind with
    | .copy _ false _ d _ done _ _ _ =>
      p.ctx == c && (leftSectors d done).any fun j =>
        decide (boxSwin d + 32 * j < o + n) && decide (o < boxSwin d + 32 * j + 32)
    | _ => false

/-- Loads of context c that waited for sectors now written read them; a load with nothing left returns its data. -/
def State.wakeLoads (s : State) (c : Nat) : State :=
  s.ops.foldl (fun t (j, p) => match p.kind with
    | .load d n ext vals waits todo acq =>
      if p.ctx = c ∧ waits ≠ [] then
        let ready := waits.filter fun (_, o) => !t.unwritten c o n
        let left := waits.filter fun (_, o) => t.unwritten c o n
        let vals := ready.foldl (fun m (l, o) => SMap.insert m l (readMem t.mem (scratchKey c o) n)) vals
        let u := { t with ops := SMap.insert t.ops j { p with kind := .load d n ext vals left todo acq } }
        if left.isEmpty then u.post .loadDataReturn [j] else u
      else t
    | _ => t) s

/-- Marks sector j of a copy moved, with its sector event, and goes on: the next sector, the landings, or completion. -/
def State.sectorDone (s : State) (id j : Nat) (o : Op) : State :=
  match o.kind with
  | .copy n out drop d origin done ts landed link =>
    let done := SMap.insert done j true
    let t := { s with ops := SMap.insert s.ops id { o with kind := .copy n out drop d origin done ts landed link } }
    let t := t.barrierArrive o.ctx (boxTbar d) 0 1
    let t := if out then t else t.wakeLoads o.ctx
    if done.length < boxSectors d then
      if link ≠ 0 then t else t.post (if out then .outboundSectorAck else .inboundSectorWritten) [id]
    else if ts.isEmpty then t.post .copyComplete [id]
    else ts.foldl (fun t c => t.post .multicastLanding [id, c]) t
  | _ => s

/-- INBOUND_SECTOR_WRITTEN: id; for a copy from another package also the sector plus one and its data (R88). -/
def execInboundSectorWritten (s : State) : Host.Outcome State Fault Refusal :=
  let id := s.arg 0
  .next (match s.op? id with
    | some o => match o.kind with
      | .copy _ false _ d origin done _ _ link =>
        let remote := link != 0
        match s.ctx? o.ctx, leftSectors d done with
        | some x, k :: ks =>
          let j := if remote then s.arg 1 - 1 else s.pickSector (k :: ks)
          if !(k :: ks).contains j then s
          else
            let r := if remote then (.ok (fillSector d origin j (s.arg 2)), s) else s.sectorIn x d origin j
            let u := (r.2.takeFree).2
            match r.1 with
            | .error c => u.post .copyFail [id, c]
            | .ok v =>
              let len := Nat.min 32 (boxSize d - 32 * j)
              let k := scratchKey o.ctx (boxSwin d + 32 * j)
              (u.put k len v).sectorDone id j o
        | _, _ => s
      | _ => s
    | none => s)

/-- OUTBOUND_SECTOR_ACK: id, and for reduce-on-store or another package the sector plus one. A local copy without reduction
writes a sector here; one with it goes by REDUCE_ON_STORE_COMBINE first (R81, R88). -/
def execOutboundSectorAck (s : State) : Host.Outcome State Fault Refusal :=
  let id := s.arg 0
  .next (match s.op? id with
    | some o => match o.kind with
      | .copy _ true _ d origin done _ _ link =>
        let remote := link != 0
        match s.ctx? o.ctx, leftSectors d done with
        | some x, k :: ks =>
          if remote || s.arg 1 != 0 then
            let j := s.arg 1 - 1
            if (k :: ks).contains j then s.sectorDone id j o else s
          else
            let j := s.pickSector (k :: ks)
            let u := (s.takeFree).2
            if boxRedop d = 0 then
              match u.sectorOut o.ctx x d origin j with
              | (some c, u) => u.post .copyFail [id, c]
              | (none, u) => u.sectorDone id j o
            else u.post .reduceOnStoreCombine [id, j + 1]
        | _, _ => s
      | _ => s
    | none => s)

/-- REDUCE_ON_STORE_COMBINE: id, sector plus one (R81). -/
def execReduceOnStoreCombine (s : State) : Host.Outcome State Fault Refusal :=
  let id := s.arg 0
  .next (match s.op? id with
    | some o => match o.kind with
      | .copy _ true _ d origin done _ _ 0 =>
        match s.ctx? o.ctx with
        | some x =>
          if (leftSectors d done).contains (s.arg 1 - 1) then
            match s.sectorOut o.ctx x d origin (s.arg 1 - 1) with
            | (some c, u) => u.post .copyFail [id, c]
            | (none, u) => u.post .outboundSectorAck [id, s.arg 1]
          else s
        | none => s
      | _ => s
    | none => s)

/-- MULTICAST_LANDING: id, receiving context. The landing takes the lock on its window once no other operation's lock covers it, an
entry is free and no earlier access of it is outstanding; once the copy has its sectors the window is written, its lock
released, and the sectors and one arrival counted (R80, R88). -/
def execMulticastLanding (s : State) : Host.Outcome State Fault Refusal :=
  let id := s.arg 0
  let c := s.arg 1
  .next (match s.op? id with
    | some o => match o.kind with
      | .copy n false drop d origin done ts landed link =>
        match s.ctx? c with
        | some y =>
          let ls := s.scratchLocks c
          let held := ls.any fun l => l.op == id
          if !ts.contains c || landed.contains c then s
          else if !held then
            if ls.any fun l => l.op != id && l.covers (boxSwin d) (boxWindow d) then s
            else match s.takeLock y.place (windowLock id c 4 d) with
              | some t => if done.length = boxSectors d then t.post .multicastLanding s.args else t
              | none => if s.lockMeets y.die (windowLock id c 4 d) then s.post .multicastLanding s.args else s
          else if done.length ≠ boxSectors d then s
          else
            let t := (List.range (boxSize d / 16)).foldl (fun (t : State) k =>
              t.put (scratchKey c (boxSwin d + 16 * k)) 16 (readMem t.mem (scratchKey o.ctx (boxSwin d + 16 * k)) 16)) s
            let o' : Op := { o with kind := .copy n false drop d origin done ts (c :: landed) link }
            let t := { t with ops := SMap.insert t.ops id o' }
            let t := t.releaseLocks id fun l => l.ctx == c && !l.commons
            let t := (List.range (boxSectors d)).foldl (fun t _ => t.barrierArrive c (boxTbar d) 0 1) t
            let t := t.barrierArrive c (boxTbar d) 1 0
            if ts.all fun b => b == c || landed.contains b then t.post .copyComplete [id] else t
        | none => s
      | _ => s
    | none => s)

/-- The entry's state after its copy has ended (R82, R84). -/
def State.entryAfter (s : State) (c n : Nat) (out drop : Bool) : State :=
  s.modCtx c fun y => { y with regions := SMap.modify y.regions n fun r =>
    { r with state := if out && drop then .absent else .present, copy := none } }

/-- COPY_COMPLETE: id. Locks released, entry updated, then the arrival (R82, R86, R91). -/
def execCopyComplete (s : State) : Host.Outcome State Fault Refusal :=
  let id := s.arg 0
  .next (match s.op? id with
    | some o => match o.kind with
      | .copy n out drop d _ done ts landed _ =>
        if done.length = boxSectors d ∧ ts.all (fun b => landed.contains b) = true then
          let t := s.releaseLocks id fun _ => true
          let t := t.entryAfter o.ctx n out drop
          (t.barrierArrive o.ctx (boxTbar d) 1 0).endOp id
        else s
      | _ => s
    | none => s)

/-- A failed copy's effect on one barrier: the error, the arrival, then the remaining sectors (R84). -/
def State.failBarrier (s : State) (c i code left : Nat) : State :=
  let t := (s.barrierFail c i code).barrierArrive c i 1 0
  if left = 0 then t else t.barrierArrive c i 0 left

/-- The codes of R87. -/
def errorCode (k : Nat) : Bool := decide (1 ≤ k) && decide (k ≤ 9)

/-- COPY_FAIL: id, code. -/
def execCopyFail (s : State) : Host.Outcome State Fault Refusal :=
  let id := s.arg 0
  .next (if !errorCode (s.arg 1) then s else match s.op? id with
    | some o => match o.kind with
      | .copy n out drop d origin done ts landed link =>
        let t := s.releaseLocks id fun _ => true
        let t := t.entryAfter o.ctx n out drop
        let t := t.failBarrier o.ctx (boxTbar d) (s.arg 1) (leftSectors d done).length
        let t := (ts.filter fun c => !landed.contains c).foldl
          (fun t c => t.failBarrier c (boxTbar d) (s.arg 1) (boxSectors d)) t
        let all := (List.range (boxSectors d)).map fun j => (j, true)
        let o' : Op := { o with kind := .copy n out drop d origin all ts ts link }
        let t := { t with ops := SMap.insert t.ops id o' }
        (t.wakeLoads o.ctx).endOp id
      | _ => s
    | none => s)

end Sys2Proof.Machine
end

