-- ==== Sys2Proof/Machine/Access.lean ====
section
/-! DEFINITION. Access.lean: the checks on a lane's address in the order of R65 and R299, the synchronisation records of
R113 and R114, memory watches (R472), and one lane's load and store of each space (R101 to R109, R304, R305). -/
namespace Sys2Proof.Machine

/-- Instruction classes of R66. -/
inductive Cls where
  | ldst
  | atom
  | atoms
  | ratom
  deriving DecidableEq, Repr

/-- What an instruction asks of an address: its class, its size, the permissions it needs (R432), whether it is a load
(R83, R501), the scope of its scope check (R114), if it has one, and the CFMT of a `.comm` add (R455). -/
structure Req where
  cls : Cls
  n : Nat
  need : Nat
  load : Bool
  sync : Option Nat
  add : Option Nat
  deriving DecidableEq, Repr

/-! ### Synchronisation records (R113, R114, R440) -/

/-- TVAL of a scope-mismatch trap (R440). -/
def releaserWord (r : Rec) (sc : Nat) : Nat :=
  sc % 8 * 0x10000 + r.scope % 8 * 0x80000 + r.wave % 16 * 0x400000 + r.ctx % 0x10000 * 0x4000000 +
    r.die % 4 * 0x40000000000 + r.pkg % 0x100000 * 0x100000000000

/-- A tensor line may have left the commons before the access: its record is lost then (R113). -/
def State.loseRecord (s : State) (p : Place) (l : Nat) : State :=
  if p.space = 2 ∧ s.freeBit (96 + l) = false then s.setRecord p none else s

/-! ### Checks 1 to 4 of R65 and the alignment check of R298 -/

/-- Checks 1 and 2: null or reserved space, must-be-zero bits, home index (R64). -/
def formFault (s : State) (l a : Nat) : Option Trap :=
  match addrSpace a with
  | 0 => some (trapLane 7 0 l a)
  | 1 => if bits a 59 46 != 0 || (s.domPkg? (bits a 45 36)).isNone then some (trapLane 9 0 l a) else none
  | 2 => none
  | 3 => if bits a 59 24 != 0 then some (trapLane 9 0 l a) else none
  | 4 => if bits a 59 27 != 0 then some (trapLane 9 0 l a) else none
  | 5 => none
  | _ => some (trapLane 8 0 l a)

/-- Check 3: the table of R66. -/
def classFault (s : State) (k : Cls) (l a : Nat) : Option Trap :=
  let space := some (trapLane 0x0A 0 l a)
  let own := addrPkg a == s.pkg
  match k, addrSpace a with
  | .ldst, 5 => space
  | .ldst, 2 => if own then none else some (trapLane 0x0B 0 l a)
  | .ldst, _ => none
  | .atom, 2 => if own then none else some (trapLane 0x0B 0 l a)
  | .atom, 1 | .atom, 4 => none
  | .atom, _ => space
  | .atoms, 3 => none
  | .atoms, _ => space
  | .ratom, 2 => none
  | .ratom, _ => space

/-- The context whose allocation a core field names (R71): the own block's, or that of the span's block on that core. -/
def State.windowCtx (s : State) (c : Nat) (x : Ctx) (f : Nat) : Option Nat :=
  if f = 63 ∨ f = x.core % 48 then some c
  else if 48 ≤ f then none
  else (s.spanOf c).find? fun b => match s.ctx? b with
    | some y => y.die == x.die && y.core == x.core / 48 * 48 + f
    | none => false

/-- Check 4: the bound of the space (R59, R71, R72), which holds for the argument blocks of R364 and R382 too: what these rules say of a
scratchpad or commons address is taken of the check before it alone (log 48). The target context and offset of an access that passes. -/
def boundCheck (s : State) (c : Nat) (x : Ctx) (act : List Nat) (l a : Nat) : Except Trap (Nat × Nat) :=
  match addrSpace a with
  | 3 =>
    match s.windowCtx c x (bits a 23 18) with
    | some b =>
      let size := match s.ctx? b with
        | some y => y.scratchBytes
        | none => 0
      if bits a 17 0 < size then .ok (b, bits a 17 0)
      else if b = c then .error (trapOf 4 4 act (bits a 17 0))
      else .error (trapLane 0x0C 0 l a)
    | none => .error (trapLane 0x0C 0 l a)
  | 4 =>
    let w := s.cmWindow x.die x.part
    if bits a 26 0 < w.2 then .ok (0, w.1 + bits a 26 0) else .error (trapLane 0x0D 0 l a)
  | 1 => .ok (0, addrOff a)
  | _ => .ok (0, a % 2 ^ 40)

/-- Checks 1 to 4 and alignment, in the order of R65 and R298. -/
def earlyCheck (s : State) (c : Nat) (x : Ctx) (act : List Nat) (q : Req) (l a : Nat) : Except Trap (Nat × Nat) :=
  match formFault s l a with
  | some t => .error t
  | none => match classFault s q.cls l a with
    | some t => .error t
    | none => match boundCheck s c x act l a with
      | .error t => .error t
      | .ok r => if a % q.n = 0 then .ok r else .error (trapLane 0x0E 0 l a)

/-! ### Translation, range locks, scope check and poison -/

/-- What the checks of one lane answer: its place, a fault, or that it waits, and whether for a walk. -/
inductive Verdict where
  | ok (p : Place)
  | fail (t : Trap)
  | wait (walk : Bool)
  deriving DecidableEq, Repr

/-- The translation fault of a walk or the firewall (R431, R432, R439), and a lost slice (R444). -/
def missFault (m : Miss) (need l a : Nat) : Verdict :=
  match m with
  | .walk k lvl => .fail (trapLane 0x0F (k + 4 * (if k = 3 then 0 else lvl) + (if need &&& permW = 0 then 0 else 16)) l a)
  | .poison => .fail (trapLane 0x11 0 l a)
  | .lost => .fail (trapLane 0x13 0 l a)
  | .waits => .wait true

/-- The coherence request that an access to a control address makes (R451, R455). -/
def Req.kind (q : Req) (comm : Bool) (pa : Nat) : Nat :=
  if q.cls = .atom then (match q.add with
    | some f => if comm then 4 + f + 3 * (pa % 128 / cfmtBytes f) else 2
    | none => 2)
  else if q.load then 0 else 1

/-- Check 5: the place of an access that passed checks 1 to 4. -/
def placeOf (s : State) (x : Ctx) (q : Req) (l a : Nat) (r : Nat × Nat) : Verdict × State :=
  match addrSpace a with
  | 3 => (.ok ⟨3, scratchKey r.1 r.2, r.1, r.2, false⟩, s)
  | 4 => (.ok ⟨4, commonsKey x.die r.2, 0, r.2, false⟩, s)
  | sp =>
    let tensor := sp == 2
    match s.translate x.place x.part tensor r.2 q.need (some (128 + 4 * l)) with
    | (.error m, u) => (missFault m q.need l a, u)
    | (.ok (pa, leaf), u) =>
      if !u.firewall x.part tensor pa q.n (q.need &&& permW != 0) then (missFault (.walk 3 0) q.need l a, u)
      else if tensor then (.ok ⟨2, tensorKey pa, 0, pa, false⟩, u)
      else
        match u.lineState (q.kind (leaf.testBit 7) pa) (u.dieAgent x.die) (pa / 128) with
        | .waits => (.wait false, u)
        | .gone => (missFault .lost q.need l a, u)
        | .serves => (.ok ⟨1, ctlKey pa, 0, pa, leaf.testBit 7⟩, u)

/-- Check 6: the kind of the range lock an access meets (R91). A load of the owning block meets no lock of its own
filling windows (R83). -/
def lockKind (s : State) (c : Nat) (x : Ctx) (q : Req) (p : Place) : Option Nat :=
  let ls : List Lock := match p.space with
    | 3 => (s.scratchLocks p.ctx).filter fun k => !(q.load && p.ctx == c && k.kind == 0)
    | 4 => s.commonsLocks x.die
    | _ => []
  (ls.find? fun k => k.covers p.off q.n).map (·.kind)

/-- Entries of context c that are absent and whose window holds a byte of the n bytes at offset o. -/
def Ctx.touched (x : Ctx) (o n : Nat) : List Nat :=
  (x.regions.filter fun (_, r) => r.state == .absent && decide (boxSwin r.desc < o + n) &&
    decide (o < boxSwin r.desc + boxWindow r.desc)).map (·.1)

/-- Sector j of a place is one that an inbound copy of the own block has yet to write: a load waits for it and reads what the copy
writes (R83). -/
def State.awaits (s : State) (c : Nat) (x : Ctx) (p : Place) (j : Nat) : Bool :=
  p.space == 3 && p.ctx == c &&
    (s.unwritten c (32 * (p.off / 32 + j)) 32 || !(x.touched (32 * (p.off / 32 + j)) 32).isEmpty)

/-- An access reads a poisoned unit (R27). -/
def State.readsPoison (s : State) (c : Nat) (x : Ctx) (q : Req) (p : Place) : Bool :=
  q.need &&& permR != 0 && (List.range ((p.key % 32 + q.n + 31) / 32)).any fun j =>
    SMap.get 0 s.poison (p.key / 32 + j) != 0 && !(q.load && s.awaits c x p j)

/-- The checks of one lane in the order of R299. An access to bytes that an earlier access of the lane has yet to touch waits for it
(R100). -/
def laneCheck (s : State) (b : Bundle) (x : Ctx) (act : List Nat) (q : Req) (l a : Nat) : Verdict × State :=
  match earlyCheck s b.ctx x act q l a with
  | .error t => (.fail t, s)
  | .ok r => match placeOf s x q l a r with
    | (.fail t, u) => (.fail t, u)
    | (.wait k, u) => (.wait k, u)
    | (.ok p, u) => if u.ownPending b.ctx b.wave l p.key q.n then (.wait false, u) else match lockKind u b.ctx x q p with
      | some k => (.fail (trapLane 0x10 k l a), u)
      | none =>
        let u := if q.sync.isSome then u.loseRecord p l else u
        let bad := match q.sync, u.record? p with
          | some sc, some r => if u.scopeOk (recOf u x b.ctx b.wave l sc) r then none else some (releaserWord r sc)
          | _, _ => none
        match bad with
        | some w => (.fail (trapLane 0x12 0 l w), u)
        | none =>
          if u.readsPoison b.ctx x q p then (.fail (trapLane 0x11 0 l a), u) else (.ok p, u)

/-- What the checks of all lanes answer: each lane with its address and place, none for a helper that failed; touch for
a scratchpad atomic whose deciding lane touches an absent window (R310). -/
inductive Plan where
  | go (ps : List (Nat × Nat × Option Place)) (s : State)
  | touch (t : Trap)
  | fail (t : Trap) (u : State)
  | wait (walk : Bool)
  deriving DecidableEq, Repr

/-- The state in which an access of a bundle waits: whether for a walk, the wave keeps (R445). -/
def State.waitsWalk (s : State) (b : Bundle) (walk : Bool) : State :=
  if walk then s.modWave b.ctx b.wave fun v => { v with walk := true } else s

/-- The checks of every lane, ascending: the lowest lane that fails and is not a helper decides (R299, R301). -/
def planFrom (b : Bundle) (x : Ctx) (v : Wave) (act : List Nat) (q : Req) :
    List (Nat × Nat) → List (Nat × Nat × Option Place) → State → Plan
  | [], ps, s => .go ps.reverse s
  | (l, a) :: ls, ps, s =>
    match laneCheck s b x act q l a with
    | (.wait k, _) => .wait k
    | (.fail t, u) => if v.isHelper l then planFrom b x v act q ls ((l, a, none) :: ps) u else .fail t u
    | (.ok p, u) =>
      if q.cls = .atoms ∧ p.ctx = b.ctx ∧ x.touched p.off q.n ≠ [] then .touch (trapLane 0x10 0 l a)
      else planFrom b x v act q ls ((l, a, some p) :: ps) u

def plan (s : State) (b : Bundle) (x : Ctx) (v : Wave) (act : List Nat) (q : Req) (as : List (Nat × Nat)) : Plan :=
  planFrom b x v act q as [] s

/-! ### Starting the copies of touches (R82, R83, R310) -/

/-- Entries that the own-scratchpad places of an instruction touch, rising. -/
def touches (c : Nat) (x : Ctx) (n : Nat) (ps : List Place) : List Nat :=
  let es := (ps.filter fun p => p.space == 3 && p.ctx == c).flatMap fun p => x.touched p.off n
  (x.regions.map (·.1)).filter es.contains

/-- Starts the inbound copies of a list of entries; none while a lock entry is wanting. -/
def startTouched (b : Bundle) : List Nat → State → Option State
  | [], s => some s
  | n :: ns, s => match s.startCopy b.ctx b.wave n false false with
    | some t => startTouched b ns t
    | none => none

/-- A touch through a place of the commons region pins the context to its die (R73). -/
def pinIf (b : Bundle) (ps : List Place) (s : State) : State :=
  if ps.any fun p => p.space == 4 then s.modCtx b.ctx fun x => { x with pinned := true } else s

/-! ### First-level caches (R26, R68, R70, R101, R105) -/

/-- A load of tensor memory by a core. The copy in the L1 may serve it; otherwise the line is read at the home and may be
kept (log 6). An acquire is performed at the home. -/
def State.tensorLoad (s : State) (core pa n l : Nat) (acq : Bool) : Nat × State :=
  let k := l1Key core pa
  let home (t : State) : Nat × State :=
    let t := { t with l1 := SMap.erase t.l1 k }
    let d := readMem t.mem (tensorKey (pa / 128 * 128)) 128
    let t := if s.freeBit (32 + l) && (s.core core).carve != 6 then { t with l1 := SMap.insert t.l1 k d } else t
    (dataBytes d (pa % 128) n, t)
  match SMap.find? s.l1 k with
  | some d => if !acq && s.freeBit (64 + l) then (dataBytes d (pa % 128) n, s) else home s
  | none => home s

/-! ### One lane's load and store -/

/-- The n bytes at a place. -/
def State.loadPlace (s : State) (x : Ctx) (p : Place) (n l : Nat) (acq : Bool) : Nat × State :=
  match p.space with
  | 1 => s.ctlRead (s.dieAgent x.die) p.off n
  | 2 => s.tensorLoad x.place p.off n l acq
  | _ => (readMem s.mem p.key n, s)

/-! ### Memory watches (R472) -/

/-- Key of a breakpoint register: partition and unit. -/
def bpSel (part unit : Nat) : Nat := 4 * part + unit

/-- Unit u of the partition watches an access: kind 1 a load, 2 a store, 3 both. -/
def watches (s : State) (x : Ctx) (u kinds : Nat) (a n : Nat) : Bool :=
  let k := s.hubGet 0x731 (bpSel x.part u)
  k.testBit 0 && (bits k 2 1 &&& kinds != 0) && !(s.hubGet 0x701 x.part).testBit 16 &&
    decide (a ≤ s.hubGet64 0x734 (bpSel x.part u)) && decide (s.hubGet64 0x732 (bpSel x.part u) < a + n)

/-- Stops the span after a watched memory instruction, cause 4: the lowest matching unit and its lowest lane. -/
def watchStop (s : State) (b : Bundle) (v : Wave) (kinds n : Nat) (as : List (Nat × Nat)) : State :=
  match s.ctx? b.ctx with
  | some x =>
    if x.dbgen then
      let hits := (List.range 4).filterMap fun u =>
        (as.find? fun (l, a) => !v.isHelper l && watches s x u kinds a n).map fun (l, a) => (u, l, a)
      match hits with
      | (u, l, a) :: _ => (s.startDrain b.ctx .stopped .stopComplete).markStop b.ctx ⟨4, u, l, b.wave, a⟩
      | [] => s
    else s
  | none => s

/-! ### The reads of descriptors, blocks, images and packets (R501) -/

/-- What such reads answer: the values by lane, a fault, or that they wait, with the copies their touches have started. -/
inductive Image where
  | ok (vs : List (Nat × Nat)) (s : State)
  | fail (t : Trap) (u : State)
  | wait (s : State)
  deriving DecidableEq, Repr

/-- The values that checked lanes read. -/
def imageValues (x : Ctx) (n : Nat) : List (Nat × Nat × Option Place) → State → List (Nat × Nat) × State
  | [], s => ([], s)
  | (_, _, none) :: ps, s => imageValues x n ps s
  | (l, _, some p) :: ps, s =>
    let (y, t) := s.loadPlace x p n l false
    let (vs, u) := imageValues x n ps t
    ((l, y) :: vs, u)

/-- Plain loads of n bytes by several lanes, each at its address: all are checked before one takes effect (R299, R501). s is the
state in which the instruction has passed, s0 the one in which it waits. -/
def readImages (s0 s : State) (b : Bundle) (x : Ctx) (v : Wave) (act : List Nat) (n : Nat) (as : List (Nat × Nat)) : Image :=
  match plan s b x v act ⟨.ldst, n, permR, true, none, none⟩ as with
  | .wait k => .wait (s0.waitsWalk b k)
  | .touch t => .fail t s
  | .fail t u => .fail t u
  | .go ps u =>
    let places := ps.filterMap fun (_, _, p) => p
    match touches b.ctx x n places with
    | [] =>
      if places.any fun p => p.space == 3 && p.ctx == b.ctx && u.unwritten b.ctx p.off n then .wait s0
      else
        let (vs, u) := imageValues x n ps u
        .ok vs (pinIf b places u)
    | es => .wait ((startTouched b es s0).getD s0)

end Sys2Proof.Machine
end

