-- ==== Sys2Proof/Machine/Integer.lean ====
section
/-! DEFINITION. Integer.lean: the integer and bit instructions (R240 to R257), with the compact forms of R209. Every
source is read before any destination is written (R240, R241). -/
namespace Sys2Proof.Machine

/-! ### Shared shapes -/

/-- Each lane of the active set writes the registers that f gives, from the registers before the instruction
(R240, R258). -/
def perLane (i : Instr) (s : State) (f : Ctx → Wave → Nat → List (Nat × Word)) :
    Host.Outcome State Fault Refusal :=
  issue i s fun b act t =>
    match s.ctx? b.ctx, s.wave? b.ctx b.wave with
    | some x, some v =>
      .done (t.setRegs b.ctx b.wave (act.flatMap fun l => (f x v l).map fun (r, y) => (32 * r + l, y)))
    | _, _ => .done t

/-- Each lane of the active set writes the registers that f gives and ORs its flags into its lane status word, unless
the quiet bit q is set (R198, R258). -/
def perLaneFlags (i : Instr) (s : State) (q : Nat) (f : Wave → Nat → List (Nat × Word) × Nat) :
    Host.Outcome State Fault Refusal :=
  issue i s fun b act t =>
    match s.wave? b.ctx b.wave with
    | some v =>
      let rs := act.map fun l => (l, f v l)
      let u := t.setRegs b.ctx b.wave (rs.flatMap fun (l, ws, _) => ws.map fun (r, y) => (32 * r + l, y))
      .done (if q = 0 then u.orFlags b.ctx b.wave (rs.map fun (l, _, fl) => (l, fl)) else u)
    | none => .done t

def lane0 (i : Instr) (s : State) (d : Nat) (y : Word) : Host.Outcome State Fault Refusal :=
  perLane i s fun _ _ _ => [(d, y)]

def lane1 (i : Instr) (s : State) (d a : Nat) (f : Word → Word) : Host.Outcome State Fault Refusal :=
  perLane i s fun _ v l => [(d, f (v.reg a l))]

def lane2 (i : Instr) (s : State) (d a b : Nat) (f : Word → Word → Word) : Host.Outcome State Fault Refusal :=
  perLane i s fun _ v l => [(d, f (v.reg a l) (v.reg b l))]

/-- The third operand is the destination register as it stands before the instruction. -/
def lane3 (i : Instr) (s : State) (d a b : Nat) (f : Word → Word → Word → Word) :
    Host.Outcome State Fault Refusal :=
  perLane i s fun _ v l => [(d, f (v.reg a l) (v.reg b l) (v.reg d l))]

/-- The two registers of a pair holding a number modulo 2^64 (R3). -/
def pairRegs (d : Nat) (y : Dword) : List (Nat × Word) :=
  [(d, BitVec.setWidth 32 y), (d + 1, BitVec.setWidth 32 (y >>> 32))]

/-- The pair of a lane as 64 bits. -/
def Wave.dword (v : Wave) (r l : Nat) : Dword := BitVec.ofNat 64 (v.pair r l)

/-! ### The operations -/

def bool01 (p : Bool) : Word := if p then 1 else 0

def shlOp (x c : Word) : Word := if c.toNat < 32 then x <<< c.toNat else 0
def shrOp (x c : Word) : Word := if c.toNat < 32 then x >>> c.toNat else 0
def sarOp (x c : Word) : Word := x.sshiftRight (Nat.min c.toNat 31)
def rolOp (x c : Word) : Word := x.rotateLeft (c.toNat % 32)
def rorOp (x c : Word) : Word := x.rotateRight (c.toNat % 32)

def absOp (x : Word) : Word := if x.msb then -x else x

/-- min and max: t is 0 for s32 and 1 for n32 (R248). -/
def lessOp (t : Nat) (x y : Word) : Bool := if t = 0 then x.slt y else x.ult y
def minOp (t : Nat) (x y : Word) : Word := if lessOp t y x then y else x
def maxOp (t : Nat) (x y : Word) : Word := if lessOp t x y then y else x

/-- Condition codes 0 eq, 1 ne, 2 lt, 3 le, 4 gt, 5 ge (R248). -/
def cmpOp (t c : Nat) (x y : Word) : Word :=
  bool01 (match c with
    | 0 => x == y
    | 1 => x != y
    | 2 => lessOp t x y
    | 3 => !lessOp t y x
    | 4 => lessOp t y x
    | _ => !lessOp t x y)

def selOp (x y c : Word) : Word := if c ≠ 0 then x else y
def bselOp (x y m : Word) : Word := (x &&& m) ||| (y &&& ~~~m)

/-- The 24-bit product (R203, R251): t 0 signed, 1 unsigned; h 1 takes bits [47:24] extended by the type. -/
def mul24Op (t h : Nat) (x y : Word) : Word :=
  let p : BitVec 48 :=
    if t = 0 then (BitVec.setWidth 24 x).signExtend 48 * (BitVec.setWidth 24 y).signExtend 48
    else (BitVec.setWidth 24 x).setWidth 48 * (BitVec.setWidth 24 y).setWidth 48
  if h = 0 then BitVec.setWidth 32 p
  else
    let q : BitVec 24 := BitVec.setWidth 24 (p >>> 24)
    if t = 0 then q.signExtend 32 else q.setWidth 32

/-- The 32-bit product (R251). -/
def mul32Op (t h : Nat) (x y : Word) : Word :=
  let p : BitVec 64 := if t = 0 then x.signExtend 64 * y.signExtend 64 else x.setWidth 64 * y.setWidth 64
  if h = 0 then BitVec.setWidth 32 p else BitVec.setWidth 32 (p >>> 32)

def popcOp (x : Word) : Word := word ((List.range 32).countP fun i => x.getLsbD i)
def clzOp (x : Word) : Word := word (((List.range 32).find? fun i => x.getLsbD (31 - i)).getD 32)
def ctzOp (x : Word) : Word := word (((List.range 32).find? fun i => x.getLsbD i).getD 32)
def brevOp (x : Word) : Word := x.reverse

/-- bfe: position p, length n + 1 (R254). -/
def bfeN (n p : Nat) (x : Word) : Word := word (bits x.toNat (p + n) p)
def bfeS (n p : Nat) (x : Word) : Word := wordInt (signExtend (bits x.toNat (p + n) p) (n + 1))
def bfiOp (n p : Nat) (x y : Word) : Word := word (setBits y.toNat (p + n) p x.toNat)

/-- Result byte i of bgath (R255). -/
def bgathByte (src ctl i : Nat) : Nat :=
  let y := src / 2 ^ (8 * (ctl / 2 ^ (3 * i) % 8)) % 256
  match ctl / 2 ^ (2 * i + 12) % 4 with
  | 0 => y
  | 1 => 0x00
  | 2 => 0xFF
  | _ => if 128 ≤ y then 0xFF else 0x00

def bgathOp (x y ctl : Word) : Word :=
  let byte := bgathByte (x.toNat + 2 ^ 32 * y.toNat) ctl.toNat
  word (byte 0 + byte 1 * 2 ^ 8 + byte 2 * 2 ^ 16 + byte 3 * 2 ^ 24)

/-- The quotient of R204: rounded toward zero; borderline cases as stated there. t is 0 for s32, 1 for n32. -/
def divOp (t : Nat) (x y : Word) : Word :=
  if y = 0 then 0xFFFFFFFF
  else if t = 0 then x.sdiv y else x / y

/-- The remainder of R204. -/
def remOp (t : Nat) (x y : Word) : Word :=
  if y = 0 then x
  else if t = 0 then x.srem y else x % y

/-! ### Moves and special values -/

def execMovS (d b : Nat) (s : State) := lane1 (.movS d b) s d b id
def execMov (d b : Nat) (s : State) := lane1 (.mov d b) s d b id
def execMovi (d imm : Nat) (s : State) := lane0 (.movi d imm) s d (word imm)

/-- The special value of code i for lane l (R37, R232, R245). The clock is the cycle in which the bundle issues. -/
def special (s : State) (x : Ctx) (v : Wave) (w l i : Nat) : Nat :=
  let tid := 32 * w + l
  match i with
  | 0 => l
  | 1 => l / 4
  | 2 => w
  | 3 => x.nwaves
  | 4 => tid
  | 5 => tid % x.bdimx
  | 6 => tid / x.bdimx % x.bdimy
  | 7 => tid / (x.bdimx * x.bdimy)
  | 8 => x.bdimx
  | 9 => x.bdimy
  | 10 => x.bdimz
  | 11 => x.lx % x.sdimx
  | 12 => x.ly % x.sdimy
  | 13 => x.lz % x.sdimz
  | 14 => x.sdimx
  | 15 => x.sdimy
  | 16 => x.sdimz
  | 17 => x.lx
  | 18 => x.ly
  | 19 => x.lz
  | 20 => x.ldimx
  | 21 => x.ldimy
  | 22 => x.ldimz
  | 23 => x.core
  | 24 => x.core / 48
  | 25 => x.die
  | 26 => s.pkg
  | 27 => bits s.clock.toNat 31 0
  | 28 => bits s.clock.toNat 63 32
  | 29 => 2 ^ v.part
  | 30 => x.fgen
  | _ => match v.lane? l with
    | some n => n.lsw.toNat
    | none => 0

def execSreg (d i : Nat) (s : State) :=
  issue (.sreg d i) s fun b act t =>
    match s.ctx? b.ctx, s.wave? b.ctx b.wave with
    | some x, some v =>
      .done (t.setRegs b.ctx b.wave (act.map fun l => (32 * d + l, word (special s x v b.wave l i))))
    | _, _ => .done t

/-! ### Compact forms (R209) -/

def execAddS (d b : Nat) (s : State) := lane2 (.addS d b) s d d b (· + ·)
def execSubS (d b : Nat) (s : State) := lane2 (.subS d b) s d d b (· - ·)
def execAndS (d b : Nat) (s : State) := lane2 (.andS d b) s d d b (· &&& ·)
def execOrS (d b : Nat) (s : State) := lane2 (.orS d b) s d d b (· ||| ·)
def execXorS (d b : Nat) (s : State) := lane2 (.xorS d b) s d d b (· ^^^ ·)
def execShlS (d b : Nat) (s : State) := lane2 (.shlS d b) s d d b shlOp
def execShrS (d b : Nat) (s : State) := lane2 (.shrS d b) s d d b shrOp
def execSarS (d b : Nat) (s : State) := lane2 (.sarS d b) s d d b sarOp
def execMul24S (d b : Nat) (s : State) := lane2 (.mul24S d b) s d d b (mul24Op 0 0)
def execSetlt (d b : Nat) (s : State) := lane2 (.setlt d b) s d d b (cmpOp 0 2)

/-! ### Add, subtract and carry (R246, R247) -/

def execAdd (d a b : Nat) (s : State) := lane2 (.add d a b) s d a b (· + ·)
def execAddImm (d a i : Nat) (s : State) := lane1 (.addImm d a i) s d a (· + wordInt (signExtend i 10))
def execSub (d a b : Nat) (s : State) := lane2 (.sub d a b) s d a b (· - ·)

/-- Sum and carry out, with the carry in bit 0 of the destination (R247). -/
def addcOp (d : Nat) (x y c : Word) : List (Nat × Word) :=
  let t := x.toNat + y.toNat + c.toNat % 2
  [(d, word t), (d + 1, bool01 (decide (0x100000000 ≤ t)))]

/-- Difference and borrow out, with the borrow in bit 0 of the destination (R247). -/
def subbOp (d : Nat) (x y c : Word) : List (Nat × Word) :=
  let t : Int := (x.toNat : Int) - y.toNat - (c.toNat % 2 : Nat)
  [(d, wordInt t), (d + 1, bool01 (decide (t < 0)))]

def execAddc (d a b : Nat) (s : State) :=
  perLane (.addc d a b) s fun _ v l => addcOp d (v.reg a l) (v.reg b l) (v.reg d l)
def execSubb (d a b : Nat) (s : State) :=
  perLane (.subb d a b) s fun _ v l => subbOp d (v.reg a l) (v.reg b l) (v.reg d l)
def execNeg (d a : Nat) (s : State) := lane1 (.neg d a) s d a (-·)
def execAbs (d a : Nat) (s : State) := lane1 (.abs d a) s d a absOp

/-! ### Minimum, maximum, compare and select (R248) -/

def execMin (d a b t : Nat) (s : State) := lane2 (.min d a b t) s d a b (minOp t)
def execMax (d a b t : Nat) (s : State) := lane2 (.max d a b t) s d a b (maxOp t)
def execCmpS32 (d a b c : Nat) (s : State) := lane2 (.cmpS32 d a b c) s d a b (cmpOp 0 c)
def execCmpN32 (d a b c : Nat) (s : State) := lane2 (.cmpN32 d a b c) s d a b (cmpOp 1 c)
def execSel (d a b : Nat) (s : State) := lane3 (.sel d a b) s d a b selOp
def execBsel (d a b : Nat) (s : State) := lane3 (.bsel d a b) s d a b bselOp

/-! ### Logic and shifts (R249, R250) -/

def execAnd (d a b : Nat) (s : State) := lane2 (.and d a b) s d a b (· &&& ·)
def execOr (d a b : Nat) (s : State) := lane2 (.or d a b) s d a b (· ||| ·)
def execXor (d a b : Nat) (s : State) := lane2 (.xor d a b) s d a b (· ^^^ ·)
def execAndn (d a b : Nat) (s : State) := lane2 (.andn d a b) s d a b fun x y => x &&& ~~~y
def execNot (d a : Nat) (s : State) := lane1 (.not d a) s d a (~~~ ·)
def execShl (d a b : Nat) (s : State) := lane2 (.shl d a b) s d a b shlOp
def execShr (d a b : Nat) (s : State) := lane2 (.shr d a b) s d a b shrOp
def execSar (d a b : Nat) (s : State) := lane2 (.sar d a b) s d a b sarOp
def execRol (d a b : Nat) (s : State) := lane2 (.rol d a b) s d a b rolOp
def execRor (d a b : Nat) (s : State) := lane2 (.ror d a b) s d a b rorOp
def execShlImm (d a c : Nat) (s : State) := lane1 (.shlImm d a c) s d a (shlOp · (word c))
def execShrImm (d a c : Nat) (s : State) := lane1 (.shrImm d a c) s d a (shrOp · (word c))
def execSarImm (d a c : Nat) (s : State) := lane1 (.sarImm d a c) s d a (sarOp · (word c))
def execRolImm (d a c : Nat) (s : State) := lane1 (.rolImm d a c) s d a (rolOp · (word c))
def execRorImm (d a c : Nat) (s : State) := lane1 (.rorImm d a c) s d a (rorOp · (word c))

/-! ### Multiply and divide (R203, R204, R251) -/

def execMul24 (d a b t h : Nat) (s : State) := lane2 (.mul24 d a b t h) s d a b (mul24Op t h)
def execMad24 (d a b t h : Nat) (s : State) :=
  lane3 (.mad24 d a b t h) s d a b fun x y z => mul24Op t h x y + z
def execMul32 (d a b t h : Nat) (s : State) := lane2 (.mul32 d a b t h) s d a b (mul32Op t h)
def execMad32 (d a b t h : Nat) (s : State) :=
  lane3 (.mad32 d a b t h) s d a b fun x y z => mul32Op t h x y + z
def execDiv (d a b t : Nat) (s : State) := lane2 (.div d a b t) s d a b (divOp t)
def execRem (d a b t : Nat) (s : State) := lane2 (.rem d a b t) s d a b (remOp t)

/-! ### Bits and bytes (R252 to R255) -/

def execPopc (d a : Nat) (s : State) := lane1 (.popc d a) s d a popcOp
def execClz (d a : Nat) (s : State) := lane1 (.clz d a) s d a clzOp
def execCtz (d a : Nat) (s : State) := lane1 (.ctz d a) s d a ctzOp
def execBrev (d a : Nat) (s : State) := lane1 (.brev d a) s d a brevOp
def execBfeN32 (d a n p : Nat) (s : State) := lane1 (.bfeN32 d a n p) s d a (bfeN n p)
def execBfeS32 (d a n p : Nat) (s : State) := lane1 (.bfeS32 d a n p) s d a (bfeS n p)
def execBfi (d a n p : Nat) (s : State) :=
  perLane (.bfi d a n p) s fun _ v l => [(d, bfiOp n p (v.reg a l) (v.reg d l))]
def execBgath (d a b : Nat) (s : State) := lane3 (.bgath d a b) s d a b bgathOp

/-! ### 64-bit and address arithmetic (R256, R257) -/

def execLea (d a b k : Nat) (s : State) :=
  perLane (.lea d a b k) s fun _ v l =>
    pairRegs d (v.dword a l + ((v.reg b l).signExtend 64 <<< k))
def execAdd64 (d a b : Nat) (s : State) :=
  perLane (.add64 d a b) s fun _ v l => pairRegs d (v.dword a l + v.dword b l)
def execSub64 (d a b : Nat) (s : State) :=
  perLane (.sub64 d a b) s fun _ v l => pairRegs d (v.dword a l - v.dword b l)
def execShl64 (d a b : Nat) (s : State) :=
  perLane (.shl64 d a b) s fun _ v l =>
    pairRegs d (if (v.reg b l).toNat < 64 then v.dword a l <<< (v.reg b l).toNat else 0)
def execShr64 (d a b : Nat) (s : State) :=
  perLane (.shr64 d a b) s fun _ v l =>
    pairRegs d (if (v.reg b l).toNat < 64 then v.dword a l >>> (v.reg b l).toNat else 0)

end Sys2Proof.Machine
end

