-- ==== Sys2Proof/Machine/Control.lean ====
section
/-! DEFINITION. Control.lean: guard, partition register, branches, jumps, calls, returns, yield, nop, exit, named
barriers, trap and breakpoint (R43, R44, R55, R218, R280, R288 to R295). -/
namespace Sys2Proof.Machine

/-! ### Guard, part, nop and yield -/

/-- guard evaluates its condition once in each lane of the active set (R218). -/
def execGuard (c n k : Nat) (s : State) :=
  issue (.guard c n k) s fun b act t =>
    .done (t.modWave b.ctx b.wave fun v =>
      { v with lanes := SMap.mapVals v.lanes fun l m =>
          if act.contains l then { m with gcount := n + 1, gpred := if k = 0 then v.reg c l != 0 else v.reg c l == 0 }
          else m })

/-- part sets the partition register of the wave when a lane is active (R46, R220, R280). -/
def execPart (p : Nat) (s : State) :=
  issue (.part p) s fun b act t =>
    .done (if act.isEmpty then t else t.modWave b.ctx b.wave fun v => { v with part := p })

def execNop (s : State) := issue .nop s fun _ _ t => .done t

/-- yield defers each lane of the active set (R44). -/
def execYield (s : State) :=
  issue .yield s fun b act t => .done (t.modLanes b.ctx b.wave act fun n => { n with deferred := true })

/-! ### Branch class (R43, R288, R289) -/

/-- Aging of a lane that takes a branch at p to target tgt (R43). -/
def ageBranch (n : Lane) (p tgt : Dword) : Lane :=
  if tgt.toNat ≤ p.toNat then
    let k := if n.ageAddr = p then n.age + 1 else 1
    if 256 ≤ k then { n with age := 0, ageAddr := p, deferred := true }
    else { n with age := k, ageAddr := p }
  else n

/-- Moves each active lane that has a target to it; counting branches age. -/
def branchTo (b : Bundle) (counts : Bool) (act : List Nat) (target : Nat → Option Dword) (t : State) : State :=
  t.modLanesBy b.ctx b.wave fun l n =>
    match if act.contains l then target l else none with
    | some p => if counts then ageBranch { n with pc := p } b.pc p else { n with pc := p }
    | none => n

/-- The address p + 2 × off (R216). -/
def relTarget (p : Dword) (off : Int) : Dword := p + BitVec.ofInt 64 (2 * off)

/-- The target of a lane at a conditional branch, if it takes it: c 0x7F always (R216, R288). -/
def takenTo (v : Wave) (c : Nat) (sense : Bool) (p : Dword) (l : Nat) : Option Dword :=
  if c = 127 ∨ (v.reg c l != 0) = sense then some p else none

/-- A conditional branch to one target. -/
def branch (i : Instr) (s : State) (c : Nat) (sense : Bool) (off : Int) : Host.Outcome State Fault Refusal :=
  issue i s fun b act t =>
    match s.wave? b.ctx b.wave with
    | some v => .done (branchTo b true act (takenTo v c sense (relTarget b.pc off)) t)
    | none => .done t

def execBra (c o : Nat) (s : State) := branch (.bra c o) s c true (signExtend o 17)
/-- Of a branch that R43 and R289 name neither among those that count toward aging nor among those that never count, a taken backward
bra.z counts, as bra does: the model's choice (log 47). -/
def execBraZ (c o : Nat) (s : State) := branch (.braZ c o) s c false (signExtend o 17)
def execJmp (c off : Nat) (s : State) := branch (.jmp c off) s c true (signExtend off 32)

/-- Writes the link value p + 4 to the pair vd in each lane of the active set. -/
def writeLink (b : Bundle) (act : List Nat) (d : Nat) (t : State) : State :=
  t.setRegs b.ctx b.wave (act.flatMap fun l => (pairRegs d (b.pc + 4)).map fun (r, y) => (32 * r + l, y))

def execCall (c o : Nat) (s : State) :=
  issue (.call c o) s fun b act t =>
    .done (branchTo b false act (fun _ => some (relTarget b.pc (signExtend o 17))) (writeLink b act c t))

/-- The fetch fault of a register target whose bit 0 is set, of the lowest such lane's target (R289). Helper lanes decide no fault (R441). -/
def oddTarget (b : Bundle) (v : Wave) (a : Nat) (act : List Nat) : Option Trap :=
  match (v.present act).find? fun l => v.pair a l % 2 == 1 with
  | some l => some (trapOf 1 0 b.run (v.pair a l))
  | none => none

/-- A jump to the pair va; link, if any, is written after the target is read. -/
def jumpPair (i : Instr) (s : State) (a : Nat) (counts : Bool) (link : Option Nat) :
    Host.Outcome State Fault Refusal :=
  issue i s fun b act t =>
    match s.wave? b.ctx b.wave with
    | some v =>
      match oddTarget b v a act with
      | some k => .trap k
      | none =>
        let u := match link with
          | some d => writeLink b act d t
          | none => t
        .done (branchTo b counts act (fun l => some (v.dword a l)) u)
    | none => .done t

def execJmpr (a : Nat) (s : State) := jumpPair (.jmpr a) s a true none
def execCallr (d a : Nat) (s : State) := jumpPair (.callr d a) s a false (some d)
def execRet (a : Nat) (s : State) := jumpPair (.ret a) s a false none

/-! ### Named barriers (R55, R291 to R293) -/

/-- Every lane of the block that is not absent and has not exited, as (wave, lane). -/
def liveLanes (x : Ctx) : List (Nat × Nat) :=
  x.waves.flatMap fun (w, v) => (v.lanes.filter fun (_, n) => !n.exited).map fun (l, _) => (w, l)

/-- The lane of wave w and lane l has arrived at barrier n in its current phase. -/
def Ctx.arrived (x : Ctx) (n w l : Nat) : Bool := SMap.get false x.nbar (512 * n + 32 * w + l)

/-- Barrier n is complete: every counted lane has arrived (R55). -/
def barrierFull (x : Ctx) (n : Nat) : Bool :=
  let ls := liveLanes x
  !ls.isEmpty && ls.all fun (w, l) => x.arrived n w l

/-- An arrival at barrier n waits, with w waiting for it. -/
def Lane.owesFor (m : Lane) (n : Nat) (w : Waits) : Bool := m.owed.any fun o => o.bar == n && o.waits == w

/-- The oldest arrival at barrier n that waits to be applied. -/
def Lane.nextOwed (m : Lane) (n : Nat) : Option Owed := m.owed.find? fun o => o.bar == n

/-- The parked state p, which w stands for, at the end of a phase of barrier n: released, unless it waits for an arrival of its own; where
that arrival is applied to the new phase, it parks again with bar.sync (R292). -/
def Lane.parkAfter (m : Lane) (n : Nat) (w : Waits) (p : Park) : Park :=
  if p ≠ .bar n then p
  else if m.owesFor n w = false then .none
  else match m.nextOwed n with
    | some o => if o.waits ≠ w ∨ o.sync = true then p else .none
    | none => p

/-- What the end of a phase of barrier n does to a lane: parked lanes are released, and the oldest arrival that waits is made in the new
phase (R292); the kept state of a lane in handler mode follows the same rule (R400). -/
def releaseLane (n : Nat) (m : Lane) : Lane :=
  { m with
    park := m.parkAfter n .lane m.park, kept := { m.kept with park := m.parkAfter n .kept m.kept.park }
    owed := m.owed.eraseP fun o => o.bar == n }

/-- The lane makes an arrival in the new phase when a phase of barrier n ends. -/
def owes (n : Nat) (m : Lane) : Bool := !m.exited && (m.nextOwed n).isSome

/-- A lane that waits at bar.sync for the phase of barrier n to end. -/
def waitsAt (n : Nat) (m : Lane) : Bool :=
  !m.exited && ((m.park == .bar n && !m.owesFor n .lane) || (m.kept.park == .bar n && !m.owesFor n .kept))

/-- Ends the phase of barrier n: every parked lane is released in the same step, those at bar.sync with a block-scope acquire, and a
new phase begins with the arrivals that were waiting for it (R55, R292, R293). -/
def barrierEnd (s : State) (c n : Nat) : State :=
  match s.ctx? c with
  | none => s
  | some x =>
    let owing := (List.range 512).filter fun k =>
      ((SMap.find? x.waves (k / 32)).bind fun v => v.lane? (k % 32)).any (owes n)
    let t := s.modCtx c fun y =>
      { y with
        nbar := owing.foldl (fun m k => SMap.set false m (512 * n + k) true) (y.nbar.filter fun (k, _) => k / 512 ≠ n)
        waves := SMap.mapVals y.waves fun _ v =>
          { v with lanes := SMap.mapVals v.lanes fun _ m => if m.exited then m else releaseLane n m } }
    if x.waves.any fun (_, v) => v.lanes.any fun (_, m) => waitsAt n m then t.dropL1 x.place else t

/-- The most arrivals that a lane of the block has waiting: as many phases may end with those arrivals alone. -/
def Ctx.mostOwed (x : Ctx) : Nat :=
  x.waves.foldl (fun a (_, v) => v.lanes.foldl (fun a (_, m) => Nat.max a m.owed.length) a) 0

/-- Ends the phase of barrier n if it is complete, and up to k more that the waiting arrivals complete. -/
def barrierRounds (c n : Nat) : Nat → State → State
  | 0, s => match s.ctx? c with
    | some x => if barrierFull x n then barrierEnd s c n else s
    | none => s
  | k + 1, s => match s.ctx? c with
    | some x => if barrierFull x n then barrierRounds c n k (barrierEnd s c n) else s
    | none => s

/-- Ends the phase of barrier n if it is complete, and each new one that waiting arrivals complete. -/
def barrierCheck (s : State) (c n : Nat) : State :=
  match s.ctx? c with
  | some x => barrierRounds c n x.mostOwed s
  | none => s

/-- One lane's arrival at barrier n (R291, R292). -/
def arriveAt (b : Bundle) (n : Nat) (sync : Bool) (s : State) (l : Nat) : State :=
  match s.ctx? b.ctx with
  | none => s
  | some x =>
    if x.arrived n b.wave l then
      s.modLanes b.ctx b.wave [l] fun m =>
        { m with park := .bar n, owed := m.owed ++ [⟨n, sync, .lane⟩] }
    else
      let t := s.modCtx b.ctx fun y => { y with nbar := SMap.set false y.nbar (512 * n + 32 * b.wave + l) true }
      let t := if sync then t.modLanes b.ctx b.wave [l] fun m => { m with park := .bar n } else t
      barrierCheck t b.ctx n

def arrive (i : Instr) (s : State) (n : Nat) (sync : Bool) : Host.Outcome State Fault Refusal :=
  issue i s fun b act t => .done (act.foldl (arriveAt b n sync) t)

def execBarSync (n : Nat) (s : State) := arrive (.barSync n) s n true
def execBarArrive (n : Nat) (s : State) := arrive (.barArrive n) s n false

/-! ### Exit (R49, R290) -/

/-- exit ends each lane of the active set; the barriers of the block may complete by it. A wave whose lanes have all
exited retires once no instruction of it is in flight. -/
def execExit (s : State) :=
  issue .exit s fun b act t =>
    let u := t.modLanes b.ctx b.wave act fun n => { n with exited := true }
    let u := (List.range 16).foldl (fun r n => barrierCheck r b.ctx n) u
    .done (match u.wave? b.ctx b.wave with
      | some v =>
        if v.lanes.all (fun (_, n) => n.exited) && !u.waveBusy b.ctx b.wave then
          u.post .waveRetire [b.ctx, b.wave]
        else u
      | none => u)

/-! ### Trap and breakpoint (R294, R295) -/

/-- trap: any active lane raises it, a helper too (R294, log 17). -/
def execTrap (n : Nat) (s : State) :=
  issue (.trap n) s fun b act t =>
    if act.isEmpty then .done t else .after t (trapOf 0x1A n act b.pc.toNat)

/-- brk: with debug enabled the whole span stops with this wave past the brk (R295, R469); otherwise the breakpoint
trap. -/
def execBrk (n : Nat) (s : State) :=
  issue (.brk n) s fun b act t =>
    if act.isEmpty then .done t
    else match s.ctx? b.ctx with
      | some x =>
        if x.dbgen then
          .done ((t.startDrain b.ctx .stopped .stopComplete).markStop b.ctx ⟨2, 0, 0, b.wave, 0⟩)
        else .after t (trapOf 0x1B n act b.pc.toNat)
      | none => .done t

end Sys2Proof.Machine
end

