-- ==== Sys2Proof/Machine/Memory.lean ====
section
/-! DEFINITION. Memory.lean: loads, stores, prefetches and fences (R297 to R305, R313 to R316), the return of load data, the
acknowledgement of stores, the completion of instructions in flight (R62), and uncorrectable errors (R27). -/
namespace Sys2Proof.Machine

/-- The address of the own scratchpad at an offset (R297). -/
def scratchAddr (o : Nat) : Nat := 0x3000000000FC0000 + o

/-- Address of each lane: the pair va, or the own-scratchpad offset in va (R297). -/
def laneAddr (v : Wave) (own : Bool) (a l : Nat) : Nat :=
  if own then scratchAddr (v.reg a l).toNat else v.pair a l

/-! ### Loads (R304) -/

/-- The registers of one lane's load result: n bytes from vd, extended below 4 bytes (R303, R304). -/
def loadRegs (d n : Nat) (ext : Bool) (l x : Nat) : List (Nat × Word) :=
  let y := if n < 4 then (if ext then wrapNat (signExtend x (8 * n)) 32 else x) else x
  (List.range ((n + 3) / 4)).map fun i => (32 * (d + i) + l, word (y / 2 ^ (32 * i)))

/-- Some load, store or value-returning atomic of a wave is not yet performed. -/
def State.waveStores (s : State) (c w : Nat) : Bool :=
  s.ops.any fun (_, o) => o.ctx == c && o.wave == w && match o.kind with
    | .load _ _ _ _ _ todo _ => !todo.isEmpty
    | .store _ _ todo => !todo.isEmpty
    | .atomic _ _ _ _ ret _ _ => ret
    | _ => false

/-- What the lanes of a load read: values and, in filling windows of the own block, the offsets still to be read. -/
def readLanes (b : Bundle) (x : Ctx) (n : Nat) (acq : Bool) :
    List (Nat × Nat × Option Place) → State → List (Nat × Nat) → List (Nat × Nat) →
      List (Nat × Nat) × List (Nat × Nat) × State
  | [], s, vals, waits => (vals, waits, s)
  | (l, _, none) :: ps, s, vals, waits => readLanes b x n acq ps s (SMap.insert vals l 0) waits
  | (l, _, some p) :: ps, s, vals, waits =>
    if p.space = 3 ∧ p.ctx = b.ctx ∧ s.unwritten b.ctx p.off n = true then
      readLanes b x n acq ps s vals (SMap.insert waits l p.off)
    else
      let (y, t) := s.loadPlace x p n l acq
      readLanes b x n acq ps t (SMap.insert vals l y) waits

/-- What a load performs only when its data return, as a free bit tells: the lanes that wait for no sector, with their keys (R100). -/
def lateReads (late : Bool) (ps : List (Nat × Nat × Option Place)) (waits : List (Nat × Nat)) : List (Nat × Nat) :=
  if late then ps.filterMap fun (l, _, p) => if (SMap.find? waits l).isSome then none else p.map fun p => (l, p.key) else []

/-- A load of 2^w bytes per lane: its checks, the copies its touches start, and its reads. The data return with
LOAD_DATA_RETURN, which may read anew (log 5). It waits at issue while a copy that it starts must follow the wave's earlier accesses (R116), and when it would
wait for sectors, if it is an acquire (R100) or one of them is poisoned until it is written (R27). -/
def load (i : Instr) (s : State) (d a w : Nat) (ext own : Bool) (acq : Option Nat) :
    Host.Outcome State Fault Refusal :=
  issue i s fun b act t =>
    match s.ctx? b.ctx, s.wave? b.ctx b.wave with
    | some x, some v =>
      if act.isEmpty then .done t
      else
        let n := 2 ^ w
        let as := act.map fun l => (l, laneAddr v own a l)
        match plan t b x v act ⟨.ldst, n, permR, true, acq, none⟩ as with
        | .wait k => .stall (s.waitsWalk b k)
        | .touch k => .trap k
        | .fail k u => .miss k u
        | .go ps u =>
          let places := ps.filterMap fun (_, _, p) => p
          let es := touches b.ctx x n places
          if !es.isEmpty && t.waveStores b.ctx b.wave then .stall s
          else match startTouched b es u with
          | none => .stall s
          | some u =>
            let (vals, waits, u) := readLanes b x n acq.isSome ps u [] []
            if waits.any fun (_, o) => acq.isSome || poisoned t (scratchKey b.ctx o) n then .stall ((startTouched b es s).getD s)
            else
              let u := match acq with
                | some sc => u.acquire x.place sc
                | none => u
              let u := (pinIf b places u).launchAt t.thisId b act (.load d n ext vals waits (lateReads (s.freeBit 0) ps waits)
                (if s.freeBit 0 then acq else none))
              let u := if waits.isEmpty then u.postEnd .loadDataReturn t.thisId (places.map fun p => p.key) else u
              .done (watchStop (u.takeFree).2 b v 1 n as)
    | _, _ => .done t

def execLd (d a x w l : Nat) (s : State) := load (.ld d a x w l) s d a w (x == 1) false none
def execLdAcq (d a sc w l : Nat) (s : State) := load (.ldAcq d a sc w l) s d a w false false (some sc)
def execLds (d a x w l : Nat) (s : State) := load (.lds d a x w l) s d a w (x == 1) true none
def execLdsAcq (d a sc w l : Nat) (s : State) := load (.ldsAcq d a sc w l) s d a w false true (some sc)

/-- The place of a key for a block on a die: of the commons, its offset in the region. -/
def keyPlaceOn (die k : Nat) : Place :=
  let p := keyPlace k
  if p.space = 4 then { p with off := k - commonsKey die 0 } else p

/-- A load that its checks have passed may still read a place when its data return: the home serves, the scratchpad is that of a block of
the span on its core, its bytes are written, no range lock covers them, nothing is poisoned, and an acquire that meets a record still
passes its check. Otherwise what it read at issue stands. -/
def State.readsLate (s : State) (c w : Nat) (x : Ctx) (n : Nat) (acq : Option Nat) (l : Nat) (p : Place) : Bool :=
  (match p.space with
    | 1 => s.lineState 0 (s.dieAgent x.die) (p.off / 128) == .serves
    | 3 => (s.ctx? p.ctx).any (fun y => y.placed && y.launch == x.launch && y.span == x.span) && !s.unwritten p.ctx p.off n
    | _ => true) &&
  (lockKind s c x ⟨.ldst, n, permR, true, none, none⟩ p).isNone && !poisoned s p.key n &&
    match acq, s.record? p with
    | some sc, some r => s.scopeOk (recOf s x c w l sc) r
    | _, _ => true

/-- The lanes of a load that it performs when its data return, each with what it read at issue. -/
def readAgain (c w : Nat) (x : Ctx) (n : Nat) (acq : Option Nat) :
    List (Nat × Nat) → State → List (Nat × Nat) → List (Nat × Nat) × State
  | [], s, vals => (vals, s)
  | (l, k) :: todo, s, vals =>
    let p := keyPlaceOn x.die k
    if s.readsLate c w x n acq l p then
      let (y, t) := s.loadPlace x p n l acq.isSome
      readAgain c w x n acq todo t (SMap.insert vals l y)
    else readAgain c w x n acq todo s vals

/-- What a load still has to read is read, and its acquire is performed (R100, R105). -/
def State.finishLoad (s : State) (c w n : Nat) (acq : Option Nat) (todo vals : List (Nat × Nat)) : List (Nat × Nat) × State :=
  match s.ctx? c, todo with
  | some x, _ :: _ =>
    let (vals, t) := readAgain c w x n acq todo s vals
    let t := (t.takeFree).2
    (vals, match acq with
      | some sc => t.acquire x.place sc
      | none => t)
  | _, _ => (vals, s)

/-- LOAD_DATA_RETURN: id, and lines whose mirrors are awaited. The data of a load or atomic are written to the lanes' registers (R304,
R309). A load that reads only now waits once more when a line it reads has a mirror (R461). -/
def execLoadDataReturn (s : State) : Host.Outcome State Fault Refusal :=
  let id := s.arg 0
  .next (match s.op? id with
    | some o => match o.kind with
      | .load d n ext vals [] todo acq =>
        if s.unmirrored then s.later .loadDataReturn s.args
        else
          let (vals, t) := s.finishLoad o.ctx o.wave n acq todo vals
          match t.mirroredLines (todo.map (·.2)) with
          | [] => (t.setRegs o.ctx o.wave (vals.flatMap fun (l, x) => loadRegs d n ext l x)).endOp id
          | ns =>
            ({ t with ops := SMap.insert t.ops id { o with kind := .load d n ext vals [] [] none } } : State).post .loadDataReturn
              (id :: 0 :: ns)
      | _ => s
    | none => s)

/-! ### Stores (R304, R305) -/

/-- The n bytes of one lane's data registers from vd (R304). -/
def storeData (v : Wave) (d n l : Nat) : Nat := v.group d l ((n + 3) / 4) % 2 ^ (8 * n)

/-- What the lanes of a store write: lane, memory key and value. -/
def storeSteps (v : Wave) (d n : Nat) (ps : List (Nat × Nat × Option Place)) : List (Nat × Nat × Nat) :=
  ps.filterMap fun (l, _, p) => p.map fun p => (l, p.key, storeData v d n l)

/-- A store of 2^w bytes per lane. Helper lanes take no effect (R301). It is performed at once, or, as a free bit tells, later, with
STORE_ACKNOWLEDGED: what R100 orders after it waits (log 5). -/
def store (i : Instr) (s : State) (d a w : Nat) (own : Bool) (rel : Option Nat) : Host.Outcome State Fault Refusal :=
  issue i s fun b act t =>
    match s.ctx? b.ctx, s.wave? b.ctx b.wave with
    | some x, some v =>
      let ls := v.present act
      if ls.isEmpty then .done t
      else
        let n := 2 ^ w
        let as := ls.map fun l => (l, laneAddr v own a l)
        match plan t b x v act ⟨.ldst, n, permW, false, none, none⟩ as with
        | .wait k => .stall (s.waitsWalk b k)
        | .touch k => .trap k
        | .fail k u => .miss k u
        | .go ps u =>
          let steps := storeSteps v d n ps
          let u := pinIf b (ps.filterMap fun (_, _, p) => p) u
          let later := s.freeBit 0
          let u := if later then u else u.performStores b.ctx b.wave x n rel steps
          let u := u.launchAt t.thisId b ls (.store n rel (if later then steps else []))
          let u := if later then u.post .storeAcknowledged [t.thisId] else u.postEnd .storeAcknowledged t.thisId (steps.map fun a => a.2.1)
          .done (watchStop (u.takeFree).2 b v 2 n as)
    | _, _ => .done t

def execSt (d a w l : Nat) (s : State) := store (.st d a w l) s d a w false none
def execStRel (d a sc w l : Nat) (s : State) := store (.stRel d a sc w l) s d a w false (some sc)
def execSts (d a w l : Nat) (s : State) := store (.sts d a w l) s d a w true none
def execStsRel (d a sc w l : Nat) (s : State) := store (.stsRel d a sc w l) s d a w true (some sc)

/-- A store is over when nothing of it is left to do and no mirror is awaited. -/
def State.storeOver (s : State) (id : Nat) : State :=
  match s.op? id with
  | some o => match o.kind with
    | .store _ _ [] => if s.mirrorsAwaited .storeAcknowledged id then s else s.endOp id
    | _ => s
  | none => s

/-- STORE_ACKNOWLEDGED: id, and what of it. What the store has not yet done is performed at its homes, each as its line serves it; then
releases and fences that waited for the store may go on (R105, R314). -/
def execStoreAcknowledged (s : State) : Host.Outcome State Fault Refusal :=
  let id := s.arg 0
  let u := s.taken .storeAcknowledged
  .next (match u.op? id with
    | some o => match o.kind with
      | .store n rel todo =>
        match u.ctx? o.ctx with
        | some x =>
          if u.unmirrored then u.later .storeAcknowledged u.args
          else
            let mine := todo.filter fun a => u.partOf a.2.1
            let wait := mine.filter fun a => u.keyWaits 1 x a.2.1
            let now := mine.filter fun a => !u.keyWaits 1 x a.2.1
            let left := todo.filter fun a => !now.contains a
            let t := u.performStores o.ctx o.wave x n rel now
            let t : State := { t with ops := SMap.insert t.ops id { o with kind := .store n rel left } }
            let t := t.waitLines .storeAcknowledged id (wait.map fun a => a.2.1)
            (t.awaitMirrors .storeAcknowledged id (now.map fun a => a.2.1)).storeOver id
        | none => (u.endOp id).settled
      | _ => u.settled
    | none => u.settled)

/-! ### Prefetch (R313) -/

/-- One lane's prefetch: the L1 of the core takes an own-package tensor line that it does not hold; a control line joins the
agent of the die. Where a load would fault there is no effect. -/
def prefetchLane (b : Bundle) (x : Ctx) (act : List Nat) (l1 : Bool) (s : State) (l a : Nat) : State :=
  if addrSpace a = 1 ∨ addrSpace a = 2 then
    let q : Req := ⟨.ldst, 1, permR, true, none, none⟩
    match earlyCheck s b.ctx x act q l a with
    | .error _ => s
    | .ok r => match placeOf s x q l a r with
      | (.ok p, u) =>
        if poisoned u p.key 1 then u
        else if p.space = 1 then u.cohRead (u.dieAgent x.die) (p.off / 128)
        else if l1 && (u.core x.place).carve != 6 && u.freeBit (32 + l) &&
            (SMap.find? u.l1 (l1Key x.place p.off)).isNone then
          { u with l1 := SMap.insert u.l1 (l1Key x.place p.off) (readMem u.mem (tensorKey (p.off / 128 * 128)) 128) }
        else u
      | _ => s
  else s

def prefetch (i : Instr) (s : State) (a : Nat) (l1 : Bool) : Host.Outcome State Fault Refusal :=
  issue i s fun b act t =>
    match s.ctx? b.ctx, s.wave? b.ctx b.wave with
    | some x, some v => .done ((act.foldl (fun u l => prefetchLane b x act l1 u l (v.pair a l)) t).takeFree).2
    | _, _ => .done t

def execPrefetchL1 (a l : Nat) (s : State) := prefetch (.prefetchL1 a l) s a true
def execPrefetchCm (a l : Nat) (s : State) := prefetch (.prefetchCm a l) s a false

/-! ### Fences (R314 to R316, R122) -/

/-- Earlier operations of the wave's lanes that a fence of kind 0 acquire, 1 release, 2 full waits for. A release fence waits for a load
only while it is not yet performed: it orders the load before later stores (R100). -/
def fenceWaits (s : State) (b : Bundle) (act : List Nat) (kind : Nat) : List Nat :=
  (s.ops.filter fun (_, o) => o.ctx == b.ctx && o.wave == b.wave && o.lanes.any act.contains &&
    match o.kind with
    | .load _ _ _ _ waits todo _ => kind != 1 || !waits.isEmpty || !todo.isEmpty
    | .store .. => kind != 0
    | .atomic _ _ _ _ ret _ _ => kind != 0 || ret
    | _ => false).map (·.1)

/-- A fence at a scope. It completes with INSTRUCTION_COMPLETE, once what it waits for has ended; the lanes keep the widest
scope of their release fences (R102, R113). -/
def fence (i : Instr) (s : State) (kind sc : Nat) : Host.Outcome State Fault Refusal :=
  issue i s fun b act t =>
    if act.isEmpty then .done t
    else
      let ws := fenceWaits t b act kind
      let u := if kind = 0 then t
        else t.modLanes b.ctx b.wave act fun n => { n with fenced := Nat.max n.fenced (sc + 1) }
      let u := u.launchOp b act (.fence kind sc ws)
      .done (if ws.isEmpty then u.post .instructionComplete [t.thisId] else u)

def execFenceAcq (sc : Nat) (s : State) := fence (.fenceAcq sc) s 0 sc
def execFenceRel (sc : Nat) (s : State) := fence (.fenceRel sc) s 1 sc
def execFenceFull (sc : Nat) (s : State) := fence (.fenceFull sc) s 2 sc

/-- tfence waits for the wave's remote atomics and its copies of another package's memory (R122, R315). -/
def execTfence (s : State) :=
  issue .tfence s fun b act t =>
    if act.isEmpty then .done t
    else
      let ws := (t.ops.filter fun (_, o) => o.ctx == b.ctx && o.wave == b.wave && match o.kind with
        | .ratom .. => true
        | .copy _ _ _ _ _ _ _ _ link => link != 0
        | _ => false).map (·.1)
      let u := t.launchOp b act (.tfence ws)
      .done (if ws.isEmpty then u.post .instructionComplete [t.thisId] else u)

/-- inval discards every tensor line of the core's L1 (R316). -/
def execInval (s : State) :=
  issue .inval s fun b act t =>
    match s.ctx? b.ctx with
    | some x => .done (if act.isEmpty then t else t.dropL1 x.place)
    | none => .done t

/-- INSTRUCTION_COMPLETE: id. Register results are written with their flags (R62, R198); a fence that waits for nothing more
completes, with the L1 invalidation of its acquire part (R314). -/
def execInstructionComplete (s : State) : Host.Outcome State Fault Refusal :=
  let id := s.arg 0
  .next (match s.op? id with
    | some o => match o.kind with
      | .result ws fl => ((s.setRegs o.ctx o.wave ws).orFlags o.ctx o.wave fl).endOp id
      | .fence kind sc [] =>
        let t := match s.ctx? o.ctx with
          | some x => if kind = 1 then s else s.acquire x.place sc
          | none => s
        t.endOp id
      | .tfence [] => s.endOp id
      | _ => s
    | none => s)

/-- UNCORRECTABLE_ERROR: a 32-byte unit of the package's stores, by memory key over 32 (R27, R305). An error found while an atomic in
flight, or a load that has passed its checks, has yet to read the unit is found after it. -/
def execUncorrectableError (s : State) : Host.Outcome State Fault Refusal :=
  let u := s.arg 0
  .next (
    if u < 0x1000000000000000 / 32 ∨ 0x5000000000000000 / 32 ≤ u then s
    else if s.ops.any fun (_, o) => match o.kind with
        | .atomic .. => o.kind.meets (32 * u) 32
        | .load _ n _ _ waits _ _ => o.kind.meets (32 * u) 32 || waits.any fun (_, k) => (scratchKey o.ctx k) / 32 == u && n != 0
        | _ => false
      then s.post .uncorrectableError s.args
    else { s with poison := SMap.set 0 s.poison u 0xFFFFFFFF })

end Sys2Proof.Machine
end

