-- ==== Sys2Proof/Machine/Atomic.lean ====
section
/-! DEFINITION. Atomic.lean: atomics and remote atomics (R109 to R114, R306 to R312). -/
namespace Sys2Proof.Machine

/-- The operand of one lane: one register, or a pair for 8 bytes. -/
def atomicOperand (v : Wave) (r n l : Nat) : Nat := if n = 8 then v.pair r l else (v.reg r l).toNat

/-- The widest fence with a release side that a lane has executed, plus one (R113). -/
def Wave.fencedOf (v : Wave) (l : Nat) : Nat :=
  match v.lane? l with
  | some m => m.fenced
  | none => 0

/-- The step of one lane. -/
def atomicStepOf (v : Wave) (rb rc n op use : Nat) (l : Nat) (p : Place) : AStep :=
  ⟨l, p.key, atomicOperand v rb n l, atomicOperand v rc n l, p.comm && use == 2 && op == 0⟩

/-- An atomic that is performed later: of use `.unpaired` or `.comm`, but for an add that the agent merges at once (R111, R455,
log 5). -/
def deferred (use : Nat) (a : AStep) : Bool := use != 0 && !a.comm

/-- Issues an atomic on 2^w bytes: its checks, then its steps. A `.sync` atomic executes at its home at
once, so that its check stands and its trap is precise (R114, R317); the others go with ATOMIC_AT_HOME. One that touches an absent window starts its
copy and meets its lock (R310). -/
def atomic (i : Instr) (s : State) (scratch : Bool) (d a rb rc op kind scope use f w : Nat) :
    Host.Outcome State Fault Refusal :=
  issue i s fun b act t =>
    match s.ctx? b.ctx, s.wave? b.ctx b.wave with
    | some x, some v =>
      let ls := v.present act
      if ls.isEmpty then .done t
      else
        let n := 2 ^ w
        let as := ls.map fun l => (l, v.pair a l)
        let q : Req := ⟨if scratch then .atoms else .atom, n, permR + permW, false, if use = 0 then some scope else none,
          if use = 2 ∧ op = 0 then some (atomicCfmt f n) else none⟩
        match plan t b x v act q as with
        | .wait k => .stall (s.waitsWalk b k)
        | .fail k u => .miss k u
        | .touch k =>
          let ps := as.filterMap fun (l, a) => match earlyCheck t b.ctx x act q l a with
            | .ok (c, o) => some ⟨3, 0, c, o, false⟩
            | .error _ => none
          if t.waveStores b.ctx b.wave then .stall s
          else match startTouched b (touches b.ctx x n ps) s with
          | some u => .stall ((u.noteFaulted b).takeTrap b.ctx b.wave k)
          | none => .stall s
        | .go ps u =>
          let steps := ps.filterMap fun (l, _, p) => p.map (atomicStepOf v rb rc n op use l)
          let u := pinIf b (ps.filterMap fun (_, _, p) => p) u
          let record (l : Nat) (old : Option Rec) : Option Rec :=
            atomicRecord old (recOf s x b.ctx b.wave l scope) kind use (v.fencedOf l)
          let (vals, u) := atomicSteps x op f n (use != 2) record (steps.filter fun a => !deferred use a) u []
          let u := if kind = 1 ∨ kind = 3 then u.acquire x.place scope else u
          let later := steps.filter (deferred use)
          let done := (steps.filter fun a => !deferred use a).map fun a => a.key
          let u := if later.isEmpty then u.atomicReturn t.thisId ⟨b.ctx, b.wave, ls, .store n none []⟩ n d (use != 2) vals done
            else ((u.launchAt t.thisId b ls (.atomic op f n d (use != 2) later vals)).awaitMirrors .atomicAtHome t.thisId done).post
              .atomicAtHome [t.thisId]
          .done (watchStop (u.takeFree).2 b v 3 n as)
    | _, _ => .done t

def execAtom (d a b c op kind sc use f w l : Nat) (s : State) :=
  atomic (.atom d a b c op kind sc use f w l) s false d a b c op kind sc use f w
def execAtoms (d a b c op kind sc use f w l : Nat) (s : State) :=
  atomic (.atoms d a b c op kind sc use f w l) s true d a b c op kind sc use f w

/-! ### Remote atomics (R311, R312) -/

/-- ratom: the checks of R299 up to alignment, then one operation per lane at its target. With helper lanes only it makes
its arrival at once. -/
def execRatom (a rb op tb f w l : Nat) (s : State) :=
  issue (.ratom a rb op tb f w l) s fun b act t =>
    match s.ctx? b.ctx, s.wave? b.ctx b.wave with
    | some x, some v =>
      if act.isEmpty then .done t
      else
        let n := 2 ^ w
        let ls := v.present act
        let q : Req := ⟨.ratom, n, permR + permW, false, none, none⟩
        let bad := ls.findSome? fun l => match earlyCheck t b.ctx x act q l (v.pair a l) with
          | .error k => some k
          | .ok _ => none
        match bad with
        | some k => .trap k
        | none =>
          if ls.isEmpty then .done (t.barrierArrive b.ctx tb 1 0)
          else
            let id := t.thisId
            let steps := ls.map fun l => (l, v.pair a l, atomicOperand v rb n l)
            let u := t.launchAt id b ls (.ratom op f n tb steps (ls.map fun l =>
              let p := addrPkg (v.pair a l)
              (l, if p = t.pkg then 0 else t.flitLink p 3)))
            let u := ls.foldl (fun u l =>
              let p := addrPkg (v.pair a l)
              if p = u.pkg then u.post .ratomAtTarget [id, l]
              else if u.pathUp p 3 then u else u.post .ratomAcknowledged [id, l, 5]) u
            .done (watchStop u b v 3 n (ls.map fun l => (l, v.pair a l)))
    | _, _ => .done t

/-- One operation of a remote atomic at the home bank ALU of the own package, for a context: 0, or the code of a failure (R312, R443). -/
def ratomStep (s : State) (x : Ctx) (op f n a y : Nat) : Nat × State :=
  match s.engineAddr x a n (permR + permW) with
  | (.error c, u) => (c, u)
  | (.ok k, u) => if poisoned u k n then (4, u) else (0, u.engineStore k n (atomicNew op f n (readMem u.mem k n) y 0))

/-- RATOM_AT_TARGET: id, lane. The operations of every lane that names the same word execute there, ascending and one after another
(R124); the code of a failure goes with each acknowledgement (R312). -/
def execRatomAtTarget (s : State) : Host.Outcome State Fault Refusal :=
  let id := s.arg 0
  .next (match s.op? id with
    | some o => match o.kind with
      | .ratom op f n tb steps todo =>
        match s.ctx? o.ctx, SMap.find? steps (s.arg 1) with
        | some x, some (a, _) =>
          let o' : Op := { o with kind := .ratom op f n tb (steps.filter fun (_, b, _) => b != a) todo }
          (steps.filter fun (_, b, _) => b == a).foldl (fun (t : State) (l, _, y) =>
            let (code, u) := ratomStep t x op f n a y
            u.post .ratomAcknowledged [id, l, code]) { s with ops := SMap.insert s.ops id o' }
        | _, _ => s
      | _ => s
    | none => s)

/-- RATOM_ACKNOWLEDGED: id, lane, code or 0. The barrier records a failure; the last acknowledgement makes the one arrival
(R88, R312). -/
def execRatomAcknowledged (s : State) : Host.Outcome State Fault Refusal :=
  let id := s.arg 0
  let l := s.arg 1
  .next (match s.op? id with
    | some o => match o.kind with
      | .ratom op f n tb steps todo =>
        if (SMap.find? todo l).isSome && (s.arg 2 == 0 || errorCode (s.arg 2)) then
          let left := SMap.erase todo l
          let t := if s.arg 2 = 0 then s else s.barrierFail o.ctx tb (s.arg 2)
          if left.isEmpty then (t.barrierArrive o.ctx tb 1 0).endOp id
          else
            let o' : Op := { o with kind := .ratom op f n tb steps left }
            { t with ops := SMap.insert t.ops id o' }
        else s
      | _ => s
    | none => s)

end Sys2Proof.Machine
end

