-- ==== Sys2Proof/Machine/Ed448.lean ====
section
/-! DEFINITION. Ed448.lean: SHAKE256 and the check of an Ed448ph signature with an empty context, the published standards that
the firmware image rests on (R18, R487). Byte strings are numbers, first byte lowest. -/
namespace Sys2Proof.Machine

/-! ### SHAKE256 -/

def rotl64 (x n : Nat) : Nat := (x * 2 ^ n) % 2 ^ 64 + x / 2 ^ (64 - n)

/-- Rotation of the lane of index x + 5 y. -/
def keccakRot : List Nat :=
  [0, 1, 62, 28, 27, 36, 44, 6, 55, 20, 3, 10, 43, 25, 39, 41, 45, 15, 21, 8, 18, 2, 61, 56, 14]

/-- Round constants. -/
def keccakRc : List Nat :=
  [0x0000000000000001, 0x0000000000008082, 0x800000000000808A, 0x8000000080008000, 0x000000000000808B, 0x0000000080000001,
    0x8000000080008081, 0x8000000000008009, 0x000000000000008A, 0x0000000000000088, 0x0000000080008009, 0x000000008000000A] ++
  [0x000000008000808B, 0x800000000000008B, 0x8000000000008089, 0x8000000000008003, 0x8000000000008002, 0x8000000000000080,
    0x000000000000800A, 0x800000008000000A, 0x8000000080008081, 0x8000000000008080, 0x0000000080000001, 0x8000000080008008]

/-- One round on 25 lanes. -/
def keccakRound (a : List Nat) (rc : Nat) : List Nat :=
  let col := (List.range 5).map fun x => (List.range 5).foldl (fun n y => Nat.xor n (a.getD (x + 5 * y) 0)) 0
  let mix := (List.range 5).map fun x => Nat.xor (col.getD ((x + 4) % 5) 0) (rotl64 (col.getD ((x + 1) % 5) 0) 1)
  let b := (List.range 25).map fun i =>
    let x := (i % 5 + 3 * (i / 5)) % 5
    let j := x + 5 * (i % 5)
    rotl64 (Nat.xor (a.getD j 0) (mix.getD x 0)) (keccakRot.getD j 0)
  (List.range 25).map fun i =>
    let at' (k : Nat) : Nat := b.getD ((i % 5 + k) % 5 + 5 * (i / 5)) 0
    let v := Nat.xor (at' 0) (Nat.land (2 ^ 64 - 1 - at' 1) (at' 2))
    if i = 0 then Nat.xor v rc else v

def keccak (a : List Nat) : List Nat := keccakRc.foldl keccakRound a

/-- The first out bytes, at most 136, of SHAKE256 of an n-byte message. -/
def shake256 (m n out : Nat) : Nat :=
  let blocks := n / 136 + 1
  let padded := m % 2 ^ (8 * n) + 0x1F * 2 ^ (8 * n) + 0x80 * 2 ^ (8 * (136 * blocks - 1))
  let a := (List.range blocks).foldl (fun a j =>
    let block := padded / 2 ^ (1088 * j) % 2 ^ 1088
    keccak ((List.range 25).map fun i => Nat.xor (a.getD i 0) (if i < 17 then block / 2 ^ (64 * i) % 2 ^ 64 else 0)))
    (List.replicate 25 0)
  (List.range 17).foldl (fun v i => v + a.getD i 0 * 2 ^ (64 * i)) 0 % 2 ^ (8 * out)

/-! ### The curve -/

def edP : Nat := 2 ^ 448 - 2 ^ 224 - 1
def edL : Nat := 2 ^ 446 - 13818066809895115352007386748515426880336692474882178609894547503885
def edD : Nat := edP - 39081

/-- b^e modulo the prime, over n bits of e. -/
def edPow (b e : Nat) : Nat → Nat
  | 0 => 1
  | n + 1 => (if e % 2 = 1 then b else 1) * edPow (b * b % edP) (e / 2) n % edP

/-- A point as X, Y, Z. -/
abbrev EdPoint := Nat × Nat × Nat

def edSub (x y : Nat) : Nat := (x + edP - y % edP) % edP

/-- Addition, complete on the curve. -/
def edAdd (p q : EdPoint) : EdPoint :=
  let (x1, y1, z1) := p
  let (x2, y2, z2) := q
  let a := z1 * z2 % edP
  let b := a * a % edP
  let c := x1 * x2 % edP
  let d := y1 * y2 % edP
  let e := edD * (c * d % edP) % edP
  let f := edSub b e
  let g := (b + e) % edP
  let h := (x1 + y1) * (x2 + y2) % edP
  (a * f % edP * edSub h (c + d) % edP, a * g % edP * edSub d c % edP, f * g % edP)

/-- k times a point, over n bits of k. -/
def edMul (k : Nat) (p : EdPoint) : Nat → EdPoint
  | 0 => (0, 1, 1)
  | n + 1 =>
    let r := edMul (k / 2) (edAdd p p) n
    if k % 2 = 1 then edAdd p r else r

def edBase : EdPoint :=
  (224580040295924300187604334099896036246789641632564134246125461686950415467406032909029192869357953282578032075146446173674602635247710,
    298819210078481492676017930443930673437544040154080242095928241372331506189835876003536878655418784733982303233503462500531545062832660,
    1)

/-- The point of a 57-byte encoding. -/
def edDecode (b : Nat) : Option EdPoint :=
  let sign := b / 2 ^ 455 % 2
  let y := b % 2 ^ 455
  if edP ≤ y then none
  else
    let u := edSub (y * y) 1
    let v := edSub (edD * (y * y % edP)) 1
    let u3 := u * u % edP * u % edP
    let w := u3 * (u * u % edP) % edP * (v * v % edP * v % edP) % edP
    let x := u3 * v % edP * edPow w ((edP - 3) / 4) 448 % edP
    if v * (x * x % edP) % edP ≠ u then none
    else if x = 0 ∧ sign = 1 then none
    else some (if x % 2 = sign then x else edP - x, y, 1)

def edSame (p q : EdPoint) : Bool := p.1 * q.2.2 % edP == q.1 * p.2.2 % edP && p.2.1 * q.2.2 % edP == q.2.1 * p.2.2 % edP

/-- The 114-byte signature sig of an n-byte message under a 57-byte public key holds: prehash of 64 bytes, empty context. -/
def ed448ph (key sig m n : Nat) : Bool :=
  let r := sig % 2 ^ 456
  let t := sig / 2 ^ 456 % 2 ^ 456
  match edDecode (key % 2 ^ 456), edDecode r with
  | some a, some rp =>
    if edL ≤ t then false
    else
      let dom := 0x3834346445676953 + 2 ^ 64
      let text := dom + r * 2 ^ 80 + key % 2 ^ 456 * 2 ^ 536 + shake256 m n 64 * 2 ^ 992
      let k := shake256 text 188 114 % edL
      edSame (edMul (4 * t) edBase 450) (edAdd (edMul 4 rp 3) (edMul (4 * k) a 450))
  | _, _ => false

end Sys2Proof.Machine
end

