-- ==== Sys2Proof/Machine/Matrix.lean ====
section
/-! DEFINITION. Matrix.lean: the matrix unit (R199 to R202, R318 to R333): configuration, gangs and the rendezvous, mma,
accumulator access, and the pipeline. -/
namespace Sys2Proof.Machine

/-! ### Configuration (R320 to R323) -/

def cfgGsize (k : Nat) : Nat := bits k 3 0
/-- N (R321). -/
def cfgN (k : Nat) : Nat := 16 * 2 ^ bits k 5 4
def cfgSwz (k : Nat) : Nat := bits k 7 6
def cfgFmt (k : Nat) : Nat := bits k 11 8
def cfgKsteps (k : Nat) : Nat := bits k 23 16
def cfgBkstr (k : Nat) : Nat := bits k 47 32
def cfgBcstr (k : Nat) : Nat := bits k 63 48
def cfgBskstr (k : Nat) : Nat := bits k 79 64
/-- The 96 bits of tile t (R322). -/
def cfgTile (k t : Nat) : Nat := bits k (223 + 96 * t) (128 + 96 * t)
def tileBandA0 (x : Nat) : Nat := bits x 15 0
def tileBandA1 (x : Nat) : Nat := bits x 31 16
def tileBandB (x : Nat) : Nat := bits x 47 32
def tileBbase (x : Nat) : Nat := 16 * bits x 61 48
def tileBsbase (x : Nat) : Nat := 16 * bits x 75 62

/-- Malformed under R323. -/
def cfgMalformed (k : Nat) : Bool :=
  bits k 127 80 != 0 || bits k 31 24 != 0 || bits k 15 12 != 0 ||
  decide (cfgGsize k < 2) || decide (6 < cfgGsize k) || bits k 5 4 == 3 || decide (5 < cfgFmt k) || cfgKsteps k == 0 ||
  decide (cfgBcstr k < 4) ||
  (List.range 4).any fun t => bits (cfgTile k t) 95 76 != 0 ||
    (cfgSwz k != 0 && tileBbase (cfgTile k t) % (16 * 2 ^ cfgSwz k) != 0)

/-! ### Formats of mma (R186, R199, R326) -/

/-- Bits of an element of format f. -/
def mmaBits (f : Nat) : Nat := if f = 0 then 4 else if f ≤ 3 then 8 else 16
/-- K. -/
def mmaK (f : Nat) : Nat := 512 / mmaBits f
/-- Formats with block scales. -/
def mmaScaled (f : Nat) : Bool := decide (f ≤ 2)

/-- The exact value of a code. -/
def mmaValue (f c : Nat) : XVal :=
  match f with
  | 0 => fmtE2m1.value c
  | 1 => fmtE4m3.value c
  | 2 => fmtE5m2.value c
  | 3 => XVal.ofInt (signExtend c 8) 0
  | 4 => fmtBf16.value c
  | _ => fmtF16.value c

/-- An exact zero is +0 (R202). -/
def plusZero (x : XVal) : XVal := if x.isZero then .fin false 0 0 else x

/-- p of one K-block: rows and columns packed with element 0 lowest (R201). -/
def blockSum (f row col kb : Nat) : XVal :=
  let w := mmaBits f
  plusZero ((List.range 16).foldl (fun p i =>
    let k := 16 * kb + i
    p.add false ((mmaValue f (bits row (w * k + w - 1) (w * k))).mul (mmaValue f (bits col (w * k + w - 1) (w * k)))))
    (.fin false 0 0))

/-- One element of R201: the accumulator's new code from row, column, their block scales and the band scales. -/
def mmaElement (f nb acc row col sa sb bandA bandB : Nat) : Nat :=
  (List.range nb).foldl (fun acc kb =>
    let p := blockSum f row col kb
    let s := if mmaScaled f then
        plusZero ((((p.mul (fmtE3m5.value (bits sa (8 * kb + 7) (8 * kb)))).mul
          (fmtE3m5.value (bits sb (8 * kb + 7) (8 * kb)))).mul (fmtBf16.value bandA)).mul (fmtBf16.value bandB))
      else p
    roundCode fmtF32 0 ((fmtF32.value acc).add false s)) acc

/-! ### Accumulator tiles (R318) -/

def accKey (t e : Nat) : Nat := 6144 * t + e

def Matrix.tile (m : Matrix) (t : Nat) : Tile := SMap.get ⟨0, false, false⟩ m.tiles t

def Matrix.setTile (m : Matrix) (t : Nat) (x : Tile) : Matrix :=
  { m with tiles := SMap.set ⟨0, false, false⟩ m.tiles t x }

def State.modMat (s : State) (c : Nat) (f : Matrix → Matrix) : State := s.modCtx c fun x => { x with mat := f x.mat }

/-- An operation enters the pipeline (R319). -/
def State.enterPipe (s : State) (c : Nat) (o : MatOp) : State :=
  (s.modMat c fun m => { m with pipe := m.pipe ++ [o] }).post .matrixOperationComplete [c]

/-- A matrix-use fault of a wave (R333). -/
def matrixFault (cause : Nat) (act : List Nat) : Trap := trapOf 0x17 cause act 0

/-- A fault of an instruction that acts once, on the lowest lane of the active set. A helper lane decides none: the lowest
lane is one only when every lane is, and then the instruction has no effect (R334, R441). -/
def faultOnce (v : Wave) (act : List Nat) (t : State) (k : Trap) : Result :=
  if v.isHelper (act.headD 0) then .done t else .trap k

/-! ### mcfg and gang (R320, R324) -/

/-- mcfg loads a configuration once every matrix operation that entered before it has completed. -/
def execMcfg (a l : Nat) (s : State) :=
  issue (.mcfg a l) s fun b act t =>
    match s.ctx? b.ctx, s.wave? b.ctx b.wave, act with
    | some x, some v, low :: _ =>
      let at' := v.pair a low
      match readImages s t b x v act 64 [(low, at')] with
      | .wait u => .stall u
      | .fail k u => .miss k u
      | .ok [] _ => .done t
      | .ok ((_, k) :: _) u =>
        if cfgMalformed k then faultOnce v act t (trapOf 0x14 1 act at')
        else if !x.mat.pipe.isEmpty then .stall s
        else .done (u.modMat b.ctx fun _ => ⟨true, k, [], [], none, []⟩)
    | _, _, _ => .done t

/-- Number of set bits below 16. -/
def gangSize (g : Nat) : Nat := ((List.range 16).filter fun i => g.testBit i).length

/-- gang sets the wave's gang register; a latch of the wave is emptied (R324, R330). -/
def execGang (a : Nat) (s : State) :=
  issue (.gang a) s fun b act t =>
    match s.ctx? b.ctx, s.wave? b.ctx b.wave, act with
    | some x, some v, low :: _ =>
      let m := (v.reg a low).toNat
      if m / 0x10000 != 0 || (m != 0 && (!m.testBit b.wave || decide (gangSize m < 2) || decide (6 < gangSize m) ||
          m / 2 ^ x.nwaves != 0)) then faultOnce v act t (matrixFault 2 act)
      else .done ((t.modWave b.ctx b.wave fun u => { u with gang := m }).modCtx b.ctx fun y =>
        y.unlatch fun k => k.ofWave b.wave)
    | _, _, _ => .done t

/-! ### The rendezvous (R325, R327, R328) -/

/-- Waves of a gang register, rising. -/
def gangWaves (g : Nat) : List Nat := (List.range 16).filter fun i => g.testBit i

/-- A waiting wave leaves the latch and takes a matrix-use fault. -/
def State.rendFault (s : State) (c w : Nat) (k : Trap) : State :=
  (s.modWave c w fun v => { v with rend := none }).takeTrap c w k

/-- The waves waiting with gang register g take the fault of a cause. -/
def State.gangFault (s : State) (c g cause : Nat) : State :=
  match s.ctx? c with
  | none => s
  | some x => x.waves.foldl (fun t (w, v) => match v.rend with
      | some r => if v.gang = g then t.rendFault c w (matrixFault cause r.act) else t
      | none => t) s

/-- Some wave that g names has retired. -/
def Ctx.gangGone (x : Ctx) (g : Nat) : Bool :=
  (gangWaves g).any fun w => match SMap.find? x.waves w with
    | some v => v.retired
    | none => false

/-- The waiting waves with another gang register that name w, and that g names (R325). -/
def Ctx.gangClash (x : Ctx) (w g : Nat) : List (Nat × Rend) :=
  x.waves.filterMap fun (u, v) => match v.rend with
    | some r => if v.gang ≠ g ∧ g.testBit u = true ∧ v.gang.testBit w = true then some (u, r) else none
    | none => none

/-- Every wave of g waits with gang register g. -/
def Ctx.gangReady (x : Ctx) (g : Nat) : Bool :=
  (gangWaves g).all fun w => match SMap.find? x.waves w with
    | some v => v.rend.isSome && v.gang == g
    | none => false

/-- An mma arrives at the rendezvous latch; its wave waits there (R42, R325). A gang that names a retired wave comes before one that
clashes: the rule faults it at once (R325). Helper lanes alone decide no fault (R441). -/
def mmaArrive (i : Instr) (s : State) (f d a sel tile : Nat) (reuse : Bool) : Host.Outcome State Fault Refusal :=
  issue i s fun b act t =>
    match s.ctx? b.ctx, s.wave? b.ctx b.wave with
    | some x, some v =>
      let fault (r : Result) : Result := if (v.present act).isEmpty then .done t else r
      if act.isEmpty then .done t
      else if !x.mat.loaded then fault (.trap (matrixFault 1 act))
      else if v.gang = 0 then fault (.trap (matrixFault 2 act))
      else if x.gangGone v.gang then
        fault (.stall (((s.noteFaulted b).gangFault b.ctx v.gang 6).takeTrap b.ctx b.wave (matrixFault 6 act)))
      else match x.gangClash b.wave v.gang with
        | (w, r) :: ws =>
          fault (.stall ((((w, r) :: ws).foldl (fun (u : State) (w, (r : Rend)) => u.rendFault b.ctx w (matrixFault 5 r.act)) (s.noteFaulted b)).takeTrap
            b.ctx b.wave (matrixFault 5 act)))
        | [] =>
          let u := s.modWave b.ctx b.wave fun v => { v with rend := some ⟨b, act, f, tile, reuse, d, a, sel⟩ }
          match u.ctx? b.ctx with
          | some y => .stall (if y.gangReady v.gang then u.post .mmaRendezvous [b.ctx, v.gang] else u)
          | none => .stall u
    | _, _ => .done t

def execMmaE2m1 (d a tl r l : Nat) (s : State) := mmaArrive (.mmaE2m1 d a tl r l) s 0 d a 0 tl (r == 1)
def execMmaE4m3 (d a sl tl r l : Nat) (s : State) := mmaArrive (.mmaE4m3 d a sl tl r l) s 1 d a sl tl (r == 1)
def execMmaE5m2 (d a sl tl r l : Nat) (s : State) := mmaArrive (.mmaE5m2 d a sl tl r l) s 2 d a sl tl (r == 1)
def execMmaS8 (d tl r l : Nat) (s : State) := mmaArrive (.mmaS8 d tl r l) s 3 d 255 0 tl (r == 1)
def execMmaBf16 (d tl r l : Nat) (s : State) := mmaArrive (.mmaBf16 d tl r l) s 4 d 255 0 tl (r == 1)
def execMmaF16 (d tl r l : Nat) (s : State) := mmaArrive (.mmaF16 d tl r l) s 5 d 255 0 tl (r == 1)

/-- Register r of lane l of wave w as an mma reads it: from the live latch, or from the register; key 4096 w + 32 r + l. -/
def latchKey (w r l : Nat) : Nat := 4096 * w + 32 * r + l

/-- The values of the A and scale registers of a gang, as the latch holds them. -/
def gangValues (x : Ctx) (rs : List (Nat × Rend)) : List (Nat × Word) :=
  rs.flatMap fun (w, r) => match SMap.find? x.waves w with
    | some v =>
      (((List.range 8).map (r.d + ·)) ++ (if r.a = 255 then [] else [r.a])).flatMap fun g =>
        (List.range 32).map fun l => (latchKey w g l, v.reg g l)
    | none => []

/-- Row r of gang wave w: K codes, element 0 lowest (R327). -/
def rowOf (vals : List (Nat × Word)) (w d r : Nat) : Nat :=
  let half (h : Nat) : Nat := (List.range 8).foldl (fun n g =>
    n + ((vals.find? fun (k, _) => k == latchKey w (d + g) (r + 16 * h)).map (·.2.toNat)).getD 0 * 2 ^ (32 * g)) 0
  half 0 + half 1 * 2 ^ 256

/-- Block scales of row r of gang wave w, byte kb lowest first (R200). -/
def scalesOf (vals : List (Nat × Word)) (w a nb sel r : Nat) : Nat :=
  (List.range nb).foldl (fun n kb =>
    let c := sel * nb + kb
    let y := ((vals.find? fun (k, _) => k == latchKey w a (r + 16 * (c / 4))).map (·.2.toNat)).getD 0
    n + bits y (8 * (c % 4) + 7) (8 * (c % 4)) * 2 ^ (8 * kb)) 0

/-- Scratchpad offsets of column j's four 16-byte units, lowest element first, for K-step c of a tile (R328). -/
def columnUnits (cfg tc c j : Nat) : List Nat :=
  let x := 16 * (c * cfgBkstr cfg + j * cfgBcstr cfg)
  (List.range 4).map fun u => tileBbase tc + swizzle (cfgSwz cfg) (x + 16 * u)

/-- Scratchpad offset of the block scales of column j. -/
def scaleOff (cfg tc c j : Nat) : Nat := tileBsbase tc + 16 * c * cfgBskstr cfg + 8 * j

/-- The byte ranges of the B operand, as offset and length. -/
def operandRanges (cfg tc c f : Nat) : List (Nat × Nat) :=
  (List.range (cfgN cfg)).flatMap fun j =>
    ((columnUnits cfg tc c j).map fun o => (o, 16)) ++ (if mmaScaled f then [(scaleOff cfg tc c j, mmaK f / 16)] else [])

/-- The fault of the B reads: beyond the scratchpad, under a range lock, or poisoned (R328). -/
def operandFault (s : State) (c : Nat) (x : Ctx) (act : List Nat) (rs : List (Nat × Nat)) : Option Trap :=
  match rs.find? fun (o, n) => decide (x.scratchBytes < o + n) with
  | some (o, _) => some (trapOf 4 4 act (Nat.max o x.scratchBytes))
  | none =>
    let ls := s.scratchLocks c
    let low := act.headD 0
    match rs.findSome? fun (o, n) => (ls.find? fun k => k.covers o n).map fun k => (k.kind, o) with
    | some (k, o) => some (trapLane 0x10 k low (scratchAddr o))
    | none => match rs.find? fun (o, n) => poisoned s (scratchKey c o) n with
      | some (o, _) => some (trapLane 0x11 0 low (scratchAddr o))
      | none => none

/-- The lanes of a wave's active set that decide a fault, or the set where helpers alone are active. -/
def Ctx.decidingLanes (x : Ctx) (w : Nat) (act : List Nat) : List Nat :=
  match SMap.find? x.waves w with
  | some v => if (v.present act).isEmpty then act else v.present act
  | none => act

/-- The cause for which a complete rendezvous fails (R325). -/
def rendCause (cfg g : Nat) (rs : List (Nat × Rend)) : Option Nat :=
  match rs with
  | [] => some 2
  | (_, r) :: _ =>
    if rs.any fun (_, q) => q.fmt != r.fmt || q.tile != r.tile || q.reuse != r.reuse then some 5
    else if gangSize g != cfgGsize cfg then some 3
    else if r.fmt != cfgFmt cfg then some 4
    else none

/-- The mma of a gang enters the pipeline: A and scale registers, or the live latch; B and its scales from scratchpad; the
tile's K-cursor and flags; and every gang wave passes (R327 to R330). -/
def mmaEnter (s : State) (c : Nat) (x : Ctx) (g : Nat) (rs : List (Nat × Rend)) (f tile : Nat) (reuse : Bool) : State :=
  let cfg := x.mat.cfg
  let tc := cfgTile cfg tile
  let cur := (x.mat.tile tile).kcur
  let nb := mmaK f / 16
  let names := rs.map fun (w, r) => (w, r.d, r.a)
  let live := match x.mat.latch with
    | some k => if reuse && k.gang == g && k.regs == names then some k.vals else none
    | none => none
  let vals := live.getD (gangValues x rs)
  let rows := (List.range rs.length).zip rs
  let a := rows.flatMap fun (q, w, r) => (List.range 16).map fun i => (16 * q + i, rowOf vals w r.d i)
  let sa := if mmaScaled f then
      rows.flatMap fun (q, w, r) => (List.range 16).map fun i => (16 * q + i, scalesOf vals w r.a nb r.bs i)
    else []
  let cols := List.range (cfgN cfg)
  let b := cols.map fun j => (j, ((List.range 4).zip (columnUnits cfg tc cur j)).foldl (fun n (u, o) =>
    n + readMem s.mem (scratchKey c o) 16 * 2 ^ (128 * u)) 0)
  let sb := if mmaScaled f then cols.map fun j => (j, readMem s.mem (scratchKey c (scaleOff cfg tc cur j)) nb) else []
  let t := s.modMat c fun m =>
    { m.setTile tile ⟨(cur + 1) % cfgKsteps cfg, true, true⟩ with
      latch := if reuse then some ⟨g, names, vals⟩ else none }
  let t := t.enterPipe c (.mma tile (16 * rs.length) (cfgN cfg) nb f a b sa sb)
  rs.foldl (fun t (w, r) =>
    pass r.bundle.instr r.bundle r.act (t.modWave c w fun v => { v with rend := none })) t

/-- The waiting waves whose mma would read a register recorded as overwritten since it arrived, each with its fault (R137, R327). -/
def rendOverwritten (x : Ctx) (rs : List (Nat × Rend)) : List (Nat × Trap) :=
  rs.filterMap fun (w, r) => match SMap.find? x.waves w with
    | some v => match overwritten r.bundle.instr v r.act with
      | l :: ls => some (w, overwriteTrap v l ls)
      | [] => none
    | none => none

/-- MMA_RENDEZVOUS: context, gang register. All waves of the gang wait at the latch: the checks, then the mma enters and
every wave passes it, or every wave takes the fault (R325, R328). -/
def execMmaRendezvous (s : State) : Host.Outcome State Fault Refusal :=
  let c := s.arg 0
  let g := s.arg 1
  .next (match s.ctx? c with
    | some x =>
      if x.state = .resident ∧ x.goal = .none ∧ x.gangReady g = true ∧ g ≠ 0 then
        let rs := (gangWaves g).filterMap fun w => match SMap.find? x.waves w with
          | some v => v.rend.map fun r => (w, r)
          | none => none
        let hit := rendOverwritten x rs
        if !hit.isEmpty then hit.foldl (fun t (w, k) => t.rendFault c w k) s
        else match rendCause x.mat.cfg g rs, rs with
        | some k, _ => s.gangFault c g k
        | none, (_, r) :: _ =>
          let cfg := x.mat.cfg
          let rg := operandRanges cfg (cfgTile cfg r.tile) (x.mat.tile r.tile).kcur r.fmt
          match operandFault s c x r.act rg with
          | some _ => rs.foldl (fun t (w, (q : Rend)) => match operandFault s c x (x.decidingLanes w q.act) rg with
              | some k => t.rendFault c w k
              | none => t) s
          | none => mmaEnter s c x g rs r.fmt r.tile r.reuse
        | none, [] => s
      else s
    | none => s)

/-! ### Accumulator access (R331) -/

/-- mzero, mrd, mwr and mscale on a loaded unit. -/
def onTile (i : Instr) (s : State) (body : Bundle → Ctx → Wave → List Nat → State → Result) :
    Host.Outcome State Fault Refusal :=
  issue i s fun b act t =>
    match s.ctx? b.ctx, s.wave? b.ctx b.wave with
    | some x, some v =>
      if act.isEmpty then .done t
      else if !x.mat.loaded then faultOnce v act t (matrixFault 1 act)
      else body b x v act t
    | _, _ => .done t

def execMzero (tl l : Nat) (s : State) :=
  onTile (.mzero tl l) s fun b _ _ _ t =>
    .done ((t.modMat b.ctx fun m => m.setTile tl ⟨0, false, false⟩).enterPipe b.ctx (.mzero tl))

/-- Row and first element that a lane names: ρ = x[6:0], column group x[9:7]. -/
def laneRow (v : Wave) (a l : Nat) : Nat := bits (v.reg a l).toNat 6 0
def laneElement (v : Wave) (a l : Nat) : Nat := 64 * laneRow v a l + 8 * bits (v.reg a l).toNat 9 7

/-- INUSE of a tile, and DIRTY where the operation writes it. -/
def markTile (dirty : Bool) (tl : Nat) (m : Matrix) : Matrix :=
  let x := m.tile tl
  m.setTile tl { x with inuse := true, dirty := x.dirty || dirty }

def execMrd (d a tl l : Nat) (s : State) :=
  onTile (.mrd d a tl l) s fun b _ v act t =>
    if (v.present act).any fun k => decide (96 ≤ laneRow v a k) then .trap (matrixFault 7 act)
    else
      let lanes := act.map fun k => (k, if laneRow v a k < 96 then some (laneElement v a k) else none)
      .done (((t.modMat b.ctx (markTile false tl)).launchAt t.thisId b act .mrd).enterPipe b.ctx
        (.mrd tl t.thisId d lanes))

def execMwr (d a tl l : Nat) (s : State) :=
  onTile (.mwr d a tl l) s fun b _ v act t =>
    let ls := v.present act
    if ls.any fun k => decide (96 ≤ laneRow v a k) then .trap (matrixFault 7 act)
    else if ls.isEmpty then .done t
    else
      let vals := ls.flatMap fun k => (List.range 8).map fun i => (laneElement v a k + i, v.reg (d + i) k)
      .done ((t.modMat b.ctx (markTile true tl)).enterPipe b.ctx (.mwr tl vals))

def execMscale (a tl l : Nat) (s : State) :=
  onTile (.mscale a tl l) s fun b _ v act t =>
    let low := act.headD 0
    let x := (v.reg a low).toNat
    .done ((t.modMat b.ctx (markTile false tl)).enterPipe b.ctx
      (.mscale tl (bits x 15 0) (bits x 31 16) (bits (v.reg (a + 1) low).toNat 15 0)))

/-! ### The pipeline (R319, R329) -/

/-- One operation of the pipeline on the accumulators and the configuration. -/
def Matrix.perform (m : Matrix) : MatOp → Matrix
  | .mma t rows n nb f a b sa sb =>
    let tc := cfgTile m.cfg t
    let acc := a.foldl (fun acc (i, row) =>
      if i < rows then
        b.foldl (fun acc (j, col) =>
          if j < n then
            let k := accKey t (64 * i + j)
            let band := if i < 64 then tileBandA0 tc else tileBandA1 tc
            let old := (SMap.get (0 : Word) acc k).toNat
            SMap.set 0 acc k
              (word (mmaElement f nb old row col (SMap.get 0 sa i) (SMap.get 0 sb j) band (tileBandB tc)))
          else acc) acc
      else acc) m.acc
    { m with acc := acc }
  | .mzero t => { m with acc := m.acc.filter fun (k, _) => k / 6144 ≠ t }
  | .mrd _ _ _ _ => m
  | .mwr t vals => { m with acc := vals.foldl (fun acc (e, y) => SMap.set 0 acc (accKey t e) y) m.acc }
  | .mscale t a0 a1 b => { m with cfg := setBits m.cfg (175 + 96 * t) (128 + 96 * t) (a0 + a1 * 2 ^ 16 + b * 2 ^ 32) }

/-- MATRIX_OPERATION_COMPLETE: context. The earliest operation of the pipeline completes (R319). -/
def execMatrixOperationComplete (s : State) : Host.Outcome State Fault Refusal :=
  let c := s.arg 0
  .next (match s.ctx? c with
    | some x => match x.mat.pipe with
      | o :: rest =>
        let t := s.modMat c fun m => { m.perform o with pipe := rest }
        match o with
        | .mrd tl id d lanes =>
          match t.op? id with
          | some p =>
            let ws := lanes.flatMap fun (l, e) => (List.range 8).map fun i =>
              (32 * (d + i) + l, match e with
                | some e => SMap.get (0 : Word) x.mat.acc (accKey tl (e + i))
                | none => 0)
            (t.setRegs c p.wave ws).endOp id
          | none => t
        | _ => t.afterWork c 0
      | [] => s
    | none => s)

end Sys2Proof.Machine
end

