-- ==== Sys2Proof/Machine/Aes.lean ====
section
/-! DEFINITION. Aes.lean: AES-256 in Galois counter mode, the published standard that seals a confidential partition's trace
pages (R18, R475). Byte strings are lists of byte values, first byte first. -/
namespace Sys2Proof.Machine

/-! ### The block cipher -/

/-- Multiplication in GF(2^8) modulo x^8 + x^4 + x^3 + x + 1, over the low n bits of y. -/
def gfMul (x y : Nat) : Nat → Nat
  | 0 => 0
  | n + 1 =>
    let twice := if x < 128 then 2 * x else Nat.xor (2 * x - 256) 0x1B
    Nat.xor (if y % 2 = 1 then x else 0) (gfMul twice (y / 2) n)

def gfByte (x y : Nat) : Nat := gfMul x y 8

/-- x^254, the inverse of a nonzero byte, and 0 for 0. -/
def gfInv (x : Nat) : Nat :=
  let x2 := gfByte x x
  let x3 := gfByte x2 x
  let x12 := (fun y => gfByte y y) (gfByte x3 x3)
  let x15 := gfByte x12 x3
  let x240 := (fun y => gfByte y y) ((fun y => gfByte y y) ((fun y => gfByte y y) (gfByte x15 x15)))
  gfByte x240 (gfByte x12 x2)

/-- The byte substitution: the inverse, then the affine map. -/
def subByte (x : Nat) : Nat :=
  let y := gfInv x
  let rot (k : Nat) : Nat := (y * 2 ^ k) % 256 + y / 2 ^ (8 - k)
  Nat.xor (Nat.xor (Nat.xor y (rot 1)) (Nat.xor (rot 2) (rot 3))) (Nat.xor (rot 4) 0x63)

def xorBytes (a b : List Nat) : List Nat := List.zipWith Nat.xor a b

/-- The next words of the key schedule: n words more, the latest eight given latest first, with the round constant. -/
def keyWords : Nat → Nat → Nat → List (List Nat) → List (List Nat)
  | 0, _, _, _ => []
  | n + 1, i, rc, ws =>
    let last := ws.headD []
    let old := ws.getD 7 []
    let g := if i % 8 = 0 then
        xorBytes ((last.drop 1 ++ last.take 1).map subByte) [rc, 0, 0, 0]
      else if i % 8 = 4 then last.map subByte else last
    let w := xorBytes old g
    let rc := if i % 8 = 0 then gfByte rc 2 else rc
    w :: keyWords n (i + 1) rc (w :: ws.take 7)

/-- n pieces of k elements. -/
def pieces {α : Type} (k : Nat) : Nat → List α → List (List α)
  | 0, _ => []
  | n + 1, l => l.take k :: pieces k n (l.drop k)

/-- The fifteen round keys of a 32-byte key. -/
def roundKeys (key : List Nat) : List (List Nat) :=
  let ws := pieces 4 8 key
  (pieces 4 15 (ws ++ keyWords 52 8 1 ws.reverse)).map List.flatten

/-- Byte 4 c + r of the state moves r columns back. -/
def shiftRows (b : List Nat) : List Nat :=
  (List.range 16).map fun i => b.getD ((i + 4 * (i % 4)) % 16) 0

def mixColumn (c : List Nat) : List Nat :=
  (List.range 4).map fun i =>
    let at' (k : Nat) : Nat := c.getD ((i + k) % 4) 0
    Nat.xor (Nat.xor (gfByte (at' 0) 2) (gfByte (at' 1) 3)) (Nat.xor (at' 2) (at' 3))

/-- The rounds after the first key addition. -/
def aesRounds : List (List Nat) → List Nat → List Nat
  | [], b => b
  | [k], b => xorBytes (shiftRows (b.map subByte)) k
  | k :: ks, b => aesRounds ks (xorBytes ((pieces 4 4 (shiftRows (b.map subByte))).map mixColumn).flatten k)

/-- One block under the round keys. -/
def aesBlock (ks : List (List Nat)) (b : List Nat) : List Nat := aesRounds (ks.drop 1) (xorBytes b (ks.headD []))

/-! ### Galois counter mode -/

/-- n bytes of a number, most significant first. -/
def bytesBE (x : Nat) : Nat → List Nat
  | 0 => []
  | n + 1 => x / 256 ^ n % 256 :: bytesBE x n

def natBE (bs : List Nat) : Nat := bs.foldl (fun a b => a * 256 + b) 0

/-- n bytes of a number, least significant first. -/
def bytesLE (x : Nat) : Nat → List Nat
  | 0 => []
  | n + 1 => x % 256 :: bytesLE (x / 256) n

def natLE : List Nat → Nat
  | [] => 0
  | b :: bs => b + 256 * natLE bs

/-- Multiplication in GF(2^128) of GCM: bit 127 is the coefficient of 1; over the high n bits of x. -/
def ghashMul (x y : Nat) : Nat → Nat
  | 0 => 0
  | n + 1 =>
    let half := if y % 2 = 1 then Nat.xor (y / 2) (0xE1 * 2 ^ 120) else y / 2
    Nat.xor (if x.testBit n then y else 0) (ghashMul x half n)

/-- The hash of a list of 16-byte blocks under H. -/
def ghash (h : Nat) (bs : List (List Nat)) : Nat := bs.foldl (fun a b => ghashMul (Nat.xor a (natBE b)) h 128) 0

/-- Blocks of 16 bytes, the last padded with zeros. -/
def gcmBlocks (bs : List Nat) : List (List Nat) :=
  (pieces 16 ((bs.length + 15) / 16) bs).map fun b => b ++ List.replicate (16 - b.length) 0

/-- Ciphertext and tag of a plaintext under a 32-byte key, a 12-byte nonce and additional data. -/
def gcmSeal (key nonce aad plain : List Nat) : List Nat × List Nat :=
  let ks := roundKeys key
  let h := natBE (aesBlock ks (List.replicate 16 0))
  let ctr (i : Nat) : List Nat := aesBlock ks (nonce ++ bytesBE (i % 2 ^ 32) 4)
  let stream := ((List.range ((plain.length + 15) / 16)).map fun i => ctr (i + 2)).flatten
  let cipher := xorBytes plain stream
  let len := bytesBE (8 * aad.length) 8 ++ bytesBE (8 * cipher.length) 8
  (cipher, xorBytes (ctr 1) (bytesBE (ghash h (gcmBlocks aad ++ gcmBlocks cipher ++ [len])) 16))

end Sys2Proof.Machine
end

