-- ==== Sys2Proof/Machine/Fetch.lean ====
section
/-! DEFINITION. Fetch.lean: fetching an instruction (R207, R438), the choice of a wave by an issue slot and its run (R41,
R48), PC breakpoints (R472), and BUNDLE_ISSUE. -/
namespace Sys2Proof.Machine

/-! ### Fetching (R207, R289, R438, R467) -/

/-- What a fetch answers: a value, the DETAIL and address of a fetch fault beside the state whose translation caches stay, or that it
waits for a home. -/
inductive Fetched where
  | ok (v : Nat) (s : State)
  | fail (detail addr : Nat) (u : State)
  | wait
  deriving DecidableEq, Repr

/-- DETAIL of a fetch that does not translate. -/
def fetchDetail : Miss → Option Nat
  | .walk 0 _ => some 1
  | .walk 1 _ => some 2
  | .walk _ _ => some 3
  | .poison => some 5
  | .lost => some 6
  | .waits => none

/-- One halfword at a virtual address; from free bit k on they tell what translations the caches still hold. -/
def fetchHalf (s : State) (x : Ctx) (a : Nat) (k : Option Nat) : Fetched :=
  let tensor := addrSpace a == 2
  let form := match addrSpace a with
    | 1 => bits a 59 46 == 0 && (s.domPkg? (bits a 45 36)).isSome
    | 2 => addrPkg a == s.pkg
    | _ => false
  if !form then .fail 4 a s
  else if a % 2 = 1 then .fail 0 a s
  else match s.translate x.place x.part tensor (if tensor then a % 2 ^ 40 else addrOff a) permX k with
    | (.error m, u) => match fetchDetail m with
      | some d => .fail d a u
      | none => .wait
    | (.ok (pa, _), u) =>
      if !u.firewall x.part tensor pa 2 false then .fail 7 a u
      else
        let k := if tensor then tensorKey pa else ctlKey pa
        let agent := u.dieAgent x.die
        let h := if tensor then HomeState.serves else u.lineState 0 agent (pa / 128)
        match h with
        | .waits => .wait
        | .gone => .fail 6 a u
        | .serves =>
          if poisoned u k 2 then .fail 5 a u
          else if tensor then .ok (readMem u.mem k 2) u
          else
            let (v, u) := u.ctlRead agent pa 2
            .ok v u

/-- n further halfwords at a virtual address, the first lowest. -/
def fetchHalves (x : Ctx) : Nat → State → Nat → Fetched
  | 0, s, _ => .ok 0 s
  | n + 1, s, a =>
    match fetchHalf s x a none with
    | .ok v u => match fetchHalves x n u (a + 2) with
      | .ok y w => .ok (v + 0x10000 * y) w
      | r => r
    | r => r

/-- The halfwords of the instruction at a virtual address, literal word included. The caches hold, for the later ones, the
translation that the first has used. -/
def fetch (s : State) (x : Ctx) (a : Nat) : Fetched :=
  match fetchHalf s x a (some 128) with
  | .ok h u => match fetchHalves x (lengthOf h / 2 - 1) u (a + 2) with
    | .ok y w => .ok (h + 0x10000 * y) w
    | r => r
  | r => r

/-! ### The wave and its run (R41, R48) -/

/-- Lanes that may issue: not exited, not parked. -/
def Wave.candidates (v : Wave) : List (Nat × Lane) := v.lanes.filter fun (_, n) => !n.exited && n.park == .none

/-- The lanes of a list with the lowest program counter, and that counter. -/
def lowestRun (ls : List (Nat × Lane)) : Option (Dword × List Nat) :=
  match least (ls.map fun (_, n) => n.pc.toNat) with
  | some p => some (BitVec.ofNat 64 p, (ls.filter fun (_, n) => n.pc.toNat == p).map (·.1))
  | none => none

/-- The run of R41 and its address; none when the wave is not eligible. -/
def Wave.nextRun (v : Wave) : Option (Dword × List Nat) :=
  match v.candidates.filter fun (_, n) => !n.deferred with
  | [] => lowestRun v.candidates
  | ls => lowestRun ls

/-- The wave may be selected: it has a candidate, and waits neither for a handler entry nor at the rendezvous latch. -/
def Wave.eligible (v : Wave) : Bool := !v.candidates.isEmpty && v.trap.isNone && v.rend.isNone

/-- The waves of a context that may issue: those of a resident block, and in a drain one whose access waits for a walk (R445). -/
def Ctx.issues (x : Ctx) (v : Wave) : Bool :=
  ((x.state == .resident && x.goal == .none) || (x.goal != .none && v.walk)) && v.eligible

/-- Eligible waves of resident contexts bound to an issue slot of a core: wave slot, context, wave (R21, R48). Issue on a hot
die is withheld (R499). -/
def State.slotWaves (s : State) (core islot : Nat) : List (Nat × Nat × Nat) :=
  if s.hot.testBit (core / 768) then []
  else s.ctxs.flatMap fun (c, x) =>
    if x.place = core then
      (x.waves.filter fun (_, v) => v.slot % 4 == islot && x.issues v).map fun (w, v) => (v.slot, c, w)
    else []

/-- The waves of the least slot above lo, if any. -/
def firstAbove (lo : Nat) (ws : List (Nat × Nat × Nat)) : Option (Nat × Nat × Nat) :=
  match least ((ws.filter fun (k, _) => lo ≤ k).map (·.1)) with
  | some k => ws.find? fun (j, _) => j == k
  | none => none

/-- The wave an issue slot selects: the first eligible one after the wave it last issued, with wrap. One found to be unable to issue is
passed over until the slot has issued, or has found no other (R42). -/
def State.selectWave (s : State) (core islot : Nat) : Option (Nat × Nat × Nat) :=
  let ws := (s.slotWaves core islot).filter fun (k, _) => !(s.core core).held.contains k
  match firstAbove (SMap.get 0 (s.core core).last islot) ws with
  | some r => some r
  | none => firstAbove 0 ws

/-! ### PC breakpoints (R472) -/

/-- The lowest breakpoint unit that a bundle at pc matches. -/
def pcMatch (s : State) (x : Ctx) (v : Wave) (pc : Dword) : Option Nat :=
  if x.dbgen && !(s.hubGet 0x701 x.part).testBit 16 then
    (List.range 4).find? fun u =>
      let k := s.hubGet 0x731 (bpSel x.part u)
      k.testBit 0 && bits k 2 1 == 0 && !v.skip.contains (u, pc) && decide (s.hubGet64 0x732 (bpSel x.part u) ≤ pc.toNat) &&
        decide (pc.toNat ≤ s.hubGet64 0x734 (bpSel x.part u))
  else none

/-- Stops the span before the next bundle of a wave if a unit matches it. -/
def breakpointStop (s : State) (c w : Nat) : State :=
  match s.ctx? c, s.wave? c w with
  | some x, some v =>
    if x.state = .resident ∧ x.goal = .none ∧ v.eligible = true then
      match v.nextRun with
      | some (pc, run) =>
        if (v.active run).isEmpty then s
        else match pcMatch s x v pc with
          | some u =>
            (s.modWave c w fun y => { y with skip := (u, pc) :: y.skip }).startDrain c .stopped .stopComplete |>.markStop c
              ⟨3, u, 0, w, 0⟩
          | none => s
      | none => s
    else s
  | _, _ => s

/-- BREAKPOINT_PC_STOP: context, wave. -/
def execBreakpointPcStop (s : State) : Host.Outcome State Fault Refusal :=
  .next (breakpointStop s (s.arg 0) (s.arg 1))

/-! ### BUNDLE_ISSUE -/

/-- The wave passes a run of no active lane whose word is no instruction: nothing of it is performed (R220), it is one of the
next bundles of each open window (R60), and it occupies its slot for a cycle (R479). -/
def skipRun (s : State) (c w : Nat) (pc : Dword) (run : List Nat) (n : Nat) : State :=
  let step (l : Nat) (m : Lane) : Lane :=
    if run.contains l then { m with pc := m.pc + BitVec.ofNat 64 n, gcount := m.gcount - 1, deferred := false }
    else { m with deferred := false }
  idle ((s.noteFaulted ⟨c, w, pc, run, .nop, 0⟩).modWave c w fun v => { v with
    lanes := SMap.mapVals v.lanes step
    windows := (v.windows.map fun k => { k with pos := k.pos + 1 }).filter fun k =>
      decide (k.pos < k.span) || s.inFlight k.id })

/-- Issues the next bundle of a wave: its end-of-window stall (R60), breakpoints, fetch and decoding. DESIGN CHOICE: R132 lets an arm
issue without waiting for an unfinished instruction that writes the armed register, and R60 makes the bundle after the window of
one wait; where an arm is that bundle it waits here (log 39). Unsafe. DEDUCED: a fetch fault is raised also for a run of no active
lane (R207), an undecodable word for any active lane, a helper too (R220, log 17). -/
def issueWave (s : State) (c w : Nat) : State :=
  match s.ctx? c, s.wave? c w with
  | some x, some v =>
    match v.nextRun with
    | none => idle s
    | some (pc, run) =>
      if v.windows.any (fun k : Window => decide (k.span ≤ k.pos) && s.inFlight k.id) then idle s
      else if !(v.active run).isEmpty && (pcMatch s x v pc).isSome then idle (breakpointStop s c w)
      else
        let stop (t : State) (k d a : Nat) : State := idle ((t.noteFaulted ⟨c, w, pc, run, .nop, 0⟩).takeTrap c w (trapOf k d run a))
        match fetch s x pc.toNat with
        | .wait => idle s
        | .fail d a u => stop { s.keepCaches u with free := s.free + 1 } 1 d a
        | .ok raw u =>
          match decode raw with
          | .ok i =>
            let b : Bundle := ⟨c, w, pc, run, i, if raw % 2 = 0 then raw % 0x10000 else raw % 0x100000000⟩
            { u with cur := some b, free := u.free + 1 }
          | .error _ =>
            if (v.active run).isEmpty then skipRun { u with free := u.free + 1 } c w pc run (lengthOf raw)
            else stop { s with free := s.free + 1 } 2 0 (if raw % 2 = 0 then raw % 0x10000 else raw % 0x100000000)
  | _, _ => idle s

/-- A cycle that the power controller withholds from an issue slot: of 256 as many as PWRSTAT tells, which ones free (R29, R499). -/
def State.withheld (s : State) : Bool :=
  bits (s.hubGet 0x829 0) 15 8 != 0 && decide (Config.freeNat s.free % 256 < bits (s.hubGet 0x829 0) 15 8)

/-- Marks a wave slot of a core selected: it counts as unable to issue until its bundle has issued (R42, R48). -/
def State.hold (s : State) (core slot : Nat) : State :=
  let k := s.core core
  s.setCore core { k with held := slot :: k.held }

/-- An issue slot has found no wave that can issue. -/
def State.unhold (s : State) (core islot : Nat) : State :=
  let k := s.core core
  s.setCore core { k with held := k.held.filter fun j => j % 4 != islot }

/-- A wave tries its bundle again: it waits for a walk no more, or finds that it must. -/
def State.endWalk (s : State) (c w : Nat) : State :=
  match s.wave? c w with
  | some v => if v.walk then s.modWave c w fun y => { y with walk := false } else s
  | none => s

/-- BUNDLE_ISSUE: 4 times a core's number plus an issue slot. The slot selects a wave and issues its bundle; the bundle is
performed next. -/
def execBundleIssue (s : State) : Host.Outcome State Fault Refusal :=
  let core := s.arg 0 / 4
  let islot := s.arg 0 % 4
  .next (
    if s.withheld then idle (({ s with free := s.free + 1 } : State).idleSample core islot)
    else match s.selectWave core islot with
      | none => idle ((s.unhold core islot).idleSample core islot)
      | some (slot, c, w) => issueWave ((s.hold core slot).endWalk c w) c w)

/-! ### What a step performs (log 4) -/

/-- The issue slots of the package that hold an eligible wave, as 4 times the core's number plus the slot. -/
def State.readyPorts (s : State) : List Nat :=
  s.ctxs.flatMap fun (_, x) =>
    if s.hot.testBit x.die = false then
      (x.waves.filter fun (_, v) => x.issues v).map fun (_, v) => 4 * x.place + v.slot % 4
    else []

/-- The ready issue slot that has found a wave unable to issue and has not yet issued or found no other: it selects on in its cycle
(R42, R48). -/
def State.scanning (s : State) : Option Nat :=
  s.readyPorts.find? fun p => (s.core (p / 4)).held.any fun j => j % 4 == p % 4

/-- The issue slot served next: one that still selects; else the first ready one from State.port on, with wrap. -/
def State.nextPort (s : State) : Nat :=
  match s.scanning with
  | some p => p
  | none => match least (s.readyPorts.filter fun p => s.port ≤ p) with
    | some p => p
    | none => (least s.readyPorts).getD 0

/-- Gives the sample that a core owes as IDLE where its issue slot holds no wave that may issue (R478). -/
def State.idleOwed (s : State) : State :=
  s.cores.foldl (fun t (k, x) => match x.want with
    | some (i, _) => if (s.slotWaves k i).isEmpty then t.idleSample k i else t
    | none => t) s

/-- The state in which BUNDLE_ISSUE serves the next issue slot. -/
def State.serve (s : State) : State := { s.idleOwed with args := [s.nextPort], port := s.nextPort + 1 }

/-- Every wave may be selected anew: an event may have made it able to issue (R48). -/
def State.unholdAll (s : State) : State :=
  if s.cores.any fun (_, x) => !x.held.isEmpty then
    { s with cores := (SMap.mapVals s.cores fun _ x => { x with held := [] }).filter fun (_, x) => x != Core.reset }
  else s

/-- The event performed next, if one is: an event of the agenda, when there is one and the free choice falls on it. The selection of
every issue slot then begins anew. -/
def State.dueEvent (s : State) : Option (Instr × State) :=
  match s.agenda with
  | [] => none
  | (e, as) :: rest =>
    if Config.freeBool s.free then some (e, { s.unholdAll with agenda := rest, args := as, free := s.free + 1 }) else none

/-- The state after the free choice has fallen on a bundle: the choice is used up. -/
def State.chooseBundle (s : State) : State := if s.agenda.isEmpty then s else { s with free := s.free + 1 }

/-! ### A program placed for its first instruction (log 4) -/

/-- A lane at its first instruction. -/
def Lane.start (kind : LaneKind) (pc : Dword) : Lane :=
  ⟨kind, pc, false, .none, [], 0, false, ⟨0, false, .none⟩, 0, 0, false, 0, 0, 0, 0⟩

/-- A wave at its first instruction, in a wave slot. -/
def Wave.start (slot : Nat) (lanes : List (Nat × Lane)) : Wave :=
  ⟨slot, lanes, [], [], [], 5, 0, false, false, false, 0, 0, 0, [], [], none, none, false, [], false⟩

/-- The matrix unit of a block at placement (R318). -/
def Matrix.start : Matrix := ⟨false, 0, [], [], none, []⟩

/-- A block placed on a core (R397, R406). -/
def Ctx.start (part ptag queue launch span index : Nat) (da : Dword) (desc : Nat) (tvec tscr : Dword)
    (l : Nat × Nat × Nat) (die core gen : Nat) (waves : List (Nat × Wave)) (feat : Nat) (priv : Bool)
    (since lindex : Nat) : Ctx :=
  { state := .resident, goal := .none, onCore := false, part := part, ptag := ptag, queue := queue
    launch := launch, span := span, index := index, descAddr := da, desc := desc, tvec := tvec, tscr := tscr
    lx := l.1, ly := l.2.1, lz := l.2.2, fdie := die, fcore := core, fgen := gen
    fslots := waves.map fun (w, v) => (w, v.slot)
    die := die, core := core, savea := 0, pinned := false, dbgen := false, priv := priv, busy := false, feat := feat
    waves := waves, regions := [], nbar := [], mat := Matrix.start, since := since, cycles := 0, lindex := lindex
    inserts := [], stop := ⟨0, 0, 0, 0, 0⟩ }

/-- Descriptor of the block that withFetchWord places: 128 registers, 64 KiB of scratchpad, every barrier, region and
feature, one thread, one span of one block. -/
def placedDesc : Nat :=
  15 * 2 ^ 64 + 256 * 2 ^ 72 + 16 * 2 ^ 83 + 32 * 2 ^ 88 + 32 * 2 ^ 94 + 7 * 2 ^ 100 + 2 ^ 128 + 2 ^ 138 + 2 ^ 148 +
    2 ^ 160 + 2 ^ 166 + 2 ^ 172 + 2 ^ 192 + 2 ^ 224 + 2 ^ 240

/-- A word stored where the next step fetches: a privileged block of one thread, resident alone in partition 15, sealed with
one window over tensor memory and a 1 GiB page that maps offset 0, its word at tensor offset 0x10000, no event due,
and its issue slot the next served. -/
def State.placeWord (s : State) (nbits w : Nat) : State :=
  let mem := writeMem s.mem (tensorKey 0x1000) 8 0x2001
  let mem := writeMem mem (tensorKey 0x2000) 8 0x3B
  let mem := writeMem mem (tensorKey 0x10000) 8 (w % 2 ^ nbits)
  let pc : Nat := 0x2000000000010000 + s.pkg * 2 ^ 40
  let lane := Lane.start .present (BitVec.ofNat 64 pc)
  let wave := Wave.start 0 [(0, lane)]
  let c := Ctx.start 15 0 0 0 0 0 0 placedDesc 0 0 (0, 0, 0) 0 0 0 [(0, wave)] 0xFF true s.clock.toNat 0
  let t : State := { s with
    mem := mem, poison := [], cur := none, agenda := [], port := 0, ctxs := [(0, c)], cores := [], tlb := [], walkers := []
    ops := [], hot := 0 }
  ((((((t.hubSet 0x701 15 0x40000000).hubSet 0x503 15 0x1000).hubSet 0x504 15 0).hubSet 0x709 240 5).hubSet 0x70A 240 0).hubSet
    0x70B 240 0).hubSet 0x70C 240 0xFFFFFFFF |>.hubSet 0x70D 240 0xFF

end Sys2Proof.Machine
end

