-- ==== Sys2Proof/Machine/Trace.lean ====
section
/-! DEFINITION. Trace.lean: trace pages and records (R473 to R480). Intervals are events of the agenda that stay on it until
they are due (log 4). -/
namespace Sys2Proof.Machine

/-! ### Pages (R473 to R475) -/

/-- Bytes of a page's record area. -/
def areaBytes : Nat := 4048

/-- Address of the page that opens next. -/
def State.pageAddr (s : State) (part : Nat) : Nat :=
  s.hubGet64 0x721 part + 4096 * (s.hubGet 0x724 part % Nat.max 1 (s.hubGet 0x723 part))

def State.conf (s : State) (part : Nat) : Bool := (s.hubGet 0x701 part).testBit 16

/-- The sync header (R474). -/
def State.pageHeader (s : State) (part loss : Nat) : Nat :=
  0x1E5AC3B7 + 2 ^ 32 + (if s.conf part then 2 ^ 40 else 0) + s.hubGet 0x701 part % 0x10000 * 2 ^ 48 +
    s.hubGet 0x727 part * 2 ^ 64 + s.hubGet 0x724 part * 2 ^ 96 + loss * 2 ^ 160 +
    SMap.get 0 s.salts part % 2 ^ 64 * 2 ^ 192

/-- A partition's key (R465). -/
def State.tenantKey (s : State) (part : Nat) : List Nat :=
  (List.range 8).flatMap fun k => bytesLE (s.hubGet (0x710 + k) part) 4

/-- Writes bytes of a page at a physical tensor address. -/
def State.tracePut (s : State) (a n v : Nat) : State := s.engineStore (tensorKey (a % 2 ^ 40)) n v

/-- Closes the open page: padding, sealing under the key in force when it was opened, the trailer, and TBWR advances (R473, R475). -/
def State.closePage (s : State) (part : Nat) : State :=
  match SMap.find? s.pages part with
  | none => s
  | some p =>
    let rest := areaBytes - p.fill
    let area := p.area + (if rest = 0 then 0 else rest * 2 ^ 16 * 2 ^ (8 * p.fill))
    let at' := s.pageAddr part
    let r : Nat × Nat :=
      if p.head.testBit 40 then
        let nonce := bytesLE (p.head / 2 ^ 192) 8 ++ bytesLE (p.head / 2 ^ 96) 4
        let (c, t) := gcmSeal p.key nonce (bytesLE p.head 32) (bytesLE area areaBytes)
        (natLE c, natLE t)
      else (area, 0)
    let t := (s.tracePut (at' + 32) areaBytes r.1).tracePut (at' + 4080) 16 r.2
    let n := s.hubGet 0x724 part
    let t := t.hubSet 0x724 part ((n + 1) % 0x100000000)
    { t with
      pages := SMap.erase t.pages part
      spent := if n = 0xFFFFFFFF then t.spent ||| 2 ^ part else t.spent }

/-- Opens a page with its header if the buffer has room for it. -/
def State.openPage (s : State) (part : Nat) : State :=
  let used := (s.hubGet 0x724 part + 0x100000000 - s.hubGet 0x725 part) % 0x100000000
  if used < s.hubGet 0x723 part ∧ s.spent.testBit part = false then
    let loss := s.hubGet 0x726 part
    let head := s.pageHeader part loss
    let t := s.tracePut (s.pageAddr part) 32 head
    { t with pages := SMap.insert t.pages part ⟨head, s.tenantKey part, 0, 0, loss, s.clock.toNat⟩ }.post .tracePageTimeout [part, s.clock.toNat]
  else s

/-- A record of n bytes arrives at a partition's buffer. -/
def State.addRecord (s : State) (part n v : Nat) : State :=
  let fits (t : State) : Bool := match SMap.find? t.pages part with
    | some p => decide (p.fill + n ≤ areaBytes)
    | none => false
  let t := if fits s then s else (s.closePage part).openPage part
  match SMap.find? t.pages part with
  | some p =>
    { t with pages := SMap.insert t.pages part { p with area := p.area + v % 2 ^ (8 * n) * 2 ^ (8 * p.fill), fill := p.fill + n } }
  | none => t.hubSet 0x726 part (Nat.min 0xFFFFFFFF (t.hubGet 0x726 part + 1))

/-- The records on their way to a partition's buffer are put into it and its open page is closed, with the header and key of its
opening. DESIGN CHOICE: R466 and R473 do not say what becomes of the page when the partition is dissolved or sealed; so no record of
one tenant meets the page of another (log 40). Unsafe. -/
def State.flushTrace (s : State) (part : Nat) : State :=
  let mine (e : Instr × List Nat) : Bool := e.1 == .traceRecord && e.2.headD 16 == part
  let t := (s.agenda.filter mine).foldl (fun t (_, as) =>
    if (t.hubGet 0x720 part).testBit 0 then t.addRecord part (as.getD 1 0) (as.getD 2 0) else t)
    { s with agenda := s.agenda.filter fun e => !mine e }
  t.closePage part

/-- TRACE_RECORD: partition, bytes, the record. -/
def execTraceRecord (s : State) : Host.Outcome State Fault Refusal :=
  .next (if (s.hubGet 0x720 (s.arg 0)).testBit 0 then s.addRecord (s.arg 0) (s.arg 1) (s.arg 2) else s)

/-- TRACE_PAGE_TIMEOUT: partition, clock at which the page was opened. -/
def execTracePageTimeout (s : State) : Host.Outcome State Fault Refusal :=
  .next (match SMap.find? s.pages (s.arg 0) with
    | some p =>
      if p.opened ≠ s.arg 1 then s
      else if p.opened + 2 ^ 20 ≤ s.clock.toNat then s.closePage (s.arg 0)
      else s.later .tracePageTimeout s.args
    | none => s)

/-! ### Records (R476, R477) -/

/-- A block event (R477): 1 placed, 2 pre-empted, 3 resumed, 4 stopped, 5 continued, 6 halted, 7 retired. -/
def State.blockEvent (s : State) (c e : Nat) : State :=
  match s.ctx? c with
  | some x =>
    if s.traceOn x.part 3 then
      let (v, p) := s.phaseCount c x
      s.produce x.part 4 32 (e + c * 2 ^ 8 + v * 2 ^ 24 + p * 2 ^ 25 + x.die * 2 ^ 32 + x.core * 2 ^ 34 + x.lx * 2 ^ 64 +
        x.ly * 2 ^ 96 + x.lz * 2 ^ 112)
    else s
  | none => s

/-! ### Samples (R478) -/

/-- The block is on its core: resident, stopped (R398), still being saved, or halted on it (R405). -/
def Ctx.onItsCore (x : Ctx) : Bool :=
  match x.state with
  | .resident | .stopped | .saving => true
  | .halted => x.onCore
  | _ => false

/-- Cores of the package that hold a block of a partition. -/
def State.partCores (s : State) (part : Nat) : List Nat :=
  (s.ctxs.filterMap fun (_, x) => if x.onItsCore && x.part == part then some x.place else none).eraseDups

/-- Begins one core's sample: of the bundle that the issue slot whose turn it is issues in this cycle, or IDLE (R478). A slot without a
wave that may issue is idle at once; the others answer when they are served. A sample still owed is IDLE. -/
def State.sampleCore (part : Nat) (s : State) (core : Nat) : State :=
  let islot := (s.core core).sample % 4
  let s := match (s.core core).want with
    | some (k, p) => s.giveSample core p (samplePlace core k + 2 ^ 166)
    | none => s
  let t := s.setCore core { s.core core with sample := (islot + 1) % 4 }
  if (t.slotWaves core islot).isEmpty then t.giveSample core part (samplePlace core islot + 2 ^ 166)
  else t.setCore core { t.core core with want := some (islot, part) }

/-- TRACE_SAMPLE: partition, TBEPOCH of the enable, the clock at which the samples are due. -/
def execTraceSample (s : State) : Host.Outcome State Fault Refusal :=
  let part := s.arg 0
  let period := s.hubGet 0x729 part * 1024
  .next (
    if (s.hubGet 0x720 part).testBit 0 = false ∨ s.hubGet 0x727 part ≠ s.arg 1 then s
    else if s.clock.toNat < s.arg 2 then s.later .traceSample s.args
    else if period = 0 then s.later .traceSample [part, s.arg 1, s.arg 2 + 1024]
    else
      let t := if s.traceOn part 2 then (s.partCores part).foldl (State.sampleCore part) s else s
      t.post .traceSample [part, s.arg 1, s.arg 2 + period])

/-! ### Lane-cycle records (R479, R480) -/

/-- Key of a core's counts that marks it as having held a block of partition p, which it holds plus one. -/
def heldKey : Nat := 0x10000

/-- Notes, when a block leaves its core, that the core held it during the interval, or holds counts of it. -/
def State.noteHeld (s : State) (core part : Nat) : State :=
  let k := s.core core
  if s.traceOn part 1 || !k.counts.isEmpty then
    s.setCore core { k with counts := SMap.insert k.counts heldKey (part + 1) }
  else s

/-- One core's lane-cycle record for an interval of n cycles; its counters become zero. -/
def State.laneCycles (part n : Nat) (s : State) (core : Nat) : State :=
  let k := s.core core
  let cs := k.counts.filter fun (j, _) => j != heldKey
  let sum := cs.foldl (fun a (_, v) => a + v) 0
  let idle := (128 * n - sum) % 2 ^ 64
  let at' (j : Nat) : Nat := if j < 256 then 384 + 32 * j else 192 + 32 * (j - 256)
  let body := Nat.min n 0xFFFFFFFF + core / 768 * 2 ^ 32 + core % 768 * 2 ^ 34 + idle * 2 ^ 128 +
    cs.foldl (fun a (j, v) => a + v * 2 ^ at' j) 0
  (s.setCore core { k with counts := [] }).produce part 3 1088 body

/-- Cores that held a block of a partition in the interval that ends. -/
def State.heldCores (s : State) (part : Nat) : List Nat :=
  (s.partCores part ++ s.cores.filterMap fun (k, x) =>
    if SMap.get 0 x.counts heldKey = part + 1 then some k else none).eraseDups

/-- The counters of a partition's cores become zero. -/
def State.zeroCounts (s : State) (part : Nat) : State :=
  (s.heldCores part).foldl (fun t k => t.setCore k { t.core k with counts := [] }) s

/-- No sample is due of a partition. -/
def State.dropSamples (s : State) (part : Nat) : State :=
  s.cores.foldl (fun t (k, x) => if x.want.any fun p => p.2 == part then t.setCore k { t.core k with want := none } else t) s

/-- The PC ranges as they stand come into force. -/
def State.latchRanges (s : State) (part : Nat) : State :=
  (List.range 64).foldl (fun t k => [0x72B, 0x72C, 0x72D, 0x72E, 0x72F].foldl (fun t n =>
    t.hubSet (0x2000 + n) (64 * part + k) (t.hubGet n (64 * part + k))) t) s

/-- LANE_CYCLE_INTERVAL: partition, TBEPOCH of the enable, the clock at which the interval began. -/
def execLaneCycleInterval (s : State) : Host.Outcome State Fault Refusal :=
  let part := s.arg 0
  let period := Nat.max 1 (s.hubGet 0x728 part) * 1024
  .next (
    if (s.hubGet 0x720 part).testBit 0 = false ∨ s.hubGet 0x727 part ≠ s.arg 1 then s
    else if s.clock.toNat < s.arg 2 + period then s.later .laneCycleInterval s.args
    else
      let n := s.clock.toNat - s.arg 2
      let t := if s.traceOn part 1 then (s.heldCores part).foldl (State.laneCycles part n) s else s.zeroCounts part
      (t.latchRanges part).post .laneCycleInterval [part, s.arg 1, s.clock.toNat])

/-! ### Enable and disable (R473, R474) -/

/-- EN written from 0 to 1: the counters become zero, those of the partition's cores too, a new SALT is drawn, and the intervals
begin. -/
def State.traceEnable (s : State) (part v : Nat) : State :=
  let s := (s.zeroCounts part).dropSamples part
  let e := (s.hubGet 0x727 part + 1) % 0x100000000
  let t := ((((s.hubSet 0x720 part (v % 32)).hubSet 0x724 part 0).hubSet 0x725 part 0).hubSet 0x726 part 0).hubSet 0x727 part e
  let t := { t with
    salts := SMap.set 0 t.salts part (Config.freeNat t.free % 2 ^ 64), free := t.free + 1
    spent := if t.spent.testBit part then t.spent - 2 ^ part else t.spent }
  ((t.latchRanges part).post .laneCycleInterval [part, e, t.clock.toNat]).post .traceSample
    [part, e, t.clock.toNat + s.hubGet 0x729 part * 1024]

/-- EN written from 1 to 0: the open page is closed and published, and the counters become zero. -/
def State.traceDisable (s : State) (part v : Nat) : State := (((s.closePage part).zeroCounts part).dropSamples part).hubSet 0x720 part (v % 32)

/-- A write of TRCTL; it is refused while the partition is dissolving (R466). -/
def State.writeTrctl (s : State) (part v : Nat) : State :=
  if s.partState part = 2 then s.refuseAt 0x705 part true
  else match (s.hubGet 0x720 part).testBit 0, v.testBit 0 with
  | false, true => s.traceEnable part v
  | true, false => s.traceDisable part v
  | _, _ => s.hubSet 0x720 part (v % 32)

/-- TRACE_ENABLE: partition, the value written to TRCTL. -/
def execTraceEnable (s : State) : Host.Outcome State Fault Refusal := .next (s.writeTrctl (s.arg 0 % 16) (s.arg 1 ||| 1))

/-- TRACE_DISABLE: partition, the value written to TRCTL. -/
def execTraceDisable (s : State) : Host.Outcome State Fault Refusal :=
  .next (s.writeTrctl (s.arg 0 % 16) (s.arg 1 / 2 * 2))

end Sys2Proof.Machine
end

