-- ==== Sys2Proof/Machine/Context.lean ====
section
/-! DEFINITION. Context.lean: context entries (R397), the save area (R406), leaving a core (R405, R420), the commands of R398,
block stop (R469 to R471), handler entry and retirement (R49, R399). -/
namespace Sys2Proof.Machine

/-! ### Fabric names and context entries (R128, R149, R397) -/

/-- The fabric name of wave w, in the layout of OWNCTX. -/
def Ctx.fname (x : Ctx) (w : Nat) : Nat := x.fdie * 2 ^ 26 + x.fcore * 2 ^ 16 + SMap.get 0 x.fslots w * 2 ^ 12 + x.fgen

/-- State codes of R398. -/
def CState.code : CState → Nat
  | .free => 0
  | .resident => 1
  | .saving => 2
  | .saved => 3
  | .restoring => 4
  | .halted => 5
  | .retiring => 6
  | .stopped => 7

/-- The context's fabric name is live: it is until its Retiring completes (R139, R146, R408). -/
def Ctx.named (x : Ctx) : Bool := x.state != .free

/-- First wave slot of the present placement. -/
def Ctx.firstSlot (x : Ctx) : Nat :=
  match SMap.find? x.waves 0 with
  | some v => v.slot
  | none => 0

/-- The context entry. -/
def Ctx.entry (x : Ctx) : Nat :=
  x.state.code + (if x.waves.any fun (_, v) => v.sqtrap then 2 ^ 5 else 0) + (if x.priv then 2 ^ 6 else 0) +
    (if x.dbgen then 2 ^ 7 else 0) + (if x.pinned then 2 ^ 8 else 0) + x.part * 2 ^ 64 + x.ptag * 2 ^ 80 +
    (if x.placed then (x.die * 2 ^ 26 + x.core * 2 ^ 16 + x.firstSlot * 2 ^ 12) * 2 ^ 96 else 0) + x.fname 0 * 2 ^ 132 +
    x.queue * 2 ^ 176 + x.lz * 2 ^ 192 + x.ly * 2 ^ 208 + x.lx * 2 ^ 224 + x.tscr.toNat * 2 ^ 256 + x.tvec.toNat * 2 ^ 320 +
    x.descAddr.toNat * 2 ^ 384 + x.savea * 2 ^ 448

/-! ### The save area (R406) -/

/-- Byte offsets of the sections after the header: wave state, lane state, pending bits, registers, scratchpad, regions,
barriers, matrix, and the end. -/
def Ctx.saveAt (x : Ctx) (k : Nat) : Nat :=
  let w := x.nwaves
  let up (n : Nat) : Nat := (n + 255) / 256 * 256
  ([256, 256 * w, 1024 * w, 512 * w, 128 * w * x.declared, x.scratchBytes, 128 * x.nregions, 1536,
    if x.fmatrix then 98560 else 0].take (k + 1)).foldl (fun a n => a + up n) 0

/-- Bytes of the save area. -/
def Ctx.saveBytes (x : Ctx) : Nat := x.saveAt 8

/-- The wave record. -/
def waveRecord (v : Wave) : Nat :=
  v.gang % 2 ^ 16 + v.part % 8 * 2 ^ 16 + (if v.hmode then 2 ^ 19 else 0) + (if v.event then 2 ^ 20 else 0) +
    (if v.sqtrap then 2 ^ 21 else 0) + ((List.range 5).foldl (fun a i => a + SMap.get 0 v.sends i * 2 ^ (32 + 16 * i)) 0) +
    v.tcause.toNat * 2 ^ 128 + v.tmask.toNat * 2 ^ 160 + v.tval.toNat * 2 ^ 192

/-- PARK and PBAR of a parked state. -/
def parkCode : Park → Nat × Nat
  | .none => (0, 0)
  | .bar n => (1, n)
  | .tbar _ => (2, 0)
  | .ntf _ => (3, 0)
  | .wfe => (4, 0)

/-- The lane record. In handler mode its guard and parked state are those kept at entry (R399). -/
def laneRecord (h : Bool) (n : Lane) : Nat :=
  let (p, b) := parkCode (if h then n.kept.park else n.park)
  let g := if h then n.kept.gcount else n.gcount
  let q := if h then n.kept.gpred else n.gpred
  n.pc.toNat + n.lsw.toNat * 2 ^ 64 + g * 2 ^ 96 + (if q then 2 ^ 99 else 0) + (if n.exited then 2 ^ 100 else 0) +
    p * 2 ^ 101 + b * 2 ^ 104 + n.ovrec.toNat % 2 ^ 48 * 2 ^ 128 + n.epc.toNat * 2 ^ 192

/-- A region entry's 128 bytes. -/
def regionRecord (r : Region) : Nat :=
  r.desc + ((List.range 5).foldl (fun a i => a + wrapNat (r.origin.getD i 0) 32 * 2 ^ (512 + 32 * i)) 0) +
    (match r.state with
      | .unbound => 0
      | .absent => 1
      | .filling => 2
      | .present => 3
      | .dirty => 4) * 2 ^ 672

/-- Writes n bytes of a context's save area at an offset, at a physical tensor address. -/
def State.putSave (s : State) (x : Ctx) (off n v : Nat) : State := s.engineStore (tensorKey ((x.savea + off) % 2 ^ 40)) n v

/-- Reads n bytes of a save area. -/
def State.getSave (s : State) (x : Ctx) (off n : Nat) : Nat := readMem s.mem (tensorKey ((x.savea + off) % 2 ^ 40)) n

/-- A byte of the n bytes of a save area at an offset is poisoned (R27). -/
def State.savePoison (s : State) (x : Ctx) (off n : Nat) : Bool := poisoned s (tensorKey ((x.savea + off) % 2 ^ 40)) n

/-- A unit of the image that is read back is poisoned: the scratchpad's own units pass with their poison. DESIGN CHOICE: R27 refuses the
read until software has rewritten the unit, and no rule says what becomes of the context; it is not resumed until then, and CONTINUE
with MOD is refused (log 53). Unsafe. -/
def State.imagePoisoned (s : State) (x : Ctx) (whole : Bool) : Bool :=
  let a := if whole then x.saveAt 0 else x.saveAt 1
  s.savePoison x a (x.saveAt 4 - a) || (whole && s.savePoison x (x.saveAt 5) (x.saveBytes - x.saveAt 5))

/-- Writes the wave, lane and pending sections. -/
def State.saveWaves (s : State) (x : Ctx) : State :=
  (List.range x.nwaves).foldl (fun t w =>
    match SMap.find? x.waves w with
    | none => t
    | some v =>
      let t := t.putSave x (x.saveAt 0 + 256 * w) 256 (waveRecord v)
      let t := (List.range 32).foldl (fun t l =>
        t.putSave x (x.saveAt 1 + 1024 * w + 32 * l) 32 (match v.lane? l with
          | some n => laneRecord v.hmode n
          | none => 0)) t
      (List.range 128).foldl (fun t r =>
        t.putSave x (x.saveAt 2 + 512 * w + 4 * r) 4 (SMap.get 0 v.pend r).toNat) t) s

/-- Writes the register section. -/
def State.saveRegs (s : State) (x : Ctx) : State :=
  (List.range x.nwaves).foldl (fun t w =>
    match SMap.find? x.waves w with
    | none => t
    | some v => (List.range x.declared).foldl (fun t r => (List.range 32).foldl (fun t l =>
        t.putSave x (x.saveAt 3 + 128 * (w * x.declared + r) + 4 * l) 4 (v.reg r l).toNat) t) t) s

/-- Writes the scratchpad section; a poisoned unit is poisoned in the save area. -/
def State.saveScratch (s : State) (c : Nat) (x : Ctx) : State :=
  (List.range (x.scratchBytes / 32)).foldl (fun t j =>
    let k := scratchKey c (32 * j)
    let t := t.putSave x (x.saveAt 4 + 32 * j) 32 (readMem t.mem k 32)
    { t with poison := SMap.set 0 t.poison (tensorKey ((x.savea + x.saveAt 4 + 32 * j) % 2 ^ 40) / 32) (SMap.get 0 t.poison (k / 32)) }) s

/-- Writes the sections of regions, barriers and locks: no lock of the block is held. -/
def State.saveRegions (s : State) (x : Ctx) : State :=
  let t := (List.range x.nregions).foldl (fun t n =>
    t.putSave x (x.saveAt 5 + 128 * n) 128 (match SMap.find? x.regions n with
      | some r => regionRecord r
      | none => 0)) s
  let t := (List.range 16).foldl (fun t n =>
    let m := x.nbar.foldl (fun a (k, b) => if k / 512 = n ∧ b = true then a + 2 ^ (k % 512) else a) 0
    t.putSave x (x.saveAt 6 + 64 * n) 64 m) t
  t.putSave x (x.saveAt 6 + 1024) 256 0

/-- Writes the matrix section: the tiles whose flags are set, or every tile. -/
def State.saveMatrix (s : State) (x : Ctx) (all : Bool) : State :=
  if x.fmatrix then
    let a := x.saveAt 7
    let tile (k : Nat) : Tile := SMap.get ⟨0, false, false⟩ x.mat.tiles k
    let t := s.putSave x a 64 x.mat.cfg
    let t := (List.range 4).foldl (fun t k =>
      (t.putSave x (a + 64 + k) 1 (tile k).kcur).putSave x (a + 68 + k) 1
        ((if (tile k).dirty then 1 else 0) + (if (tile k).inuse then 2 else 0))) t
    let t := t.putSave x (a + 72) 184 (if x.mat.loaded then 1 else 0)
    (List.range 4).foldl (fun t k =>
      if all || (tile k).dirty || (tile k).inuse then
        (List.range 6144).foldl (fun t e =>
          t.putSave x (a + 256 + 24576 * k + 4 * e) 4 (SMap.get 0 x.mat.acc (6144 * k + e)).toNat) t
      else t) t
  else s

/-- Writes a block's save image. -/
def State.saveImage (s : State) (c : Nat) (all : Bool) : State :=
  match s.ctx? c with
  | some x =>
    let t := (s.putSave x 0 64 x.entry).putSave x 64 64 x.desc
    let t := t.putSave x 128 128 0
    (((((t.saveWaves x).saveRegs x).saveScratch c x).saveRegions x).saveMatrix x all)
  | none => s

/-! ### Reading an image back (R407, R471) -/

/-- The fields of a lane status word: its reserved bits are zero (R5, R63). -/
def lswOf (x : Nat) : Word := word (x &&& 0xFFF11F)

/-- A lane of a record: the state that the record does not hold stays as the lane's. DESIGN CHOICE: R406 names no report for a record
whose reserved bits are not zero; by R5 it is rejected whole, and the lane keeps its state (log 58). Unsafe. -/
def readLane (h : Bool) (r : Nat) (n : Lane) : Lane :=
  if bits r 191 176 ≠ 0 ∨ bits r 127 108 ≠ 0 then n else
  let old := if h then n.kept.park else n.park
  let park := match bits r 103 101, old with
    | 1, _ => .bar (bits r 107 104)
    | 2, .tbar i => .tbar i
    | 3, .ntf i => .ntf i
    | 4, _ => .wfe
    | _, _ => .none
  let m := { n with
    pc := BitVec.ofNat 64 r, lsw := lswOf (bits r 95 64), exited := r.testBit 100
    ovrec := BitVec.ofNat 64 (bits r 175 128), epc := BitVec.ofNat 64 (bits r 255 192) }
  if h then { m with kept := ⟨bits r 98 96, r.testBit 99, park⟩ }
  else { m with gcount := bits r 98 96, gpred := r.testBit 99, park := park }

/-- The registers, lanes, pending bits and scratchpad of an image, loaded into the block. -/
def State.loadCore (s : State) (c : Nat) : State :=
  match s.ctx? c with
  | none => s
  | some x =>
    let wave (w : Nat) (v : Wave) : Wave :=
      let lanes := SMap.mapVals v.lanes fun l n => readLane v.hmode (s.getSave x (x.saveAt 1 + 1024 * w + 32 * l) 32) n
      let regs := (List.range x.declared).foldl (fun m r => lanes.foldl (fun m (l, _) =>
        SMap.set 0 m (32 * r + l) (word (s.getSave x (x.saveAt 3 + 128 * (w * x.declared + r) + 4 * l) 4))) m) []
      let pend := (List.range 128).foldl (fun m r =>
        SMap.set 0 m r (word (s.getSave x (x.saveAt 2 + 512 * w + 4 * r) 4))) []
      { v with lanes := lanes, regs := regs, pend := pend }
    let t := s.modCtx c fun y => { y with waves := SMap.mapVals y.waves wave }
    let mem := (List.range (x.scratchBytes / 32)).foldl (fun m j =>
      writeMem m (scratchKey c (32 * j)) 32 (s.getSave x (x.saveAt 4 + 32 * j) 32)) t.mem
    let poison := (List.range (x.scratchBytes / 32)).foldl (fun p j =>
      SMap.set 0 p (scratchKey c (32 * j) / 32)
        (SMap.get 0 s.poison (tensorKey ((x.savea + x.saveAt 4 + 32 * j) % 2 ^ 40) / 32))) t.poison
    { t with mem := mem, poison := poison }

/-- The wave record, written back; one with a reserved bit set is rejected whole (R5, log 58). -/
def readWave (r : Nat) (v : Wave) : Wave :=
  if bits r 2047 256 ≠ 0 ∨ bits r 127 112 ≠ 0 ∨ bits r 31 22 ≠ 0 then v else
  let sends := (List.range 5).foldl (fun m i => SMap.set 0 m i (bits r (47 + 16 * i) (32 + 16 * i))) []
  { v with
    gang := r % 2 ^ 16, part := bits r 18 16, hmode := r.testBit 19, event := r.testBit 20, sqtrap := r.testBit 21,
    sends := sends, tcause := word (bits r 150 128), tmask := word (bits r 191 160), tval := BitVec.ofNat 64 (bits r 255 192) }

/-- A region entry's record, written back: the copy of a saved block has ended. -/
def readRegion (r : Nat) : Region :=
  let st : RState := match bits r 679 672 with
    | 1 => .absent
    | 2 => .filling
    | 3 => .present
    | 4 => .dirty
    | _ => .unbound
  ⟨st, r % 2 ^ 512, (List.range 5).map fun i => signExtend (bits r (543 + 32 * i) (512 + 32 * i)) 32, none⟩

/-- The whole saved state, written back; tiles that were not saved become zeros (R407). -/
def State.loadImage (s : State) (c : Nat) : State :=
  match s.ctx? c with
  | none => s
  | some x =>
    let back (w : Nat) (v : Wave) : Wave := readWave (s.getSave x (x.saveAt 0 + 256 * w) 256) v
    let t := s.modCtx c fun y => { y with waves := SMap.mapVals y.waves back }
    let t := t.loadCore c
    let regions := (List.range x.nregions).foldl (fun m n =>
      SMap.set ⟨.unbound, 0, [], none⟩ m n
        (let r := s.getSave x (x.saveAt 5 + 128 * n) 128
         if r = 0 then ⟨.unbound, 0, [], none⟩ else readRegion r)) []
    let nbar := (List.range 16).foldl (fun m n =>
      let a := s.getSave x (x.saveAt 6 + 64 * n) 64
      (List.range 512).foldl (fun m t => SMap.set false m (512 * n + t) (a.testBit t)) m) []
    let a := x.saveAt 7
    let mat : Matrix := if x.fmatrix then
        let flag (k : Nat) : Nat := s.getSave x (a + 68 + k) 1
        let tiles := (List.range 4).foldl (fun m k =>
          SMap.set ⟨0, false, false⟩ m k ⟨s.getSave x (a + 64 + k) 1, (flag k).testBit 0, (flag k).testBit 1⟩) []
        let acc := (List.range 4).foldl (fun m k =>
          if (flag k) % 4 = 0 then m
          else (List.range 6144).foldl (fun m e =>
            SMap.set 0 m (6144 * k + e) (word (s.getSave x (a + 256 + 24576 * k + 4 * e) 4))) m) []
        ⟨(s.getSave x (a + 72) 1).testBit 0, s.getSave x a 64, acc, tiles, none, []⟩
      else x.mat
    t.modCtx c fun y => { y with regions := regions, nbar := nbar, mat := mat }

/-! ### Save areas (R396, R405) -/

/-- The save pool of a partition: base and bytes. -/
def State.savePool (s : State) (part : Nat) : Nat × Nat := (s.hubGet64 0x055 part % 2 ^ 40, s.hubGet 0x057 part * 0x100000)

/-- Save areas in use: context, address and bytes. -/
def areaFree (as : List (Nat × Nat × Nat)) (a n : Nat) : Bool := as.all fun (_, b, m) => decide (a + n ≤ b) || decide (b + m ≤ a)

/-- Takes a save area for a context that has none: any free one of the pool, a multiple of 256 bytes above its base; none when
no free address after the pool's base or another area is left. -/
def State.takeArea (s : State) (c : Nat) : Option State :=
  match s.ctx? c with
  | none => none
  | some x =>
    if (SMap.find? s.saves c).isSome then some s
    else
      let (base, size) := s.savePool x.part
      let n := x.saveBytes
      let fits (a : Nat) : Bool := decide (base ≤ a) && decide (a + n ≤ base + size) && areaFree s.saves a n
      let wish := base + 256 * (Config.freeNat s.free % (size / 256 + 1))
      let cands := wish :: base :: s.saves.map fun (_, b, m) => (b + m + 255) / 256 * 256
      match cands.find? fits with
      | some a =>
        let t := s.modCtx c fun y => { y with savea := a }
        some { t with saves := SMap.insert t.saves c (a, n), free := t.free + 1 }
      | none => none

/-- Takes save areas for every block of the span of c, all or none. -/
def State.takeAreas (s : State) (c : Nat) : Option State :=
  (s.spanOf c).foldl (fun t b => match t with
    | some u => u.takeArea b
    | none => none) (some s)

/-- A block of a partition. -/
def State.ofPart (s : State) (part c : Nat) : Bool :=
  match s.ctx? c with
  | some x => x.part == part
  | none => false

/-- Posts what waits for the pool of a partition: the saves of blocks halted on their core; and pre-emption of its blocks becomes
possible again (R405). -/
def State.poolGrew (s : State) (part : Nat) : State :=
  s.ctxs.foldl (fun t (c, x) =>
    if x.part = part ∧ x.state = .halted ∧ x.onCore = true then t.post .deferredHaltSave [c] else t)
    { s with unsaved := s.unsaved.filter fun c => !s.ofPart part c }

/-- Returns a context's save area to its partition's pool. -/
def State.returnArea (s : State) (c part : Nat) : State :=
  if (SMap.find? s.saves c).isSome then ({ s with saves := SMap.erase s.saves c } : State).poolGrew part else s

/-- Type 5 events: the pool was full for a save of each block of the span (R405, R426). -/
def State.poolFull (s : State) (c : Nat) : State :=
  (s.spanOf c).foldl (fun t b => match t.ctx? b with
    | some x => t.eventRecord 5 x.queue b 0 0
    | none => t) s

/-! ### Charges and accruals (R420, R422) -/

def State.queue (s : State) (q : Nat) : Queue := SMap.get Queue.reset s.queues q

def State.setQueue (s : State) (q : Nat) (x : Queue) : State := { s with queues := SMap.set Queue.reset s.queues q x }

/-- The epoch of the present cycle. -/
def State.epochNow (s : State) : Nat := s.clock.toNat / 2 ^ 20

/-- Sixteenths of a core-cycle that a resident block has accrued in the present epoch. -/
def State.blockAccrual (s : State) (x : Ctx) : Nat := x.nwaves * (s.clock.toNat - Nat.max x.since (s.epochNow * 2 ^ 20))

/-- Accrual of a queue in the present epoch, in sixteenths of a core-cycle. -/
def State.accrual (s : State) (q : Nat) : Nat :=
  let k := s.queue q
  (if k.epoch = s.epochNow then k.accrual else 0) +
    s.ctxs.foldl (fun a (_, x) => if x.queue = q ∧ x.placed = true then a + s.blockAccrual x else a) 0

/-- Accrual of a queue in epoch e, in sixteenths of a core-cycle, as far as it has come. -/
def State.accrualIn (s : State) (q e : Nat) : Nat :=
  let k := s.queue q
  let last := Nat.min s.clock.toNat ((e + 1) * 2 ^ 20)
  (if k.epoch = e then k.accrual else 0) +
    s.ctxs.foldl (fun a (_, x) =>
      if x.queue = q ∧ x.placed = true then a + x.nwaves * (last - Nat.max x.since (e * 2 ^ 20)) else a) 0

/-- The cap of a queue is reached in epoch e for the first time: its event of type 3 (R422). -/
def State.noteCap (s : State) (q e : Nat) : State :=
  let k := s.queue q
  let cap := s.hubGet 0x406 q * 1024 * 16
  if cap = 0 ∨ (k.epoch = e ∧ k.capped = true) ∨ s.accrualIn q e < cap then s
  else
    let old := if k.epoch = e then k.accrual else 0
    (s.setQueue q { k with epoch := e, accrual := old, capped := true }).eventRecord 3 q 0 0 (s.accrualIn q e / 16)

/-- The epochs before e in which a queue can have accrued since it last entered one: that one, and those of its blocks on cores. -/
def State.oldEpochs (s : State) (q e : Nat) : List Nat :=
  let k := (s.queue q).epoch
  let from' := s.ctxs.foldl (fun a (_, x) => if x.queue = q ∧ x.placed = true then Nat.min a (x.since / 2 ^ 20) else a) e
  (if k < e then [k] else []) ++ ((List.range (e - from')).map fun i => from' + i).filter fun i => decide (k < i)

/-- A queue enters the present epoch: whether it reached its cap in the ones before is settled first. The cap in force then is the one
in force now, for a write of QCAP settles them too. -/
def State.enterEpoch (s : State) (q : Nat) : State :=
  let e := s.epochNow
  if (s.queue q).epoch = e then s
  else
    let t := (s.oldEpochs q e).foldl (fun t i => t.noteCap q i) s
    t.setQueue q { t.queue q with epoch := e, accrual := 0, capped := false }

/-- Accounts for a block that leaves its core: its cycles and its queue's accrual. -/
def State.account (s : State) (c : Nat) : State :=
  match s.ctx? c with
  | none => s
  | some x =>
    let s := s.enterEpoch x.queue
    let k := s.queue x.queue
    (s.setQueue x.queue { k with accrual := k.accrual + s.blockAccrual x }).modCtx c fun y => { y with cycles := y.cycles + (s.clock.toNat - y.since), since := s.clock.toNat }

/-- Saturation of a deficit at ±2^47. -/
def clampDeficit (d : Int) : Int := Max.max (-(2 ^ 47 : Int)) (Min.min (2 ^ 47 : Int) d)

/-- Subtracts the block's charge from its queue's deficit. -/
def State.charge (s : State) (c : Nat) : State :=
  match s.ctx? c with
  | none => s
  | some x =>
    let k := s.queue x.queue
    let n : Nat := (x.cycles * x.nwaves + 15) / 16
    s.setQueue x.queue { k with deficit := clampDeficit (k.deficit - n) }

/-! ### Leaving a core (R128, R405 step 7) -/

/-- Some live context has a fabric name on core k with generation g. -/
def State.genHeld (s : State) (k g : Nat) : Bool := s.ctxs.any fun (_, x) => 768 * x.fdie + x.fcore == k && x.fgen == g

/-- The generation that follows g: the next that no live context of the core holds, looking n values ahead. -/
def State.nextGen (s : State) (k : Nat) : Nat → Nat → Nat
  | 0, g => (g + 1) % 4096
  | n + 1, g => if s.genHeld k ((g + 1) % 4096) then s.nextGen k n ((g + 1) % 4096) else (g + 1) % 4096

/-- A block leaves its core: its cycles are counted, the core's generation counter advances, and its resources return. -/
def State.leaveCore (s : State) (c : Nat) : State :=
  match s.ctx? c with
  | none => s
  | some x =>
    let t := (s.account c).noteHeld x.place x.part
    let k := t.core x.place
    t.setCore x.place { k with gen := t.nextGen x.place 4096 k.gen }

/-! ### Retirement (R49, R139, R152, R290, R398) -/

/-- The slots that a context owns lapse: OWNPART[16] becomes 1 (R152). Word 46 of slot n stands at 512 n + 46. -/
def State.lapseOwners (s : State) (x : Ctx) : State :=
  let mine (n : Nat) : Bool :=
    SMap.get 0 s.vesper (512 * n) % 4 != 0 && !(SMap.get 0 s.vesper (512 * n + 46)).toNat.testBit 16 &&
      (SMap.get 0 s.vesper (512 * n + 47)).toNat == x.fname 0
  let ns := ((s.vesper.map fun (k, _) => k / 512).eraseDups).filter mine
  let v := ns.foldl (fun m n => SMap.set 0 m (512 * n + 46) (SMap.get 0 m (512 * n + 46) ||| 0x10000)) s.vesper
  { s with vesper := v }

/-- The launch completes when every span is placed, or dropped, and no block of it is left. -/
def State.launchCheck (s : State) (n : Nat) : State :=
  match SMap.find? s.launches n with
  | some l =>
    if (l.spans ≤ l.next ∨ l.code ≠ 0) ∧ s.ctxs.all (fun (_, x) => x.launch != n) = true then
      s.post .launchComplete [n]
    else s
  | none => s

/-- No copy lands in the windows of context c any more: its blocks' locks go, and the copies that waited for it alone end. A landing
for a block that has retired has nowhere to go (log 41). -/
def State.forgetTarget (s : State) (c : Nat) : State :=
  let cs := SMap.mapVals s.cores fun _ (x : Core) => { x with locks := x.locks.filter fun (_, l) => l.commons || l.ctx != c }
  let left (k : OpKind) : OpKind := match k with
    | .copy n out drop d origin done ts landed link => .copy n out drop d origin done (ts.filter fun b => b != c) landed link
    | k => k
  let t := { s with
    cores := cs.filter fun (_, x) => x != Core.reset
    ops := SMap.mapVals s.ops fun _ o => { o with kind := left o.kind } }
  s.ops.foldl (fun t (j, o) => match o.kind with
    | .copy _ _ _ d _ done ts landed _ =>
      if ts.contains c && decide (done.length = boxSectors d) && (ts.all fun b => b == c || landed.contains b) then
        t.post .copyComplete [j]
      else t
    | _ => t) t

/-- A context ends: its charge, its fabric name and its resources. A block that is on its core leaves it. DESIGN CHOICE: R128 does not
order the advance of the generation counter and the end of the context; the counter advances first, so the block's own generation
counts as held (log 42). A completion target that is killed while its collective is suspended gives no resume notice, and the
rank stays suspended: R178 names no notice for it (log 43). Both unsafe. -/
def State.endCtx (s : State) (c : Nat) : State :=
  match s.ctx? c with
  | none => s
  | some x =>
    let t := if x.placed then s.leaveCore c else s
    let t := (((t.charge c).lapseOwners x).blockEvent c 7).forgetTarget c
    let area := scratchKey c 0
    let t := { t with
      ctxs := SMap.erase t.ctxs c
      mem := t.mem.filter fun (k, _) => !(decide (area ≤ k) && decide (k < area + 0x40000))
      poison := t.poison.filter fun (k, _) => !(decide (area / 32 ≤ k) && decide (k < (area + 0x40000) / 32))
      unsaved := t.unsaved.filter (· ≠ c) }
    ((t.returnArea c x.part).launchCheck x.launch).post .placementOpportunity []

/-- WAVE_RETIRE: context, wave. Waves at the latch whose gang register names it take the fault of cause 6 (R325). -/
def execWaveRetire (s : State) : Host.Outcome State Fault Refusal :=
  let c := s.arg 0
  let w := s.arg 1
  .next (match s.wave? c w with
    | some v =>
      if v.retired || s.waveBusy c w || v.trap.isSome || !(v.lanes.all fun (_, n) => n.exited) then s
      else
        let t := s.modWave c w fun u => { u with retired := true }
        let t := match t.ctx? c with
          | some x => x.waves.foldl (fun (t : State) (k, (u : Wave)) => match u.rend with
            | some r => if u.gang.testBit w then t.rendFault c k (matrixFault 6 r.act) else t
            | none => t) t
          | none => t
        t.afterWork c w
    | none => s)

/-- A context retires: its fabric name is live no more (R139, R398); it is free with the next BLOCK_RETIRE. -/
def State.retire (s : State) (c : Nat) : State :=
  (s.modCtx c fun y => { y with state := .retiring, goal := .none, onCore := y.placed }).post .blockRetire [c]

/-- BLOCK_RETIRE: context. All its waves have retired and nothing it issued is left (R49): it is Retiring, then Free (R398). -/
def execBlockRetire (s : State) : Host.Outcome State Fault Refusal :=
  let c := s.arg 0
  .next (match s.ctx? c with
    | some x =>
      if x.state = .retiring then s.endCtx c
      else if x.state = .resident ∧ x.goal = .none ∧ x.waves.all (fun (_, v) => v.retired) = true ∧ s.ctxWorks c = false then
        s.retire c
      else s
    | none => s)

/-! ### Handler entry (R162, R399, R408) -/

/-- The class of a sequence trap (R437). -/
def seqTrapClass : Nat := 0x19

/-- HANDLER_ENTRY: context, wave. A sequence trap of a block that is being saved or stopped is kept with it, its mask and address in
TMASK and TVAL (R162, R406). -/
def execHandlerEntry (s : State) : Host.Outcome State Fault Refusal :=
  let c := s.arg 0
  let w := s.arg 1
  .next (match s.ctx? c, s.wave? c w with
    | some x, some v =>
      match v.trap with
      | some t =>
        if s.waveBusy c w then s
        else if x.goal ≠ .none ∧ t.cls = seqTrapClass then
          (s.modWave c w fun u => { u with
            sqtrap := true, trap := none, tmask := word t.mask, tval := BitVec.ofNat 64 t.tval }).afterWork c w
        else (s.deliver c w t).afterWork c w
      | none => s
    | _, _ => s)

/-- Delivers the sequence traps kept with a block, before its first bundle (R162, R407). One that finds the span draining again stays
kept. -/
def State.deliverKept (s : State) (c : Nat) : State :=
  let issues (t : State) : Bool := match t.ctx? c with
    | some y => y.goal == .none
    | none => false
  match s.ctx? c with
  | some x => x.waves.foldl (fun t (w, v) =>
    if v.sqtrap && issues t then
      (t.modWave c w fun u => { u with sqtrap := false }).deliver c w ⟨seqTrapClass, 0, 0, v.tmask.toNat, v.tval.toNat⟩
    else t) s
  | none => s

/-! ### The end of a drain (R54, R405, R469) -/

/-- Every block of the span has nothing in flight and no fault to deliver. -/
def State.spanDrained (s : State) (c : Nat) (g : Goal → Bool) : Bool :=
  (s.spanOf c).all fun b => match s.ctx? b with
    | some x => g x.goal && !s.ctxBusy b && x.waves.all fun (_, v) => v.trap.isNone
    | none => true

/-- An access of the span waits for a walk, which completes before the span is saved or stopped (R445). -/
def State.spanWalks (s : State) (c : Nat) : Bool :=
  (s.spanOf c).any fun b => match s.ctx? b with
    | some x => x.waves.any fun (_, v) => v.walk
    | none => false

/-- A wave as it resumes: no open window, no aging count, no deferred lane (R54). -/
def Wave.settled (v : Wave) : Wave :=
  { v with windows := [], walk := false, lanes := SMap.mapVals v.lanes fun _ n => { n with age := 0, deferred := false } }

/-- Writes a drained block into its save area and takes it off its core. -/
def State.saveOff (s : State) (c : Nat) (st : CState) : State :=
  let t := s.leaveCore c
  let t := t.modCtx c fun y => { y with
    state := st, goal := .none, onCore := false, busy := false
    waves := SMap.mapVals y.waves fun _ v => v.settled }
  t.saveImage c false

/-- SAVE_COMPLETE: context. The whole span is saved in one pass; a halt that finds the pool full stays on its cores. -/
def execSaveComplete (s : State) : Host.Outcome State Fault Refusal :=
  let c := s.arg 0
  .next (match s.ctx? c with
    | none => s
    | some x =>
      if s.spanWalks c then s.later .saveComplete s.args
      else if !s.spanDrained c (fun g => g == .saved || g == .halted) then s
      else
        let halt := decide (x.goal = .halted)
        let bs := s.spanOf c
        match s.takeAreas c with
        | some t =>
          let t := bs.foldl (fun t b => t.blockEvent b (if halt then 6 else 2)) t
          (bs.foldl (fun t b => t.saveOff b (if halt then .halted else .saved)) t).post .placementOpportunity []
        | none =>
          let t := bs.foldl (fun t b => (t.blockEvent b 6).modCtx b fun y => { y with
            state := .halted, goal := .none, onCore := true, busy := false
            waves := SMap.mapVals y.waves fun _ v => v.settled }) s
          t.poolFull c)

/-- DEFERRED_HALT_SAVE: context. Step 7 of a span halted on its cores, once the pool holds its areas. -/
def execDeferredHaltSave (s : State) : Host.Outcome State Fault Refusal :=
  let c := s.arg 0
  .next (match s.ctx? c with
    | some x =>
      if x.state = .halted ∧ x.onCore = true then
        match s.takeAreas c with
        | some t => ((t.spanOf c).foldl (fun t b => t.saveOff b .halted) t).post .placementOpportunity []
        | none => s
      else s
    | none => s)

/-- The stop record (R470). -/
def State.stopRecord (s : State) (x : Ctx) : Nat :=
  let status (q i : Nat) : Nat :=
    match (s.queue q).entries.find? fun e => e.index % 0x10000 == i with
    | some e => if e.begun then 2 else 1
    | none => 3
  let ins := (List.range 16).foldl (fun a i => match x.inserts[i]? with
    | some (q, n, _) => a + (q + status q (n % 0x10000) * 2 ^ 12 + n % 0x10000 * 2 ^ 16) * 2 ^ (32 * i)
    | none => a) 0
  x.stop.cause + x.stop.unit * 2 ^ 8 + x.stop.lane * 2 ^ 10 + x.stop.wave * 2 ^ 15 + x.stop.addr * 2 ^ 64 + ins * 2 ^ 128 +
    (x.queue + x.lindex % 0x10000 * 2 ^ 16) * 2 ^ 640

/-- A drained block stops on its core, with a stop image in its save area if it has one (R469). -/
def State.stopBlock (s : State) (c : Nat) : State :=
  let t := s.modCtx c fun y => { y with
    state := .stopped, goal := .none, busy := false, waves := SMap.mapVals y.waves fun _ v => v.settled }
  let t := match t.takeArea c with
    | some u => match u.ctx? c with
      | some x => (u.saveImage c true).putSave x 128 128 (u.stopRecord x)
      | none => u
    | none => match t.ctx? c with
      | some x => t.eventRecord 5 x.queue c 0 0
      | none => t
  t.blockEvent c 4

/-- STOP_COMPLETE: context. -/
def execStopComplete (s : State) : Host.Outcome State Fault Refusal :=
  let c := s.arg 0
  .next (match s.ctx? c with
    | some x =>
      if x.goal ≠ .stopped then s
      else if s.spanWalks c then s.later .stopComplete s.args
      else if s.spanDrained c (fun g => g == .stopped) then (s.spanOf c).foldl State.stopBlock s
      else s
    | none => s)

/-! ### The commands of R398 -/

/-- Refuses the last command: CTXSTAT[5]. -/
def State.refuseCtx (s : State) : State := s.hubSet 0x042 0 0x20

/-- Collectives whose completion target is context c (R175, R178): CMODE 0 and the fabric name in CADDR. -/
def State.targetOf (s : State) (c : Nat) : List (Nat × Nat) :=
  match s.ctx? c with
  | none => []
  | some x => s.colls.filterMap fun (n, k) =>
    if k.block.testBit 20 = false ∧ x.fslots.any (fun (w, _) => x.fname w == bits k.block 731 704) = true then some (n, k.rank)
    else none

/-- Suspend notices for the collectives that complete to a block of the span (R405); reason 1, 0 being the rank's queue. -/
def State.suspendTargets (s : State) (c : Nat) : State :=
  (s.spanOf c).foldl (fun t b => (t.targetOf b).foldl (fun t (n, r) => t.post .suspendNotice [n, 2 * r + 1]) t) s

/-- Its span cannot be saved: it is not pre-emptable until the pool grows, and type 5 events say so (R405). -/
def State.cannotSave (s : State) (c : Nat) : State := { s.poolFull c with unsaved := s.spanOf c ++ s.unsaved }

/-- Saves the span of c for pre-emption; none when the pool cannot hold its areas. -/
def State.preempt (s : State) (c : Nat) : Option State :=
  match s.takeAreas c with
  | some t => some ((t.startDrain c .saved .saveComplete).suspendTargets c)
  | none => none

/-- Signals a wave: its lanes parked at wfe go on, or its event bit is set (R403). -/
def Wave.signal (v : Wave) : Wave :=
  if v.lanes.any fun (_, n) => !n.exited && n.park == .wfe then
    { v with event := false, lanes := SMap.mapVals v.lanes fun _ n => if n.park = .wfe then { n with park := .none } else n }
  else { v with event := true }

/-- SIGNAL: a saved context's event bits are set in its save area; its waves go on when it is restored. -/
def State.signal (s : State) (c : Nat) : State :=
  match s.ctx? c with
  | some x =>
    if x.placed then s.modCtx c fun y => { y with waves := SMap.mapVals y.waves fun _ v => v.signal }
    else x.waves.foldl (fun t (w, _) =>
      let a := x.saveAt 0 + 256 * w
      let u := t.modWave c w fun u => { u with event := true }
      if t.savePoison x a 32 then u else u.putSave x a 32 (t.getSave x a 32 ||| 2 ^ 20)) s
  | none => s

/-- MOD of a block's stop record is set (R470, R471). -/
def State.stopMod (s : State) (c : Nat) (x : Ctx) : Bool := (SMap.find? s.saves c).isSome && (s.getSave x 128 128).testBit 672

/-- CONTINUE of one block: MOD reloads the image (R471). -/
def State.continueBlock (s : State) (c : Nat) : State :=
  match s.ctx? c with
  | none => s
  | some x =>
    let t := if s.stopMod c x then s.loadCore c else s
    (t.modCtx c fun y => { y with state := .resident }).blockEvent c 5

/-- Issue goes on in the blocks of a span, all of them Resident already (R398): kept traps first. -/
def State.issueAgain (s : State) (bs : List Nat) : State := bs.foldl (fun t b => (t.deliverKept b).afterWork b 0) s

/-- RELEASE of one block: Resident, if it was halted on its core, else Saved (R398, R405). -/
def State.releaseBlock (s : State) (c : Nat) : State :=
  match s.ctx? c with
  | some y =>
    if y.onCore then (s.modCtx c fun z => { z with state := .resident, onCore := false }).blockEvent c 3
    else (s.modCtx c fun z => { z with state := .saved }).post .placementOpportunity []
  | none => s

/-- The blocks of the span are all in a state that p accepts. -/
def State.spanAll (s : State) (c : Nat) (p : Ctx → Bool) : Bool :=
  (s.spanOf c).all fun b => match s.ctx? b with
    | some x => p x
    | none => true

/-- A command of CTXCMD on the context selected by CTXSEL, or its refusal. -/
def State.ctxCommand (s : State) (cmd : Nat) : State :=
  let c := s.hubGet 0x040 0 % 0x10000
  let s := s.hubSet 0x042 0 0
  match s.ctx? c with
  | none => s.refuseCtx
  | some x =>
    let issuing := decide (x.state = .resident) && decide (x.goal = .none)
    match cmd with
    | 1 =>
      if issuing then
        match s.preempt c with
        | some t => t
        | none => (s.cannotSave c).refuseCtx
      else s.refuseCtx
    | 2 => if issuing then s.startDrain c .halted .saveComplete else s.refuseCtx
    | 3 =>
      if x.state = .halted then
        let t := (s.spanOf c).foldl State.releaseBlock s
        if x.onCore then t.issueAgain (s.spanOf c) else t
      else s.refuseCtx
    | 4 =>
      if x.state = .saved ∨ x.state = .halted ∨ x.state = .stopped then
        (s.spanOf c).foldl (fun t b => (t.retire b).modCtx b fun y => { y with busy := true }) s
      else s.refuseCtx
    | 5 =>
      if issuing && !s.conf x.part then
        (s.startDrain c .stopped .stopComplete).markStop c ⟨1, 0, 0, 0, 0⟩
      else s.refuseCtx
    | 6 =>
      if x.state = .stopped && !(s.spanOf c).any fun b => match s.ctx? b with
        | some y => s.stopMod b y && s.imagePoisoned y false
        | none => false then ((s.spanOf c).foldl State.continueBlock s).issueAgain (s.spanOf c)
      else s.refuseCtx
    | 7 => s.signal c
    | 8 => s.modCtx c fun y => { y with dbgen := false }
    | 9 => if s.conf x.part then s.refuseCtx else s.modCtx c fun y => { y with dbgen := true }
    | _ => s.refuseCtx

def execCtxPreempt (s : State) : Host.Outcome State Fault Refusal := .next (s.ctxCommand 1)
def execCtxHalt (s : State) : Host.Outcome State Fault Refusal := .next (s.ctxCommand 2)
def execCtxRelease (s : State) : Host.Outcome State Fault Refusal := .next (s.ctxCommand 3)
def execCtxKill (s : State) : Host.Outcome State Fault Refusal := .next (s.ctxCommand 4)
def execCtxStop (s : State) : Host.Outcome State Fault Refusal := .next (s.ctxCommand 5)
def execCtxContinue (s : State) : Host.Outcome State Fault Refusal := .next (s.ctxCommand 6)
def execCtxSignal (s : State) : Host.Outcome State Fault Refusal := .next (s.ctxCommand 7)
def execCtxSetdbg0 (s : State) : Host.Outcome State Fault Refusal := .next (s.ctxCommand 8)
def execCtxSetdbg1 (s : State) : Host.Outcome State Fault Refusal := .next (s.ctxCommand 9)

end Sys2Proof.Machine
end

