-- ==== Sys2Proof/Machine/Fabric.lean ====
section
/-! DEFINITION. Fabric.lean: the register fabric: capabilities, arming, sends, delivery and send-status counters (R128 to R146,
R347 to R350). -/
namespace Sys2Proof.Machine

/-! ### rcap, arm and sendstat -/

/-- The capability that lane l mints (R130, R131). -/
def mintCap (s : State) (x : Ctx) (w b n k l : Nat) : Nat :=
  l + k * 2 ^ 5 + (n - 1) * 2 ^ 6 + b * 2 ^ 9 + x.fgen * 2 ^ 16 + SMap.get 0 x.fslots w * 2 ^ 28 + x.fcore * 2 ^ 32 +
    x.fdie * 2 ^ 42 + s.pkg * 2 ^ 44

/-- rcap: every active lane receives its capability. -/
def rcap (i : Instr) (s : State) (d b n k : Nat) : Host.Outcome State Fault Refusal :=
  issue i s fun bd act t =>
    match t.ctx? bd.ctx with
    | some x => .done (t.setRegs bd.ctx bd.wave (act.flatMap fun l =>
        let c := mintCap t x bd.wave b n k l
        [(32 * d + l, word c), (32 * (d + 1) + l, word (c / 2 ^ 32))]))
    | none => .done t

/-- n holds the count minus one, as the encoding does (R347). -/
def execRcap (d b n l : Nat) (s : State) := rcap (.rcap d b n l) s d b (n + 1) 0
def execRcapL (d b n l : Nat) (s : State) := rcap (.rcapL d b n l) s d b (n + 1) 1

/-- arm sets the pending bits of its registers in the active lanes that are not helpers (R132). -/
def execArm (d n l : Nat) (s : State) :=
  issue (.arm d n l) s fun b act t =>
    match t.wave? b.ctx b.wave with
    | some v =>
      let m := laneMask (v.present act)
      let pend := (List.range (n + 1)).foldl (fun p k =>
        SMap.set 0 p (d + k) (SMap.get 0 p (d + k) ||| word m)) v.pend
      .done (t.modWave b.ctx b.wave fun u => { u with pend := pend })
    | none => .done t

/-- sendstat reads the five counters in one step, and with .clr clears them (R348). -/
def execSendstat (d k l : Nat) (s : State) :=
  issue (.sendstat d k l) s fun b act t =>
    match t.wave? b.ctx b.wave with
    | some v =>
      let u := t.setRegs b.ctx b.wave (act.flatMap fun ln =>
        (List.range 5).map fun i => (32 * (d + i) + ln, word (SMap.get 0 v.sends i)))
      .done (if k = 1 ∧ act ≠ [] then u.modWave b.ctx b.wave fun y => { y with sends := [] } else u)
    | none => .done t

/-! ### Sending (R125, R134, R350) -/

/-- The sender's package and fabric name, as an overwrite record holds them (R406). -/
def senderName (s : State) (x : Ctx) (w : Nat) : Nat :=
  s.pkg + x.fdie * 2 ^ 20 + x.fcore * 2 ^ 22 + SMap.get 0 x.fslots w * 2 ^ 32

/-- One lane write goes on its way. To another package it travels on channel 3, and its outcome comes back from there; where
no link takes it, it is refused-stale (R145, R493). -/
def deliver (b : Bundle) (x : Ctx) (k rel : Nat) (s : State) (w : Nat × Nat × Nat × Word) : State :=
  let (cap, src, dst, v) := w
  let id := s.nextId
  let link := if bits cap 63 44 = s.pkg then 0 else match s.chosenLink (bits cap 63 44) 3 with
    | some l => l + 1
    | none => 0
  let t := s.addOp ⟨b.ctx, b.wave, [src], .laneWrite cap k dst v x.ptag src (senderName s x b.wave) rel 0 link⟩
  if bits cap 63 44 = s.pkg then t.post .laneWriteDecided [id]
  else if s.pathUp (bits cap 63 44) 3 then t
  else t.post .sendOutcomeReturn [id, 3]

/-- send.w delivers through the capability of its lowest lane that is no helper. -/
def execSendW (d a k sc r l : Nat) (s : State) :=
  issue (.sendW d a k sc r l) s fun b act t =>
    match t.ctx? b.ctx, t.wave? b.ctx b.wave with
    | some x, some v =>
      let ls := v.present act
      let c := v.pair a (ls.headD 0)
      .done ((ls.map fun ln => (c, ln, ln, v.reg d ln)).foldl (deliver b x k (if r = 1 then sc + 1 else 0)) t)
    | _, _ => .done t

/-- send.l delivers through each lane's own capability. -/
def execSendL (d a k sc r l : Nat) (s : State) :=
  issue (.sendL d a k sc r l) s fun b act t =>
    match t.ctx? b.ctx, t.wave? b.ctx b.wave with
    | some x, some v =>
      let own (ln : Nat) : Nat × Nat × Nat × Word :=
        (v.pair a ln, ln, if (v.pair a ln).testBit 5 then v.pair a ln % 32 else ln, v.reg d ln)
      .done (((v.present act).map own).foldl (deliver b x k (if r = 1 then sc + 1 else 0)) t)
    | _, _ => .done t

/-! ### Delivery (R135 to R138) -/

/-- The live context and wave that a capability names (R135 row 1). -/
def State.named (s : State) (cap : Nat) : Option (Nat × Nat) :=
  s.ctxs.findSome? fun (c, x) =>
    if x.named = true ∧ x.fdie = bits cap 43 42 ∧ x.fcore = bits cap 41 32 ∧ x.fgen = bits cap 27 16 then
      (x.fslots.find? fun (_, k) => k == bits cap 31 28).map fun (w, _) => (c, w)
    else none

/-- The lane record after an overwrite: OVWPEND and, if it was clear, the overwrite record (R137). -/
def overwriteLane (r slane name : Nat) (n : Lane) : Lane :=
  if n.lsw.toNat.testBit 8 then n
  else { n with lsw := n.lsw ||| 0x100, ovrec := BitVec.ofNat 64 (name + slane * 2 ^ 36 + r * 2 ^ 41) }

/-- Rows 4 and 5 at live registers: the arrival, or the overwrite. -/
def State.arrival (s : State) (c w r l : Nat) (v : Word) (slane name rel : Nat) : State :=
  match s.wave? c w with
  | none => s
  | some y =>
    if y.pending r l then
      let t := s.setReg c w r l v
      t.modWave c w fun u => { u with
        pend := SMap.set 0 u.pend r (SMap.get 0 u.pend r &&& ~~~word (2 ^ l))
        acq := SMap.set 0 u.acq (32 * r + l) rel }
    else s.modLanes c w [l] (overwriteLane r slane name)

/-- Rows 4 and 5 at an image in the save area. One whose word or lane record there is poisoned cannot be read, and the write is lost
(R27, log 53). -/
def State.deposit (s : State) (c w r l : Nat) (v : Word) (slane name rel : Nat) : State :=
  match s.ctx? c with
  | none => s
  | some x =>
    let pa := x.saveAt 2 + 512 * w + 4 * r
    let p := s.getSave x pa 4
    let la := x.saveAt 1 + 1024 * w + 32 * l
    if s.savePoison x pa 4 then s
    else if p.testBit l then
      let t := s.putSave x (x.saveAt 3 + 128 * (w * x.declared + r) + 4 * l) 4 v.toNat
      let t := t.putSave x pa 4 (p - 2 ^ l)
      t.modWave c w fun u => { u with acq := SMap.set 0 u.acq (32 * r + l) rel }
    else
      let rec' := s.getSave x la 32
      if rec'.testBit 72 || s.savePoison x la 32 then s
      else s.putSave x la 32 (setBits (rec' ||| 2 ^ 72) 191 128 (name + slane * 2 ^ 36 + r * 2 ^ 41))

/-- Indices of the send-status counters (R140). -/
def outDelivered : Nat := 0
def outDeposited : Nat := 1
def outStale : Nat := 2
def outPartition : Nat := 3
def outRange : Nat := 4

/-- What a target answers to a lane write: it is decided, Matins must find the context, or the context is being restored. -/
inductive Delivery where
  | decided (outcome : Nat) (s : State)
  | forward
  | restoring (c : Nat)
  deriving DecidableEq, Repr

/-- Decides a lane write at the target (R135); atPort: at the port of the core that the fabric name gives. -/
def State.decideWrite (s : State) (atPort : Bool) (cap k l : Nat) (v : Word) (tag slane name rel : Nat) : Delivery :=
  match s.named cap with
  | none => .decided outStale s
  | some (c, w) =>
    match s.ctx? c, s.wave? c w with
    | some x, some y =>
      let here := x.placed && x.die == x.fdie && x.core == x.fcore
      if atPort && !here then .forward
      else if x.state = .restoring then .restoring c
      else
        let r := bits cap 15 9 + k
        match y.lane? l with
        | none => .decided outStale s
        | some n =>
          if n.exited then .decided outStale s
          else if tag ≠ x.ptag then .decided outPartition s
          else if !x.ffabric || decide (bits cap 8 6 < k) || decide (x.declared ≤ r) || (cap.testBit 5 && l != cap % 32) ||
              n.kind == .helper then .decided outRange s
          else if !x.placed then .decided outDeposited (s.deposit c w r l v slane name rel)
          else
            let t := s.arrival c w r l v slane name rel
            let t := if x.state = .stopped ∧ (SMap.find? s.saves c).isSome = true then
                t.deposit c w r l v slane name rel
              else t
            .decided outDelivered t
    | _, _ => .decided outStale s

/-- The context on whose restoring a request waits, as a waiting key apart from every home. -/
def restoreKey (c : Nat) : Nat := 2 ^ 32 + c

/-- An earlier lane write of the wave to the same register and lane is not yet decided (R136). -/
def State.earlierWrite (s : State) (id : Nat) (o : Op) : Bool :=
  match o.kind with
  | .laneWrite cap k l _ _ _ _ _ _ _ =>
    s.ops.any fun (j, p) => match p.kind with
      | .laneWrite cap' k' l' _ _ _ _ _ out _ =>
        decide (j < id) && p.ctx == o.ctx && p.wave == o.wave && out == 0 && l' == l && cap' / 2 ^ 16 == cap / 2 ^ 16 &&
          bits cap' 15 9 + k' == bits cap 15 9 + k
      | _ => false
  | _ => false

/-- Decides the lane write of an operation, at the port or by Matins; its outcome then returns to the sender. -/
def State.decideOp (s : State) (atPort : Bool) (id : Nat) (e : Instr) : State :=
  match s.op? id with
  | some o =>
    match o.kind with
    | .laneWrite cap k l v tag sl nm rel 0 lk =>
      if bits cap 63 44 ≠ s.pkg then s
      else if s.earlierWrite id o then s.later e s.args
      else match s.decideWrite atPort cap k l v tag sl nm rel with
        | .decided out t =>
          let o' : Op := { o with kind := .laneWrite cap k l v tag sl nm rel (out + 1) lk }
          ({ t with ops := SMap.insert t.ops id o' } : State).post .sendOutcomeReturn [id]
        | .forward => s.post .laneWriteForward [id]
        | .restoring c => s.wait (restoreKey c) e s.args
    | _ => s
  | none => s

/-- LANE_WRITE_DECIDED: id. -/
def execLaneWriteDecided (s : State) : Host.Outcome State Fault Refusal :=
  .next (s.decideOp true (s.arg 0) .laneWriteDecided)

/-- LANE_WRITE_FORWARD: id. Matins forwards the write to the context, or deposits it in its save area (R138). -/
def execLaneWriteForward (s : State) : Host.Outcome State Fault Refusal :=
  .next (s.decideOp false (s.arg 0) .laneWriteForward)

/-- SEND_OUTCOME_RETURN: id; from another package also its outcome plus one. One counter counts it (R140). -/
def execSendOutcomeReturn (s : State) : Host.Outcome State Fault Refusal :=
  let id := s.arg 0
  .next (match s.op? id with
    | some o =>
      match o.kind with
      | .laneWrite _ _ _ _ _ _ _ _ out _ =>
        let k := (if out = 0 then s.arg 1 else out) - 1
        if (out = 0 ∧ s.arg 1 = 0) ∨ 5 ≤ k then s
        else (s.modWave o.ctx o.wave fun v =>
          { v with sends := SMap.set 0 v.sends k (Nat.min 0xFFFF (SMap.get 0 v.sends k + 1)) }).endOp id
      | _ => s
    | none => s)

end Sys2Proof.Machine
end

