-- ==== Sys2Proof/Machine/Region.lean ====
section
/-! DEFINITION. Region.lean: region, transaction barrier and chain instructions, and the engine's work on chains (R334 to
R345). -/
namespace Sys2Proof.Machine

/-! ### Regions (R74, R82, R335, R336) -/

/-- Entry n of a block; one not bound since placement is unbound. -/
def Ctx.region (x : Ctx) (n : Nat) : Region := SMap.get ⟨.unbound, 0, [], none⟩ x.regions n

/-- Blocks of the span. -/
def Ctx.spanBlocks (x : Ctx) : Nat := x.sdimx * x.sdimy * x.sdimz

/-- Windows [a, a + m) and [b, b + n) share a byte. -/
def overlaps (a m b n : Nat) : Bool := decide (0 < m ∧ 0 < n ∧ a < b + n ∧ b < a + m)

/-- Checks 2 to 6 of rgn.set on a descriptor read at an address (R335). -/
def regionSetFault (x : Ctx) (act : List Nat) (n d at' : Nat) : Option Trap :=
  if boxMalformed d x.spanBlocks then some (trapOf 0x14 0 act at')
  else if x.ntbars ≤ boxTbar d then some (trapOf 4 3 act (boxTbar d))
  else if x.scratchBytes < boxSwin d + boxWindow d then some (trapOf 4 4 act (boxSwin d))
  else if x.scratchBytes < 16 * boxTbar d + 16 then some (trapOf 4 4 act (16 * boxTbar d))
  else if x.regions.any fun (k, r) => k != n && r.state != .absent && r.state != .unbound &&
      overlaps (boxSwin d) (boxWindow d) (boxSwin r.desc) (boxWindow r.desc) then some (trapOf 0x16 n act 0)
  else match (x.region n).state with
    | .filling | .dirty => some (trapOf 0x15 n act 0)
    | _ => none

/-- rgn.set binds entry n with its box origin. -/
def execRgnSet (d a l : Nat) (s : State) :=
  issue (.rgnSet d a l) s fun b act t =>
    match s.ctx? b.ctx, s.wave? b.ctx b.wave, act with
    | some x, some v, low :: _ =>
      let n := (v.reg d low).toNat
      let at' := v.pair a low
      match readImages s t b x v act 64 [(low, at')] with
      | .wait u => .stall u
      | .fail k u => .miss k u
      | .ok [] _ => .done t
      | .ok ((_, desc) :: _) u =>
        match regionSetFault x act n desc at' with
        | some k => faultOnce v act t k
        | none =>
          let origin := (List.range 5).map fun i => signExtend (v.reg (d + 1 + i) low).toNat 32
          .done (u.modCtx b.ctx fun y => { y with regions := SMap.insert y.regions n ⟨.absent, desc, origin, none⟩ })
    | _, _, _ => .done t

/-- rgn.pre, rgn.flush and rgn.drop: what the entry's state makes of them (R82). -/
def regionOp (i : Instr) (s : State) (a : Nat) (act' : Bundle → List Nat → State → Nat → Region → Option Result) :
    Host.Outcome State Fault Refusal :=
  issue i s fun b act t =>
    match s.ctx? b.ctx, s.wave? b.ctx b.wave, act with
    | some x, some v, low :: _ =>
      let n := (v.reg a low).toNat
      match act' b act t n (x.region n) with
      | some r => r
      | none => faultOnce v act t (trapOf 0x15 n act 0)
    | _, _, _ => .done t

/-- A copy is started, or the instruction waits for a lock entry (R92). -/
def startOrStall (s t : State) (b : Bundle) (n : Nat) (out drop : Bool) : Result :=
  match t.startCopy b.ctx b.wave n out drop with
  | some u => .done u
  | none => .stall s

def execRgnPre (a l : Nat) (s : State) :=
  regionOp (.rgnPre a l) s a fun b _ t n r =>
    match r.state with
    | .unbound => none
    | .absent => some (startOrStall s t b n false false)
    | _ => some (.done t)

def execRgnFlush (a l : Nat) (s : State) :=
  regionOp (.rgnFlush a l) s a fun b _ t n r =>
    match r.state with
    | .unbound => none
    | .dirty => if r.copy.isSome then none else some (startOrStall s t b n true false)
    | _ => some (.done t)

def execRgnDrop (a l : Nat) (s : State) :=
  regionOp (.rgnDrop a l) s a fun b _ t n r =>
    match r.state with
    | .unbound | .filling => none
    | .dirty => if r.copy.isSome then none else some (startOrStall s t b n true true)
    | .present => some (.done (t.modCtx b.ctx fun y =>
        { y with regions := SMap.insert y.regions n { r with state := .absent } }))
    | .absent => some (.done t)

/-- The status word of R336. -/
def regionStatus (r : Region) : Nat :=
  (match r.state with
    | .unbound => 0
    | .absent => 1
    | .filling => 2
    | .present => 3
    | .dirty => 4) + (if r.copy.isSome then 128 else 0)

def execRgnStat (d a l : Nat) (s : State) :=
  issue (.rgnStat d a l) s fun b act t =>
    match s.ctx? b.ctx, s.wave? b.ctx b.wave, act with
    | some x, some v, low :: _ =>
      let y := word (regionStatus (x.region (v.reg a low).toNat))
      .done (t.setRegs b.ctx b.wave (act.map fun k => (32 * d + k, y)))
    | _, _, _ => .done t

/-! ### Transaction barriers (R85, R118, R337 to R339) -/

/-- The barrier index of a register value. -/
def barrierIndex (v : Wave) (a l : Nat) : Nat := (v.reg a l).toNat % 0x4000

/-- What keeps a lane from barrier i: bytes beyond the allocation, a range lock on its sector (R91), or for a reader a
sector of a filling window still to be written (R83). -/
inductive BarrierCheck where
  | free
  | wait
  | fail (t : Trap)
  deriving DecidableEq, Repr

def barrierCheckLane (s : State) (c : Nat) (x : Ctx) (act : List Nat) (l i : Nat) (reads : Bool) : BarrierCheck :=
  if x.scratchBytes < 16 * i + 16 then .fail (trapOf 4 4 act (16 * i))
  else match (s.scratchLocks c).find? fun k => k.covers (16 * i) 16 && !(reads && k.kind == 0) with
    | some k => .fail (trapLane 0x10 k.kind l (scratchAddr (16 * i)))
    | none => if reads && s.unwritten c (16 * i) 16 then .wait else .free

/-- tbar.init and tbar.arrive act once, on the lowest lane's operands (R334). -/
def barrierOnce (i : Instr) (s : State) (a : Nat) (body : Bundle → Wave → Nat → Nat → State → State) :
    Host.Outcome State Fault Refusal :=
  issue i s fun b act t =>
    match s.ctx? b.ctx, s.wave? b.ctx b.wave, act with
    | some x, some v, low :: _ =>
      let k := barrierIndex v a low
      if x.ntbars ≤ k then .done t
      else match barrierCheckLane t b.ctx x act low k false with
        | .fail f => faultOnce v act t f
        | .wait => .stall s
        | .free => .done (body b v low k t)
    | _, _, _ => .done t

/-- The bytes that tbar.init writes (R338). -/
def barrierInit (arr sec : Nat) : Nat := arr * 2 ^ 4 + sec * 2 ^ 20 + arr * 2 ^ 44 + sec * 2 ^ 60

def execTbarInit (a l : Nat) (s : State) :=
  barrierOnce (.tbarInit a l) s a fun b v low k t =>
    let y := barrierInit ((v.reg (a + 1) low).toNat % 0x10000) ((v.reg (a + 2) low).toNat % 0x1000000)
    t.put (scratchKey b.ctx (16 * k)) 16 y

def execTbarArrive (a l : Nat) (s : State) :=
  barrierOnce (.tbarArrive a l) s a fun b v low k t =>
    let n := (v.reg (a + 1) low).toNat % 0x10000
    if n = 0 then t else t.barrierArrive b.ctx k n 0

/-- The checks of every lane of tbar.wait, tbar.test or tbar.read, ascending; a helper lane decides no fault. -/
def barrierLanes (s : State) (c : Nat) (x : Ctx) (v : Wave) (act : List Nat) (a : Nat) (errs : Bool) :
    List Nat → BarrierCheck
  | [] => .free
  | l :: ls =>
    let k := barrierIndex v a l
    let next := barrierLanes s c x v act a errs ls
    match barrierCheckLane s c x act l k true with
    | .wait => .wait
    | .fail f => if v.isHelper l then next else .fail f
    | .free =>
      let b := s.barrier c k
      if errs && b.testBit 84 && !v.isHelper l then .fail (trapLane 0x18 (bits b 91 85) l k) else next

/-- PHASE of the lane's barrier differs from its w (R339). -/
def phaseMoved (s : State) (c : Nat) (v : Wave) (a l : Nat) : Bool :=
  bits (s.barrier c (barrierIndex v a l)) 3 0 != (v.reg (a + 1) l).toNat % 16

/-- A barrier reader of each lane. -/
def barrierEach (i : Instr) (s : State) (a : Nat) (errs : Bool) (body : Bundle → Ctx → Wave → List Nat → State → State) :
    Host.Outcome State Fault Refusal :=
  issue i s fun b act t =>
    match s.ctx? b.ctx, s.wave? b.ctx b.wave with
    | some x, some v =>
      match barrierLanes t b.ctx x v act a errs act with
      | .fail f => .trap f
      | .wait => .stall s
      | .free => .done (body b x v act t)
    | _, _ => .done t

/-- tbar.wait: lanes whose phase has moved pass with a block-scope acquire; the others park, their program counter and guard
as before, and issue it again (R339). -/
def execTbarWait (a l : Nat) (s : State) :=
  barrierEach (.tbarWait a l) s a true fun b x v act t =>
    let done := act.filter fun k => phaseMoved t b.ctx v a k
    let parked := act.filter fun k => !phaseMoved t b.ctx v a k
    let t := parked.foldl (fun t k => match v.lane? k with
      | some n => t.modLanes b.ctx b.wave [k] fun _ => { n with park := .tbar (barrierIndex v a k), deferred := false }
      | none => t) t
    if done.isEmpty then t else t.acquire x.place 1

def execTbarTest (d a l : Nat) (s : State) :=
  barrierEach (.tbarTest d a l) s a true fun b x v act t =>
    let done := act.filter fun k => phaseMoved t b.ctx v a k
    let u := t.setRegs b.ctx b.wave (act.map fun k => (32 * d + k, if done.contains k then 1 else 0))
    if done.isEmpty then u else u.acquire x.place 1

def execTbarRead (d a l : Nat) (s : State) :=
  barrierEach (.tbarRead d a l) s a false fun b _ v act t =>
    t.setRegs b.ctx b.wave (act.flatMap fun k =>
      let y := t.barrier b.ctx (barrierIndex v a k)
      (List.range 4).map fun i => (32 * (d + i) + k, word (y / 2 ^ (32 * i))))

/-! ### Chain (R340 to R344) -/

def chainOut (d : Nat) : Nat := bits d 511 448
/-- Input stream i. -/
def chainIn (d i : Nat) : Nat := bits d (319 + 64 * i) (256 + 64 * i)
/-- Constant i. -/
def chainK (d i : Nat) : Nat := bits d (223 + 32 * i) (192 + 32 * i)
def chainCount (d : Nat) : Nat := bits d 191 160
/-- Code and operand of operation i. -/
def chainCode (d i : Nat) : Nat := bits d (103 + 8 * i) (99 + 8 * i)
def chainArg (d i : Nat) : Nat := bits d (98 + 8 * i) (96 + 8 * i)
def chainTbar (d : Nat) : Nat := bits d 95 82
def chainNin (d : Nat) : Nat := bits d 9 8
def chainEfmt (d : Nat) : Nat := bits d 7 4

/-- Position of the first END, or 8. -/
def chainEnd (d : Nat) : Nat := ((List.range 8).find? fun i => chainCode d i == 0).getD 8

/-- The streams in use: OUT and the inputs. -/
def chainStreams (d : Nat) : List Nat := chainOut d :: (List.range (chainNin d)).map (chainIn d)

/-- The whole stream of m bytes at a lies in own-package tensor space, or its address is one of the commons region. -/
def streamIn (pkg a m : Nat) : Bool :=
  (addrSpace a == 2 && addrPkg a == pkg && (m == 0 || (a + m - 1) / 2 ^ 40 == a / 2 ^ 40)) ||
    (addrSpace a == 4 && bits a 59 27 == 0)

/-- Malformed under R341. -/
def chainMalformed (pkg d : Nat) : Bool :=
  let e := chainEfmt d
  let m := chainCount d * efmtBytes e
  let out := chainOut d
  bits d 81 10 != 0 || bits d 3 0 != 0 || !(e == 2 || e == 7 || e == 8 || e == 9 || e == 11) ||
  ((List.range 3).any fun i => decide (chainNin d ≤ i) && chainIn d i != 0) ||
  ((chainStreams d).any fun a => !streamIn pkg a m || a % 16 != 0) ||
  ((List.range (chainNin d)).any fun i => chainIn d i != out && overlaps (chainIn d i) m out m) ||
  (List.range 8).any fun i =>
    let k := chainCode d i
    let x := chainArg d i
    if chainEnd d < i then k != 0 || x != 0
    else if k = 0 then false
    else decide (12 < k) || (if k = 10 ∨ k = 11 then x != 0 else decide (4 < x) || (decide (x < 3) && decide (chainNin d ≤ x))) ||
      (decide (7 ≤ k ∧ k ≤ 9) && (efmtFmt e).isSome)

/-- The locks of a chain's commons streams. -/
def chainLocks (s : State) (id c : Nat) (x : Ctx) (d : Nat) : List Lock :=
  (chainStreams d).filterMap fun a =>
    if addrSpace a = 4 then
      let o := (s.cmWindow x.die x.part).1 + a % 2 ^ 27
      some ⟨id, c, true, 2, o, o + chainCount d * efmtBytes (chainEfmt d) - 1⟩
    else none

/-- A chain takes the locks of its commons streams when it is issued, and waits while it cannot (R91, R92, R344); its context is pinned
to the die then (R73). One that is malformed or empty takes none. -/
def chainReserve (s : State) (c : Nat) (x : Ctx) (d : Nat) : Option State :=
  if chainMalformed s.pkg d || chainCount d == 0 then some s
  else
    let ks := chainLocks s s.thisId c x d
    let held := s.commonsLocks x.die
    if ks.any fun k => held.any fun h => h.covers k.start (k.last + 1 - k.start) then none
    else if ks.isEmpty then some s
    else (s.takeLocks x.place ks).map fun t => t.modCtx c fun y => { y with pinned := true }

/-- chain reads its descriptor, takes its locks and goes to the engine. -/
def execChain (a l : Nat) (s : State) :=
  issue (.chain a l) s fun b act t =>
    match s.ctx? b.ctx, s.wave? b.ctx b.wave, act with
    | some x, some v, low :: _ =>
      match readImages s t b x v act 64 [(low, v.pair a low)] with
      | .wait u => .stall u
      | .fail k u => .miss k u
      | .ok [] _ => .done t
      | .ok ((_, d) :: _) u =>
        let i := chainTbar d
        if x.ntbars ≤ i then faultOnce v act t (trapOf 4 3 act i)
        else if x.scratchBytes < 16 * i + 16 then faultOnce v act t (trapOf 4 4 act (16 * i))
        else match chainReserve u b.ctx x d with
          | some u => .done ((u.launchAt t.thisId b act (.chain d false)).post .chainStart [t.thisId])
          | none => .stall s
    | _, _, _ => .done t

/-- Ends a chain: locks released, error recorded, arrival made (R91, R343, R344). -/
def chainEndOp (s : State) (id : Nat) (o : Op) (d code : Nat) : State :=
  let t := s.releaseLocks id fun _ => true
  let t := if code = 0 then t else t.barrierFail o.ctx (chainTbar d) code
  (t.barrierArrive o.ctx (chainTbar d) 1 0).endOp id

/-- CHAIN_START: id. The engine checks the descriptor; an empty chain ends at once (R340, R344). -/
def execChainStart (s : State) : Host.Outcome State Fault Refusal :=
  let id := s.arg 0
  .next (match s.op? id with
    | some o => match o.kind with
      | .chain d false =>
        if chainMalformed s.pkg d then chainEndOp s id o d 6
        else if chainCount d = 0 then chainEndOp s id o d 0
        else
          let o' : Op := { o with kind := .chain d true }
          ({ s with ops := SMap.insert s.ops id o' } : State).post .chainComplete [id]
      | _ => s
    | none => s)

/-- An operation of R342 on float values, as FP32 codes. -/
def chainFloat (k t x : Nat) : Nat :=
  match k with
  | 1 => (fpAdd fmtF32 0 t x).1
  | 2 => (fpSub fmtF32 0 t x).1
  | 3 => (fpSub fmtF32 0 x t).1
  | 4 => (fpMul fmtF32 0 t x).1
  | 5 => (fpMinMax fmtF32 false t x).1
  | 6 => (fpMinMax fmtF32 true t x).1
  | 10 => (fpNeg fmtF32 t).1
  | 11 => (fpAbs fmtF32 t).1
  | _ => x

/-- An operation of R342 on 32-bit integers, signed for s32. -/
def chainInt (sg : Bool) (k t x : Nat) : Nat :=
  let v (y : Nat) : Int := if sg then signExtend y 32 else (y : Int)
  match k with
  | 1 => (t + x) % 0x100000000
  | 2 => wrapNat ((t : Int) - x) 32
  | 3 => wrapNat ((x : Int) - t) 32
  | 4 => t * x % 0x100000000
  | 5 => if v t ≤ v x then t else x
  | 6 => if v t ≤ v x then x else t
  | 7 => Nat.land t x
  | 8 => Nat.lor t x
  | 9 => Nat.xor t x
  | 10 => wrapNat (-(t : Int)) 32
  | 11 => wrapNat (Int.natAbs (v t)) 32
  | _ => x

/-- An element widened to its working form (R343). -/
def chainWiden (e x : Nat) : Nat :=
  match efmtFmt e with
  | some f => if f = fmtF32 then x else roundCode fmtF32 0 (f.value (x % 2 ^ f.width))
  | none => x

/-- The result of R343 on an element: ins holds the inputs in their working form. -/
def chainValue (d : Nat) (ins : List Nat) : Nat :=
  let e := chainEfmt d
  let arg (i : Nat) : Nat :=
    if chainArg d i ≤ 2 then ins.getD (chainArg d i) 0 else chainWiden e (chainK d (chainArg d i - 3))
  let t0 := if chainNin d = 0 then 0 else ins.getD 0 0
  let step (t i : Nat) : Nat :=
    match efmtFmt e with
    | some _ => chainFloat (chainCode d i) t (arg i)
    | none => chainInt (e == 11) (chainCode d i) t (arg i)
  let t := (List.range (chainEnd d)).foldl step t0
  match efmtFmt e with
  | some f => roundCode f 0 (fmtF32.value t)
  | none => t

/-- The inputs that an operation of the chain reads. -/
def chainUses (d : Nat) : List Nat :=
  (List.range (chainNin d)).filter fun n => n == 0 || (List.range (chainEnd d)).any fun i =>
    chainCode d i != 10 && chainCode d i != 11 && chainArg d i == n

/-- Element e of the streams read: the values by stream, or the first failing code. -/
def chainRead (x : Ctx) (d e : Nat) : List Nat → State → List Nat → Except Nat (List Nat) × State
  | [], s, vs => (.ok vs.reverse, s)
  | n :: ns, s, vs =>
    let m := efmtBytes (chainEfmt d)
    if (chainUses d).contains n then
      match s.engineRead x (chainIn d n + m * e) m with
      | (.error c, u) => (.error c, u)
      | (.ok y, u) => chainRead x d e ns u (chainWiden (chainEfmt d) y :: vs)
    else chainRead x d e ns s (0 :: vs)

/-- The elements of a chain, ascending; the code of the first failure. -/
def chainElements (x : Ctx) (d : Nat) (s : State) : Nat × State :=
  let m := efmtBytes (chainEfmt d)
  (List.range (chainCount d)).foldl (fun (acc : Nat × State) e =>
    let (code, s) := acc
    let first (c : Nat) : Nat := if code = 0 then c else code
    match chainRead x d e (List.range (chainNin d)) s [] with
    | (.error c, u) => (first c, u)
    | (.ok ins, u) => match u.engineWrite x (chainOut d + m * e) m (chainValue d ins) with
      | (some c, u) => (first c, u)
      | (none, u) => (code, u)) (0, s)

/-- CHAIN_COMPLETE: id. The bank ALUs have formed every element (R343). -/
def execChainComplete (s : State) : Host.Outcome State Fault Refusal :=
  let id := s.arg 0
  .next (match s.op? id with
    | some o => match o.kind with
      | .chain d true =>
        match s.ctx? o.ctx with
        | some x =>
          let r := chainElements x d s
          chainEndOp r.2 id o d r.1
        | none => s
      | _ => s
    | none => s)

end Sys2Proof.Machine
end

