-- ==== Sys2Proof/Machine/Vesper.lean ====
section
/-! DEFINITION. Vesper.lean: the sequence unit: slots, ownership, watch entries, commits and notify registers (R147 to R165), and
the notify and sequence instructions (R358 to R362). -/
namespace Sys2Proof.Machine

/-! ### Slots and ranges (R147 to R150) -/

/-- Who asks Vesper: a context, by its partition, tag and fabric name, or system software, which acts as the owner (R152). -/
structure Party where
  system : Bool
  part : Nat
  tag : Nat
  name : Nat
  deriving DecidableEq, Repr

def Ctx.party (x : Ctx) : Party := ⟨false, x.part, x.ptag, x.fname 0⟩

/-- Word w of slot n. -/
def State.slotWord (s : State) (n w : Nat) : Nat := (SMap.get 0 s.vesper (512 * n + w)).toNat

def State.setSlot (s : State) (n w v : Nat) : State := { s with vesper := SMap.set 0 s.vesper (512 * n + w) (word v) }

/-- Bits [hi:lo] of SSTAT. -/
def State.sstat (s : State) (n hi lo : Nat) : Nat := bits (s.slotWord n 0) hi lo

def State.setSstat (s : State) (n hi lo v : Nat) : State := s.setSlot n 0 (setBits (s.slotWord n 0) hi lo v)

/-- A partition's range of slots, of which there are 16,384. -/
def State.slotRange (s : State) (part : Nat) : List Nat :=
  let b := s.hubGet 0x081 part
  (List.range (Nat.min (s.hubGet 0x082 part) (16384 - b))).map (b + ·)

def State.inSlots (s : State) (part n : Nat) : Bool :=
  decide (s.hubGet 0x081 part ≤ n) && decide (n < s.hubGet 0x081 part + s.hubGet 0x082 part)

def State.inNotify (s : State) (part r : Nat) : Bool :=
  decide (s.hubGet 0x083 part ≤ r) && decide (r < s.hubGet 0x083 part + s.hubGet 0x084 part)

/-- Every word of a slot becomes zero. -/
def State.clearSlot (s : State) (n : Nat) : State :=
  { s with vesper := s.vesper.filter fun (k, _) => k / 512 != n }

/-- The lowest-numbered free slot of a partition's range. -/
def State.freeSlot (s : State) (part : Nat) : Option Nat := (s.slotRange part).find? fun n => s.sstat n 1 0 == 0

/-- The owner partition of slot n: the one whose range holds it. DESIGN CHOICE: the spec does not say which it is when ranges were
rewritten while the slot was open, this one or the one whose tag OWNPART holds (log 45). Unsafe. -/
def State.slotPart (s : State) (n : Nat) : Nat := ((List.range 16).find? fun p => s.inSlots p n).getD 16

/-- The token count of the draft buffer shrinks to k. -/
def State.cutDrafts (s : State) (n k : Nat) : State :=
  let t := if k < s.sstat n 12 9 then s.setSlot n 385 (s.slotWord n 385 ||| 1) else s
  t.setSstat n 12 9 k

/-- The forced-token queue shrinks to its first k tokens. -/
def State.cutForced (s : State) (n k : Nat) : State :=
  let t := if k < s.sstat n 17 13 then s.setSlot n 385 (s.slotWord n 385 ||| 2) else s
  t.setSstat n 17 13 k

/-! ### Notify registers (R165, R359) -/

/-- Lanes parked at ntf.wait on register r issue it again. -/
def State.wakeNotify (s : State) (r : Nat) : State :=
  let lane (n : Lane) : Lane := if n.park = .ntf r then { n with park := .none } else n
  let wave (v : Wave) : Wave := { v with lanes := SMap.mapVals v.lanes fun _ n => lane n }
  { s with ctxs := SMap.mapVals s.ctxs fun _ x => { x with waves := SMap.mapVals x.waves fun _ v => wave v } }

/-- Writes a notify register and sets its pending bit. -/
def State.setNotify (s : State) (r v : Nat) : State :=
  ({ s with notify := SMap.set 0 s.notify r (v % 2 ^ 64 + 2 ^ 64) } : State).wakeNotify r

def State.notifyValue (s : State) (r : Nat) : Nat := SMap.get 0 s.notify r % 2 ^ 64
def State.notifyPending (s : State) (r : Nat) : Bool := (SMap.get 0 s.notify r).testBit 64

/-! ### The checks of R156 -/

/-- Status codes of R164. -/
def sqStopped : Nat := 1
def sqTrapped : Nat := 2
def sqNotOwner : Nat := 3
def sqFree : Nat := 4
def sqDfull : Nat := 5
def sqNoVerify : Nat := 6
def sqQfull : Nat := 7
def sqBadSlot : Nat := 8
def sqBadEntry : Nat := 9
def sqNoSlot : Nat := 10
def sqEmpty : Nat := 11
def sqRunning : Nat := 12

/-- Makes a party the owner of a slot (R152). -/
def State.claim (s : State) (p : Party) (n : Nat) : State := (s.setSlot n 46 (p.tag % 0x10000)).setSlot n 47 p.name

/-- The checks in their order: the code of the first that fails, and then nothing changes, or 0, with a lapsed slot claimed (R152,
R164). running: the STOPPED and TRAPPED check is made. -/
def State.slotCheck (s : State) (p : Party) (n : Nat) (running : Bool) : Nat × State :=
  if 16384 ≤ n then (sqBadSlot, s)
  else if !p.system && !s.inSlots p.part n then (sqNotOwner, s)
  else if s.sstat n 1 0 = 0 then (sqFree, s)
  else
    let own := s.slotWord n 46
    if !p.system && own % 0x10000 != p.tag then (sqNotOwner, s)
    else if !p.system && !own.testBit 16 && s.slotWord n 47 != p.name then (sqNotOwner, s)
    else
      let st := s.sstat n 1 0
      if running && st = 2 then (sqStopped, s)
      else if running && st = 3 then (sqTrapped, s)
      else (0, if !p.system && own.testBit 16 then s.claim p n else s)

/-! ### Watch entries (R154, R155) -/

/-- Word w of entry e of slot n. -/
def State.entryWord (s : State) (n e w : Nat) : Nat := s.slotWord n (128 + 32 * e + w)

def entWord (m w : Nat) : Nat := bits m (32 * w + 31) (32 * w)

/-- The constraints of R154 on a 128-byte image for a slot of a partition. -/
def State.entryOk (s : State) (part m : Nat) : Bool :=
  let act := bits m 7 6
  let budget := m.testBit 8
  let len := bits m 11 9 + 1
  let cnt := bits m 19 15
  let kind (j : Nat) : Nat := bits m (145 + 2 * j) (144 + 2 * j)
  let pos (j : Nat) : Nat := entWord m (8 + j)
  bits m 135 20 == 0 && bits m 5 1 == 0 && s.inNotify part (bits m 143 136) && !(m.testBit 14 && act != 0) &&
    (if act = 2 then decide (1 ≤ cnt) && decide (cnt ≤ 16) else cnt == 0) &&
    ((List.range 16).all fun i => decide (i < cnt) || entWord m (16 + i) == 0) &&
    (if budget then bits m 511 256 == 0 && bits m 159 144 == 0 && bits m 11 9 == 0
      else (List.range 8).all fun j =>
        if len ≤ j then kind j == 0 && pos j == 0 else kind j != 3 && (kind j != 2 || decide (pos j < 16)))

/-- A token id lies in class c of slot n (R151). -/
def State.inClass (s : State) (n c x : Nat) : Bool := decide (s.slotWord n (48 + c) ≤ x) && decide (x ≤ s.slotWord n (64 + c))

/-- Entry e of slot n is enabled and matches the token just committed (R155). -/
def State.entryMatches (s : State) (n e : Nat) : Bool :=
  let m := s.entryWord n e 0
  m.testBit 0 &&
    (if m.testBit 8 then decide (s.entryWord n e 5 ≤ s.slotWord n (2 + bits m 13 12))
    else
      let len := bits m 11 9 + 1
      decide (len ≤ s.slotWord n 384) && (List.range len).all fun j =>
        match bits (s.entryWord n e 4) (17 + 2 * j) (16 + 2 * j) with
        | 1 => s.slotWord n (6 + j) == s.entryWord n e (8 + j)
        | 2 => s.inClass n (s.entryWord n e (8 + j) % 16) (s.slotWord n (6 + j))
        | _ => true)

/-- Clears EN of a budget entry. -/
def State.disable (s : State) (n e : Nat) : State :=
  let m := s.entryWord n e 0
  if m.testBit 8 then s.setSlot n (128 + 32 * e) (m / 2 * 2) else s

/-! ### Committed tokens (R151, R158 to R161) -/

/-- What a commit gathers for its status word (R164): ENT plus one, and the lanes' sequence trap. -/
structure Commit where
  ncommit : Nat
  ninj : Nat
  stopf : Bool
  forkf : Bool
  injf : Bool
  ntff : Bool
  forkfail : Bool
  trunc : Bool
  ent : Nat
  qfull : Bool
  trapped : Bool
  deriving DecidableEq, Repr

def Commit.start : Commit := ⟨0, 0, false, false, false, false, false, false, 0, false, false⟩

def Commit.status (k : Commit) : Nat :=
  (if k.qfull then sqQfull else 0) + k.ncommit * 2 ^ 8 + k.ninj * 2 ^ 12 + (if k.stopf then 2 ^ 17 else 0) +
    (if k.forkf then 2 ^ 18 else 0) + (if k.injf then 2 ^ 19 else 0) + (if k.ntff then 2 ^ 20 else 0) +
    (if k.forkfail then 2 ^ 21 else 0) + (if k.trunc then 2 ^ 22 else 0) + k.ent * 2 ^ 23

/-- POS, the history and the counters take token x. -/
def State.countToken (s : State) (n x : Nat) : State :=
  let t := s.setSlot n 1 ((s.slotWord n 1 + 1) % 2 ^ 32)
  let t := (List.range 15).foldl (fun t i => t.setSlot n (21 - i) (t.slotWord n (20 - i))) t
  let t := (t.setSlot n 6 x).setSlot n 384 (Nat.min 8 (t.slotWord n 384 + 1))
  let up (t : State) (k : Nat) : State := t.setSlot n (2 + k) (Nat.min 0xFFFFFFFF (t.slotWord n (2 + k) + 1))
  [1, 2, 3].foldl (fun t k =>
    if (List.range 16).any fun c => (t.slotWord n (79 + k)).testBit c && t.inClass n c x then up t k else t) (up t 0)

/-- FORK by entry e (R161). -/
def State.fork (s : State) (n e : Nat) (k : Commit) : State × Commit :=
  let reg := bits (s.entryWord n e 4) 15 8
  match s.freeSlot (s.slotPart n) with
  | some m =>
    let t := (List.range 386).foldl (fun t w => t.setSlot m w (s.slotWord n w)) s
    let t := (((t.cutDrafts m 0).setSstat m 18 18 0).setSstat m 5 5 0).setSstat m 1 0 1
    (t.setNotify reg (2 ^ 63 + n * 2 ^ 32 + m), { k with forkf := true })
  | none => (s.setNotify reg (2 ^ 62 + n * 2 ^ 32), { k with forkf := true, forkfail := true })

/-- Appends a token to the forced-token queue. -/
def State.force (s : State) (n x : Nat) : State :=
  let c := s.sstat n 17 13
  (s.setSlot n (30 + c) x).setSstat n 17 13 (c + 1)

/-- One token applied (R158), but for the application of the tokens it injects: those are returned, with the entry that
injects and the entry whose STOP took effect, each plus one. -/
def State.applyOne (s : State) (n x excl : Nat) (k : Commit) : State × Commit × List Nat × Nat × Nat :=
  let t := s.countToken n x
  let m := (List.range 8).filter fun e => e + 1 != excl && t.entryMatches n e
  let act (e : Nat) : Nat := bits (t.entryWord n e 0) 7 6
  let pick (a : Nat) : Nat := ((m.find? fun e => act e == a).map (· + 1)).getD 0
  let fe := pick 1
  let se := pick 0
  let ie := if excl = 0 ∧ se = 0 then pick 2 else 0
  let ns := m.filter fun e => act e == 3
  let t := (ns ++ [fe, se, ie].filterMap fun e => if e = 0 then none else some (e - 1)).foldl (fun t e => t.disable n e) t
  let (t, k) := if fe = 0 then (t, k) else t.fork n (fe - 1) k
  let trap := (t.entryWord n (se - 1) 0).testBit 14
  let t := if se = 0 then t
    else ((t.setSstat n 8 6 (se - 1)).setSstat n 5 5 1).setSstat n 1 0 (if trap then 3 else 2)
  let k := if se = 0 then k else { k with stopf := true, trapped := k.trapped || trap }
  let cnt := bits (t.entryWord n (ie - 1) 0) 19 15
  let room := decide (t.sstat n 17 13 + cnt ≤ 16)
  let list := if ie ≠ 0 ∧ room = true then (List.range cnt).map fun i => t.entryWord n (ie - 1) (16 + i) else []
  let t := list.foldl (fun t y => t.force n y) t
  let k := if ie = 0 then k else { k with injf := true, qfull := k.qfull || !room }
  let t := ns.foldl (fun t e =>
    t.setNotify (bits (t.entryWord n e 4) 15 8) (t.entryWord n e 6 + t.entryWord n e 7 * 2 ^ 32)) t
  let k := if ns.isEmpty then k else { k with ntff := true }
  (t, k, list, ie, se)

/-- The injected tokens applied in order; a STOP removes the later ones from the queue. -/
def State.applyInjected (n ie : Nat) : List Nat → State → Commit → State × Commit
  | [], s, k => (s, k)
  | y :: ys, s, k =>
    let (t, k, _, _, se) := s.applyOne n y ie k
    let k := { k with ninj := k.ninj + 1 }
    if se = 0 then State.applyInjected n ie ys t k else (t.cutForced n (t.sstat n 17 13 - ys.length), k)

/-- The proposed tokens applied until a STOP or an INJECT takes effect at one (R156, R159). -/
def State.applyList (n : Nat) : List Nat → State → Commit → State × Commit
  | [], s, k => (s, k)
  | x :: xs, s, k =>
    let (t, k, list, ie, se) := s.applyOne n x 0 k
    let (t, k) := State.applyInjected n ie list t k
    let k := { k with ncommit := k.ncommit + 1 }
    if se = 0 ∧ ie = 0 then State.applyList n xs t k
    else (t, { k with trunc := !xs.isEmpty, ent := (if se = 0 then ie else se) - 1 })

/-! ### Operations (R153, R156, R163) -/

/-- The drafts of a slot. -/
def State.drafts (s : State) (n : Nat) : List Nat := (List.range (s.sstat n 12 9)).map fun i => s.slotWord n (22 + i)

/-- sq.commit with its final token, if it has one: the status, and whether the slot became trapped. -/
def State.sqCommit (s : State) (p : Party) (n : Nat) (x : Option Nat) : Nat × Bool × State :=
  match s.slotCheck p n true with
  | (0, t) =>
    if 0 < t.sstat n 12 9 ∧ t.sstat n 18 18 = 0 then (sqNoVerify, false, s)
    else
      let list := t.drafts n ++ x.toList
      let (u, k) := State.applyList n list ((t.cutDrafts n 0).setSstat n 18 18 0) Commit.start
      (k.status, k.trapped, u)
  | (c, _) => (c, false, s)

def State.sqProp (s : State) (p : Party) (n x : Nat) : Nat × State :=
  match s.slotCheck p n true with
  | (0, t) =>
    let c := t.sstat n 12 9
    if c = 8 then (sqDfull, s) else (0, ((t.setSlot n (22 + c) x).setSstat n 12 9 (c + 1)).setSstat n 18 18 0)
  | r => r

def State.sqVerify (s : State) (p : Party) (n a : Nat) : Nat × State :=
  match s.slotCheck p n true with
  | (0, t) => (0, (t.cutDrafts n (Nat.min a (t.sstat n 12 9))).setSstat n 18 18 1)
  | r => r

/-- sq.next: token and status. -/
def State.sqNext (s : State) (p : Party) (n : Nat) : Nat × Nat × State :=
  match s.slotCheck p n false with
  | (0, t) =>
    let c := t.sstat n 17 13
    if 0 < c then
      let x := t.slotWord n 30
      let u := (List.range (c - 1)).foldl (fun u i => u.setSlot n (30 + i) (u.slotWord n (31 + i))) t
      (x, 2 ^ 26, u.cutForced n (c - 1))
    else match t.sstat n 1 0 with
      | 1 => if 0 < t.slotWord n 1 then (t.slotWord n 6, 0, t) else (0, sqEmpty, s)
      | 2 => (0, sqStopped, s)
      | _ => (0, sqTrapped, s)
  | (c, _) => (0, c, s)

/-- Installs a watch entry. -/
def State.sqWatch (s : State) (p : Party) (n e m : Nat) : Nat × State :=
  match s.slotCheck p n false with
  | (0, t) =>
    if 8 ≤ e ∨ t.entryOk (t.slotPart n) m = false then (sqBadEntry, s)
    else (0, (List.range 32).foldl (fun u w => u.setSlot n (128 + 32 * e + w) (entWord m w)) t)
  | r => r

/-- A slot word as sq.read returns it. A draft or forced token beyond the count, after one has left, is not stated: free. -/
def State.readSlot (s : State) (n w : Nat) : Nat :=
  let tail := s.slotWord n 385
  let loose := (tail.testBit 0 && decide (22 + s.sstat n 12 9 ≤ w) && decide (w ≤ 29)) ||
    (tail.testBit 1 && decide (30 + s.sstat n 17 13 ≤ w) && decide (w ≤ 45))
  if 16384 ≤ n ∨ 384 ≤ w then 0
  else if loose then Config.freeNat s.free / 2 ^ (32 * (384 * n + w)) % 2 ^ 32
  else s.slotWord n w

/-- sq.ctl OPEN: status and slot. -/
def State.sqOpen (s : State) (p : Party) : Nat × Nat × State :=
  match s.freeSlot p.part with
  | some n =>
    let t := (List.range 16).foldl (fun t c => t.setSlot n (48 + c) 0xFFFFFFFF) ((s.clearSlot n).setSlot n 0 1)
    let t := if p.system then t.setSlot n 46 (0x10000 + p.tag % 0x10000) else t.claim p n
    (0, n, t)
  | none => (sqNoSlot, 0xFFFFFFFF, s)

/-- The other operations of sq.ctl by their codes (R153): 1 CLOSE, 2 RESUME, 3 SETCLASS, 4 SETMASK, 5 SETCNT, 6 CLRDRAFT,
7 CLRFQ, with their operands. -/
def State.sqCtl (s : State) (p : Party) (op n k y z : Nat) : Nat × State :=
  match s.slotCheck p n false with
  | (0, t) =>
    match op with
    | 1 => (0, t.clearSlot n)
    | 2 => if t.sstat n 1 0 = 1 then (sqRunning, s) else (0, ((t.setSstat n 1 0 1).setSstat n 5 5 0).cutDrafts n 0)
    | 3 => (0, (t.setSlot n (48 + k % 16) y).setSlot n (64 + k % 16) z)
    | 4 => if k % 4 = 0 then (sqBadEntry, s) else (0, t.setSlot n (79 + k % 4) (y % 0x10000))
    | 5 => (0, t.setSlot n (2 + k % 4) y)
    | 6 => (0, (t.cutDrafts n 0).setSstat n 18 18 0)
    | _ => (0, t.cutForced n 0)
  | r => r

/-! ### The instructions (R346, R361, R362) -/

/-- Runs an operation for each lane that is not a helper, ascending; it answers the lane's register results and whether its slot
became trapped. Vesper's reply writes the results; the sequence trap follows it. One that reads what commits and watch actions
write is an acquire at .pkg scope, performed with the read (R121). DESIGN CHOICE: the trap's mask names the lanes whose own commit
trapped their slot, and no later lane of the instruction that names the same slot (R162, log 55). -/
def sequence (i : Instr) (s : State) (acq : Bool)
    (f : Ctx → Wave → Nat → State → List (Nat × Nat) × Bool × State) : Host.Outcome State Fault Refusal :=
  issue i s fun b act t =>
    match t.ctx? b.ctx, t.wave? b.ctx b.wave with
    | some x, some v =>
      let ls := v.present act
      if ls.isEmpty then .done t
      else
        let r : State × List (Nat × Word) × List Nat := ls.foldl (fun acc l =>
          let (ws, tr, u) := f x v l acc.1
          (u, acc.2.1 ++ ws.map fun (d, y) => (32 * d + l, word y), if tr then acc.2.2 ++ [l] else acc.2.2)) (t, [], [])
        let u := { r.1 with free := r.1.free + 1 }
        let u := if acq then u.acquire x.place 4 else u
        let u := (u.launchAt t.thisId b ls (.reply r.2.1)).post .vesperReply [t.thisId]
        if r.2.2.isEmpty then .done u else .after u ⟨seqTrapClass, 0, 0, laneMask r.2.2, b.pc.toNat⟩
    | _, _ => .done t

/-- VESPER_REPLY: id. -/
def execVesperReply (s : State) : Host.Outcome State Fault Refusal :=
  let id := s.arg 0
  .next (match s.op? id with
    | some o => match o.kind with
      | .reply ws => (s.setRegs o.ctx o.wave ws).endOp id
      | _ => s
    | none => s)

/-- Operand k of a lane's group. -/
def opnd (v : Wave) (a k l : Nat) : Nat := (v.reg (a + k) l).toNat

def execSqProp (d a la : Nat) (s : State) :=
  sequence (.sqProp d a la) s false fun x v l t =>
    let (c, u) := t.sqProp x.party (opnd v a 0 l) (opnd v a 1 l)
    ([(d, c)], false, u)

def execSqVerify (d a la : Nat) (s : State) :=
  sequence (.sqVerify d a la) s false fun x v l t =>
    let (c, u) := t.sqVerify x.party (opnd v a 0 l) (opnd v a 1 l)
    ([(d, c)], false, u)

def execSqCommit (d a : Nat) (s : State) :=
  sequence (.sqCommit d a) s false fun x v l t =>
    let (c, tr, u) := t.sqCommit x.party (opnd v a 0 l) (some (opnd v a 1 l))
    ([(d, c)], tr, u)

def execSqCommitD (d a : Nat) (s : State) :=
  sequence (.sqCommitD d a) s false fun x v l t =>
    let (c, tr, u) := t.sqCommit x.party (opnd v a 0 l) none
    ([(d, c)], tr, u)

def execSqNext (d a la : Nat) (s : State) :=
  sequence (.sqNext d a la) s true fun x v l t =>
    let (y, c, u) := t.sqNext x.party (opnd v a 0 l)
    ([(d, y), (d + 1, c)], false, u)

def execSqRead (d a la : Nat) (s : State) :=
  sequence (.sqRead d a la) s true fun x v l t =>
    ([(d, if t.inSlots x.part (opnd v a 0 l) then t.readSlot (opnd v a 0 l) (opnd v a 1 l) else 0)], false, t)

def execSqCtlOpen (d la : Nat) (s : State) :=
  sequence (.sqCtlOpen d la) s false fun x _ _ t =>
    let (c, n, u) := t.sqOpen x.party
    ([(d, c), (d + 1, n)], false, u)

/-- An operation of sq.ctl on a named slot: status, and a result of zero. -/
def sqCtl (i : Instr) (s : State) (op d a : Nat) : Host.Outcome State Fault Refusal :=
  sequence i s false fun x v l t =>
    let (c, u) := t.sqCtl x.party op (opnd v a 0 l) (opnd v a 1 l) (opnd v a 2 l) (opnd v a 3 l)
    ([(d, c), (d + 1, 0)], false, u)

def execSqCtlClose (d a la : Nat) (s : State) := sqCtl (.sqCtlClose d a la) s 1 d a
def execSqCtlResume (d a la : Nat) (s : State) := sqCtl (.sqCtlResume d a la) s 2 d a
def execSqCtlSetclass (d a la : Nat) (s : State) := sqCtl (.sqCtlSetclass d a la) s 3 d a
def execSqCtlSetmask (d a la : Nat) (s : State) := sqCtl (.sqCtlSetmask d a la) s 4 d a
def execSqCtlSetcnt (d a la : Nat) (s : State) := sqCtl (.sqCtlSetcnt d a la) s 5 d a
def execSqCtlClrdraft (d a la : Nat) (s : State) := sqCtl (.sqCtlClrdraft d a la) s 6 d a
def execSqCtlClrfq (d a la : Nat) (s : State) := sqCtl (.sqCtlClrfq d a la) s 7 d a

/-- sq.watch: each lane's image is read first (R501), then Vesper installs it. -/
def execSqWatch (d a la : Nat) (s : State) :=
  issue (.sqWatch d a la) s fun b act t =>
    match t.ctx? b.ctx, t.wave? b.ctx b.wave with
    | some x, some v =>
      let ls := v.present act
      if ls.isEmpty then .done t
      else match readImages s t b x v act 128 (ls.map fun l => (l, v.pair (a + 2) l)) with
        | .ok ms t =>
          let r : State × List (Nat × Word) := ms.foldl (fun acc (l, m) =>
            let (c, u) := acc.1.sqWatch x.party (opnd v a 0 l) (opnd v a 1 l) m
            (u, acc.2 ++ [(32 * d + l, word c)])) (t, [])
          .done ((r.1.launchAt t.thisId b ls (.reply r.2)).post .vesperReply [t.thisId])
        | .fail k u => .miss k u
        | .wait u => .stall u
    | _, _ => .done t

/-! ### Notify instructions (R358 to R360) -/

/-- The notify register that a lane names. -/
def notifyNum (v : Wave) (a l : Nat) : Nat := (v.reg a l).toNat % 256

/-- Three results of a notify read. -/
def notifyRegs (d y p : Nat) : List (Nat × Nat) := [(d, y), (d + 1, y / 2 ^ 32), (d + 2, p)]

def execNtfRead (d a la : Nat) (s : State) :=
  sequence (.ntfRead d a la) s true fun x v l t =>
    let r := notifyNum v a l
    if t.inNotify x.part r then (notifyRegs d (t.notifyValue r) (if t.notifyPending r then 1 else 0), false, t)
    else (notifyRegs d 0 0, false, t)

/-- ntf.write: value and pending bit, ascending; the highest lane's value stands. -/
def execNtfWrite (d a la : Nat) (s : State) :=
  issue (.ntfWrite d a la) s fun b act t =>
    match t.ctx? b.ctx, t.wave? b.ctx b.wave with
    | some x, some v => .done ((v.present act).foldl (fun u l =>
        if u.inNotify x.part (notifyNum v a l) then u.setNotify (notifyNum v a l) (v.pair d l) else u) t)
    | _, _ => .done t

/-- ntf.wait: a lane that finds its register pending consumes it; one that does not parks, its program counter and guard as
before, and issues it again when it is woken. -/
def execNtfWait (d a : Nat) (s : State) :=
  issue (.ntfWait d a) s fun b act t =>
    match t.ctx? b.ctx, t.wave? b.ctx b.wave, s.wave? b.ctx b.wave with
    | some x, some v, some v0 =>
      let r : State × List (Nat × Word) := (v.present act).foldl (fun acc l =>
        let n := notifyNum v a l
        let put (y p : Nat) : List (Nat × Word) := (notifyRegs d y p).map fun (k, z) => (32 * k + l, word z)
        let u := acc.1
        if !u.inNotify x.part n then (u, acc.2 ++ put 0 0)
        else if u.notifyPending n then
          ({ u with notify := SMap.set 0 u.notify n (u.notifyValue n) }, acc.2 ++ put (u.notifyValue n) 1)
        else match v0.lane? l with
          | some m => (u.modLanes b.ctx b.wave [l] fun _ => { m with park := .ntf n, deferred := false }, acc.2)
          | none => (u, acc.2)) (t, [])
      if r.2.isEmpty then .done r.1
      else .done (((r.1.acquire x.place 4).launchAt t.thisId b act (.reply r.2)).post .vesperReply [t.thisId])
    | _, _, _ => .done t

end Sys2Proof.Machine
end

