-- ==== Sys2Proof/Machine/Matins.lean ====
section
/-! DEFINITION. Matins.lean: the memory accesses of Matins (R467, R502), queue packets and their insertion (R351 to R356, R409 to
R413), their begin and completion (R357, R424), and the packets that place no block. -/
namespace Sys2Proof.Machine

/-! ### Accesses of Matins: translated for the queue's partition, checked by its firewall, performed at the home -/

/-- What such an access answers: a value, a code of R87, or that the home cannot serve it yet, with the line it waits at plus one, or
0. -/
inductive Answer where
  | ok (v : Nat) (s : State)
  | fail (code : Nat) (s : State)
  | wait (line : Nat)
  deriving DecidableEq, Repr

/-- The place of n bytes that Matins accesses: in tensor memory or not, and its physical address; a code; or that it waits, with a line
plus one or 0. Its translations are those of core 0 of die C0 and its cluster. -/
def State.matinsPlace (s : State) (part a n need : Nat) : Except (Nat ⊕ Nat) (Bool × Nat) × State :=
  let tensor := addrSpace a == 2
  let form := match addrSpace a with
    | 1 => bits a 59 46 == 0 && (s.domPkg? (bits a 45 36)).isSome
    | 2 => addrPkg a == s.pkg
    | _ => false
  if !form then (.error (.inl 2), s)
  else match s.translate 0 part tensor (if tensor then a % 2 ^ 40 else addrOff a) need (some 128) with
    | (.error .waits, u) => (.error (.inr 0), u)
    | (.error .poison, u) => (.error (.inl 4), u)
    | (.error .lost, u) => (.error (.inl 5), u)
    | (.error _, u) => (.error (.inl 2), u)
    | (.ok (pa, _), u) =>
      if !u.firewall part tensor pa n (need &&& permW != 0) then (.error (.inl 3), u)
      else if tensor then (.ok (true, pa), u)
      else match u.lineState 2 0 (pa / 128) with
        | .serves => (.ok (false, pa), u)
        | .waits => (.error (.inr (pa / 128 + 1)), u)
        | .gone => (.error (.inl 5), u)

/-- n bytes at an address. -/
def State.matinsRead (s : State) (part a n : Nat) : Answer :=
  match s.matinsPlace part a n permR with
  | (.error (.inl c), u) => .fail c u
  | (.error (.inr k), _) => .wait k
  | (.ok (tensor, pa), u) =>
    if poisoned u (if tensor then tensorKey pa else ctlKey pa) n then .fail 4 u
    else if tensor then .ok (readMem u.mem (tensorKey pa) n) u
    else
      let w := u.recall (pa / 128)
      .ok (readMem w.mem (ctlKey pa) n) w

/-- The record of a word that Matins writes as a release at .sys scope (R113, R440). -/
def State.matinsRec (s : State) (chained : Bool) : Rec := ⟨s.pkg, 0, 0xFFFE, 0, 0, 0, 0, 0, 6, chained⟩

/-- Changes the 64-bit word at an address by f; rel: as a release at .sys scope. add: the word is read, as an atomic. Poisoned data
fail every such access (R502). -/
def State.matinsWord (s : State) (part a : Nat) (rel add : Bool) (f : Nat → Nat) : Answer :=
  match s.matinsPlace part a 8 (if add then permR + permW else permW) with
  | (.error (.inl c), u) => .fail c u
  | (.error (.inr k), _) => .wait k
  | (.ok (tensor, pa), u) =>
    let k := if tensor then tensorKey pa else ctlKey pa
    if poisoned u k 8 then .fail 4 u
    else
      let old := SMap.find? u.recs (k / 128)
      let r := u.matinsRec (add && match old with
        | some q => q.ctx != 0xFFFE || q.pkg != u.pkg
        | none => false)
      let u := if tensor then u.put k 8 (f (readMem u.mem k 8)) else (u.homeAtomic pa 8 f).2
      .ok 0 { u with recs := if rel then SMap.insert u.recs (k / 128) r else SMap.erase u.recs (k / 128) }

/-! ### Packets (R355, R356) -/

def pktType (m : Nat) : Nat := bits m 7 0
def pktWord (m k : Nat) : Nat := bits m (127 + 64 * k) (64 + 64 * k)
def pktTag (m : Nat) : Nat := bits m 63 32
def pktBarrier (m : Nat) : Bool := m.testBit 8

/-- A control-space address of a packet. -/
def ctlAddr (a : Nat) : Bool := a / 2 ^ 60 == 1 && a % 8 == 0

/-- The image keeps R354 to R356. -/
def packetOk (m : Nat) : Bool :=
  let w := pktWord m
  bits m 511 320 == 0 && bits m 31 11 == 0 && (pktType m == 1 || bits m 10 9 == 0) &&
    match pktType m with
    | 0 | 5 => w 0 == 0 && w 1 == 0 && w 2 == 0 && w 3 == 0
    | 1 => (w 2 == 0 || ctlAddr (w 2)) && !(w 3).testBit 63
    | 2 => w 1 == 0 && w 2 == 0 && w 3 == 0
    | 3 => ctlAddr (w 0) && decide (w 2 < 4) && w 3 == 0
    | 4 => ctlAddr (w 0) && decide (w 2 < 2) && w 3 == 0
    | 6 => (w 0 == 0 || ctlAddr (w 0)) && w 1 == 0 && w 2 == 0 && w 3 == 0
    | _ => false

/-! ### Queues (R409 to R412) -/

def State.qctl (s : State) (q : Nat) : Nat := s.hubGet 0x401 q
def State.qpart (s : State) (q : Nat) : Nat := s.qctl q % 16
def State.qprio (s : State) (q : Nat) : Nat := bits (s.qctl q) 6 4
def State.qenabled (s : State) (q : Nat) : Bool := (s.qctl q).testBit 7

/-- Entries of a queue's ring. -/
def State.ringSize (s : State) (q : Nat) : Nat := 2 ^ (bits (s.qctl q) 15 12 + 4)

/-- The next packet of a queue that has not begun. -/
def Queue.next? (k : Queue) : Option Entry := k.entries.find? fun e => !e.begun

/-- Begun packets, which stand before it. -/
def Queue.begunOnes (k : Queue) : List Entry := k.entries.filter fun e => e.begun

/-- A WAIT of the queue has begun and not completed. -/
def Queue.waits (k : Queue) : Bool := k.begunOnes.any fun e => pktType e.image == 3

/-- State code of R412. -/
def State.queueState (s : State) (q : Nat) : Nat :=
  let k := s.queue q
  if !s.qenabled q then 0
  else if k.suspended then 5
  else if k.paused then 4
  else if k.entries.isEmpty then 1
  else if k.waits then 3
  else match k.next? with
    | some e => if pktBarrier e.image && !k.begunOnes.isEmpty then 3 else 2
    | none => 2

/-- What R357, R120 and R168 ask before the next packet may begin. -/
def mayBegin (k : Queue) (e : Entry) : Bool :=
  let before := k.begunOnes
  !k.waits && !(pktBarrier e.image && !before.isEmpty) &&
    match pktType e.image with
    | 2 => before.all fun d => pktType d.image != 1 && pktType d.image != 2
    | 4 | 5 => before.isEmpty
    | _ => true

/-- The event that begins a packet. -/
def beginEvent (type : Nat) : Instr :=
  match type with
  | 0 => .nopPacket
  | 1 => .launchBegin
  | 2 => .collectiveBegin
  | 3 => .waitBegin
  | 4 => .signalBegin
  | 5 => .fencePacket
  | _ => .markerPacket

/-- The next packet of queue q, if it may begin now. -/
def State.nextPacket (s : State) (q : Nat) : Option Entry :=
  let k := s.queue q
  if s.qenabled q && !k.paused && !k.suspended then
    match k.next? with
    | some e => if mayBegin k e then some e else none
    | none => none
  else none

/-- Posts the begin of the next packet. -/
def State.advance (s : State) (q : Nat) : State :=
  match s.nextPacket q with
  | some e => s.post (beginEvent (pktType e.image)) [q, e.index]
  | none => s

/-- A packet of the stated type and INDEX that begins now: its entry, and the state in which it has begun. -/
def State.begin? (s : State) (type : Nat) : Option (Entry × State) :=
  let q := s.arg 0
  match s.nextPacket q with
  | some e =>
    if pktType e.image = type ∧ e.index = s.arg 1 then
      let k := s.queue q
      some (e, s.setQueue q { k with entries := k.entries.map fun d =>
        if d.index = e.index then { d with begun := true } else d })
    else none
  | none => none

/-- A packet completes: its entry is free, QDONE counts it, and an emptied queue keeps no positive deficit (R418). A queue
that leaves Waiting by it is a placement opportunity (R417). -/
def State.completePacket (s : State) (q index : Nat) : State :=
  let k := s.queue q
  let es := k.entries.filter fun e => e.index != index
  let d := if es.isEmpty then Min.min k.deficit 0 else k.deficit
  let t := s.setQueue q { k with entries := es, deficit := d }
  let t := t.hubSet 0x408 q ((t.hubGet 0x408 q + 1) % 2 ^ 32)
  let t := t.advance q
  if s.queueState q = 3 ∧ t.queueState q ≠ 3 then t.post .placementOpportunity [] else t

/-- PAUSE: the queue begins, places and resumes nothing; a collective begun on it is suspended (R178, R412). -/
def State.pauseQueue (s : State) (q : Nat) : State :=
  let ns : List (Nat × Nat) := s.colls.filterMap fun (n, c) => if c.queue = q then some (n, c.rank) else none
  let t := s.setQueue q { s.queue q with paused := true, suspended := (s.queue q).suspended || !ns.isEmpty }
  ns.foldl (fun t (n, r) => t.post .suspendNotice [n, 2 * r]) t

/-- R502: an event of type 6, and the queue pauses. -/
def State.wordFailure (s : State) (q code a : Nat) : State := (s.eventRecord 6 q 0 code a).pauseQueue q

/-! ### Insertion (R351 to R354, R413) -/

/-- The ring entry that a packet takes: the first free one from its INDEX on, modulo the ring, for packets complete out of order
(R409, log 44). -/
def Queue.freeSlot (k : Queue) (size n : Nat) : Nat :=
  ((List.range size).find? fun i => k.entries.all fun e => e.slot != (n + i) % size).map (fun i => (n + i) % size) |>.getD (n % size)

/-- Inserts a packet image: the code of R353 and INDEX. device: the partition of an inserting program. -/
def State.insertPacket (s : State) (device : Option Nat) (q m : Nat) : Nat × Nat × State :=
  if 4096 ≤ q then (1, 0, s)
  else
    let refused := match device with
      | some p => s.qpart q != p || !(s.qctl q).testBit 8
      | none => false
    let k := s.queue q
    if refused || !s.qenabled q then (2, 0, s)
    else if !packetOk m then (3, 0, s)
    else if s.ringSize q ≤ k.entries.length then (4, 0, s)
    else
      let n := s.hubGet 0x407 q
      let slot := k.freeSlot (s.ringSize q) n
      let t := s.setQueue q { k with entries := k.entries ++ [⟨n, slot, m, false⟩] }
      let t := t.hubSet 0x407 q ((n + 1) % 2 ^ 32)
      let off := t.homeBase + (t.hubGet64 0x402 q + 64 * slot) % 2 ^ 36
      (0, n % 0x10000, (t.homeStoreOr off 64 m).advance q)

/-- qput: each lane's packet image is read; the insertion follows. -/
def execQput (d a la : Nat) (s : State) :=
  issue (.qput d a la) s fun b act t =>
    match t.ctx? b.ctx, t.wave? b.ctx b.wave with
    | some x, some v =>
      let ls := v.present act
      if ls.isEmpty then .done t
      else match readImages s t b x v act 64 (ls.map fun l => (l, v.pair a l)) with
        | .ok ms t =>
          let steps := ms.map fun (l, m) => (l, (v.reg d l).toNat, m)
          .done ((t.launchAt t.thisId b ls (.insertion d steps)).post .queueInsertion [t.thisId])
        | .fail k u => .miss k u
        | .wait u => .stall u
    | _, _ => .done t

/-- QUEUE_INSERTION: id. The lanes' insertions, ascending, with their statuses; the context keeps its last 16. -/
def execQueueInsertion (s : State) : Host.Outcome State Fault Refusal :=
  let id := s.arg 0
  .next (match s.op? id with
    | some o => match o.kind with
      | .insertion d steps =>
        match s.ctx? o.ctx with
        | some x =>
          let t := steps.foldl (fun (t : State) (l, q, m) =>
            let (code, n, u) := t.insertPacket (some x.part) q m
            let u := u.setReg o.ctx o.wave d l (word (code + n * 0x10000))
            if code = 0 then u.modCtx o.ctx fun y => { y with inserts := ((q, n, pktTag m) :: y.inserts).take 16 } else u) s
          t.endOp id
        | none => s.endOp id
      | _ => s
    | none => s)

/-- QPUT_REGISTER: the packet staged in QPKT0 to QPKT15 of queue QSEL; QPSTAT receives the status. -/
def State.qputRegister (s : State) : State :=
  let q := s.hubGet 0x400 0 % 4096
  let m := (List.range 16).foldl (fun a k => a + s.hubGet (0x410 + k) q * 2 ^ (32 * k)) 0
  let (code, n, t) := s.insertPacket none q m
  t.hubSet 0x421 0 (code + n * 0x10000)

def execQputRegister (s : State) : Host.Outcome State Fault Refusal := .next s.qputRegister

/-! ### NOP, FENCE, MARKER, SIGNAL and WAIT (R357, R424, R502) -/

/-- NOP_PACKET: queue, INDEX. -/
def execNopPacket (s : State) : Host.Outcome State Fault Refusal :=
  .next (match s.begin? 0 with
    | some (e, t) => t.completePacket (s.arg 0) e.index
    | none => s)

/-- FENCE_PACKET: queue, INDEX. -/
def execFencePacket (s : State) : Host.Outcome State Fault Refusal :=
  .next (match s.begin? 5 with
    | some (e, t) => t.completePacket (s.arg 0) e.index
    | none => s)

/-- MARKER_PACKET: queue, INDEX. -/
def execMarkerPacket (s : State) : Host.Outcome State Fault Refusal :=
  let q := s.arg 0
  .next <| s.inTurn .markerPacket fun s => match s.begin? 6 with
    | some (e, t) =>
      let part := t.qpart q
      let t := if t.traceOn part 4 then t.produce part 1 32 (pktTag e.image + q * 2 ^ 32) else t
      let a := pktWord e.image 0
      if a = 0 then t.completePacket q e.index
      else match t.matinsWord part a false false (fun _ => s.clock.toNat) with
        | .ok _ u => u.completePacket q e.index
        | .fail c u => (u.wordFailure q c a).completePacket q e.index
        | .wait k => s.waitOr k .markerPacket s.args
    | none => s

/-- SIGNAL_BEGIN: queue, INDEX. -/
def execSignalBegin (s : State) : Host.Outcome State Fault Refusal :=
  .next (match s.begin? 4 with
    | some (e, t) => t.post .signalComplete [s.arg 0, e.index]
    | none => s)

/-- A begun packet of a queue, by its INDEX. -/
def State.begunPacket (s : State) (q index : Nat) : Option Entry :=
  (s.queue q).entries.find? fun e => e.begun && e.index == index

/-- SIGNAL_COMPLETE: queue, INDEX. The word is written, or added to at its home, as a release at .sys scope. -/
def execSignalComplete (s : State) : Host.Outcome State Fault Refusal :=
  let q := s.arg 0
  .next <| s.inTurn .signalComplete fun s => match s.begunPacket q (s.arg 1) with
    | some e =>
      if pktType e.image ≠ 4 then s
      else
        let a := pktWord e.image 0
        let y := pktWord e.image 1
        let add := decide (pktWord e.image 2 = 1)
        match s.matinsWord (s.qpart q) a true add (fun x => if add then (x + y) % 2 ^ 64 else y) with
        | .ok _ u => u.completePacket q e.index
        | .fail c u => (u.wordFailure q c a).completePacket q e.index
        | .wait k => s.waitOr k .signalComplete s.args
    | none => s

/-- WAIT_BEGIN: queue, INDEX. -/
def execWaitBegin (s : State) : Host.Outcome State Fault Refusal :=
  .next (match s.begin? 3 with
    | some (e, t) => t.post .waitPoll [s.arg 0, e.index, s.clock.toNat]
    | none => s)

/-- Cycles of the arithmetic clock in n nanoseconds (R29). -/
def State.nanos (s : State) (n : Nat) : Nat := if bits (s.hubGet 0x800 0) 2 0 = 1 then n * 7 / 10 else n * 14 / 10

/-- The condition of a WAIT. -/
def waitMet (m x : Nat) : Bool :=
  let y := pktWord m 1
  match pktWord m 2 with
  | 0 => x == y
  | 1 => x != y
  | 2 => decide (y ≤ x)
  | _ => decide (x < y)

/-- WAIT_POLL: queue, INDEX, the clock at which the read is due: 250 ns to 2 µs after the last. -/
def execWaitPoll (s : State) : Host.Outcome State Fault Refusal :=
  let q := s.arg 0
  .next <| s.inTurn .waitPoll fun s => match s.begunPacket q (s.arg 1) with
    | some e =>
      if pktType e.image ≠ 3 then s
      else if s.clock.toNat < s.arg 2 then s.later .waitPoll s.args
      else
        let a := pktWord e.image 0
        let gap := s.nanos 250 + Config.freeNat s.free % (s.nanos 2000 - s.nanos 250 + 1)
        match s.matinsRead (s.qpart q) a 8 with
        | .ok x u =>
          if waitMet e.image x then u.completePacket q e.index
          else ({ u with free := u.free + 1 } : State).post .waitPoll [q, e.index, s.clock.toNat + gap]
        | .fail c u => (u.wordFailure q c a).completePacket q e.index
        | .wait k => s.waitOr k .waitPoll s.args
    | none => s

end Sys2Proof.Machine
end

