-- ==== Sys2Proof/Machine/Place.lean ====
section
/-! DEFINITION. Place.lean: launches (R58, R415, R417), the choice of a queue (R418, R422, R423), placement of spans on cores (R22,
R51, R318, R419), resumption (R407), and queue commands (R411, R412). -/
namespace Sys2Proof.Machine

/-! ### Launch descriptors (R57, R58, R415) -/

/-- Scratchpad bytes of a carve-out code (R68). -/
def carveScratch (c : Nat) : Nat := 0x10000 + 0x8000 * c

/-- The first rejection code of a descriptor that could be read, or 0. -/
def State.descCode (s : State) (part d : Nat) : Nat :=
  let f (hi lo : Nat) : Nat := bits d hi lo
  let bx := f 137 128
  let by' := f 147 138
  let bz := f 157 148
  let sx := f 165 160
  let sy := f 171 166
  let sz := f 177 172
  let entry := f 63 0
  let acc := s.hubGet 0x80C 0
  if f 511 256 ≠ 0 ∨ f 191 178 ≠ 0 ∨ f 159 158 ≠ 0 ∨ f 127 103 ≠ 0 ∨ f 71 71 ≠ 0 then 2
  else if 32 < f 99 94 ∨ 32 < f 93 88 ∨ 16 < f 87 83 ∨ 1024 < f 82 72 ∨ bx * by' * bz = 0 ∨ 512 < bx * by' * bz ∨
      sx * sy * sz = 0 ∨ 48 < sx * sy * sz ∨ f 223 192 % sx ≠ 0 ∨ f 239 224 % sy ≠ 0 ∨ f 255 240 % sz ≠ 0 then 3
  else if f 70 68 = 7 ∨ carveScratch (f 70 68) < 256 * f 82 72 then 4
  else if entry % 2 = 1 ∨ (addrSpace entry ≠ 1 ∧ addrSpace entry ≠ 2) ∨
      (addrSpace entry = 2 ∧ addrPkg entry ≠ s.pkg) then 5
  else if (f 102 102 = 1 ∧ acc.testBit 0 = false) ∨ (f 101 101 = 1 ∧ acc.testBit 4 = false) ∨
      (f 100 100 = 1 ∧ acc.testBit 5 = false) then 6
  else if 1024 < (bx * by' * bz + 31) / 32 * (8 * (f 67 64 + 1)) then 7
  else if s.hubGet64 0x423 part = 0 then 8
  else 0

/-- Spans of a launch. -/
def descSpans (d : Nat) : Nat :=
  bits d 223 192 / bits d 165 160 * (bits d 239 224 / bits d 171 166) * (bits d 255 240 / bits d 177 172)

/-- Completes a launch: a nonzero W2 receives W3, or 2^63 with the rejection code, as a release at .sys scope (R357, R412,
R502). While the word's home cannot serve, the completion waits; a rejected or discarded launch has then completed without it
(R357, R412). -/
def State.finishLaunch (s : State) (n : Nat) : State :=
  match SMap.find? s.launches n with
  | none => s
  | some l =>
    let a := pktWord l.image 2
    let v := if l.code = 0 then pktWord l.image 3 else 2 ^ 63 + l.code
    let done (t : State) : State := if l.done then t else t.completePacket l.queue l.index
    let fin (t : State) : State := done { t with launches := SMap.erase t.launches n }
    if a = 0 then fin s
    else match s.matinsWord l.part a true false (fun _ => v) with
      | .ok _ u => fin u
      | .fail c u => fin (if u.qpart l.queue = l.part then u.wordFailure l.queue c a else u.eventRecord 6 l.queue 0 c a)
      | .wait k =>
        if l.code = 0 then s.waitOr k .launchComplete [n]
        else (done { s with launches := SMap.insert s.launches n { l with done := true } }).waitOr k .launchComplete [n]

/-- A launch enters the table of begun launches, under a new number. -/
def State.addLaunch (s : State) (l : Launch) : State :=
  { s with nextId := s.nextId + 1, launches := SMap.insert s.launches (s.nextId + 1) l }

/-- A launch is rejected, or discarded, with a code: its event of type 1, and it completes at once. -/
def State.launchReject (s : State) (q : Nat) (e : Entry) (code : Nat) : State :=
  let k := s.queue q
  let t := s.setQueue q { k with entries := k.entries.map fun d => if d.index = e.index then { d with begun := true } else d }
  let t := (t.eventRecord 1 q 0 code (pktWord e.image 0)).addLaunch ⟨q, e.index, e.image, 0, 0, 0, code, s.qpart q, false⟩
  t.finishLaunch t.nextId

/-- LAUNCH_BEGIN: queue, INDEX. -/
def execLaunchBegin (s : State) : Host.Outcome State Fault Refusal :=
  let q := s.arg 0
  .next <| s.inTurn .launchBegin fun s => match s.begin? 1 with
    | some (e, t) =>
      let a := pktWord e.image 0
      let part := t.qpart q
      let read := if a % 64 = 0 then t.matinsRead part a 64 else .fail 1 t
      match read with
      | .wait k => s.waitOr k .launchBegin s.args
      | .fail _ u => (u.launchReject q e 1).advance q
      | .ok d u =>
        let code := u.descCode part d
        if code ≠ 0 then (u.launchReject q e code).advance q
        else
          let u := u.addLaunch ⟨q, e.index, e.image, d, 0, descSpans d, 0, part, false⟩
          let u := if descSpans d = 0 then u.finishLaunch u.nextId else u
          (u.advance q).post .placementOpportunity []
    | none => s

/-- LAUNCH_COMPLETE: launch number. -/
def execLaunchComplete (s : State) : Host.Outcome State Fault Refusal :=
  let n := s.arg 0
  .next <| s.inTurn .launchComplete fun s => match SMap.find? s.launches n with
    | some l =>
      if (l.spans ≤ l.next ∨ l.code ≠ 0) ∧ s.ctxs.all (fun (_, x) => x.launch != n) = true then s.finishLaunch n else s
    | none => s

/-! ### Fitting (R22, R51, R69, R318) -/

/-- Contexts on core k. -/
def State.onCore (s : State) (k : Nat) : List Ctx :=
  s.ctxs.filterMap fun (_, x) => if x.placed ∧ x.place = k then some x else none

/-- A block of descriptor d fits core k beside the blocks on it. -/
def State.fits (s : State) (d k : Nat) : Bool :=
  let xs := s.onCore k
  let waves (d : Nat) : Nat := (bits d 137 128 * bits d 147 138 * bits d 157 148 + 31) / 32
  let regs (d : Nat) : Nat := waves d * (8 * (bits d 67 64 + 1))
  let sum (f : Nat → Nat) : Nat := xs.foldl (fun a x => a + f x.desc) (f d)
  decide (sum regs ≤ 1024) && decide (sum (fun d => 256 * bits d 82 72) ≤ carveScratch (bits d 70 68)) &&
    decide (sum (fun d => bits d 99 94) ≤ 64) && decide (sum waves ≤ 16) && decide (sum (fun d => bits d 102 102) ≤ 1) &&
    xs.all fun x => bits x.desc 70 68 == bits d 70 68

/-- Lowest base of a cluster for a span of n blocks, of which those of the listed indices are to be placed. -/
def State.baseIn (s : State) (d n : Nat) (is : List Nat) (cluster : Nat) : Option Nat :=
  (List.range (49 - n)).find? fun b => is.all fun i => s.fits d (48 * cluster + b + i)

/-- Clusters open to a partition: those of PMASK, on dies that are in service (R29, R422). -/
def State.clusterOpen (s : State) (part cluster : Nat) : Bool :=
  (s.hubGet64 0x423 part).testBit cluster &&
    (if bits (s.hubGet 0x800 0) 2 0 = 2 then true else cluster < 16 && bits (s.hubGet 0x800 0) 2 0 == 1)

/-- The cluster and base for the listed blocks of a span: the first cluster that fits after the last one used for the
partition. -/
def State.spot (s : State) (part d n : Nat) (is : List Nat) (die : Option Nat) : Option (Nat × Nat) :=
  let start := SMap.get 0 s.placed part
  ((List.range 64).map fun i => (start + i) % 64).findSome? fun c =>
    if s.clusterOpen part c && (match die with
        | some k => c / 16 == k
        | none => true) then (s.baseIn d n is c).map fun b => (c, b)
    else none

/-! ### What a queue has ready (R53, R417) -/

/-- A span ready to be placed: a saved context's span, or the next span of a launch; with its cluster and base. -/
inductive Ready where
  | saved (c cluster base : Nat)
  | fresh (launch cluster base : Nat)
  deriving DecidableEq, Repr

/-- Blocks of a span. -/
def descSpanBlocks (d : Nat) : Nat := bits d 165 160 * bits d 171 166 * bits d 177 172

/-- The spot of a saved span: on the die it is pinned to, if it is. -/
def State.savedSpot (s : State) (c : Nat) (x : Ctx) : Option (Nat × Nat) :=
  let pin := (s.spanOf c).findSome? fun b => match s.ctx? b with
    | some y => if y.pinned then some y.die else none
    | none => none
  let is := (s.spanOf c).filterMap fun b => (s.ctx? b).map fun y => y.index
  s.spot x.part x.desc x.spanBlocks is pin

/-- Keys of a list of saved blocks in the order of first placement. -/
def insertSaved (e : Nat × Nat × Nat) : List (Nat × Nat × Nat) → List (Nat × Nat × Nat)
  | [] => [e]
  | d :: ds => if e.1 < d.1 ∨ (e.1 = d.1 ∧ e.2.1 ≤ d.2.1) then e :: d :: ds else d :: insertSaved e ds

/-- First blocks of the saved spans of a queue, in the order of their first placement: launch, span, context. -/
def State.savedOf (s : State) (q : Nat) : List (Nat × Nat × Nat) :=
  s.ctxs.foldl (fun a (c, x) =>
    if x.queue = q ∧ x.state = .saved ∧ (s.spanOf c).head? = some c ∧
        s.spanAll c (fun y : Ctx => y.state == .saved && !s.imagePoisoned y true) = true then
      insertSaved (x.launch, x.span, c) a
    else a) []

/-- The earliest begun launch of a queue that has unplaced spans. -/
def State.freshOf (s : State) (q : Nat) : Option (Nat × Launch) :=
  s.launches.find? fun (_, l) => l.queue == q && l.code == 0 && decide (l.next < l.spans)

/-- The context table has room for n blocks. -/
def State.tableRoom (s : State) (n : Nat) : Bool := decide (s.ctxs.length + n ≤ 65536)

/-- What a queue has ready. -/
def State.ready (s : State) (q : Nat) : Option Ready :=
  match (s.savedOf q).findSome? (fun (_, _, c) => match s.ctx? c with
      | some x => (s.savedSpot c x).map fun (k, b) => Ready.saved c k b
      | none => none) with
  | some r => some r
  | none => match s.freshOf q with
    | some (n, l) =>
      if s.ctxs.any fun (_, x) => x.launch == n && (x.state == .saved || x.state == .restoring || x.goal == .saved) then none
      else if !s.tableRoom (descSpanBlocks l.desc) then none
      else (s.spot (s.qpart q) l.desc (descSpanBlocks l.desc) (List.range (descSpanBlocks l.desc)) none).map fun (k, b) => Ready.fresh n k b
    | none => none

/-- The queue's cap is reached in this epoch (R422). -/
def State.capReached (s : State) (q : Nat) : Bool :=
  s.hubGet 0x406 q != 0 && decide (s.hubGet 0x406 q * 1024 * 16 ≤ s.accrual q)

/-- The set C, ascending, each queue with what it has ready. -/
def State.candidates (s : State) : List (Nat × Ready) :=
  s.queues.filterMap fun (q, k) =>
    if s.qenabled q && !k.paused && !k.suspended && !k.entries.isEmpty && !s.capReached q then
      (s.ready q).map fun r => (q, r)
    else none

/-! ### Choosing a queue (R418, R423) -/

/-- Quantum in core-cycles. -/
def State.quantum (s : State) (q : Nat) : Nat := Nat.max 1 (s.hubGet 0x404 q) * 1024

/-- First queue of a list at or after lo, with wrap. -/
def firstFrom (lo : Nat) (qs : List Nat) : Nat :=
  match least (qs.filter fun q => lo ≤ q) with
  | some q => q
  | none => (least qs).getD 0

/-- The choice by deficit. -/
def State.chooseDeficit (s : State) (cs : List Nat) : Nat × State :=
  let p := cs.foldl (fun a q => Nat.max a (s.qprio q)) 0
  let ls := cs.filter fun q => s.qprio q == p
  let t :=
    if ls.any fun q => decide (0 < (s.queue q).deficit) then s
    else
      let need (q : Nat) : Nat := ((-(s.queue q).deficit).toNat) / s.quantum q + 1
      let k := (least (ls.map need)).getD 1
      ls.foldl (fun t q =>
        let x := t.queue q
        t.setQueue q { x with deficit := Min.min (x.deficit + ((k * s.quantum q : Nat) : Int)) ((4 * s.quantum q : Nat) : Int) }) s
  let q := firstFrom (SMap.get 0 t.ptrs p) (ls.filter fun q => decide (0 < (t.queue q).deficit))
  (q, { t with ptrs := SMap.set 0 t.ptrs p q })

/-- One step of the generator. -/
def lotteryStep (s : Nat) : Nat := if s % 2 = 1 then Nat.xor (s / 2) 0xD800000000000000 else s / 2

/-- The queue whose ticket range holds r. -/
def ticketOwner (s : State) : List Nat → Nat → Nat
  | [], _ => 0
  | [q], _ => q
  | q :: qs, r =>
    let n := s.hubGet 0x405 q % 0x10000
    if r < n then q else ticketOwner s qs (r - n)

/-- The choice by lottery. -/
def State.chooseLottery (s : State) (cs : List Nat) : Nat × State :=
  let g := lotteryStep (s.hubGet64 0x426 0)
  let t := (s.hubSet 0x426 0 (g % 2 ^ 32)).hubSet 0x427 0 (g / 2 ^ 32)
  let total := cs.foldl (fun a q => a + s.hubGet 0x405 q % 0x10000) 0
  if total = 0 then (cs.headD 0, t) else (ticketOwner s cs (g % 2 ^ 32 * total / 2 ^ 32), t)

/-! ### Placing (R21, R38, R39, R51, R69, R128, R397) -/

/-- The n lowest free wave slots of a core. -/
def State.freeSlots (s : State) (k n : Nat) : List Nat :=
  let used := (s.onCore k).flatMap fun x => x.waves.map fun (_, v) => v.slot
  ((List.range 16).filter fun i => !used.contains i).take n

/-- Prepares a core for a block of descriptor d: its carve-out, and the L1 where that or ACQ asks it. -/
def State.carveCore (s : State) (k d : Nat) (acq : Bool) : State :=
  let x := s.core k
  let c := bits d 70 68
  if x.carve ≠ c then (s.setCore k { x with carve := c }).dropL1 k else if acq then s.dropL1 k else s

/-- The lanes of wave w of a block of n threads at their first instruction (R38, R39), absent lanes left out. -/
def startLanes (w n : Nat) (pc : Dword) : List (Nat × Lane) :=
  (List.range 32).filterMap fun l =>
    if 32 * w + l < n then some (l, Lane.start .present pc)
    else if 32 * w + l / 4 * 4 < n then some (l, Lane.start .helper pc)
    else none

/-- A wave with the kernel argument in v0, v1 of each lane. -/
def startWave (slot w n : Nat) (pc : Dword) (arg : Nat) : Wave :=
  let ls := startLanes w n pc
  let v := Wave.start slot ls
  let regs := ls.foldl (fun m (l, _) => SMap.set 0 (SMap.set 0 m l (word arg)) (32 + l) (word (arg / 2 ^ 32))) []
  { v with regs := regs }

/-- Places block i of the next span of a launch. -/
def State.placeBlock (n : Nat) (l : Launch) (cluster base : Nat) (s : State) (i : Nat) : State :=
  let d := l.desc
  let q := l.queue
  let part := s.qpart q
  let k := 48 * cluster + base + i
  let nx := bits d 223 192 / bits d 165 160
  let ny := bits d 239 224 / bits d 171 166
  let x := l.next % nx * bits d 165 160 + i % bits d 165 160
  let y := l.next / nx % ny * bits d 171 166 + i / bits d 165 160 % bits d 171 166
  let z := l.next / (nx * ny) * bits d 177 172 + i / (bits d 165 160 * bits d 171 166)
  let t := s.carveCore k d (l.image.testBit 9)
  let threads := bits d 137 128 * bits d 147 138 * bits d 157 148
  let slots := t.freeSlots k ((threads + 31) / 32)
  let waves := (List.range slots.length).map fun w =>
    (w, startWave (slots.getD w 0) w threads (BitVec.ofNat 64 (bits d 63 0)) (pktWord l.image 1))
  let c := freeCtxNum t
  let ctl := t.qctl q
  let tvec := BitVec.ofNat 64 (t.hubGet64 0x40C q)
  let tscr := BitVec.ofNat 64 (t.hubGet64 0x40E q)
  let ctx := Ctx.start part (t.hubGet 0x701 part % 0x10000) q n l.next i (BitVec.ofNat 64 (pktWord l.image 0)) d tvec tscr
    (x, y, z) (k / 768) (k % 768) (t.core k).gen waves (t.hubGet 0x80C 0) (ctl.testBit 9) t.clock.toNat l.index
  let ctx := { ctx with dbgen := ctl.testBit 10 && !t.conf part }
  ({ t with ctxs := SMap.insert t.ctxs c ctx } : State).blockEvent c 1

/-- Places the next span of a launch. -/
def State.placeFresh (s : State) (n cluster base : Nat) : State :=
  match SMap.find? s.launches n with
  | none => s
  | some l =>
    let t := (List.range (descSpanBlocks l.desc)).foldl (State.placeBlock n l cluster base) s
    { t with
      launches := SMap.insert t.launches n { l with next := l.next + 1 }
      placed := SMap.set 0 t.placed (t.qpart l.queue) ((cluster + 1) % 64) }

/-- The cap of a queue is watched while it has blocks on cores (R422). -/
def State.watchCap (s : State) (q : Nat) : State :=
  if s.hubGet 0x406 q = 0 then s
  else
    let t := if s.agenda.any fun (e, _) => e == .epochBoundary then s else s.post .epochBoundary [s.epochNow + 1]
    if t.agenda.any fun (e, as) => e == .capReached && as == [q, t.epochNow] then t else t.post .capReached [q, t.epochNow]

/-- A saved span takes its cores, and its state is written back to them: it is being restored (R51, R407 steps 1 and 2). -/
def State.placeSaved (s : State) (c cluster base : Nat) : State :=
  match s.ctx? c with
  | none => s
  | some x =>
    let t := (s.spanOf c).foldl (fun t b => match t.ctx? b with
      | some y =>
        let k := 48 * cluster + base + y.index
        let t := t.carveCore k y.desc true
        let slots := t.freeSlots k y.nwaves
        t.modCtx b fun z => { z with
          state := .restoring, die := k / 768, core := k % 768, since := t.clock.toNat
          waves := SMap.mapVals z.waves fun w v => { v with slot := slots.getD w 0 } }
      | none => t) s
    let t := (s.spanOf c).foldl State.loadImage t
    { t with placed := SMap.set 0 t.placed x.part ((cluster + 1) % 64) }

/-- Places what the chosen queue has ready. -/
def State.place (s : State) (q : Nat) (r : Ready) : State :=
  (match r with
    | .fresh n k b => s.placeFresh n k b
    | .saved c k b => (s.placeSaved c k b).post .contextResume [c]).watchCap q

/-- Choices one after another until C is empty. -/
def State.placeAll : Nat → State → State
  | 0, s => s
  | n + 1, s =>
    let cs := s.candidates
    if cs.isEmpty then s
    else
      let (q, t) := if s.hubGet 0x425 0 % 2 = 1 then s.chooseLottery (cs.map (·.1)) else s.chooseDeficit (cs.map (·.1))
      match cs.find? fun (p, _) => p == q with
      | some (_, r) => State.placeAll n (t.place q r)
      | none => t

/-- Type 4 events: the context table is full while a block waits (R397). -/
def State.tableFull (s : State) : State :=
  s.queues.foldl (fun t (q, _) => match s.freshOf q with
    | some (_, l) => if s.tableRoom (descSpanBlocks l.desc) then t else t.eventRecord 4 q 0 0 0
    | none => t) s

/-- PLACEMENT_OPPORTUNITY. A core holds at most sixteen blocks, so the choices end. -/
def execPlacementOpportunity (s : State) : Host.Outcome State Fault Refusal :=
  .next ((State.placeAll 49153 s).tableFull)

/-! ### Resumption (R126, R407) -/

/-- CONTEXT_RESUME: context. The span of a saved context is placed, if Matins has not placed it already; the tensor lines of its cores'
L1 are discarded (R407 step 3). -/
def execContextResume (s : State) : Host.Outcome State Fault Refusal :=
  let c := s.arg 0
  .next (
    let t : State := match s.ctx? c with
      | some x =>
        if x.state = .saved ∧ s.spanAll c (fun y : Ctx => y.state == .saved && !s.imagePoisoned y true) = true then
          match s.savedSpot c x with
          | some (k, b) => s.placeSaved c k b
          | none => s
        else s
      | none => s
    match t.ctx? c with
    | some x =>
      if x.state = .restoring then
        ((t.spanOf c).foldl (fun t b => match t.ctx? b with
          | some y => t.dropL1 y.place
          | none => t) t).post .restoreComplete [c]
      else t
    | none => t)

/-- A wave as it is restored: lanes that were parked are parked again on the same condition (R54); an event bit set while the context was
saved lets the lanes parked at wfe go on (R403). -/
def Wave.rewait (v : Wave) : Wave :=
  if v.event && v.lanes.any fun (_, n) => !n.exited && n.park == .wfe then v.signal else v

/-- One block of a restored span is resident, and what waited for it goes on. -/
def State.restoreBlock (s : State) (c : Nat) : State :=
  let t := s.blockEvent c 3
  let t := (t.targetOf c).foldl (fun t (n, r) => t.post .resumeNotice [n, 2 * r + 1]) t
  let ws := t.waiting.filter fun w : Waiting => w.home == restoreKey c
  let t : State := { t with
    waiting := t.waiting.filter fun w : Waiting => w.home != restoreKey c
    agenda := (ws.map fun w : Waiting => (w.event, w.args)) ++ t.agenda }
  t

/-- RESTORE_COMPLETE: context. The blocks of its span become resident together (R398) and issue again. -/
def execRestoreComplete (s : State) : Host.Outcome State Fault Refusal :=
  let bs := s.spanOf (s.arg 0)
  .next (
    if !bs.isEmpty && s.spanAll (s.arg 0) fun y : Ctx => y.state == .restoring then
      (bs.foldl State.restoreBlock (bs.foldl (fun t b => t.modCtx b fun y => { y with
        state := .resident, waves := SMap.mapVals y.waves fun _ v => v.rewait.settled }) s)).issueAgain bs
    else s)

/-- MATINS_PREEMPT: context. Matins pre-empts its span, unless the pool was full for it and has not grown since (R405). -/
def execMatinsPreempt (s : State) : Host.Outcome State Fault Refusal :=
  let c := s.arg 0
  .next (match s.ctx? c with
    | some x =>
      if x.state ≠ .resident ∨ x.goal ≠ .none ∨ s.unsaved.contains c = true then s
      else match s.preempt c with
        | some t => t
        | none => s.cannotSave c
    | none => s)

/-! ### Epochs and caps (R422) -/

/-- EPOCH_BOUNDARY: the epoch that begins. Every accrual starts anew. -/
def execEpochBoundary (s : State) : Host.Outcome State Fault Refusal :=
  .next (
    if s.clock.toNat < s.arg 0 * 2 ^ 20 then s.later .epochBoundary s.args
    else
      let t := (s.queues.map (·.1)).foldl State.enterEpoch s
      (t.queues.map (·.1)).foldl (fun t q =>
        if t.ctxs.any fun (_, x) => x.queue == q && x.placed then t.watchCap q else t) t)

/-- CAP_REACHED: queue, epoch. The first time in an epoch that the queue's accrual reaches its cap, an event of type 3. -/
def execCapReached (s : State) : Host.Outcome State Fault Refusal :=
  let q := s.arg 0
  let k := s.queue q
  .next (
    if s.arg 1 < s.epochNow then s.enterEpoch q
    else if s.epochNow < s.arg 1 ∨ s.hubGet 0x406 q = 0 ∨ (k.epoch = s.arg 1 ∧ k.capped = true) then s
    else if s.capReached q then s.noteCap q s.epochNow
    else if s.ctxs.any fun (_, x) => x.queue == q && x.placed then s.later .capReached s.args
    else s)

/-! ### Queue commands (R410 to R412) -/

/-- Sets or clears the refusal bit of QSTATE. -/
def State.queueRefused (s : State) (q : Nat) (r : Bool) : State := s.hubSet 0x40A q (if r then 8 else 0)

/-- UNPAUSE. -/
def State.unpauseQueue (s : State) (q : Nat) : State :=
  let ns : List (Nat × Nat) := s.colls.filterMap fun (n, c) => if c.queue = q then some (n, c.rank) else none
  let t := s.setQueue q { s.queue q with paused := false, suspended := false }
  let t := ns.foldl (fun t (n, r) => t.post .resumeNotice [n, 2 * r]) t
  (t.advance q).post .placementOpportunity []

/-- RESET discards what has not begun; a begun launch places no further span and completes with code 9. -/
def State.resetQueue (s : State) (q : Nat) : State :=
  let ns := s.launches.filter fun (_, l) => l.queue == q && l.code == 0
  let t := ns.foldl (fun (t : State) (n, (l : Launch)) =>
    ({ t with launches := SMap.insert t.launches n { l with code := 9 } } : State).eventRecord 1 q 0 9 (pktWord l.image 0)) s
  let gone := (s.queue q).entries.filter fun e => !e.begun
  let t := gone.foldl (fun t e =>
    if pktType e.image = 1 then t.launchReject q e 9 else t.completePacket q e.index) t
  ns.foldl (fun (t : State) (n, _) => t.launchCheck n) t

/-- A command of QCMD on a queue: 1 PAUSE, 2 UNPAUSE, 3 EVICT, 4 RESET; others are refused. -/
def State.queueCommand (s : State) (q cmd : Nat) : State :=
  let st := s.queueState q
  let ok := s.queueRefused q false
  match cmd with
  | 1 => if st = 0 then s.queueRefused q true else ok.pauseQueue q
  | 2 => if st = 4 ∨ st = 5 then ok.unpauseQueue q else s.queueRefused q true
  | 3 =>
    if st = 0 then s.queueRefused q true
    else
      let t := ok.pauseQueue q
      let cs := t.ctxs.filterMap fun (c, x) => if x.queue = q ∧ x.state = .resident then some c else none
      cs.foldl (fun t c => match t.ctx? c with
        | some x => if x.state = .resident ∧ x.goal = .none then t.post .matinsPreempt [c] else t
        | none => t) t
  | 4 => if st = 4 ∧ (s.colls.any fun (_, c) => c.queue == q) = false then ok.resetQueue q else s.queueRefused q true
  | _ => s.queueRefused q true

/-- QCMD writes on the queue selected by QSEL. -/
def execQueuePause (s : State) : Host.Outcome State Fault Refusal := .next (s.queueCommand (s.hubGet 0x400 0 % 4096) 1)
def execQueueUnpause (s : State) : Host.Outcome State Fault Refusal := .next (s.queueCommand (s.hubGet 0x400 0 % 4096) 2)
def execQueueEvict (s : State) : Host.Outcome State Fault Refusal := .next (s.queueCommand (s.hubGet 0x400 0 % 4096) 3)
def execQueueReset (s : State) : Host.Outcome State Fault Refusal := .next (s.queueCommand (s.hubGet 0x400 0 % 4096) 4)

/-- A write of QCTL on a queue, at machine level or not (R410, R411, R466). -/
def State.writeQctl (s : State) (q v : Nat) (machine : Bool) : State :=
  let old := s.qctl q
  let v := v % 0x10000 - (if v.testBit 11 then 0x800 else 0)
  let v := if machine then v else setBits v 9 9 (bits old 9 9)
  let fixed := old % 16 != v % 16 || bits old 15 12 != bits v 15 12
  if 12 < bits v 15 12 || (old.testBit 7 && fixed) || (old.testBit 7 && !v.testBit 7 && !(s.queue q).entries.isEmpty) ||
      (!old.testBit 7 && v.testBit 7 && s.partState (v % 16) != 1) then s.queueRefused q true
  else
    let t := (s.queueRefused q false).hubSet 0x401 q v
    if !old.testBit 7 && v.testBit 7 then
      let x := t.queue q
      ((t.hubSet 0x407 q 0).hubSet 0x408 q 0).setQueue q { x with deficit := 0, paused := false, suspended := false }
    else t

/-- QCTL_WRITE: the value written to QCTL of queue QSEL, and 1 at machine level. -/
def execQctlWrite (s : State) : Host.Outcome State Fault Refusal :=
  .next (s.writeQctl (s.hubGet 0x400 0 % 4096) (s.arg 0) (s.arg 1 == 1))

end Sys2Proof.Machine
end

