-- ==== Sys2Proof/Machine/Collective.lean ====
section
/-! DEFINITION. Collective.lean: collectives (R167 to R184, R492). An ALLREDUCE goes by the steps of its expansion, each of which
takes a chunk from one rank to another (R172); the chunks of every other operation go straight to their readers. What a rank of another
package sends comes with its event. -/
namespace Sys2Proof.Machine

/-! ### Parameter blocks (R169, R170) -/

def colOp (b : Nat) : Nat := bits b 3 0
def colEfmt (b : Nat) : Nat := bits b 15 12
def colRed (b : Nat) : Nat := bits b 17 16
def colGroup (b : Nat) : Nat := bits b 63 48
def colAux3 (b : Nat) : Nat := bits b 127 64
def colRoot (b : Nat) : Nat := bits b 447 428
def colTokb (b : Nat) : Nat := bits b 463 448
def colNexp (b : Nat) : Nat := bits b 479 464
def colCap (b : Nat) : Nat := bits b 511 480
def colCount (b : Nat) : Nat := bits b 543 512
def colTimeout (b : Nat) : Nat := bits b 575 544
def colSrc (b : Nat) : Nat := bits b 639 576
def colDst (b : Nat) : Nat := bits b 703 640
def colCaddr (b : Nat) : Nat := bits b 767 704
def colCval (b : Nat) : Nat := bits b 831 768
def colAux (b k : Nat) : Nat := bits b (895 + 64 * k) (832 + 64 * k)

/-- Bytes of a piece. -/
def colPiece (b : Nat) : Nat := colCount b * efmtBytes (colEfmt b)
/-- Bytes of a token row and of a record. -/
def colRow (b : Nat) : Nat := 16 * colTokb b
def colRecord (b : Nat) : Nat := 16 + colRow b

/-- Bytes that SRC holds and DST receives in a group of n ranks; of DISPATCH's DST and COMBINE's SRC, experts tells the local
expert indices. -/
def colSrcBytes (b n : Nat) (experts : List Nat) : Nat :=
  match colOp b with
  | 1 | 4 => n * colPiece b
  | 5 => colCount b * colRow b
  | 6 => (experts.foldl (fun m j => Nat.max m (j + 1)) 0) * colCap b * colRecord b
  | 7 => 0
  | _ => colPiece b

def colDstBytes (b n : Nat) (experts : List Nat) : Nat :=
  match colOp b with
  | 2 | 4 => n * colPiece b
  | 5 => (experts.foldl (fun m j => Nat.max m (j + 1)) 0) * colCap b * colRecord b
  | 6 => colCount b * colRow b
  | 7 => 0
  | _ => colPiece b

/-- The block breaks R169, R170 or R171 in itself; ok tells whether an address lies in the package's tensor space. R171 speaks of fields
unused by OP; CVAL, which CMODE 0 leaves unused, may then hold any value with bit 63 clear, and ALG any value for an OP other than
ALLREDUCE, which R172 gives no expansion: DESIGN CHOICE (log 46). -/
def colMalformed (b : Nat) (ok : Nat → Bool) : Bool :=
  let op := colOp b
  let e := colEfmt b
  let routed := op == 5 || op == 6
  bits b 427 128 != 0 || bits b 47 21 != 0 || bits b 11 4 != 0 || decide (7 < op) || colRed b == 3 ||
  (decide (1 < op) && colRed b != 0) || (colCval b).testBit 63 ||
  (if op ≤ 1 then !(e == 7 || e == 8 || e == 9 || e == 11 || e == 2) else if op ≤ 4 then decide (11 < e) else e != 0) ||
  (op != 3 && colRoot b != 0) ||
  (if routed then colTokb b == 0 || colNexp b == 0 || colCap b == 0
   else colTokb b != 0 || colNexp b != 0 || colCap b != 0 || colAux3 b != 0) ||
  (op != 5 && (colAux b 0 != 0 || colAux b 1 != 0 || colAux b 2 != 0)) ||
  (if op = 7 then colSrc b != 0 || colDst b != 0 || colCount b != 0 else !ok (colSrc b) || !ok (colDst b)) ||
  (op == 5 && !(ok (colAux b 0) && ok (colAux b 1) && ok (colAux b 2))) || (routed && !ok (colAux3 b)) ||
  (if b.testBit 20 then colCaddr b % 8 != 0 || addrSpace (colCaddr b) != 1
   else bits (colCaddr b) 63 46 != 0 || bits (colCaddr b) 31 28 != 0)

/-- SRC and DST overlap in a way that R171 forbids. -/
def colOverlap (b n : Nat) (experts : List Nat) : Bool :=
  let k := colSrcBytes b n experts
  let m := colDstBytes b n experts
  let meet := decide (0 < k ∧ 0 < m ∧ colSrc b < colDst b + m ∧ colDst b < colSrc b + k)
  meet && (!(colSrc b == colDst b && k == m) || colOp b == 2 || colOp b == 4 || colOp b == 5 || colOp b == 6)

/-- The fields in which the packets of a collective must agree. -/
def colSame (b c : Nat) : Bool :=
  colOp b == colOp c && colGroup b == colGroup c && colEfmt b == colEfmt c && colRed b == colRed c && colCount b == colCount c &&
    colRoot b == colRoot c && colCap b == colCap c && colNexp b == colNexp c && colTokb b == colTokb c

/-! ### Groups (R167, R171, R177) -/

/-- Domain offset of record i of a group entry's rank list. -/
def State.rankOff (s : State) (g i : Nat) : Nat := s.homeBase + (bits g 127 64 + 4 * i) % 2 ^ 36

/-- Rank i of a group entry: package and queue, as Matins reads them at the home, which recalls the line (R101). A poisoned record names
no package (R27). -/
def State.rankAt (s : State) (g i : Nat) : Nat × Nat :=
  let t := s.recall (s.rankOff g i / 128)
  let r := readMem t.mem (ctlKey (s.rankOff g i)) 4
  if poisoned t (ctlKey (s.rankOff g i)) 4 then (2 ^ 20, 0) else (bits r 31 12, bits r 11 0)

def groupRanks (g : Nat) : Nat := bits g 42 22

/-- The rank of a queue of this package. -/
def State.rankOf (s : State) (g q : Nat) : Option Nat := (List.range (groupRanks g)).find? fun i => s.rankAt g i == (s.pkg, q)

/-- Some rank of the group lies on a package that p holds of. -/
def State.groupHas (s : State) (g : Nat) (p : Nat → Bool) : Bool := (List.range (groupRanks g)).any fun i => p (s.rankAt g i).1

def State.group (s : State) (g : Nat) : Nat := SMap.get 0 s.groups g

/-- A rank's package is lost, or was since the entry was written. -/
def State.groupLost (s : State) (g : Nat) : Bool :=
  (s.group g).testBit 128 || s.groupHas (s.group g) fun p => SMap.get false s.dead p

/-- Some record of the rank list is poisoned. -/
def State.groupPoisoned (s : State) (g : Nat) : Bool := (List.range (groupRanks g)).any fun i => (s.rankAt g i).1 == 2 ^ 20

/-! ### Ranges of tensor memory accessed by Matins, in 16-byte units -/

/-- Reads n bytes at a, a multiple of 16. -/
def State.matinsRange (s : State) (part a n : Nat) : Answer :=
  (List.range ((n + 15) / 16)).foldl (fun r j => match r with
    | .ok v t => match t.matinsRead part (a + 16 * j) (Nat.min 16 (n - 16 * j)) with
      | .ok x u => .ok (v + x * 2 ^ (128 * j)) u
      | k => k
    | k => k) (.ok 0 s)

/-- Writes n bytes at a, a multiple of 16 or, for 4 bytes, of 4; check: translates alone. -/
def State.matinsPut (s : State) (part a n v : Nat) (check : Bool) : Answer :=
  (List.range ((n + 15) / 16)).foldl (fun r j => match r with
    | .ok _ t =>
      let m := Nat.min 16 (n - 16 * j)
      match t.matinsPlace part (a + 16 * j) m permW with
      | (.ok (_, pa), u) => .ok 0 (if check then u else u.engineStore (tensorKey pa) m (v / 2 ^ (128 * j) % 2 ^ 128))
      | (.error (.inl c), u) => .fail c u
      | (.error (.inr k), _) => .wait k
    | k => k) (.ok 0 s)

/-- Writes, each an address, bytes and a value, one after another. -/
def State.matinsPuts (s : State) (part : Nat) (ws : List (Nat × Nat × Nat)) (check : Bool) : Answer :=
  ws.foldl (fun r (a, n, v) => match r with
    | .ok _ t => t.matinsPut part a n v check
    | k => k) (.ok 0 s)

/-- The rank and local index of each expert that an expert-to-rank map holds (R181). -/
def expertMap (b v : Nat) : List (Nat × Nat) :=
  (List.range (colNexp b)).map fun x =>
    let e := v / 2 ^ (32 * x) % 2 ^ 32
    (bits e 19 0, bits e 31 20)

/-- The local experts of a rank in a map. -/
def localExperts (m : List (Nat × Nat)) (rank : Nat) : List Nat := (m.filter fun (r, _) => r == rank).map (·.2)

/-! ### Expansions (R172)

DESIGN CHOICE (log 46): the ranks of a collective follow the ALG of rank 0, for ALG may differ between ranks and steps must meet; Nth j of
a piece holds the elements from j COUNT / N on; the tree is binomial; hardware's choice is a function of the configuration. -/

/-- The expansion that a block asks for, in a group of n ranks on the packages given. Only an ALLREDUCE that moves something has one. -/
def expansion (b n : Nat) (pkgs : List Nat) : Nat :=
  if colOp b ≠ 0 ∨ colCount b = 0 then 0
  else
    let a := if bits b 19 18 = 0 then 1 + Config.colChoice n (colCount b) pkgs % 3 else bits b 19 18
    if a = 3 ∧ 2 ^ Nat.log2 n ≠ n then 1 else a

/-- log2 of n, rounded up. -/
def clog2 (n : Nat) : Nat := if n ≤ 1 then 0 else Nat.log2 (n - 1) + 1

/-- Steps of an expansion: reduce steps, then as many gather steps. -/
def colSteps (alg n : Nat) : Nat :=
  match alg with
  | 1 => 2 * (n - 1)
  | 2 => 2 * clog2 n
  | 3 => 2 * Nat.log2 n
  | _ => 0

/-- The rank to which rank r, one of n, sends in step t, and the Nths whose partials it sends; none when it sends nothing. -/
def colSend (alg n r t : Nat) : Option (Nat × List Nat) :=
  match alg with
  | 1 => some ((r + 1) % n, [(r + 2 * n - t) % n])
  | 2 =>
    let l := clog2 n
    let s := 2 * l - 1 - t
    if t < l then (if r % 2 ^ (t + 1) = 2 ^ t then some (r - 2 ^ t, List.range n) else none)
    else if r % 2 ^ (s + 1) = 0 ∧ r + 2 ^ s < n then some (r + 2 ^ s, List.range n)
    else none
  | 3 =>
    let l := Nat.log2 n
    if t < l then
      let m := Nat.xor r (n / 2 ^ (t + 1))
      some (m, (List.range n).filter fun j => j / 2 ^ (l - t - 1) == m / 2 ^ (l - t - 1))
    else
      let s := t - l
      some (Nat.xor r (2 ^ s), (List.range n).filter fun j => j / 2 ^ s == r / 2 ^ s)
  | _ => none

/-- The rank from which rank r, one of n, receives in step t. -/
def colFrom (alg n r t : Nat) : Option Nat :=
  match alg with
  | 1 => some ((r + n - 1) % n)
  | 2 =>
    let l := clog2 n
    let s := 2 * l - 1 - t
    if t < l then (if r % 2 ^ (t + 1) = 0 ∧ r + 2 ^ t < n then some (r + 2 ^ t) else none)
    else if r % 2 ^ (s + 1) = 2 ^ s then some (r - 2 ^ s)
    else none
  | 3 => (colSend 3 n r t).map (·.1)
  | _ => none

/-- The ranks to which rank r, one of n, sends. -/
def colSends (alg n r : Nat) : List Nat :=
  (match alg with
    | 1 => [(r + 1) % n]
    | 2 => (List.range (clog2 n)).flatMap fun s =>
      (if r % 2 ^ (s + 1) = 2 ^ s then [r - 2 ^ s] else []) ++ (if r % 2 ^ (s + 1) = 0 ∧ r + 2 ^ s < n then [r + 2 ^ s] else [])
    | 3 => (List.range (Nat.log2 n)).map fun j => Nat.xor r (2 ^ j)
    | _ => List.range n).filter (· ≠ r)

/-! ### Begun collectives -/

/-- Key of a rank of a group. -/
def rankKey (group rank : Nat) : Nat := 2 ^ 20 * group + rank

/-- The begun collectives of this package that are the nth of a group. -/
def State.matched (s : State) (group inst : Nat) : List (Nat × Coll) :=
  s.colls.filter fun (_, d) => d.group == group && d.inst == inst

/-- Those matched with c, c included. -/
def State.mates (s : State) (c : Coll) : List (Nat × Coll) := s.matched c.group c.inst

def State.setColl (s : State) (n : Nat) (c : Coll) : State := { s with colls := SMap.insert s.colls n c }

/-- Every rank of the package that is matched with c, and has not written its results, fails with a code, the first one detected (R176). -/
def State.failGroup (s : State) (c : Coll) (code : Nat) : State :=
  let key := 2 ^ 64 * c.group + c.inst
  let k := SMap.get code s.colfail key
  (s.mates c).foldl (fun (t : State) (m, (d : Coll)) =>
    if d.code = 0 ∧ d.done = false then (t.setColl m { d with code := k }).post .collectiveComplete [m] else t)
    { s with colfail := SMap.insert s.colfail key k }

/-- Bytes of rank k's input, if its block is known; with COUNT 0 nothing moves (R170). A COMBINE input gives its number of records in
its first 8 bytes. -/
def Coll.total (c : Coll) (k : Nat) : Option Nat :=
  match SMap.find? c.blocks k with
  | none => none
  | some b =>
    if colCount b = 0 then some 0
    else match colOp b with
      | 3 => some (if k = colRoot b then colPiece b else 0)
      | 5 => some (8 * colCount b + colCount b * colRow b)
      | 6 => if SMap.get 0 c.got k < 8 then some 8 else some (8 + readMem c.staged (2 ^ 48 * k) 8 * colRecord b)
      | _ => some (colSrcBytes b c.nranks [])

/-- Rank k's input is staged. -/
def Coll.has (c : Coll) (k : Nat) : Bool :=
  match c.total k with
  | some n => decide (n ≤ SMap.get 0 c.got k)
  | none => false

/-- The package of rank i of the collective's group. -/
def State.rankPkg (s : State) (c : Coll) (i : Nat) : Nat := (s.rankAt (s.group c.group) i).1

/-- The ranks of other packages to which the collective sends, through a port. -/
def State.outRanks (s : State) (c : Coll) : List Nat :=
  (colSends c.alg c.nranks c.rank).filter fun i => s.rankPkg c i != s.pkg

/-- The steps of an ALLREDUCE are done: every Nth is made of the contributions of all ranks. -/
def Coll.reduced (c : Coll) : Bool :=
  c.parts.length == c.nranks && c.step == colSteps c.alg c.nranks && c.parts.all fun p => p.2.length == c.nranks

/-- Every step is done: of an expansion its last; otherwise every input is staged, and the own input is sent. -/
def State.colReady (s : State) (c : Coll) : Bool :=
  if c.alg ≠ 0 then c.reduced
  else (List.range c.nranks).all c.has &&
    (s.outRanks c).all fun i => decide ((c.total c.rank).getD 0 ≤ SMap.get 0 c.got (c.nranks + i))

/-- Sets collective n, and posts its completion if it is ready. -/
def State.putReady (s : State) (n : Nat) (c : Coll) : State :=
  let t := s.setColl n c
  if t.colReady c then t.post .collectiveComplete [n] else t

/-! ### Reservation slots of channel 4 (R492), and the cycles that timers count (R178, R180) -/

/-- Links of the package through which the collective's steps send, under the route entries of R493. -/
def State.colLinks (s : State) (c : Coll) : List Nat := ((s.outRanks c).filterMap fun i => s.chosenLink (s.rankPkg c i) 4).eraseDups

/-- Slots in use on a link. -/
def State.slotsUsed (s : State) (l : Nat) : Nat := (s.colls.filter fun (_, c) => c.slots.contains l).length

/-- No timer of the collective counts: a rank is suspended. A timer runs for what is to come from a peer; the wait for a slot has none. -/
def Coll.stopped (c : Coll) : Bool := !c.suspended.isEmpty

/-- Cycles that the collective's timers have counted. -/
def State.counted (s : State) (c : Coll) : Nat :=
  s.clock.toNat - c.idle - (if c.stopped then s.clock.toNat - c.halt else 0)

/-- Sets collective n whose suspension may have changed. -/
def State.putColl (s : State) (n : Nat) (c : Coll) : State :=
  let was := match SMap.find? s.colls n with
    | some d => d.stopped
    | none => false
  s.setColl n (
    if !was && c.stopped then { c with halt := s.clock.toNat }
    else if was && !c.stopped then { c with idle := c.idle + (s.clock.toNat - c.halt) }
    else c)

/-- Posts the grants that links may make now. -/
def State.offerSlots (s : State) (ls : List Nat) : State :=
  s.colls.foldl (fun t (m, c) => (c.want.filter ls.contains).foldl (fun t l => t.post .linkSlotGrant [m, l]) t) s

/-- Takes the free slots that a collective needs, and frees those that it needs no more; it waits for the others. -/
def State.takeSlots (s : State) (n : Nat) : State :=
  match SMap.find? s.colls n with
  | some c =>
    let (held, want) := (s.colLinks c).partition fun l => c.slots.contains l || decide (s.slotsUsed l < 64)
    (s.putColl n { c with slots := held, want := want }).offerSlots (c.slots.filter fun l => !held.contains l)
  | none => s

/-- LINK_SLOT_GRANT: collective, link. -/
def execLinkSlotGrant (s : State) : Host.Outcome State Fault Refusal :=
  let n := s.arg 0
  let l := s.arg 1
  .next (match SMap.find? s.colls n with
    | some c =>
      if c.suspended.isEmpty && c.want.contains l && decide (s.slotsUsed l < 64) then
        s.putColl n { c with slots := l :: c.slots, want := c.want.filter (· ≠ l) }
      else s
    | none => s)

/-! ### Begin (R120, R168, R169, R171) -/

/-- What Matins finds of a block: the code with which it is turned away, or 0; its rank, if it has one; its experts. -/
structure Checked where
  code : Nat
  rank : Option Nat
  experts : List (Nat × Nat)
  next : State

/-- The experts of a rank's block: a DISPATCH reads its map, a COMBINE takes the local experts of the rank's last DISPATCH and, with
none, a free set (log 10). -/
def State.colExperts (s : State) (part b i : Nat) : Answer × List (Nat × Nat) :=
  if colCount b = 0 then (.ok 0 s, [])
  else match colOp b with
    | 5 => match s.matinsRange part (colAux b 1) (4 * colNexp b) with
      | .ok v u => (.ok 0 u, expertMap b v)
      | k => (k, [])
    | 6 => match SMap.find? s.routes (rankKey (colGroup b) i) with
      | some js => (.ok 0 s, js.map fun j => (i, j))
      | none =>
        let js := ((List.range 4096).filter fun j => Config.freeBool (s.free + j)).take (colNexp b)
        (.ok 0 { s with free := s.free + 4096 }, js.map fun j => (i, j))
    | _ => (.ok 0 s, [])

/-- Checks a block of queue q; none while Matins must wait. DESIGN CHOICE: R171 does not order the codes of a block with several faults;
an invalid group or malformed block comes first (6), then a poisoned rank list (4), the queue and PTAG (3), the map (2, 3, 4), an
overlap (6), and a lost peer (5) (log 46). -/
def State.colCheck (s : State) (q b : Nat) : Option Checked :=
  let part := s.qpart q
  let g := s.group (colGroup b)
  let own (a : Nat) : Bool := addrSpace a == 2 && addrPkg a == s.pkg && a % 16 == 0
  let bad := colMalformed b own
  if !g.testBit 0 then some ⟨6, none, [], s⟩
  else match s.rankOf g q with
    | none => some ⟨if bad then 6 else if s.groupPoisoned g then 4 else 3, none, [], s⟩
    | some i =>
      if bad || (colOp b == 3 && decide (groupRanks g ≤ colRoot b)) then some ⟨6, some i, [], s⟩
      else if s.groupPoisoned g then some ⟨4, some i, [], s⟩
      else if bits g 63 48 ≠ s.hubGet 0x701 part % 0x10000 then some ⟨3, some i, [], s⟩
      else match s.colExperts part b i with
        | (.wait _, _) => none
        | (.fail c u, _) => some ⟨c, some i, [], u⟩
        | (.ok _ u, m) =>
          some ⟨if colOverlap b (groupRanks g) (localExperts m i) then 6 else if u.groupLost (colGroup b) then 5
            else if u.groupHas g fun p => p != u.pkg && !u.pathUp p 4 then 5 else 0, some i, m, u⟩

/-- The expansion that a collective follows, as far as its blocks tell: that of rank 0's block, else that of its own. -/
def State.colAlg (s : State) (c : Coll) : Nat :=
  expansion ((SMap.find? c.blocks 0).getD c.block) c.nranks ((List.range c.nranks).map (s.rankPkg c))

/-- Adds a rank's block to collective n, which then knows what expansion it follows and takes the slots of its ports (R492). -/
def State.learnBlock (s : State) (n rank b : Nat) : State :=
  match SMap.find? s.colls n with
  | some d =>
    let d := { d with blocks := SMap.insert d.blocks rank b }
    let alg := s.colAlg d
    if alg = d.alg then s.setColl n d else (s.setColl n { d with alg := alg }).takeSlots n
  | none => s

/-- Every rank of the package learns the blocks of the others that are matched with it; a disagreement fails all (R171). -/
def State.joinColl (s : State) (n rank b : Nat) : State :=
  match SMap.find? s.colls n with
  | none => s
  | some c =>
    let t := (s.mates c).foldl (fun (t : State) (d : Nat × Coll) => t.learnBlock d.1 rank b) s
    if c.blocks.all (fun (_, x) => colSame x b) then t else t.failGroup c 6

/-! ### The steps of an expansion (R172, R178, R180)

A rank's partial of an Nth is kept as the contributions that it is made of: of each rank, its bytes of the Nth. R174 makes of them the
bits that partial sums would give, whatever the expansion (log 29). -/

/-- The bytes of Nth j in the piece: offset and length. -/
def Coll.nth (c : Coll) (j : Nat) : Nat × Nat :=
  let at' (j : Nat) : Nat := j * colCount c.block / c.nranks * efmtBytes (colEfmt c.block)
  (at' j, at' (j + 1) - at' j)

/-- The ranks of whose contributions the partial of Nth j is made. -/
def Coll.part (c : Coll) (j : Nat) : List Nat := SMap.get [] c.parts j

/-- The steps in which a rank neither sends nor receives are over for it. -/
def Coll.passIdle : Nat → Coll → Coll
  | 0, c => c
  | fuel + 1, c =>
    if c.step < colSteps c.alg c.nranks && (colSend c.alg c.nranks c.rank c.step).isNone &&
        (colFrom c.alg c.nranks c.rank c.step).isNone then
      Coll.passIdle fuel { c with step := c.step + 1 }
    else c

/-- Posts the timer of the step that collective n is in, or, as step 0, of what comes before the first: the others' blocks. -/
def State.postTimer (s : State) (n : Nat) (c : Coll) (step : Nat) : State :=
  if colTimeout c.block = 0 then s else s.post .collectiveStepTimeout [n, step, 0, s.counted c, 0]

/-- Collective n enters a step: it sends, and its timer runs while it receives; or its steps are done. -/
def State.openStep (s : State) (n : Nat) (c : Coll) : State :=
  let c := Coll.passIdle (colSteps c.alg c.nranks) { c with left := false, sent := 0, inbox := none }
  let t := s.putReady n c
  if colSteps c.alg c.nranks ≤ c.step then t
  else
    let t := if (colSend c.alg c.nranks c.rank c.step).isSome then t.post .collectiveStep [n, c.nranks + c.step, 0] else t
    if (colFrom c.alg c.nranks c.rank c.step).isSome then t.postTimer n c (c.step + 1) else t

/-- The first step begins once every block is known and the own input is staged. -/
def State.startSchedule (s : State) (n : Nat) : State :=
  match SMap.find? s.colls n with
  | some c =>
    if c.alg ≠ 0 && c.code == 0 && c.parts.isEmpty && c.has c.rank && (List.range c.nranks).all fun k => (SMap.find? c.blocks k).isSome then
      s.openStep n { c with parts := (List.range c.nranks).map fun j => (j, [c.rank]) }
    else s
  | none => s

/-- The step is over for collective n once its chunk has left and the peer's has come: what has come becomes part of its partials,
each contribution once. -/
def State.closeStep (s : State) (n : Nat) : State :=
  match SMap.find? s.colls n with
  | some c =>
    let sends := (colSend c.alg c.nranks c.rank c.step).isSome
    let gets := (colFrom c.alg c.nranks c.rank c.step).isSome
    if (sends && !c.left) || (gets && c.inbox.isNone) then s
    else s.openStep n { c with
      step := c.step + 1
      parts := (c.inbox.getD []).foldl (fun m (j, ks) => SMap.insert m j (SMap.get [] m j ++ ks.filter fun k => !(SMap.get [] m j).contains k)) c.parts }
  | none => s

/-- Contributions, each a rank, an Nth and its bytes, come to collective n with the step that it is in. -/
def State.receive (s : State) (n : Nat) (c : Coll) (vs : List (Nat × Nat × Nat)) : State :=
  let staged := vs.foldl (fun m (k, j, v) => writeMem m (2 ^ 48 * k + (c.nth j).1) (c.nth j).2 v) c.staged
  let inbox := vs.foldl (fun (m : List (Nat × List Nat)) (k, j, _) => SMap.insert m j (SMap.get [] m j ++ [k])) []
  (s.setColl n { c with staged := staged, inbox := some inbox }).closeStep n

/-- The contributions that the partials of the Nths js hold. -/
def Coll.contributions (c : Coll) (js : List Nat) : List (Nat × Nat × Nat) :=
  js.flatMap fun j => (c.part j).map fun k => (k, j, readMem c.staged (2 ^ 48 * k + (c.nth j).1) (c.nth j).2)

/-! ### Begin -/

/-- The first steps of a rank that has begun: its own input; for an operation without expansion those of the package's ranks, its sends
to other packages and a timer for each awaited rank; with one, the timer of what comes before its first step. -/
def State.startSteps (s : State) (n : Nat) (old : List (Nat × Coll)) : State :=
  match SMap.find? s.colls n with
  | none => s
  | some c =>
    let s := s.post .collectiveStep [n, c.rank, 0]
    if c.alg ≠ 0 then s.postTimer n c 0
    else
      let t := old.foldl (fun (t : State) (m, (d : Coll)) =>
        (t.post .collectiveStep [m, c.rank, 0]).post .collectiveStep [n, d.rank, 0]) s
      let t := (t.outRanks c).foldl (fun (t : State) i => t.post .collectiveStep [n, c.nranks + i, 0]) t
      ((List.range c.nranks).filter (· ≠ c.rank)).foldl (fun (t : State) k => t.postTimer n c k) t

/-- The lines of a block's rank list that some agent holds. -/
def State.rankLines (s : State) (b : Nat) : List Nat :=
  let g := s.group (colGroup b)
  if g.testBit 0 then s.heldLines (s.rankOff g 0) (4 * groupRanks g) else []

/-- COLLECTIVE_BEGIN: queue, INDEX. The count of a group's collectives goes on by group and rank when firmware writes the group's entry
anew, and a rank whose completion target is already saved is not suspended by it: R168 and R178 leave both open (log 46). -/
def execCollectiveBegin (s : State) : Host.Outcome State Fault Refusal :=
  let q := s.arg 0
  .next <| s.inTurn .collectiveBegin fun s => match s.begin? 2 with
    | some (e, t) =>
      let a := pktWord e.image 0
      let read := if a % 128 = 0 then t.matinsRead (t.qpart q) a 128 else .fail 6 t
      match read with
      | .wait k => s.waitOr k .collectiveBegin s.args
      | .fail _ u => u.completePacket q e.index
      | .ok b u => match (u.rankLines b).find? fun l => u.lineState 2 0 l != .serves with
        | some l => s.waitOr (l + 1) .collectiveBegin s.args
        | none => match ((u.rankLines b).foldl State.recall u).colCheck q b with
        | none => s.later .collectiveBegin s.args
        | some k =>
          let u := k.next
          let g := colGroup b
          let rank := k.rank.getD 0
          let key := rankKey g rank
          let inst := SMap.get 0 u.colseq key + 1
          let n := u.nextId
          let old := u.matched g inst
          let suspended := (old.flatMap fun (_, (d : Coll)) => d.suspended).eraseDups
          let blocks := old.foldl (fun m (_, (d : Coll)) => SMap.insert m d.rank d.block) []
          let since := old.foldl (fun m (_, (d : Coll)) => if d.suspended.isEmpty then m else d.since) u.clock.toNat
          let fresh : Coll :=
            { queue := q, index := e.index, group := g, rank := rank, nranks := groupRanks (u.group g), inst := inst, block := b
              blocks := if k.code = 6 then blocks else SMap.insert blocks rank b, experts := k.experts
              alg := 0, step := 0, left := false, sent := 0, inbox := none, parts := [], staged := [], got := []
              suspended := suspended, since := since, slots := [], want := [], idle := 0, halt := 0, code := 0, done := false }
          let u : State := { u with nextId := n + 1, free := u.free + 1 }
          if k.rank.isNone then ((u.putColl n { fresh with inst := 0, code := k.code }).post .collectiveComplete [n]).advance q
          else
            let u : State := { u with colseq := SMap.set 0 u.colseq key inst }
            let was := SMap.find? u.colfail (2 ^ 64 * g + inst)
            let u := u.putColl n { fresh with alg := if k.code = 6 then 0 else u.colAlg fresh }
            (match was with
            | some c => u.failGroup fresh c
            | none =>
              if k.code ≠ 0 then u.failGroup fresh k.code
              else
                let u := ((u.takeSlots n).joinColl n rank b).startSteps n old
                let u := old.foldl (fun (t : State) (d : Nat × Coll) => t.startSchedule d.1) u
                if suspended.isEmpty then u else u.post .suspensionSlotRelease [n, since]).advance q
    | none => s

/-! ### Steps (R172, R178, R181, R184, R492) -/

/-- The records that a rank of COMBINE returns: their number in 8 bytes, then they, experts and records ascending. -/
def State.combineInput (s : State) (part b : Nat) (experts : List Nat) : Answer :=
  let r : Answer × Nat := experts.foldl (fun (r, m) j => match r with
    | .ok v t => match t.matinsRead part (colAux3 b + 4 * j) 4 with
      | .ok cnt u => match u.matinsRange part (colSrc b + j * colCap b * colRecord b) (cnt * colRecord b) with
        | .ok x w => (.ok (v + x * 2 ^ (8 * (8 + m * colRecord b))) w, m + cnt)
        | k => (k, m)
      | k => (k, m)
    | k => (k, m)) (.ok 0 s, 0)
  match r with
  | (.ok v t, m) => .ok (v + m) t
  | (k, _) => k

/-- Reads a chunk of a local rank's input at an offset: the bytes read and their number. -/
def State.chunk (s : State) (d : Coll) (off left : Nat) : Nat × Answer :=
  let part := s.qpart d.queue
  let b := d.block
  let len := Nat.min left (16 * (1 + Config.freeNat s.free % 4096))
  if colOp b = 6 then
    match s.combineInput part b (localExperts d.experts d.rank) with
    | .ok v u => (8 + v % 2 ^ 64 * colRecord b, .ok v u)
    | k => (0, k)
  else if colOp b = 5 ∧ off < 8 * colCount b then
    let m := Nat.min len (8 * colCount b - off)
    (m, s.matinsRange part (colAux b 0 + off) m)
  else
    let o := if colOp b = 5 then off - 8 * colCount b else off
    (len, s.matinsRange part (colSrc b + o) len)

/-- Stages bytes of rank k at collective n. -/
def State.stage (s : State) (n : Nat) (c : Coll) (k len v : Nat) : State :=
  let off := SMap.get 0 c.got k
  (s.putReady n { c with
    staged := writeMem c.staged (2 ^ 48 * k + off) len v
    got := SMap.set 0 c.got k (off + len) }).startSchedule n

/-- Whether a flit of collective n may leave for rank i of another package now: none when the path is down and it meets a lost peer
(R493); else whether a suspension or a slot of its port holds it back, with the state in which it is held. -/
def State.mayLeave (s : State) (n : Nat) (c : Coll) (i : Nat) : Option (Bool × State) :=
  match s.chosenLink (s.rankPkg c i) 4 with
  | some l =>
    if !c.suspended.isEmpty then some (false, s)
    else if !s.linkUp l then none
    else if c.slots.contains l then some (true, s)
    else some (false, if c.want.contains l then s else (s.putColl n { c with want := l :: c.want }).post .linkSlotGrant [n, l])
  | none => none

/-- Data of a flit (R491). -/
def flitBytes : Nat := 256

/-- What is staged of the own input goes, from an offset on, to rank i of another package: one flit at a time, and then the event goes to
the end of the agenda, so that a port serves its collectives in turn (R492). -/
def State.sendStep (s : State) (n : Nat) (c : Coll) (i off : Nat) : State :=
  let again (t : State) (off : Nat) : State := t.later .collectiveStep [n, c.nranks + i, off]
  match s.mayLeave n c i with
  | none => s.failGroup c 5
  | some (false, t) => again t off
  | some (true, t) =>
    let m := Nat.min (SMap.get 0 c.got c.rank) (off + flitBytes)
    let t := if off < m then t.putReady n { c with got := SMap.set 0 c.got (c.nranks + i) m } else t
    if (c.total c.rank).getD 0 ≤ m then t else again t m

/-- Step t of collective n's expansion, of which some bytes of its chunk have left: a rank of the package gets the chunk whole, another
package's flit by flit. A suspension stops what has not left whole, and the step begins again from its staged inputs (R178). -/
def State.chunkStep (s : State) (n : Nat) (c : Coll) (t : Nat) : State :=
  let again (u : State) : State := u.later .collectiveStep s.args
  if c.step ≠ t ∨ c.left = true ∨ c.parts.isEmpty = true then s
  else match colSend c.alg c.nranks c.rank t with
  | none => s
  | some (i, js) =>
    if !c.suspended.isEmpty then again (s.setColl n { c with sent := 0 })
    else match (s.mates c).find? fun (_, (d : Coll)) => d.rank == i with
    | some (m, d) =>
      if d.parts.isEmpty ∨ d.step ≠ t then again s
      else ((s.setColl n { c with left := true }).receive m d (c.contributions js)).closeStep n
    | none => match s.mayLeave n c i with
      | none => s.failGroup c 5
      | some (false, u) => again u
      | some (true, u) =>
        let k := c.sent + flitBytes
        if js.foldl (fun a j => a + (c.nth j).2) 0 ≤ k then (u.setColl n { c with left := true }).closeStep n
        else again (u.setColl n { c with sent := k })

/-- A step that brings a chunk of rank d of this package, at an offset, to collective n. -/
def State.localStep (s : State) (n : Nat) (c d : Coll) (off : Nat) : State :=
  if !c.suspended.isEmpty then s.later .collectiveStep s.args
  else match c.total d.rank with
    | none => s
    | some total =>
      if total ≤ off then (s.putReady n c).startSchedule n
      else
        let r := s.chunk d off (total - off)
        match r.2 with
        | .fail e u => u.failGroup c e
        | .wait _ => s.later .collectiveStep s.args
        | .ok v u => (({ u with free := u.free + 1 } : State).stage n c d.rank r.1 v).post .collectiveStep [n, d.rank, off + r.1]

/-- The contributions that a chunk of another package carries: rank, Nth and bytes of each, from operand 7 on. -/
def carried : List Nat → List (Nat × Nat × Nat)
  | k :: j :: v :: as => (k, j, v) :: carried as
  | _ => []

/-- Data of rank k of another package for collective n, whose block it has learnt: bytes of its input; or the chunk of a step of the
expansion, which waits until the step is reached, and none when it only joins. -/
def State.foreignStep (s : State) (n : Nat) (c : Coll) (k t : Nat) : State :=
  if c.code ≠ 0 then s
  else if c.alg = 0 then (if SMap.get 0 c.got k = t then s.stage n c k (s.arg 4) (s.arg 5) else s)
  else
    let vs := carried (s.args.drop 7)
    if vs.isEmpty ∨ t < c.step then s
    else if c.parts.isEmpty ∨ c.step < t then s.later .collectiveStep s.args
    else if colFrom c.alg c.nranks c.rank t = some k ∧ c.inbox.isNone then s.receive n c vs
    else s

/-- COLLECTIVE_STEP: collective; rank whose data come and their offset or step, or NRANKS plus the rank to which the own input goes and
its offset, or, of an expansion, NRANKS plus the step that sends; for a rank of another package also its block, and the bytes and the
data of a chunk, or 0; the code with which that rank has failed, or 0; and the contributions of a step's chunk. -/
def execCollectiveStep (s : State) : Host.Outcome State Fault Refusal :=
  let n := s.arg 0
  let k := s.arg 1
  let off := s.arg 2
  .next (match SMap.find? s.colls n with
    | none => s
    | some c =>
      if c.code ≠ 0 ∨ c.done = true then s
      else if c.nranks ≤ k then
        if c.alg ≠ 0 then s.chunkStep n c (k - c.nranks)
        else if SMap.get 0 c.got k = off ∧ (s.outRanks c).contains (k - c.nranks) = true then s.sendStep n c (k - c.nranks) off
        else s
      else match (s.mates c).find? fun (_, (d : Coll)) => d.rank == k with
        | some (_, d) => if SMap.get 0 c.got k = off ∧ (c.alg = 0 ∨ k = c.rank) then s.localStep n c d off else s
        | none =>
          let p := s.rankPkg c k
          if p = s.pkg ∨ SMap.get false s.dead p = true then s
          else if s.arg 6 ≠ 0 then (if errorCode (s.arg 6) then s.failGroup c (s.arg 6) else s)
          else
            let t := (s.mates c).foldl (fun (t : State) (d : Nat × Coll) => t.startSchedule d.1) (s.joinColl n k (s.arg 3 % 2 ^ 1024))
            match SMap.find? t.colls n with
            | some d => t.foreignStep n d k off
            | none => t)

/-! ### Results (R170, R174, R181 to R184) -/

/-- floor(log2 |x|) of a finite nonzero value. -/
def xlog2 : XVal → Option Int
  | .fin _ m e => if m = 0 then none else some ((Nat.log2 m : Nat) + e)
  | _ => none

/-- The exact sum of R174 over one block: xs holds, for each rank, the block's elements. -/
def exactSum (f : Fmt) (xs : List (List Nat)) (n : Nat) : List Nat :=
  let es := xs.flatMap fun l => l.filterMap fun c => xlog2 (f.value c)
  let top : Int := match es with
    | [] => 0
    | e :: r => r.foldl (fun m x => if m < x then x else m) e
  (List.range n).map fun i =>
    let vs := xs.map fun l => f.value (l.getD i 0)
    let any (p : XVal → Bool) : Bool := vs.any p
    if any XVal.isNaN || (any (fun v => v.isInf && v.neg) && any (fun v => v.isInf && !v.neg)) then f.nan
    else if any XVal.isInf then f.infCode (any fun v => v.isInf && v.neg)
    else
      let sum : Int := vs.foldl (fun a v => match v with
        | .fin neg m e => a + roundToInteger neg m (e + 40 - top) 0
        | _ => a) 0
      if sum = 0 then 0 else roundCode f 0 (XVal.ofInt sum (top - 40))

/-- One element's reduction of an integer format, or of max or min. -/
def colCombine (e red x y : Nat) : Nat :=
  match efmtFmt e with
  | some f => (fpMinMax f (red == 1) x y).1
  | none =>
    if red = 0 then (x + y) % 2 ^ 32
    else
      let less := if e = 11 then decide (signExtend x 32 < signExtend y 32) else decide (x < y)
      if less == (red == 1) then y else x

/-- Elements lo to lo + n - 1 of bytes v. -/
def elements (v size lo n : Nat) : List Nat := (List.range n).map fun i => v / 2 ^ (8 * size * (lo + i)) % 2 ^ (8 * size)

/-- The values of a list, packed with the first lowest. -/
def packNats (size : Nat) : List Nat → Nat
  | [] => 0
  | x :: xs => x + 2 ^ (8 * size) * packNats size xs

/-- The reduction of the ranks' pieces. The blocks of R174 are counted within the piece, which for a REDUCESCATTER is piece i: R174 does not
say where the blocks of its reduced vector begin, and this is the model's choice (log 46). -/
def reducePieces (b : Nat) (ps : List Nat) : Nat :=
  let e := colEfmt b
  let size := efmtBytes e
  let n := colCount b
  match efmtFmt e, colRed b with
  | some f, 0 =>
    packNats size ((List.range ((n + 255) / 256)).flatMap fun j =>
      let m := Nat.min 256 (n - 256 * j)
      exactSum f (ps.map fun p => elements p size (256 * j) m) m)
  | _, red =>
    packNats size ((List.range n).map fun i =>
      match ps.map fun p => p / 2 ^ (8 * size * i) % 2 ^ (8 * size) with
      | [] => 0
      | x :: xs => xs.foldl (colCombine e red) (match efmtFmt e with
          | some f => if f.isNaN x then f.nan else x
          | none => x))

/-- n bytes of rank k's input at an offset. -/
def Coll.input (c : Coll) (k off n : Nat) : Nat := readMem c.staged (2 ^ 48 * k + off) n

/-- A granted choice: source rank, token, 1 for a second choice, weight. -/
abbrev Grant := Nat × Nat × Nat × Nat

/-- Grants requests (source rank, token, weight, first, second) in order, on their first or second choice, within the capacity;
it answers the grants by expert and the requests refused. -/
def grantAll (cap nexp choice : Nat) (gs : List (Nat × List Grant)) (rs : List (Nat × Nat × Nat × Nat × Nat)) :
    List (Nat × List Grant) × List (Nat × Nat × Nat × Nat × Nat) :=
  let r := rs.foldl (fun (acc : List (Nat × List Grant) × List (Nat × Nat × Nat × Nat × Nat)) (k, t, w, a, b) =>
    let x := if choice = 0 then a else b
    let l := SMap.get [] acc.1 x
    if x < nexp ∧ l.length < cap then (SMap.insert acc.1 x (l ++ [(k, t, choice, w)]), acc.2)
    else (acc.1, (k, t, w, a, b) :: acc.2)) (gs, [])
  (r.1, r.2.reverse)

/-- What a DISPATCH writes at its rank: address, bytes and value of each write (R182, R183). The tokens of an expert whose map entry
names no rank of the group are granted and written nowhere: R181 does not speak of one, and this is the model's choice (log 46). -/
def Coll.dispatchWrites (c : Coll) : List (Nat × Nat × Nat) :=
  let b := c.block
  let row := colRow b
  let rs := (List.range c.nranks).flatMap fun k => (List.range (colCount b)).map fun t =>
    let e := c.input k (8 * t) 8
    (k, t, bits e 63 32, bits e 15 0, bits e 31 16)
  let (g1, left) := grantAll (colCap b) (colNexp b) 0 [] rs
  let (g2, rest) := grantAll (colCap b) (colNexp b) 1 g1 left
  let mine := (List.range (colNexp b)).filterMap fun x => match c.experts[x]? with
    | some (r, j) => if r = c.rank then some (x, j) else none
    | none => none
  let recs := mine.flatMap fun (x, j) =>
    let l := SMap.get [] g2 x
    (colAux3 b + 4 * j, 4, l.length) ::
      (List.range l.length).map fun i =>
        let (k, t, ch, w) := l.getD i (0, 0, 0, 0)
        let head := t + (k + ch * 2 ^ 20) * 2 ^ 32 + w * 2 ^ 64 + x * 2 ^ 96
        (colDst b + (j * colCap b + i) * colRecord b, colRecord b,
          head + c.input k (8 * colCount b + t * row) row * 2 ^ 128)
  let lost := (rest.filter fun (k, _) => k == c.rank).map fun (_, t, _) => t
  recs ++ [(colAux b 2, 4 + 4 * lost.length, lost.length + 2 ^ 32 * packNats 4 lost)]

/-- The records of rank k's COMBINE input: source rank, token, row. -/
def Coll.returned (c : Coll) (k : Nat) : List (Nat × Nat × Nat) :=
  let b := c.block
  (List.range (c.input k 0 8)).map fun i =>
    let off := 8 + i * colRecord b
    let head := c.input k off 16
    (bits head 51 32, bits head 31 0, c.input k (off + 16) (colRow b))

/-- What a COMBINE writes at its rank, or none when some header is out of range (R184). -/
def Coll.combineWrites (c : Coll) : Option (List (Nat × Nat × Nat)) :=
  let b := c.block
  let rs := (List.range c.nranks).flatMap c.returned
  if rs.any fun (k, t, _) => decide (c.nranks ≤ k) || decide (colCount b ≤ t) then none
  else some ((rs.filter fun (k, _) => k == c.rank).map fun (_, t, v) => (colDst b + t * colRow b, colRow b, v))

/-- What a collective whose inputs are staged writes at its rank, or none when it ends with code 0x06. -/
def Coll.writes (c : Coll) : Option (List (Nat × Nat × Nat)) :=
  let b := c.block
  let p := colPiece b
  let each (off : Nat) : List Nat := (List.range c.nranks).map fun k => c.input k off p
  if colCount b = 0 then some []
  else match colOp b with
    | 0 => some [(colDst b, p, reducePieces b (each 0))]
    | 1 => some [(colDst b, p, reducePieces b (each (c.rank * p)))]
    | 2 => some [(colDst b, c.nranks * p, packNats p (each 0))]
    | 3 => some [(colDst b, p, c.input (colRoot b) 0 p)]
    | 4 => some [(colDst b, c.nranks * p, packNats p (each (c.rank * p)))]
    | 5 => some c.dispatchWrites
    | 6 => c.combineWrites
    | _ => some []

/-- Writes the results; check: finds alone whether they can be written. A DISPATCH leaves its local experts to later COMBINEs. -/
def State.colResult (s : State) (c : Coll) (check : Bool) : Answer :=
  match c.writes with
  | none => .fail 6 s
  | some ws =>
    let s : State := if !check && colOp c.block == 5 && colCount c.block != 0 then
        { s with routes := SMap.insert s.routes (rankKey c.group c.rank) (localExperts c.experts c.rank) }
      else s
    s.matinsPuts (s.qpart c.queue) ws check

/-- The ranges of a rank's destination. -/
def Coll.ranges (c : Coll) : List (Nat × Nat) :=
  let b := c.block
  if colCount b = 0 then []
  else if colOp b = 5 then
    (colAux b 2, 4 + 4 * colCount b) ::
      (localExperts c.experts c.rank).flatMap fun j =>
        [(colDst b + j * colCap b * colRecord b, colCap b * colRecord b), (colAux3 b + 4 * j, 4)]
  else [(colDst b, colDstBytes b c.nranks [])]

/-- The elements of a failed rank's destination are unspecified: free bits, where they can be written; none where it overlaps SRC
without being equal to it, for SRC stays (R176). -/
def State.scramble (s : State) (c : Coll) : State :=
  if colOverlap c.block c.nranks (localExperts c.experts c.rank) then s else c.ranges.foldl (fun (t : State) (a, n) => (List.range ((n + 15) / 16)).foldl (fun (t : State) j =>
    match t.matinsPut (t.qpart c.queue) (a + 16 * j) (Nat.min 16 (n - 16 * j)) (Config.freeNat t.free % 2 ^ 128) false with
    | .ok _ u => { u with free := u.free + 1 }
    | _ => { t with free := t.free + 1 }) t) s

/-! ### Completion (R175, R176) -/

/-- The live context and barrier that CADDR names. -/
def State.colTarget (s : State) (b : Nat) : Option (Nat × Ctx × Nat) :=
  if bits (colCaddr b) 63 46 ≠ 0 ∨ bits (colCaddr b) 31 28 ≠ 0 then none
  else s.ctxs.findSome? fun (c, x) =>
    if x.named && x.fslots.any fun (w, _) => x.fname w == colCaddr b % 2 ^ 28 then some (c, x, bits (colCaddr b) 45 32) else none

/-- An arrival, with the error of a code other than 0, at a barrier of a context: in its scratchpad, in its save area once it has left
its core, in both while it is stopped with an image. -/
def State.reportBarrier (s : State) (c : Nat) (x : Ctx) (i code : Nat) : State :=
  let k := scratchKey c (16 * i)
  let off := x.saveAt 4 + 16 * i
  let saved := !x.placed
  let t : State := if saved then { s with mem := writeMem s.mem k 16 (s.getSave x off 16) } else s
  let t := if code = 0 then t.barrierArrive c i 1 0 else t.failBarrier c i code 0
  if saved || (x.state == .stopped && (SMap.find? s.saves c).isSome) then t.putSave x off 16 (readMem t.mem k 16) else t

/-- Reports a completion, but none at a barrier that its context does not have or whose bytes lie beyond its scratchpad (log 29); while
the word's home cannot serve, the line at which the report waits plus one, or 0. A CADDR that names no target (R171) receives none. -/
def State.colReport (s : State) (c : Coll) (code : Nat) : Except Nat State :=
  let b := c.block
  if b.testBit 20 then
    if colCaddr b % 8 ≠ 0 ∨ addrSpace (colCaddr b) ≠ 1 then .ok s
    else match s.matinsWord (s.qpart c.queue) (colCaddr b) true false (fun _ => if code = 0 then colCval b else 2 ^ 63 + code) with
    | .ok _ u => .ok u
    | .fail _ u => .ok u
    | .wait k => .error k
  else match s.colTarget b with
    | some (k, x, i) => .ok (if i < x.ntbars ∧ 16 * i + 16 ≤ x.scratchBytes then s.reportBarrier k x i code else s)
    | none => .ok s

/-- A collective ends at its rank: its slots are free, and its packet completes. -/
def State.endColl (s : State) (n : Nat) (c : Coll) : State :=
  let t : State := { s with colls := SMap.erase s.colls n }
  let t := (t.setQueue c.queue { t.queue c.queue with suspended := false }).offerSlots c.slots
  t.completePacket c.queue c.index

/-- Collective n reports its code and ends, or waits for its word's home. -/
def State.finishColl (s : State) (n : Nat) (c : Coll) (code : Nat) : State :=
  match s.colReport c code with
  | .ok u => u.endColl n c
  | .error k => (s.setColl n c).waitOr k .collectiveComplete [n]

/-- Writes the results of every rank of the package that is matched with c: all can be written, or none is, and all have then the same
code (R176). -/
def State.writeResults (s : State) (c : Coll) : Answer :=
  let ds := s.mates c
  let all (check : Bool) (r : Answer) : Answer := ds.foldl (fun r (_, (d : Coll)) => match r with
    | .ok _ t => t.colResult d check
    | k => k) r
  match all true (.ok 0 s) with
  | .ok _ t => match all false (.ok 0 t) with
    | .ok _ u => .ok 0 (ds.foldl (fun (u : State) (m, (d : Coll)) => u.setColl m { d with done := true }) u)
    | k => k
  | k => k

/-- COLLECTIVE_COMPLETE: collective. The ranks of the package that are matched write their results together, once all have theirs: each
has read the others' SRC before any writes its DST, and all end with one code (R176). -/
def execCollectiveComplete (s : State) : Host.Outcome State Fault Refusal :=
  let n := s.arg 0
  .next <| s.inTurn .collectiveComplete fun s => match SMap.find? s.colls n with
    | none => s
    | some c =>
      if c.code ≠ 0 then (if (SMap.find? c.blocks c.rank).isSome && !c.done then s.scramble c else s).finishColl n { c with done := true } c.code
      else if c.done then s.finishColl n c 0
      else if !s.colReady c then s
      else if (s.mates c).any fun (_, (d : Coll)) => !d.suspended.isEmpty || !s.colReady d then s.later .collectiveComplete [n]
      else match s.writeResults c with
        | .ok _ t => ((s.mates c).filter fun (m, _) => m != n).foldl (fun (t : State) (d : Nat × Coll) => t.post .collectiveComplete [d.1]) t
            |>.finishColl n { c with done := true } 0
        | .fail e t => t.failGroup c e
        | .wait _ => s.later .collectiveComplete [n]

/-! ### Timeouts and suspension (R178 to R180) -/

/-- What a timer of collective c waits for has come: of an expansion, the chunk of the step before m, or, with m 0, every block;
otherwise the input of rank m. -/
def Coll.come (c : Coll) (m : Nat) : Bool :=
  if c.alg = 0 then c.has m
  else if m = 0 then (List.range c.nranks).all fun k => (SMap.find? c.blocks k).isSome
  else c.step + 1 != m || c.inbox.isSome

/-- COLLECTIVE_STEP_TIMEOUT: collective; the rank whose chunks are awaited, or, of an expansion, the step whose chunk is, plus one, 0
before the first; cycles waited, the cycles counted at the last look, the bytes come from that rank then. -/
def execCollectiveStepTimeout (s : State) : Host.Outcome State Fault Refusal :=
  let n := s.arg 0
  let m := s.arg 1
  .next (match SMap.find? s.colls n with
    | none => s
    | some c =>
      let bytes := if c.alg = 0 then SMap.get 0 c.got m else 0
      let now := s.counted c
      let waited := s.arg 2 + (now - s.arg 3)
      if c.code ≠ 0 ∨ c.done = true ∨ c.come m = true then s
      else if bytes ≠ s.arg 4 then s.later .collectiveStepTimeout [n, m, 0, now, bytes]
      else if s.nanos (1000 * colTimeout c.block) ≤ waited then s.failGroup c 7
      else s.later .collectiveStepTimeout [n, m, waited, now, bytes])

/-- SUSPEND_NOTICE: collective, twice the suspended rank plus its reason. -/
def execSuspendNotice (s : State) : Host.Outcome State Fault Refusal :=
  let v := s.arg 1
  .next (match SMap.find? s.colls (s.arg 0) with
    | none => s
    | some c => (s.mates c).foldl (fun (t : State) (m, (d : Coll)) =>
        if d.suspended.contains v then t
        else if d.suspended.isEmpty then
          (t.putColl m { d with suspended := [v], since := t.clock.toNat }).post .suspensionSlotRelease [m, t.clock.toNat]
        else t.setColl m { d with suspended := v :: d.suspended }) s)

/-- RESUME_NOTICE: as SUSPEND_NOTICE. When no rank is left suspended, the slots are acquired again. -/
def execResumeNotice (s : State) : Host.Outcome State Fault Refusal :=
  let v := s.arg 1
  .next (match SMap.find? s.colls (s.arg 0) with
    | none => s
    | some c => (s.mates c).foldl (fun (t : State) (m, (d : Coll)) =>
        let left := d.suspended.filter (· ≠ v)
        if left.length = d.suspended.length then t
        else if left.isEmpty then (t.putColl m { d with suspended := left }).takeSlots m
        else t.setColl m { d with suspended := left }) s)

/-- SUSPENSION_SLOT_RELEASE: collective, the clock at which its suspension began. -/
def execSuspensionSlotRelease (s : State) : Host.Outcome State Fault Refusal :=
  let n := s.arg 0
  .next (match SMap.find? s.colls n with
    | none => s
    | some c =>
      if c.suspended.isEmpty ∨ c.since ≠ s.arg 1 then s
      else if s.clock.toNat < c.since + s.nanos 200000 then s.later .suspensionSlotRelease s.args
      else (s.setColl n { c with slots := [] }).offerSlots c.slots)

end Sys2Proof.Machine
end

