-- ==== Sys2Proof/Machine/Regs.lean ====
section
/-! DEFINITION. Regs.lean: the hub system register window (R394, R396, R410, R433, R447, R465, R466): selectors, register pairs,
refusals, and what a write of each register does. Chapter 27's registers follow in Peer.lean and Bringup.lean. -/
namespace Sys2Proof.Machine

/-! ### Selectors and pairs -/

/-- The selector value under which register n is held. -/
def State.regSel (s : State) (n : Nat) : Nat :=
  let g (k : Nat) : Nat := s.hubGet k 0
  let part := g 0x700 % 16
  if 0x055 ≤ n ∧ n ≤ 0x057 then g 0x054 % 16
  else if 0x081 ≤ n ∧ n ≤ 0x084 then g 0x080 % 16
  else if n = 0x0C1 then g 0x0C0 % 4
  else if n = 0x0C3 ∨ n = 0x0C4 then 16 * (g 0x0C0 % 4) + g 0x0C2 % 16
  else if 0x401 ≤ n ∧ n ≤ 0x41F then g 0x400 % 4096
  else if n = 0x08B then g 0x08A % 256
  else if n = 0x423 ∨ n = 0x424 then g 0x422 % 16
  else if 0x501 ≤ n ∧ n ≤ 0x504 then g 0x500 % 16
  else if 0x511 ≤ n ∧ n ≤ 0x513 then g 0x510 % 64
  else if n = 0x602 then g 0x601 % 1024
  else if n = 0x605 then g 0x604 % 1024
  else if (0x701 ≤ n ∧ n ≤ 0x708) ∨ (0x710 ≤ n ∧ n ≤ 0x72A) ∨ n = 0x730 then part
  else if 0x709 ≤ n ∧ n ≤ 0x70D then 16 * part + s.hubGet 0x708 part % 16
  else if 0x72B ≤ n ∧ n ≤ 0x72F then 64 * part + s.hubGet 0x72A part % 64
  else if 0x731 ≤ n ∧ n ≤ 0x735 then 4 * part + s.hubGet 0x730 part % 4
  else if n = 0x811 then g 0x810 % 32
  else if n = 0x821 then g 0x820 % 8192
  else 0

/-- Stores a register under its selector. -/
def State.regPut (s : State) (n v : Nat) : State := s.hubSet n (s.regSel n) v

/-- Holds the value written to a lo register, which reads back (R4), until its hi register loads both halves (R433, R465,
R482). -/
def State.stagePut (s : State) (n v : Nat) : State := (s.hubSet (0x1000 + n) (s.regSel n) v).hubSet (0x3000 + n) (s.regSel n) 1

/-- The value written to a lo register since its pair was last loaded, if one was. -/
def State.staged (s : State) (n : Nat) : Option Nat :=
  if s.hubGet (0x3000 + n) (s.regSel n) = 1 then some (s.hubGet (0x1000 + n) (s.regSel n)) else none

/-- No value waits in the lo register n under selector sel. -/
def State.unstage (s : State) (n sel : Nat) : State := (s.hubSet (0x1000 + n) sel 0).hubSet (0x3000 + n) sel 0

/-- What a write of v to the hi register of the pair at n loads: the lo half is what its register reads (log 26). -/
def State.pairOf (s : State) (n v : Nat) : Nat := (s.staged n).getD (s.hubGet n (s.regSel n)) + v % 2 ^ 32 * 2 ^ 32

/-- Loads both halves of a pair. -/
def State.pairPut (s : State) (n x : Nat) : State :=
  ((s.regPut n (x % 2 ^ 32)).regPut (n + 1) (x / 2 ^ 32)).unstage n (s.regSel n)

/-- Sets bit 0 of a status register to whether the last write was refused. -/
def State.refusal (s : State) (n : Nat) (r : Bool) : State := s.refuseAt n (s.regSel n) r

/-- Applies a write unless it is refused, with its status bit. -/
def State.unless (s : State) (stat : Nat) (refused : Bool) (f : State → State) : State :=
  if refused then s.refusal stat true else (f s).refusal stat false

/-! ### Save pools (R396, R405) -/

def State.writeSpsize (s : State) (v : Nat) : State :=
  let old := s.hubGet 0x057 (s.regSel 0x057)
  let t := s.regPut 0x057 v
  if old < v then t.poolGrew (s.regSel 0x057) else t

/-! ### Vesper registers (R147, R152 to R154, R396) -/

/-- Two ranges with a base and a count meet. -/
def rangesMeet (a n b m : Nat) : Bool := decide (0 < n ∧ 0 < m ∧ a < b + m ∧ b < a + n)

/-- A write of VSLOTBASE to VNTFCNT. -/
def State.writeVrange (s : State) (n v : Nat) : State :=
  let p := s.hubGet 0x080 0 % 16
  let t := s.hubSet n p v
  let clash (k : Nat) : Bool := (List.range 16).any fun q =>
    q != p && rangesMeet (t.hubGet k p) (t.hubGet (k + 1) p) (t.hubGet k q) (t.hubGet (k + 1) q)
  if clash 0x081 || clash 0x083 then s.hubSet 0x089 0 sqBadEntry else t

/-- System software as the party that operates on slots: it acts for the partition that VPSEL selects. -/
def State.systemParty (s : State) : Party :=
  let p := s.hubGet 0x080 0 % 16
  ⟨true, p, s.hubGet 0x701 p % 0x10000, 0⟩

def State.vop (s : State) (op : Nat) : State :=
  let slot := s.hubGet 0x085 0
  let st (k : Nat) : Nat := s.hubGet (0x090 + k) 0
  if op = 0 then
    let (c, n, t) := s.sqOpen s.systemParty
    (if c = 0 then t.hubSet 0x085 0 n else t).hubSet 0x089 0 c
  else if op ≤ 7 then
    let k := if op = 3 then st 0 % 16 else st 0 % 4
    let (c, t) := s.sqCtl s.systemParty op slot k (st 1) (st 2)
    t.hubSet 0x089 0 c
  else if op = 8 then
    let m := (List.range 32).foldl (fun a k => a + st k * 2 ^ (32 * k)) 0
    let (c, t) := s.sqWatch s.systemParty slot (s.hubGet 0x086 0 % 8) m
    t.hubSet 0x089 0 c
  else s

/-- A write of VDATA: SETCNT, SETCLASS or SETMASK of the word selected; no effect on other words. -/
def State.writeVdata (s : State) (v : Nat) : State :=
  let slot := s.hubGet 0x085 0
  let w := s.hubGet 0x086 0
  let p := s.systemParty
  if 2 ≤ w ∧ w ≤ 5 then (s.sqCtl p 5 slot (w - 2) v 0).2
  else if 48 ≤ w ∧ w ≤ 63 then (s.sqCtl p 3 slot (w - 48) v (s.slotWord slot (w + 16))).2
  else if 64 ≤ w ∧ w ≤ 79 then (s.sqCtl p 3 slot (w - 64) (s.slotWord slot (w - 16)) v).2
  else if 80 ≤ w ∧ w ≤ 82 then (s.sqCtl p 4 slot (w - 79) v 0).2
  else s

/-- A write of a Vesper register. DESIGN CHOICE: R396 gives VWORD and VNSEL no bit range; VWORD keeps 9 bits, enough for 0 to 383,
and VNSEL 8, one for each notify register (log 50). Unsafe. -/
def State.writeVesper (s : State) (n v : Nat) : State :=
  let r := s.hubGet 0x08A 0 % 256
  if n = 0x080 then s.hubSet n 0 (v % 16)
  else if n ≤ 0x084 then s.writeVrange n v
  else if n = 0x085 then s.hubSet n 0 v
  else if n = 0x086 then s.hubSet n 0 (v % 512)
  else if n = 0x087 then s.writeVdata v
  else if n = 0x088 then s.vop v
  else if n = 0x08A then s.hubSet n 0 (v % 256)
  else if n = 0x08B then s.stagePut n v
  else if n = 0x08C then
    (s.setNotify r ((s.staged 0x08B).getD (s.notifyValue r % 2 ^ 32) + v % 2 ^ 32 * 2 ^ 32)).unstage 0x08B r
  else if n = 0x08D then (if v.testBit 0 then { s with notify := SMap.set 0 s.notify r (s.notifyValue r) } else s)
  else if 0x090 ≤ n then s.hubSet n 0 v
  else s

/-! ### The commons region (R72, R396) -/

/-- Some window on a die is not empty. -/
def State.windowOpen (s : State) (die : Nat) : Bool := (List.range 16).any fun p => (s.cmWindow die p).2 != 0

/-- A partition's window, given as written, stays inside the region and meets no other. -/
def State.windowFits (s : State) (die part : Nat) : Bool :=
  let (b, n) := s.cmWindow die part
  n == 0 || (decide (b + n ≤ s.hubGet 0x0C1 die * 0x1000000) && (List.range 16).all fun q =>
    q == part || !rangesMeet b n (s.cmWindow die q).1 (s.cmWindow die q).2)

def State.writeCommons (s : State) (n v : Nat) : State :=
  let die := s.hubGet 0x0C0 0 % 4
  if n = 0x0C0 then s.hubSet n 0 (v % 4)
  else if n = 0x0C1 then s.unless 0x0C5 (s.windowOpen die || v % 8 == 7) fun t => t.regPut n (v % 8)
  else if n = 0x0C2 then (s.hubSet n 0 (v % 16)).refusal 0x0C5 false
  else if n = 0x0C3 ∨ n = 0x0C4 then
    let t := s.regPut n (v % 128)
    s.unless 0x0C5 (!t.windowFits die (s.hubGet 0x0C2 0 % 16)) fun _ => t
  else s

/-! ### The group table (R167, R396) -/

/-- GCMD: the entry staged in GENT is written to GSEL; on this package if it is a member of the group, as written or as held. -/
def State.writeGroup (s : State) : State :=
  let e := (List.range 4).foldl (fun a k => a + s.hubGet (0x0E1 + k) 0 * 2 ^ (32 * k)) 0
  let e := setBits (setBits e 47 43 0) 21 1 0
  let g := s.hubGet 0x0E0 0 % 0x10000
  let here (p : Nat) : Bool := p == s.pkg
  if s.groupHas e here || s.groupHas (s.group g) here then { s with groups := SMap.set 0 s.groups g e } else s

def State.writeGroupReg (s : State) (n v : Nat) : State :=
  if n = 0x0E0 then s.hubSet n 0 (v % 0x10000)
  else if n ≤ 0x0E4 then s.hubSet n 0 v
  else if v = 1 then s.writeGroup
  else s

/-! ### Queues, scheduling and events (R410, R411, R422, R423) -/

/-- Cluster set of a partition (R464). -/
def State.clusterSet (s : State) (part : Nat) : Nat := s.hubGet64 0x702 part

/-- A write of half a cluster mask. -/
def State.writePmask (s : State) (n v : Nat) : State :=
  let part := s.hubGet 0x422 0 % 16
  let own := if n = 0x423 then s.clusterSet part % 2 ^ 32 else s.clusterSet part / 2 ^ 32
  s.unless 0x428 (v % 2 ^ 32 ||| own != own) fun t => t.regPut n v

def State.writeLseed (s : State) (n v : Nat) : State :=
  if n = 0x426 then (s.stagePut n v).refusal 0x428 false
  else
    let x := s.pairOf 0x426 v
    s.unless 0x428 (x == 0) fun t => t.pairPut 0x426 x

def State.writeEvsize (s : State) (v : Nat) : State :=
  s.unless 0x428 (v % 16 != 0 && decide (v % 16 < 4)) fun t => t.hubSet 0x432 0 (v % 16)

/-- SVC.STATE (R483). -/
def State.svcState (s : State) : Nat := bits (s.hubGet 0x800 0) 2 0

/-- A write of QCAP (R422): what the queue has reached under the old cap is settled first; the new one is watched from now on, if the
queue has blocks on cores or has reached it already. -/
def State.writeQcap (s : State) (q v : Nat) : State :=
  let t := (s.enterEpoch q).noteCap q s.epochNow
  let t := t.hubSet 0x406 q v
  if t.capReached q || t.ctxs.any fun (_, x) => x.queue == q && x.placed then t.watchCap q else t

def State.writeQueue (s : State) (n v : Nat) (machine : Bool) : State :=
  let q := s.hubGet 0x400 0 % 4096
  if n = 0x400 then s.hubSet n 0 (v % 4096)
  else if n = 0x401 then s.writeQctl q v machine
  else if n = 0x402 ∨ n = 0x403 then
    (if s.qenabled q then s.queueRefused q true else (s.queueRefused q false).regPut n v)
  else if n = 0x405 then s.regPut n (v % 0x10000)
  else if n = 0x406 then s.writeQcap q v
  else if n = 0x404 ∨ (0x40C ≤ n ∧ n ≤ 0x41F) then s.regPut n v
  else if n = 0x40B then s.queueCommand q v
  else if n = 0x420 then s.qputRegister
  else if n = 0x422 then s.hubSet n 0 (v % 16)
  else if n = 0x423 ∨ n = 0x424 then s.writePmask n v
  else if n = 0x425 then (if s.svcState = 1 then s else s.hubSet n 0 (v % 2))
  else if n = 0x426 ∨ n = 0x427 then s.writeLseed n v
  else if n = 0x430 ∨ n = 0x431 ∨ n = 0x434 then s.hubSet n 0 v
  else if n = 0x432 then s.writeEvsize v
  else s

/-! ### Roots (R433) -/

/-- Another valid remote root has this tag. -/
def State.rootTaken (s : State) (i tag : Nat) : Bool :=
  (List.range 64).any fun j => j != i && (s.hubGet 0x511 j).testBit 16 && s.hubGet 0x511 j % 0x10000 == tag

def State.writeRoot (s : State) (n v : Nat) : State :=
  let pair (lo : Nat) : State :=
    let x := s.pairOf lo v
    s.unless 0x505 (x % 4096 != 0) fun t => t.pairPut lo x
  if n = 0x500 then s.hubSet n 0 (v % 16)
  else if n = 0x510 then s.hubSet n 0 (v % 64)
  else if n = 0x511 then
    s.unless 0x505 (v.testBit 16 && s.rootTaken (s.hubGet 0x510 0 % 64) (v % 0x10000)) fun t => t.regPut n (v % 0x20000)
  else if n = 0x501 ∨ n = 0x503 ∨ n = 0x512 then (s.stagePut n v).refusal 0x505 false
  else if n = 0x502 ∨ n = 0x504 ∨ n = 0x513 then pair (n - 1)
  else s

/-! ### The coherence domain (R444, R447, R461) -/

/-- Some agent of this package holds a control line. -/
def State.holdsLine (s : State) : Bool :=
  s.lines.any fun (_, x) => x.members.any fun c => c.agent / 64 == s.hubGet 0x600 0 % 1024

/-- Exchanges two homes' slices of memory: the package's own control memory goes with its index. -/
def State.swapSlices (s : State) (a b : Nat) : State :=
  let base := ctlKey 0
  let move (unit k : Nat) : Nat :=
    let h := (unit * k - base) / 0x1000000000
    if unit * k < base ∨ 1024 ≤ h then k
    else if h = a then k + b * 0x1000000000 / unit - a * 0x1000000000 / unit
    else if h = b then k + a * 0x1000000000 / unit - b * 0x1000000000 / unit
    else k
  if a = b then s
  else
    let mem := s.mem.foldl (fun m (k, x) => SMap.insert m (move 1 k) x) []
    let poison := s.poison.foldl (fun m (k, x) => SMap.insert m (move 32 k) x) []
    let recs := s.recs.foldl (fun m (k, x) => SMap.insert m (move 128 k) x) []
    { s with mem := mem, poison := poison, recs := recs }

def State.writeDomself (s : State) (v : Nat) : State :=
  let old := s.hubGet 0x600 0 % 1024
  s.unless 0x603 s.holdsLine fun t => (t.swapSlices old (v % 1024)).hubSet 0x600 0 (v % 1024 + bits v 25 16 * 2 ^ 16)

/-- A domain index names a lost package. -/
def State.lostIndex (s : State) (i : Nat) : Bool :=
  match s.domPkg? i with
  | some p => SMap.get false s.dead p
  | none => false

/-- A write of CHMAP for the home that CHSEL selects. MIRROR is checked whatever MVALID is. A new mirror takes effect once the slice has
been copied to it (R461). -/
def State.writeChmap (s : State) (v : Nat) : State :=
  let h := s.hubGet 0x601 0 % 1024
  let m := v % 1024
  s.unless 0x603 (m == h || decide (s.domSize ≤ m) || s.lostIndex m) fun t =>
    if v.testBit 31 then t.post .mirrorUpdate [h, m, 1] else ({ t with mdir := t.mdir.filter fun (n, _) => lineHome n != h } : State).hubSet 0x602 h m

/-- A package enters the domain at an index whose slice was lost: the slice is its memory as it stands, which nothing has
written (log 3). -/
def State.freshSlice (s : State) (i : Nat) : State :=
  if SMap.find? s.lost i = some 0 then
    { s with
      lost := SMap.erase s.lost i
      mem := s.mem.filter fun (k, _) => !sliceKey 0x1000000000000000 i k
      poison := s.poison.filter fun (k, _) => !sliceKey 0x1000000000000000 i (32 * k)
      recs := s.recs.filter fun (k, _) => !sliceKey 0x1000000000000000 i (128 * k)
      lines := s.lines.filter fun (n, _) => lineHome n != i }
  else s

/-- A write of DMPKG for the index that DMSEL selects. -/
def State.writeDmpkg (s : State) (v : Nat) : State :=
  let i := s.hubGet 0x604 0 % 1024
  let p := v % 0x100000
  let valid := v.testBit 31
  let taken := (List.range 1024).any fun j => j != i && (s.hubGet 0x605 j).testBit 31 && s.hubGet 0x605 j % 0x100000 == p
  s.unless 0x603 (s.holdsLine || (valid && (decide (s.domSize ≤ i) || taken))) fun t =>
    let u := t.hubSet 0x605 i (p + if valid then 2 ^ 31 else 0)
    if valid && !SMap.get false s.dead p then (u.freshSlice i).retryWaiting else u

def State.writeDomain (s : State) (n v : Nat) (machine : Bool) : State :=
  if !machine then s
  else if n = 0x600 then s.writeDomself v
  else if n = 0x601 then (s.hubSet n 0 (v % 1024)).refusal 0x603 false
  else if n = 0x602 then s.writeChmap v
  else if n = 0x604 then s.hubSet n 0 (v % 1024)
  else if n = 0x605 then s.writeDmpkg v
  else s

/-! ### Partitions (R464 to R466) -/

/-- Clears what of PMASK lies outside the cluster set (R464). -/
def State.trimPmask (s : State) (part : Nat) : State :=
  let m := s.hubGet64 0x423 part &&& s.clusterSet part
  (s.hubSet 0x423 part (m % 2 ^ 32)).hubSet 0x424 part (m / 2 ^ 32)

/-- Some valid window of partition p overlaps a valid window of the same SPACE of partition q; a window whose last byte lies
below its first holds no byte. -/
def State.windowsOverlap (s : State) (p q : Nat) : Bool :=
  (List.range 16).any fun i => (List.range 16).any fun j =>
    let a := 16 * p + i
    let b := 16 * q + j
    (s.hubGet 0x709 a).testBit 0 && (s.hubGet 0x709 b).testBit 0 && (s.hubGet 0x709 a).testBit 1 == (s.hubGet 0x709 b).testBit 1 &&
      decide (s.hubGet64 0x70A a ≤ s.hubGet64 0x70C a) && decide (s.hubGet64 0x70A b ≤ s.hubGet64 0x70C b) &&
      decide (s.hubGet64 0x70A a ≤ s.hubGet64 0x70C b) && decide (s.hubGet64 0x70A b ≤ s.hubGet64 0x70C a)

/-- SEAL is refused. -/
def State.sealRefused (s : State) (p : Nat) : Bool :=
  let others := (List.range 16).filter (· ≠ p)
  s.partState p != 0 ||
  (others.any fun q => s.partState q != 0 && s.hubGet 0x701 q % 0x10000 == s.hubGet 0x701 p % 0x10000) ||
  (others.any fun q => s.partState q == 1 && (s.clusterSet q &&& s.clusterSet p) != 0) ||
  (s.conf p && (!s.keyed.testBit p || others.any fun q => s.windowsOverlap p q))

def State.setPartState (s : State) (p st : Nat) : State := s.hubSet 0x701 p (setBits (s.hubGet 0x701 p) 31 30 st)

def State.sealPart (s : State) (p : Nat) : State :=
  if s.sealRefused p then s.refuseAt 0x705 p true else ((s.flushTrace p).setPartState p 1).refuseAt 0x705 p false

/-- DISSOLVE is refused. -/
def State.dissolveRefused (s : State) (p : Nat) : Bool :=
  s.partState p == 2 || (s.ctxs.any fun (_, x) => x.part == p) ||
  (List.range 4096).any fun q => s.qenabled q && s.qpart q == p

def State.dissolvePart (s : State) (p : Nat) : State :=
  if s.dissolveRefused p then s.refuseAt 0x705 p true
  else ((s.setPartState p 2).refuseAt 0x705 p false).post .dissolutionEnd [p]

/-- The translation belongs to partition p, or was made for a partition of its tag on another package. -/
def State.xlatOf (s : State) (p : Nat) (x : Xlat) : Bool :=
  if x.cache = hubCache then x.part == s.hubGet 0x701 p % 0x10000 else x.part == p

/-- The pointer entry was cached for partition p, or for a partition of its tag on another package. -/
def State.pointerOf (s : State) (p : Nat) (q : Pointer) : Bool :=
  if q.die = 4 then q.part == s.hubGet 0x701 p % 0x10000 else q.part == p

/-- Discards the pointer entries that p selects (R404). -/
def State.discardPointers (s : State) (p : Pointer → Bool) : State := { s with walkers := s.walkers.filter fun x => !p x }

/-- Zero over a partition's window in a die's commons region, whose size becomes 0. -/
def State.clearWindow (s : State) (die p : Nat) : State :=
  let (b, n) := s.cmWindow die p
  let lo := commonsKey die b
  let inside (k : Nat) : Bool := decide (lo ≤ k) && decide (k < lo + n)
  let t : State := { s with
    mem := s.mem.filter fun (k, _) => !inside k
    poison := s.poison.filter fun (k, _) => !inside (32 * k)
    recs := s.recs.filter fun (k, _) => !inside (128 * k) }
  t.hubSet 0x0C4 (16 * die + p) 0

/-- The steps of dissolution. -/
def State.dissolve (s : State) (p : Nat) : State :=
  let s := s.flushTrace p
  let t := (s.discardTlb (s.xlatOf p)).discardPointers (s.pointerOf p)
  let t := (List.range 4).foldl (fun t die => t.clearWindow die p) t
  let t := (((t.hubSet 0x701 p 0).hubSet 0x702 p 0).hubSet 0x703 p 0).unstage 0x702 p
  let t := (List.range 16).foldl (fun t w =>
    [0x709, 0x70A, 0x70B, 0x70C, 0x70D].foldl (fun t n => (t.hubSet n (16 * p + w) 0).unstage n (16 * p + w)) t) t
  let t := (List.range 8).foldl (fun t k => t.hubSet (0x710 + k) p 0) t
  let t : State := { t with keyed := if t.keyed.testBit p then t.keyed - 2 ^ p else t.keyed }
  t.trimPmask p

/-- Registers that only an Unused partition lets be written (R466). -/
def sealedReg (n : Nat) : Bool :=
  decide (0x701 ≤ n ∧ n ≤ 0x703) || decide (0x709 ≤ n ∧ n ≤ 0x70D) || decide (0x710 ≤ n ∧ n ≤ 0x717)

/-- A write of the partition registers 0x701 to 0x717. -/
def State.writePart (s : State) (n v : Nat) : State :=
  let p := s.hubGet 0x700 0 % 16
  let st := s.partState p
  if n = 0x704 then
    (if v = 1 then s.sealPart p else if v = 2 then s.dissolvePart p else s.refusal 0x705 true)
  else if st = 2 then s.refusal 0x705 true
  else if n = 0x708 then (s.hubSet n p (v % 16)).refusal 0x705 false
  else if st ≠ 0 ∧ sealedReg n = true then s.refusal 0x705 true
  else
    let done (t : State) : State := t.refusal 0x705 false
    let x := s.pairOf (n - 1) v
    if n = 0x701 then done (s.regPut n (v % 0x20000))
    else if n = 0x702 ∨ n = 0x70A ∨ n = 0x70C then done (s.stagePut n v)
    else if n = 0x703 then done ((s.pairPut 0x702 x).trimPmask p)
    else if n = 0x709 then done (s.regPut n (v % 8))
    else if n = 0x70B then s.unless 0x705 (x % 0x10000 != 0) fun t => t.pairPut 0x70A x
    else if n = 0x70D then s.unless 0x705 ((x + 1) % 0x10000 != 0) fun t => t.pairPut 0x70C x
    else if 0x710 ≤ n ∧ n ≤ 0x717 then done { s.regPut n v with keyed := s.keyed ||| 2 ^ p }
    else done s

/-- A write of the trace and breakpoint registers. A refused one sets PTSTAT[0]; one that is applied leaves it, since it tells of
the last write to 0x701 to 0x717. -/
def State.writeTrace (s : State) (n v : Nat) : State :=
  let p := s.hubGet 0x700 0 % 16
  let on := (s.hubGet 0x720 p).testBit 0
  if n = 0x720 then s.writeTrctl p v
  else if (n = 0x721 ∨ n = 0x722 ∨ n = 0x723) ∧ on = true then s.refuseAt 0x705 p true
  else if n = 0x721 then s.stagePut n v
  else if n = 0x722 then s.pairPut 0x721 (s.pairOf 0x721 v)
  else if n = 0x723 ∨ n = 0x725 ∨ n = 0x728 ∨ n = 0x729 then s.regPut n v
  else if n = 0x72A then s.hubSet n p (v % 64)
  else if n = 0x72B then s.regPut n (v % 2)
  else if n = 0x72C ∨ n = 0x72E ∨ n = 0x732 ∨ n = 0x734 then s.stagePut n v
  else if n = 0x72D ∨ n = 0x72F ∨ n = 0x733 ∨ n = 0x735 then s.pairPut (n - 1) (s.pairOf (n - 1) v)
  else if n = 0x730 then s.hubSet n p (v % 4)
  else if n = 0x731 then s.regPut n (v % 8)
  else s

def State.writePartition (s : State) (n v : Nat) (machine : Bool) : State :=
  if n = 0x700 then s.hubSet n 0 (v % 16)
  else if n ≤ 0x717 then (if machine then s.writePart n v else s)
  else if s.partState (s.hubGet 0x700 0 % 16) = 2 then s.refusal 0x705 true
  else s.writeTrace n v

/-- A write of a register below 0x800, or of one that nothing assigns. -/
def State.writeLow (s : State) (n v : Nat) (machine : Bool) : State :=
  if n = 0x040 then s.hubSet n 0 (v % 0x10000)
  else if n = 0x041 then s.ctxCommand (v % 16)
  else if n = 0x054 then s.hubSet n 0 (v % 16)
  else if n = 0x055 ∨ n = 0x056 then s.regPut n v
  else if n = 0x057 then s.writeSpsize v
  else if 0x080 ≤ n ∧ n ≤ 0x0AF then s.writeVesper n v
  else if 0x0C0 ≤ n ∧ n ≤ 0x0C4 then s.writeCommons n v
  else if 0x0E0 ≤ n ∧ n ≤ 0x0E5 then (if machine then s.writeGroupReg n v else s)
  else if 0x400 ≤ n ∧ n ≤ 0x435 then s.writeQueue n v machine
  else if 0x500 ≤ n ∧ n ≤ 0x513 then s.writeRoot n v
  else if 0x600 ≤ n ∧ n ≤ 0x605 then s.writeDomain n v machine
  else if 0x700 ≤ n ∧ n ≤ 0x735 then s.writePartition n v machine
  else s

/-! ### Events of these registers. Operands of a write: register number, value, 1 at machine level -/

/-- A write of a register, by the event's operands, if its number is one of the event's own. -/
def State.lowWrite (s : State) (p : Nat → Bool) : Host.Outcome State Fault Refusal :=
  .next (if p (s.arg 0) then s.writeLow (s.arg 0) (s.arg 1 % 2 ^ 32) (s.arg 2 == 1) else s)

/-- VOP writes. -/
def execVopOpen (s : State) : Host.Outcome State Fault Refusal := .next (s.vop 0)
def execVopClose (s : State) : Host.Outcome State Fault Refusal := .next (s.vop 1)
def execVopResume (s : State) : Host.Outcome State Fault Refusal := .next (s.vop 2)
def execVopSetclass (s : State) : Host.Outcome State Fault Refusal := .next (s.vop 3)
def execVopSetmask (s : State) : Host.Outcome State Fault Refusal := .next (s.vop 4)
def execVopSetcnt (s : State) : Host.Outcome State Fault Refusal := .next (s.vop 5)
def execVopClrdraft (s : State) : Host.Outcome State Fault Refusal := .next (s.vop 6)
def execVopClrfq (s : State) : Host.Outcome State Fault Refusal := .next (s.vop 7)
def execVopInstall (s : State) : Host.Outcome State Fault Refusal := .next (s.vop 8)

def execVdataWrite (s : State) : Host.Outcome State Fault Refusal := s.lowWrite (· == 0x087)
def execVnhiWrite (s : State) : Host.Outcome State Fault Refusal := s.lowWrite (· == 0x08C)
def execVnpendClear (s : State) : Host.Outcome State Fault Refusal := s.lowWrite (· == 0x08D)
def execGcmdWrite (s : State) : Host.Outcome State Fault Refusal := s.lowWrite (· == 0x0E5)
def execCmregionWrite (s : State) : Host.Outcome State Fault Refusal := s.lowWrite (· == 0x0C1)
def execCmwindowWrite (s : State) : Host.Outcome State Fault Refusal := s.lowWrite fun n => n == 0x0C3 || n == 0x0C4
def execPmaskWrite (s : State) : Host.Outcome State Fault Refusal := s.lowWrite fun n => n == 0x423 || n == 0x424
def execLseedWrite (s : State) : Host.Outcome State Fault Refusal := s.lowWrite fun n => n == 0x426 || n == 0x427
def execEvsizeWrite (s : State) : Host.Outcome State Fault Refusal := s.lowWrite (· == 0x432)
def execRootWrite (s : State) : Host.Outcome State Fault Refusal :=
  s.lowWrite fun n => decide (0x501 ≤ n ∧ n ≤ 0x504) || decide (0x511 ≤ n ∧ n ≤ 0x513)
def execDomselfWrite (s : State) : Host.Outcome State Fault Refusal := s.lowWrite (· == 0x600)
def execChmapWrite (s : State) : Host.Outcome State Fault Refusal := s.lowWrite (· == 0x602)
def execDmpkgWrite (s : State) : Host.Outcome State Fault Refusal := s.lowWrite (· == 0x605)
def execFirewallWindowWrite (s : State) : Host.Outcome State Fault Refusal := s.lowWrite fun n => decide (0x709 ≤ n ∧ n ≤ 0x70D)

/-- PARTITION_SEAL: partition. -/
def execPartitionSeal (s : State) : Host.Outcome State Fault Refusal := .next (s.sealPart (s.arg 0 % 16))

/-- PARTITION_DISSOLVE: partition. -/
def execPartitionDissolve (s : State) : Host.Outcome State Fault Refusal := .next (s.dissolvePart (s.arg 0 % 16))

/-- DISSOLUTION_END: partition. -/
def execDissolutionEnd (s : State) : Host.Outcome State Fault Refusal :=
  .next (if s.partState (s.arg 0 % 16) = 2 then s.dissolve (s.arg 0 % 16) else s)

end Sys2Proof.Machine
end

