-- ==== Sys2Proof/Machine/Peer.lean ====
section
/-! DEFINITION. Peer.lean: XZL links, flits, requests of other packages, and peer loss (R433, R434, R462, R463, R467, R491 to R496,
R500). -/
namespace Sys2Proof.Machine

/-! ### Remote work that ends without its target (R95, R145, R494) -/

/-- Completes with code 0x05, or as refused-stale, every operation in flight that p selects by its target package and by the link that its
flits took, plus one. A copy that has all its sectors awaits no acknowledgement any more. -/
def State.loseOps (s : State) (p : Nat → Nat → Bool) : State :=
  s.ops.foldl (fun (t : State) (id, (o : Op)) => match o.kind with
    | .ratom _ _ _ _ steps todo =>
      (todo.filter fun (l, k) => k != 0 && p (addrPkg (SMap.get (0, 0) steps l).1) k).foldl
        (fun t (l, _) => t.post .ratomAcknowledged [id, l, 5]) t
    | .copy _ _ _ d _ done _ _ k =>
      if k ≠ 0 ∧ done.length < boxSectors d ∧ p (addrPkg (boxBase d)) k = true then t.post .copyFail [id, 5] else t
    | .laneWrite cap _ _ _ _ _ _ _ 0 k =>
      if bits cap 63 44 ≠ s.pkg ∧ p (bits cap 63 44) k = true then t.post .sendOutcomeReturn [id, outStale + 1] else t
    | _ => t) s

/-! ### Links (R482, R485, R491, R494, R495) -/

/-- A link goes down: DOWNEV, the interrupt, and what was sent on it. A collective whose steps send on it may have had a request
unanswered: a free choice. -/
def State.linkDown (s : State) (l : Nat) : State :=
  if s.linkUp l then
    let v := s.hubGet 0x811 l
    let t := (s.loseOps fun _ k => k == l + 1).hubSet 0x811 l (setBits (setBits v 0 0 0) 2 2 1)
    let t : State := { t with interrupts := t.interrupts + 1, free := t.free + 1 }
    if Config.freeBool s.free then
      (s.colls.filter fun (_, c) => c.slots.contains l && !c.done).foldl (fun t (_, c) => t.failGroup c 5) t
    else t
  else s

/-- LINK_RECEIVE_TIMEOUT: link. -/
def execLinkReceiveTimeout (s : State) : Host.Outcome State Fault Refusal := .next (s.linkDown (s.arg 0 % 32))

/-- LINK_RETRY_EXHAUSTED: link. -/
def execLinkRetryExhausted (s : State) : Host.Outcome State Fault Refusal := .next (s.linkDown (s.arg 0 % 32))

/-- KEEP_ALIVE: link. The link is idle: the flits that it had to take have left. -/
def execKeepAlive (s : State) : Host.Outcome State Fault Refusal :=
  .next { s with egress := s.egress.filter fun f => f.headD 0 != s.arg 0 % 32 }

/-- FLIT_RETRY: link. The flit is sent again; nothing of the package's state changes. -/
def execFlitRetry (s : State) : Host.Outcome State Fault Refusal := .next s

/-- CONTROL_FLIT_REISSUE: the requests that wait are examined anew, in arrival order. -/
def execControlFlitReissue (s : State) : Host.Outcome State Fault Refusal := .next s.retryWaiting

/-- LINK_TRAINED: link, 1 when its peer answers, peer link, peer package. A link trains under TRAIN, or comes up again. -/
def execLinkTrained (s : State) : Host.Outcome State Fault Refusal :=
  let l := s.arg 0 % 32
  let v := s.hubGet 0x811 l
  .next (
    if s.svcState = 3 ∨ (s.training.testBit 4 = false ∧ v.testBit 1 = false) then s
    else
      let up := decide (s.arg 1 = 1)
      let w := v ||| (if up then 3 else 2)
      let w := if up then setBits (setBits w 7 3 (s.arg 2)) 27 8 (s.arg 3) else w
      let t := (s.hubSet 0x811 l w).hubSet 0x800 0 (s.hubGet 0x800 0 ||| 0x400)
      if up then t.post .controlFlitReissue [] else t)

/-! ### Requests of other packages at this target (R433, R434, R467) -/

/-- The root of the valid remote entry with a tag, or 0. -/
def State.remoteRoot (s : State) (tag : Nat) : Nat :=
  match (List.range 64).find? fun i => (s.hubGet 0x511 i).testBit 16 && s.hubGet 0x511 i % 0x10000 == tag with
  | some i => s.hubGet64 0x512 i
  | none => 0

/-- Translates a tensor offset for another package's partition tag, by the hub's cache or a walk. A translation without a
permission needed is discarded and the tables walked again. -/
def State.translateRemote (s : State) (tag va need : Nat) : Except Nat Nat × State :=
  let miss (u : State) : Except Nat Nat × State :=
    match u.walkTables 4 (u.dieAgent 0) tag true (u.remoteRoot tag) va (some (256 + 4 * (va / 2 ^ 16) + 2)) with
    | (.error .poison, w) => (.error 4, w)
    | (.error _, w) => (.error 2, w)
    | (.ok (leaf, lvl), w) =>
      if leaf &&& need = need then
        (.ok (leafAddr true leaf lvl va), w.cacheXlat ⟨hubCache, tag, true, va / 2 ^ pageBits lvl, lvl, leaf⟩)
      else (.error 2, { w with walkers := u.walkers })
  let cached (y : Xlat) : Bool := y.covers hubCache tag true va
  match s.heldXlat hubCache tag true va (some (256 + 4 * (va / 2 ^ 16))) with
  | some x => if x.leaf &&& need = need then (.ok (leafAddr true x.leaf x.lvl va), s) else miss (s.discardTlb cached)
  | none => miss (s.discardTlb cached)

/-- The target's Sealed partition with a tag lets the access pass. -/
def State.remoteFirewall (s : State) (tag pa n : Nat) (write : Bool) : Bool :=
  match (List.range 16).find? fun p => s.partState p == 1 && s.hubGet 0x701 p % 0x10000 == tag with
  | some p => s.firewall p true pa n write
  | none => false

/-- The memory key of n bytes that another package accesses, or the code of R87. -/
def State.remoteAddr (s : State) (tag a n need : Nat) : Except Nat Nat × State :=
  match s.translateRemote tag (a % 2 ^ 40) need with
  | (.error c, u) => (.error c, u)
  | (.ok pa, u) => if u.remoteFirewall tag pa n (need &&& permW != 0) then (.ok (tensorKey pa), u) else (.error 3, u)

/-- A write of another package. -/
def State.remoteWrite (s : State) (tag a n v : Nat) : State :=
  match s.remoteAddr tag a n permW with
  | (.ok k, u) => u.engineStore k n v
  | (.error _, u) => u

/-- An atomic or reduction of another package on n bytes. -/
def State.remoteUpdate (s : State) (tag a n : Nat) (f : Nat → Nat) : State :=
  match s.remoteAddr tag a n (permR + permW) with
  | (.ok k, u) => if poisoned u k n then u else u.engineStore k n (f (readMem u.mem k n))
  | (.error _, u) => u

/-- The link operand of a lane write that has reached this package and was kept: neither its link nor its sender's loss concerns it any
more (R138, R145). -/
def keptLink : Nat := 32

/-- The flits of two lane writes come from one wave and name one register and lane of one target (R136). Operands as a FLIT_ARRIVE
has them. -/
def sameWrite (f g : List Nat) : Bool :=
  let cap (h : List Nat) : Nat := h.getD 5 0
  let reg (h : List Nat) : Nat := bits (cap h) 15 9 + h.getD 6 0
  f.getD 4 0 == 5 && g.getD 4 0 == 5 && cap f / 2 ^ 16 == cap g / 2 ^ 16 && reg f == reg g && f.getD 7 0 % 32 == g.getD 7 0 % 32 &&
    f.getD 11 0 == g.getD 11 0

/-- A lane write of another package, its operands from k 0 on: capability, offset, lane, value, tag, sender lane, sender's name, scope plus
one of a send.rel. Its outcome goes back with the acknowledgement. It waits for a context being restored, and behind an earlier one
of its wave to the same register and lane that has waited (R136, R138). -/
def State.remoteLane (s : State) (as : List Nat) : State :=
  let g (k : Nat) : Nat := as.getD k 0
  let kept := keptLink :: s.args.drop 1
  if s.arg 0 ≠ keptLink ∧ (s.agenda.any fun (e, f) => e == .flitArrive && f.headD 0 == keptLink && sameWrite f s.args) = true then
    s.later .flitArrive kept
  else
  let go (atPort : Bool) : Delivery := s.decideWrite atPort (g 0) (g 1) (g 2 % 32) (word (g 3)) (g 4) (g 5) (g 6) (g 7)
  let settle (d : Delivery) : State := match d with
    | .decided _ t => t
    | .forward => s
    | .restoring c => s.wait (restoreKey c) .flitArrive kept
  match go true with
  | .forward => settle (go false)
  | d => settle d

/-! ### Flits (R491, R493) -/

/-- REMOTE_ACK_ARRIVE: link, operation, lane or sector plus one, code or outcome, data. It is discarded when the link is down (R494)
or its package is declared lost (R496). -/
def State.ackArrive (s : State) (l id k code data : Nat) : State :=
  let lost (p : Nat) : Bool := SMap.get false s.dead p
  if !s.linkUp (l % 32) then s
  else match s.op? id with
    | some o => match o.kind with
      | .ratom _ _ _ _ steps todo =>
        if SMap.get 0 todo k = 0 ∨ lost (addrPkg (SMap.get (0, 0) steps k).1) = true then s
        else s.post .ratomAcknowledged [id, k, code]
      | .copy _ out _ d _ _ _ _ link =>
        if link = 0 ∨ lost (addrPkg (boxBase d)) = true then s
        else if code ≠ 0 then s.post .copyFail [id, code]
        else s.post (if out then .outboundSectorAck else .inboundSectorWritten) [id, k, data]
      | .laneWrite cap .. =>
        if bits cap 63 44 = s.pkg ∨ lost (bits cap 63 44) = true then s else s.post .sendOutcomeReturn [id, code + 1]
      | _ => s
    | none => s

def execRemoteAckArrive (s : State) : Host.Outcome State Fault Refusal :=
  .next (s.ackArrive (s.arg 0) (s.arg 1) (s.arg 2) (s.arg 3) (s.arg 4))

/-- The virtual channel of a flit's kind (R491). -/
def flitChannel (kind : Nat) : Nat :=
  match kind with
  | 1 => 0
  | 2 | 10 => 2
  | 3 | 4 | 5 => 3
  | 7 | 8 | 9 => 4
  | _ => 1

/-- The kind of the flit with which an access to a lost peer is answered: it carries the kind and the operands of the request. -/
def lostKind : Nat := 12

/-- A request of the own package is answered as one to a lost peer: kind and operands as its flit carried them (R493). Remote atomics,
lane writes, copies and collective steps complete with code 0x05, or refused-stale; a coherence request is kept (R494). -/
def State.lostFlit (s : State) (kind : Nat) (as : List Nat) : State :=
  let g (k : Nat) : Nat := as.getD k 0
  if kind = 7 then
    (s.colls.filter fun (_, c) => c.group == colGroup (g 3) && c.rank == g 1 && !c.done).foldl (fun (t : State) (c : Nat × Coll) => t.failGroup c.2 5) s
  else s.ops.foldl (fun (t : State) (id, (o : Op)) => match o.kind with
    | .ratom _ _ _ _ steps todo =>
      if kind = 3 then
        (todo.filter fun (l, k) => k != 0 && (SMap.get (0, 0) steps l).1 == g 1).foldl (fun t (l, _) => t.post .ratomAcknowledged [id, l, 5]) t
      else t
    | .laneWrite cap _ _ _ _ _ _ _ 0 k =>
      if kind = 5 ∧ k ≠ 0 ∧ cap = g 0 then t.post .sendOutcomeReturn [id, outStale + 1] else t
    | .copy _ out _ d origin done _ _ k =>
      let meets := match boxRange d origin with
        | some (lo, hi) => decide (boxBase d + lo ≤ g 1) && decide (g 1 ≤ boxBase d + hi)
        | none => false
      if k ≠ 0 ∧ (kind = 10 ∧ out = false ∨ (kind = 2 ∨ kind = 4) ∧ out = true) ∧ meets = true ∧ done.length < boxSectors d then
        t.post .copyFail [id, 5]
      else t
    | _ => t) s

/-- What a flit for this package carries: 1 a coherence request (0 read, 1 write, 2 rollout, 3 commutative add, 4 report, 5 atomic; its
operands), 2 a tensor write, 3 the atomics of an instruction's lanes on one word, in lane order (R124), 4 a reduce-on-store element,
5 a lane write, 6 an acknowledgement, 7 a collective step, 8 and 9 a suspend and a resume notice, 10 a tensor read, 11 a group entry,
12 a request of this package that met a lost peer; others change nothing. -/
def State.consumeFlit (s : State) (l kind : Nat) (as : List Nat) : State :=
  let g (k : Nat) : Nat := as.getD k 0
  match kind with
  | 1 => match g 0 with
    | 0 => s.post .cohRead (as.drop 1)
    | 1 => s.post .cohWrite (as.drop 1)
    | 2 => s.post .cohRollout (as.drop 1)
    | 3 => s.post .commAddRequest (as.drop 1)
    | 4 => s.post .agentReport (as.drop 1)
    | 5 => s.post .homeAtomicRecall (as.drop 1)
    | _ => s
  | 2 => s.remoteWrite (g 0) (g 1) (Nat.min 32 (g 2)) (g 3)
  | 3 =>
    let n := if g 3 % 2 = 1 then 8 else 4
    s.remoteUpdate (g 0) (g 1 / n * n) n fun x => (as.drop 4).foldl (fun x y => atomicNew (g 2 % 8) (g 3 / 2 % 4) n x y 0) x
  | 4 =>
    let e := efmtBytes (g 2)
    s.remoteUpdate (g 0) (g 1) e fun x => reduceElement (g 2) (g 3 % 4) x (g 4 % 2 ^ (8 * e))
  | 5 => s.remoteLane as
  | 6 => s.ackArrive l (g 0) (g 1) (g 2) (g 3)
  | 7 => s.post .collectiveStep as
  | 8 => s.post .suspendNotice as
  | 9 => s.post .resumeNotice as
  | 10 => (s.remoteAddr (g 0) (g 1) (Nat.min 32 (g 2)) permR).2
  | 11 => { s with groups := SMap.set 0 s.groups (g 0 % 0x10000) (g 1 % 2 ^ 128) }
  | 12 => s.lostFlit (g 0) (as.drop 1)
  | _ => s


/-- Sends a flit on, if its link is up. -/
def State.sendFlit (s : State) (src dst hop kind : Nat) (as : List Nat) : Option State :=
  match s.linkFor src dst (flitChannel kind) with
  | some l => if s.linkUp l then some { s with egress := s.egress ++ [l :: src :: dst :: hop :: kind :: as] } else none
  | none => none

/-- A flit for another package: it is forwarded under the own route table; after its 64th hop, and where no link takes it, its sender
is answered as for an access to a lost peer (R493). Answers themselves are answered by nothing. -/
def State.forwardFlit (s : State) (src dst hop kind : Nat) (as : List Nat) : State :=
  let on := if 64 ≤ hop then none else s.sendFlit src dst (hop + 1) kind as
  match on with
  | some t => t
  | none =>
    if kind = 6 ∨ kind = lostKind then s
    else if src = s.pkg then s.lostFlit kind as
    else (s.sendFlit s.pkg src 1 lostKind (kind :: as)).getD s

/-- FLIT_ARRIVE: link, source package, destination package, hop count, kind, what it carries. A flit on a link that is down, or from
a package declared lost, is discarded, but for a lane write kept here; one for another package is forwarded. -/
def execFlitArrive (s : State) : Host.Outcome State Fault Refusal :=
  let l := s.arg 0 % 32
  .next (
    if s.arg 0 = keptLink ∧ s.arg 4 = 5 then s.remoteLane (s.args.drop 5)
    else if !s.linkUp l || SMap.get false s.dead (s.arg 1) then s
    else if s.arg 2 ≠ s.pkg then s.forwardFlit (s.arg 1) (s.arg 2) (s.arg 3) (s.arg 4) (s.args.drop 5)
    else s.consumeFlit l (s.arg 4) (s.args.drop 5))

/-! ### Declaration of a loss, and admission (R444, R462, R463, R496) -/

/-- Index of the package that serves a home, if any. -/
def State.serves (s : State) (h : Nat) : Option Nat :=
  match SMap.find? s.lost h with
  | none => some h
  | some 0 => none
  | some (i + 1) => some i

/-- Agents of the domain that report their copies of a slice: those of each surviving package (R19). -/
def State.reporters (s : State) : List Nat :=
  ((List.range s.domSize).filter fun i => (s.domPkg? i).isSome && !s.deadIndex i).flatMap fun i =>
    [0, 1, 2, 3, 8, 9, 10, 11, 12, 13, 14, 15].map fun n => 64 * i + n

/-- Package p, which served slice h, is lost: its mirror begins the rebuild, or the slice is gone. The agents of this package report at
once; those of another when it declares the loss. -/
def State.loseHome (p : Nat) (s : State) (h : Nat) : State :=
  let m := s.hubGet 0x602 h
  let t := s.hubSet 0x602 h 0
  let j := m % 1024
  let own (a : Nat) : Bool := a / 64 == s.hubGet 0x600 0 % 1024
  if m.testBit 31 && (s.domPkg? j).isSome && !s.deadIndex j then
    let left := s.reporters
    let t : State := { t with lost := SMap.insert t.lost h (j + 1), rebuilds := SMap.insert t.rebuilds h ⟨p, left, [], []⟩ }
    let t := (left.filter own).foldl (fun t a => t.post .agentReport [a, h]) t
    if left.isEmpty then t.post .sliceRebuildComplete [h] else t
  else { t with lost := SMap.insert t.lost h 0, rebuilds := SMap.erase t.rebuilds h }

/-- Empties a list that holds an agent of a lost package: surviving owners write back, surviving partials are gathered (R463). DEDUCED:
an agent of the lost package that has taken ownership may have held the only copy of a surviving writer's acknowledged write, for R454
leaves memory stale; R127 says that no such write is lost, and R451, R454 and R463 name no step that keeps it, so it is lost here
(log 56). Unsafe. -/
def State.repairLine (s : State) (n : Nat) (x : CLine) : State :=
  let live := x.members.filter fun c => !s.deadAgent c.agent
  let t :=
    if x.isC then s.setHomeData n ((sortCopies live).foldl (fun d c => c.combine d) (s.homeData n))
    else match live.find? fun c => c.state == .m || c.state == .o with
      | some c => s.setHomeData n c.data
      | none => s
  t.setLine n { x with members := [] }

/-- Empties the lists of R463 whose homes are not being rebuilt. -/
def State.repairLists (s : State) : State :=
  s.lines.foldl (fun (t : State) (n, (x : CLine)) =>
    if (SMap.find? t.rebuilds (lineHome n)).isNone && x.members.any fun c => t.deadAgent c.agent then t.repairLine n x
    else t) s

/-- Rebuilds in progress no longer wait for the agents of lost packages. -/
def State.dropReporters (s : State) : State :=
  s.rebuilds.foldl (fun (t : State) (h, (r : Rebuild)) =>
    let left := r.left.filter fun a => !t.deadAgent a
    let t : State := { t with rebuilds := SMap.insert t.rebuilds h { r with left := left } }
    if left.isEmpty && !r.left.isEmpty then t.post .sliceRebuildComplete [h] else t) s

/-- The event is a coherence request or a report of an agent of a lost package. -/
def State.ofDead (s : State) (e : Instr) (as : List Nat) : Bool :=
  match e with
  | .cohRead | .cohWrite | .cohRollout | .commAddRequest | .agentReport => s.deadAgent (as.headD 0)
  | .homeAtomicRecall => as.getD 4 0 != 0 && s.deadAgent (as.getD 1 0)
  | _ => false

/-- The repair after a declaration (R462, R463): what an agent of a lost package had asked for and that still waits is dropped with it
(log 28), rebuilds wait for it no more, and the lists that hold it are emptied. -/
def State.repair (s : State) : State :=
  let t : State := { s with
    waiting := s.waiting.filter fun w => !s.ofDead w.event w.args
    agenda := s.agenda.filter fun (e, as) => !s.ofDead e as
    leaving := s.leaving.filter fun (a, _) => !s.deadAgent a }
  (t.dropReporters.repairLists).retryWaiting

/-- DECLARE of package p. Requests of its agents that arrived before the command are applied first, the repair follows them (R498). -/
def State.declare (s : State) (p : Nat) : State :=
  let homes := (List.range s.domSize).filter fun h => match s.serves h with
    | some i => s.domPkg? i == some p
    | none => false
  let t : State := { s with
    dead := SMap.set false s.dead p true
    groups := SMap.mapVals s.groups fun _ g => if s.groupHas g (· == p) then g ||| 2 ^ 128 else g }
  let t := t.loseOps fun q _ => q == p
  let t := t.colls.foldl (fun (t : State) (_, (c : Coll)) =>
    if c.code = 0 ∧ c.done = false ∧ t.groupHas (t.group c.group) (· == p) = true then t.failGroup c 5 else t) t
  let t := homes.foldl (State.loseHome p) t
  if t.agenda.any fun (e, as) => t.ofDead e as then t.post .peerDeclare [p + 1] else t.repair

/-- A declaration of package p is in progress: a slice that it served is being rebuilt, or the repair is due. -/
def State.declaring (s : State) (p : Nat) : Bool :=
  (s.rebuilds.any fun (_, (r : Rebuild)) => r.pkg == p) || s.agenda.any fun (e, as) => e == .peerDeclare && as == [p + 1]

/-- ADMIT of package p: the declaration ends, and a slice that was gone is the package's at each index that names it (R444). -/
def State.admitPkg (s : State) (p : Nat) : State :=
  let t : State := { s with dead := SMap.set false s.dead p false }
  (((List.range 1024).filter fun i => t.domPkg? i == some p).foldl State.freshSlice t).retryWaiting

/-- PEERCMD: 1 DECLARE, 2 ADMIT of PEERSEL; others are refused. -/
def State.peerCommand (s : State) (v : Nat) : State :=
  let p := s.hubGet 0x818 0 % 0x100000
  match v with
  | 1 => (s.declare p).refusal 0x802 false
  | 2 => s.unless 0x802 (s.declaring p) fun t => t.admitPkg p
  | _ => s.refusal 0x802 true

/-- PEER_DECLARE: none; or a declared package plus one, whose repair is due. -/
def execPeerDeclare (s : State) : Host.Outcome State Fault Refusal :=
  .next (if s.arg 0 = 0 then s.peerCommand 1 else s.repair)

def execPeerAdmit (s : State) : Host.Outcome State Fault Refusal := .next (s.peerCommand 2)

end Sys2Proof.Machine
end

