-- ==== Sys2Proof/Machine/Bringup.lean ====
section
/-! DEFINITION. Bringup.lean: package reset, firmware, training and Dawn service, power and thermal limits, and the registers of
chapter 27 (R482 to R490, R499). -/
namespace Sys2Proof.Machine

/-! ### The service register (R483) -/

def State.imgOk (s : State) : Bool := (s.hubGet 0x800 0).testBit 3

/-- DIES of SVC. -/
def State.dies (s : State) : Nat := bits (s.hubGet 0x800 0) 9 6

/-- Replaces bits of SVC. -/
def State.setSvc (s : State) (hi lo v : Nat) : State := s.hubSet 0x800 0 (setBits (s.hubGet 0x800 0) hi lo v)

/-! ### VERIFY (R487) -/


/-- Recalls them, or keeps the event that asks for it while one of them cannot be recalled (R457, R500). -/
def State.recalled (s : State) (off n : Nat) (e : Instr) (args : List Nat) (f : State → State) : State :=
  let u := s.taken e
  let ls := u.heldLines off n
  match ls.find? fun l => u.lineState 2 0 l != .serves with
  | none => (f (ls.foldl State.recall u)).settled
  | some l => u.waitLine (lineHome l) (l + 1) e args

/-- The image at domain offset a of memory is genuine: its header, and its signature under the key of the root block. -/
def imageGenuine (s : State) (a : Nat) : Bool :=
  let h := readMem s.mem (ctlKey a) 256
  let len := bits h 127 64
  if h % 2 ^ 32 ≠ 0x56494C46 ∨ bits h 2047 1040 ≠ 0 ∨ len % 256 ≠ 0 ∨ 2 ^ 30 < len then false
  else
    !poisoned s (ctlKey a) (256 + len) &&
      ed448ph Config.rootKey (bits h 1039 128) (h % 2 ^ 128 + readMem s.mem (ctlKey (a + 256)) len * 2 ^ 128) (16 + len)

def State.verify (s : State) : State :=
  let a := s.homeBase + s.hubGet64 0x803 0 % 2 ^ 36
  s.unless 0x802 s.imgOk fun t =>
    t.recalled a (256 + 2 ^ 30) .verify [] fun t => if imageGenuine t a then t.setSvc 4 3 1 else t.setSvc 4 4 1

/-! ### Training and normal service (R485, R489) -/

/-- The units that TRAINMASK selects and that are not yet trained. -/
def State.untrained (s : State) : Nat :=
  let m := s.hubGet 0x805 0 % 32
  let links := (List.range 32).all fun l => (s.hubGet 0x811 l).testBit 1
  (m % 16 &&& (15 - s.dies)) + (if m.testBit 4 && !links then 16 else 0)

/-- TRAIN. Which dies pass is free; TRAIN_COMPLETE follows. -/
def State.train (s : State) : State :=
  let st := s.svcState
  let dies := s.hubGet 0x805 0 % 16
  s.unless 0x802 (!s.imgOk || s.training != 0 || !(st == 1 || (st == 2 && dies == 0))) fun t =>
    if s.untrained = 0 then t
    else ({ t with training := s.untrained, free := s.free + 1 } : State).post .trainComplete [Config.freeNat s.free]

def State.leaveDawn (s : State) : State :=
  s.unless 0x802 (s.svcState != 1 || !s.imgOk || !(s.hubGet 0x800 0).testBit 5 || s.dies != 15) fun t =>
    (t.setSvc 2 0 2).hubSet 0x425 0 0

/-- SVCCMD. -/
def State.serviceCommand (s : State) (v : Nat) : State :=
  match v with
  | 1 => s.verify
  | 2 => s.leaveDawn
  | 3 => s.train
  | _ => s.refusal 0x802 true

def execVerify (s : State) : Host.Outcome State Fault Refusal := .next (s.serviceCommand 1)
def execLeavedawn (s : State) : Host.Outcome State Fault Refusal := .next (s.serviceCommand 2)
def execTrain (s : State) : Host.Outcome State Fault Refusal := .next (s.serviceCommand 3)

/-- TRAIN_COMPLETE: mask of the dies that pass. -/
def execTrainComplete (s : State) : Host.Outcome State Fault Refusal :=
  .next (
    if s.training = 0 ∨ s.svcState = 3 then s
    else
      let t := s.setSvc 9 6 (s.dies ||| (s.arg 0 % 16 &&& s.training))
      { t with training := 0, interrupts := t.interrupts + 1 })

/-! ### Registers of the package (R482, R486, R490, R493) -/

/-- PKGNUM is applied in Dawn service while no block is resident and no remote work is in flight. -/
def State.pkgBusy (s : State) : Bool :=
  (s.ctxs.any fun (_, x) => x.placed) || !s.colls.isEmpty ||
  s.ops.any fun (_, o) => match o.kind with
    | .ratom .. | .laneWrite .. => true
    | .copy _ _ _ _ _ _ _ _ link => link != 0
    | _ => false

def State.writePkgnum (s : State) (v : Nat) : State :=
  s.unless 0x802 (s.svcState != 1 || s.pkgBusy) fun t => t.hubSet 0x806 0 (v % 0x100000)

/-- FEATACC, by its register number. -/
def State.writeFeatacc (s : State) (n v : Nat) : State :=
  let offer := s.hubGet (n - 4) 0
  s.unless 0x802 (s.svcState != 1 || (v ||| offer) != offer) fun t => t.hubSet n 0 v

def State.writePwrcap (s : State) (v : Nat) : State :=
  (s.hubSet 0x828 0 (Nat.max 300 (Nat.min 4200 v))).refusal 0x802 false

/-- A write of a register of chapter 27 at machine level. -/
def State.writeHigh (s : State) (n v : Nat) : State :=
  let done (t : State) : State := t.refusal 0x802 false
  if n = 0x801 then s.serviceCommand v
  else if n = 0x803 then done (s.stagePut n v)
  else if n = 0x804 then done (s.pairPut 0x803 (s.pairOf 0x803 v))
  else if n = 0x805 then done (s.hubSet n 0 (v % 32))
  else if n = 0x806 then s.writePkgnum v
  else if 0x80C ≤ n ∧ n ≤ 0x80F then s.writeFeatacc n v
  else if n = 0x810 then done (s.hubSet n 0 (v % 32))
  else if n = 0x811 then
    let l := s.hubGet 0x810 0 % 32
    done (if v.testBit 2 then s.hubSet n l (setBits (s.hubGet n l) 2 2 0) else s)
  else if n = 0x818 then done (s.hubSet n 0 (v % 0x100000))
  else if n = 0x819 then s.peerCommand v
  else if n = 0x820 then done (s.hubSet n 0 (v % 8192))
  else if n = 0x821 then done (s.regPut n v)
  else if n = 0x828 then s.writePwrcap v
  else if 0x801 ≤ n ∧ n ≤ 0x83F then done s
  else s

/-- A write of register n of the window: by machine-level code, or by other system software. -/
def State.regWrite (s : State) (n v : Nat) (machine : Bool) : State :=
  if n < 0x800 then s.writeLow n v machine else if machine then s.writeHigh n v else s

/-- REGISTER_WRITE: register number, value, 1 at machine level. -/
def execRegisterWrite (s : State) : Host.Outcome State Fault Refusal :=
  .next (s.regWrite (s.arg 0) (s.arg 1 % 2 ^ 32) (s.arg 2 == 1))

/-- PKGNUM_WRITE: value. -/
def execPkgnumWrite (s : State) : Host.Outcome State Fault Refusal := .next (s.writePkgnum (s.arg 0 % 2 ^ 32))

/-- FEATACC_WRITE: word 0 to 3, value. -/
def execFeataccWrite (s : State) : Host.Outcome State Fault Refusal :=
  .next (s.writeFeatacc (0x80C + s.arg 0 % 4) (s.arg 1 % 2 ^ 32))

/-- PWRCAP_WRITE: value. -/
def execPwrcapWrite (s : State) : Host.Outcome State Fault Refusal := .next (s.writePwrcap (s.arg 0 % 2 ^ 32))

/-! ### Reset, power and temperature (R29, R484, R499) -/

/-- PACKAGE_RESET: the package keeps nothing. The model's counter of free values goes on (log 2). -/
def execPackageReset (s : State) : Host.Outcome State Fault Refusal := .next { State.reset with free := s.free + 1 }

/-- THERMAL_THROTTLE: die, its temperature, the hottest of the package. Below 100 °C nothing is withheld. -/
def execThermalThrottle (s : State) : Host.Outcome State Fault Refusal :=
  .next (
    let t := s.hubSet 0x829 0 (setBits (s.hubGet 0x829 0) 7 0 (Nat.min 255 (s.arg 1)))
    if s.arg 1 < 100 then t else { t with hot := t.hot ||| 2 ^ (s.arg 0 % 4) })

/-- DIE_COOLS_BELOW_100C: die, the temperature of the hottest die. A tripped package stays so. -/
def execDieCoolsBelow100c (s : State) : Host.Outcome State Fault Refusal :=
  .next (
    let t := s.hubSet 0x829 0 (setBits (s.hubGet 0x829 0) 7 0 (Nat.min 255 (s.arg 1)))
    if s.svcState = 3 then t
    else if t.hot.testBit (s.arg 0 % 4) then { t with hot := t.hot - 2 ^ (s.arg 0 % 4) } else t)

/-- THERMAL_TRIP: temperature. Issue stops on every die and every link goes down; only a package reset ends it. -/
def execThermalTrip (s : State) : Host.Outcome State Fault Refusal :=
  .next (
    let t := (List.range 32).foldl (fun t l => t.linkDown l) s
    let t := t.hubSet 0x829 0 (setBits (setBits (t.hubGet 0x829 0) 7 0 (Nat.min 255 (s.arg 0))) 16 16 1)
    { t.setSvc 2 0 3 with hot := 15 })

/-- PACKAGE_POWER_OVER_PWRCAP: issue cycles withheld from now on, of 256. Which cycles they are is free (Fetch.lean). -/
def execPackagePowerOverPwrcap (s : State) : Host.Outcome State Fault Refusal :=
  .next (s.hubSet 0x829 0 (setBits (s.hubGet 0x829 0) 15 8 (Nat.min 255 (s.arg 0))))

/-! ### BAR2 of the PCIe port (R484, R490) -/

/-- PCIE_CONTROL_MEMORY_ACCESS: 1 to write, offset in the package's control memory, bytes to 128, value. The home performs it: every
copy is recalled, and a write ends synchronisation records. Kept writes of the package's own units come this way too, once their line
serves: 2, domain offset, bytes, value; or 3 and an event record (R500, log 15). -/
def execPcieControlMemoryAccess (s : State) : Host.Outcome State Fault Refusal :=
  let n := Nat.min 128 (s.arg 2)
  let off := s.arg 1 % 2 ^ 36
  let a := s.homeBase + off
  let m := Nat.min n (128 - a % 128)
  let u := s.taken .pcieControlMemoryAccess
  .next (
    if (s.arg 0 == 2 || s.arg 0 == 3) && u.waiting.any fun w => w.turn then
      (if s.arg 0 = 2 then u.homeStoreOr (s.arg 1) (s.arg 2) (s.arg 3)
        else u.eventRecordAt (s.arg 1) (s.arg 2) (s.arg 3) (s.arg 4) (s.arg 5) (s.arg 6)).settled
    else if 2 ^ 36 < off + n then s
    else s.recalled a n .pcieControlMemoryAccess s.args fun t =>
      if s.arg 0 = 1 then
        let t := t.homeStore a m (s.arg 3 % 2 ^ (8 * m))
        if m < n then t.homeStore (a + m) (n - m) (s.arg 3 / 2 ^ (8 * m) % 2 ^ (8 * (n - m))) else t
      else t)

end Sys2Proof.Machine
end

