-- ==== Sys2Proof/Machine/Lane.lean ====
section
/-! DEFINITION. Lane.lean: votes, shuffles, reductions, scans and match (R277 to R287). -/
namespace Sys2Proof.Machine

/-- Lane k lies in the tile of lane l (R46). -/
def sameTile (part l k : Nat) : Bool := l / 2 ^ part == k / 2 ^ part

/-- The participants of lane l (R277), rising. -/
def participants (v : Wave) (act : List Nat) (l : Nat) : List Nat :=
  (List.range 32).filter fun k => act.contains k && !v.isHelper k && sameTile v.part l k

/-- Each lane of the active set writes vd with a value formed over its participants. -/
def perTile (i : Instr) (s : State) (d : Nat) (f : Wave → List Nat → Nat → Word) :
    Host.Outcome State Fault Refusal :=
  issue i s fun b act t =>
    match s.wave? b.ctx b.wave with
    | some v => .done (t.setRegs b.ctx b.wave (act.map fun l => (32 * d + l, f v (participants v act l) l)))
    | none => .done t

/-- The vote word (R282) of the truth values in register a over a participant set. -/
def voteWord (v : Wave) (a : Nat) (ps : List Nat) : Word :=
  let size := ps.length
  let count := ps.countP fun k => v.reg a k != 0
  word (size * 2 ^ 16 + count * 2 ^ 8 + (if count = 0 ∨ count = size then 4 else 0) + (if 0 < count then 2 else 0)
    + (if count = size then 1 else 0))

def execVote (d a : Nat) (s : State) := perTile (.vote d a) s d fun v ps _ => voteWord v a ps
def execBallot (d a : Nat) (s : State) :=
  perTile (.ballot d a) s d fun v ps _ => word (laneMask (ps.filter fun k => v.reg a k != 0))
def execElect (d : Nat) (s : State) := perTile (.elect d) s d fun _ ps l => bool01 (ps.head? == some l)

/-! ### Shuffles and quad exchange (R278, R283, R284): an absent lane reads as zero, since it lists no register -/

/-- Each lane of the active set writes register a of its source lane to vd. -/
def exchange (i : Instr) (s : State) (d a : Nat) (src : Wave → Nat → Nat) : Host.Outcome State Fault Refusal :=
  perLane i s fun _ v l => [(d, v.reg a (src v l))]

def execShflAt (d a b : Nat) (s : State) :=
  exchange (.shflAt d a b) s d a fun v l => shflSource v.part 0 (v.reg b l).toNat l
def execShflRot (d a b : Nat) (s : State) :=
  exchange (.shflRot d a b) s d a fun v l => shflSource v.part 1 (v.reg b l).toNat l
def execShflXor (d a b : Nat) (s : State) :=
  exchange (.shflXor d a b) s d a fun v l => shflSource v.part 2 (v.reg b l).toNat l
def execShflAtImm (d a x : Nat) (s : State) :=
  exchange (.shflAtImm d a x) s d a fun v l => shflSource v.part 0 x l
def execShflRotImm (d a x : Nat) (s : State) :=
  exchange (.shflRotImm d a x) s d a fun v l => shflSource v.part 1 x l
def execShflXorImm (d a x : Nat) (s : State) :=
  exchange (.shflXorImm d a x) s d a fun v l => shflSource v.part 2 x l
def execShflRev (d a : Nat) (s : State) :=
  exchange (.shflRev d a) s d a fun v l => shflSource v.part 3 0 l
def execQuad (d a k : Nat) (s : State) := exchange (.quad d a k) s d a fun _ l => quadSource k l

/-! ### Reductions and scans (R285) -/

/-- The identity of operation f. -/
def redIdentity : Nat → Word
  | 1 => 0x7FFFFFFF
  | 2 => 0x80000000
  | 3 => 0xFFFFFFFF
  | 5 => 0xFFFFFFFF
  | _ => 0

/-- Operation f on two words. -/
def redOp (f : Nat) (x y : Word) : Word :=
  match f with
  | 0 => x + y
  | 1 => minOp 0 x y
  | 2 => maxOp 0 x y
  | 3 => minOp 1 x y
  | 4 => maxOp 1 x y
  | 5 => x &&& y
  | 6 => x ||| y
  | _ => x ^^^ y

/-- Operation f over a list of lanes; the empty list gives the identity. -/
def redOver (f : Nat) (v : Wave) (a : Nat) (ks : List Nat) : Word :=
  ks.foldl (fun m k => redOp f m (v.reg a k)) (redIdentity f)

def execRed (d a o : Nat) (s : State) := perTile (.red d a o) s d fun v ps _ => redOver o v a ps
def execScanInc (d a o : Nat) (s : State) :=
  perTile (.scanInc d a o) s d fun v ps l => redOver o v a (ps.filter (· ≤ l))
def execScanExc (d a o : Nat) (s : State) :=
  perTile (.scanExc d a o) s d fun v ps l => redOver o v a (ps.filter (· < l))

/-! ### Match (R287) -/

/-- The group word of lane l for the lanes g of its participants that hold its value. -/
def groupWord (g : List Nat) (l : Nat) : Word :=
  word ((g.countP (· < l)) * 2 ^ 16 + g.headD l * 2 ^ 8 + g.length)

def execMatchB32 (d a : Nat) (s : State) :=
  perTile (.matchB32 d a) s d fun v ps l => groupWord (ps.filter fun k => v.reg a k == v.reg a l) l
def execMatchB64 (d a : Nat) (s : State) :=
  perTile (.matchB64 d a) s d fun v ps l => groupWord (ps.filter fun k => v.pair a k == v.pair a l) l

end Sys2Proof.Machine
end

