-- ==== Sys2Proof/Machine/Float.lean ====
section
/-! DEFINITION. Float.lean: the floating-point, special-function, packed, conversion, pack and flag instructions (R258 to
R276), the compact forms of R209, and red.f32 (R286). -/
namespace Sys2Proof.Machine

/-! ### Shared shapes: a code function gives the result and the flags -/

def float1 (i : Instr) (s : State) (d a q : Nat) (f : Nat → Nat × Nat) : Host.Outcome State Fault Refusal :=
  perLaneFlags i s q fun v l => let r := f (v.reg a l).toNat; ([(d, word r.1)], r.2)

def float2 (i : Instr) (s : State) (d a b q : Nat) (f : Nat → Nat → Nat × Nat) :
    Host.Outcome State Fault Refusal :=
  perLaneFlags i s q fun v l => let r := f (v.reg a l).toNat (v.reg b l).toNat; ([(d, word r.1)], r.2)

def float3 (i : Instr) (s : State) (d a b c q : Nat) (f : Nat → Nat → Nat → Nat × Nat) :
    Host.Outcome State Fault Refusal :=
  perLaneFlags i s q fun v l =>
    let r := f (v.reg a l).toNat (v.reg b l).toNat (v.reg c l).toNat
    ([(d, word r.1)], r.2)

/-! ### Compact forms under RNE (R209) -/

def execFaddS (d b q : Nat) (s : State) := float2 (.faddS d b q) s d d b q (fpAdd fmtF32 0)
def execFsubS (d b q : Nat) (s : State) := float2 (.fsubS d b q) s d d b q (fpSub fmtF32 0)
def execFmulS (d b q : Nat) (s : State) := float2 (.fmulS d b q) s d d b q (fpMul fmtF32 0)
def execFminS (d b q : Nat) (s : State) := float2 (.fminS d b q) s d d b q (fpMinMax fmtF32 false)
def execFmaxS (d b q : Nat) (s : State) := float2 (.fmaxS d b q) s d d b q (fpMinMax fmtF32 true)

/-! ### Arithmetic (R262 to R264) -/

def execFadd (d a b m q : Nat) (s : State) := float2 (.fadd d a b m q) s d a b q (fpAdd fmtF32 m)
def execFsub (d a b m q : Nat) (s : State) := float2 (.fsub d a b m q) s d a b q (fpSub fmtF32 m)
def execFmul (d a b m q : Nat) (s : State) := float2 (.fmul d a b m q) s d a b q (fpMul fmtF32 m)
def execFfma (d a b m q : Nat) (s : State) := float3 (.ffma d a b m q) s d a b d q (fpFma fmtF32 m)
def execFfma3 (d a b c m q : Nat) (s : State) := float3 (.ffma3 d a b c m q) s d a b c q (fpFma fmtF32 m)
def execFdiv (d a b m q : Nat) (s : State) := float2 (.fdiv d a b m q) s d a b q (fpDiv m)
def execFsqrt (d a m q : Nat) (s : State) := float1 (.fsqrt d a m q) s d a q (fpSqrt m)
def execFrnd (d a m q : Nat) (s : State) := float1 (.frnd d a m q) s d a q (fpRnd m)
def execFldexp (d a b m q : Nat) (s : State) :=
  float2 (.fldexp d a b m q) s d a b q fun x n => fpLdexp m x (signExtend n 32)

/-! ### Minimum, maximum, sign, compare and class (R265 to R267) -/

def execFmin (d a b q : Nat) (s : State) := float2 (.fmin d a b q) s d a b q (fpMinMax fmtF32 false)
def execFmax (d a b q : Nat) (s : State) := float2 (.fmax d a b q) s d a b q (fpMinMax fmtF32 true)
def execFminn (d a b q : Nat) (s : State) := float2 (.fminn d a b q) s d a b q (fpMinMaxN fmtF32 false)
def execFmaxn (d a b q : Nat) (s : State) := float2 (.fmaxn d a b q) s d a b q (fpMinMaxN fmtF32 true)
def execFabs (d a q : Nat) (s : State) := float1 (.fabs d a q) s d a q (fpAbs fmtF32)
def execFneg (d a q : Nat) (s : State) := float1 (.fneg d a q) s d a q (fpNeg fmtF32)
def execFcmpEq (d a b q : Nat) (s : State) := float2 (.fcmpEq d a b q) s d a b q (fpCmp 0)
def execFcmpLt (d a b q : Nat) (s : State) := float2 (.fcmpLt d a b q) s d a b q (fpCmp 1)
def execFcmpLe (d a b q : Nat) (s : State) := float2 (.fcmpLe d a b q) s d a b q (fpCmp 2)
def execFcmpUn (d a b q : Nat) (s : State) := float2 (.fcmpUn d a b q) s d a b q (fpCmp 3)
def execFcmpNe (d a b q : Nat) (s : State) := float2 (.fcmpNe d a b q) s d a b q (fpCmp 4)
def execFcmpGt (d a b q : Nat) (s : State) := float2 (.fcmpGt d a b q) s d a b q (fpCmp 5)
def execFcmpGe (d a b q : Nat) (s : State) := float2 (.fcmpGe d a b q) s d a b q (fpCmp 6)
def execFcmpOrd (d a b q : Nat) (s : State) := float2 (.fcmpOrd d a b q) s d a b q (fpCmp 7)
def execFclass (d a q : Nat) (s : State) := float1 (.fclass d a q) s d a q fun x => (fpClass x, 0)

/-! ### Special functions (R268, R269): registers and flags are written at completion -/

/-- A special-function instruction goes in flight with its results; it completes in INSTRUCTION_COMPLETE. -/
def sfu (i : Instr) (s : State) (d a q : Nat) (f : Nat → Nat × Nat) : Host.Outcome State Fault Refusal :=
  issue i s fun b act t =>
    match s.wave? b.ctx b.wave with
    | some v =>
      let rs := act.map fun l => (l, f (v.reg a l).toNat)
      let k := OpKind.result (rs.map fun (l, r) => (32 * d + l, word r.1))
        (if q = 0 then rs.map fun (l, r) => (l, r.2) else [])
      .done (if act.isEmpty then t else (t.launchOp b act k).post .instructionComplete [t.thisId])
    | none => .done t

def execFrcp (d a l q : Nat) (s : State) := sfu (.frcp d a l q) s d a q fpRcp
def execFrsq (d a l q : Nat) (s : State) := sfu (.frsq d a l q) s d a q fpRsq
def execFexp2 (d a l q : Nat) (s : State) := sfu (.fexp2 d a l q) s d a q fpExp2
def execFlog2 (d a l q : Nat) (s : State) := sfu (.flog2 d a l q) s d a q fpLog2
def execFsin (d a l q : Nat) (s : State) := sfu (.fsin d a l q) s d a q fpSin
def execFcos (d a l q : Nat) (s : State) := sfu (.fcos d a l q) s d a q fpCos

/-! ### Packed FP16 and BF16 (R270) -/

/-- Applies a code function to both halves of two registers and a third, and joins results and flags. -/
def packed (f : Nat → Nat → Nat → Nat × Nat) (x y z : Nat) : Nat × Nat :=
  let lo := f (x % 65536) (y % 65536) (z % 65536)
  let hi := f (x / 65536) (y / 65536) (z / 65536)
  (lo.1 + 65536 * hi.1, lo.2 ||| hi.2)

def packed2 (i : Instr) (s : State) (d a b q : Nat) (f : Nat → Nat → Nat × Nat) :=
  float2 i s d a b q fun x y => packed (fun x y _ => f x y) x y 0

def execHadd2F16 (d a b q : Nat) (s : State) := packed2 (.hadd2F16 d a b q) s d a b q (fpAdd fmtF16 0)
def execHsub2F16 (d a b q : Nat) (s : State) := packed2 (.hsub2F16 d a b q) s d a b q (fpSub fmtF16 0)
def execHmul2F16 (d a b q : Nat) (s : State) := packed2 (.hmul2F16 d a b q) s d a b q (fpMul fmtF16 0)
def execHfma2F16 (d a b q : Nat) (s : State) := float3 (.hfma2F16 d a b q) s d a b d q (packed (fpFma fmtF16 0))
def execHadd2Bf16 (d a b q : Nat) (s : State) := packed2 (.hadd2Bf16 d a b q) s d a b q (fpAdd fmtBf16 0)
def execHsub2Bf16 (d a b q : Nat) (s : State) := packed2 (.hsub2Bf16 d a b q) s d a b q (fpSub fmtBf16 0)
def execHmul2Bf16 (d a b q : Nat) (s : State) := packed2 (.hmul2Bf16 d a b q) s d a b q (fpMul fmtBf16 0)
def execHfma2Bf16 (d a b q : Nat) (s : State) := float3 (.hfma2Bf16 d a b q) s d a b d q (packed (fpFma fmtBf16 0))

/-- The element format of hmin2 and hmax2: t 0 for f16, 1 for bf16. -/
def halfFmt (t : Nat) : Fmt := if t = 0 then fmtF16 else fmtBf16

def execHmin2 (d a b t q : Nat) (s : State) := packed2 (.hmin2 d a b t q) s d a b q (fpMinMax (halfFmt t) false)
def execHmax2 (d a b t q : Nat) (s : State) := packed2 (.hmax2 d a b t q) s d a b q (fpMinMax (halfFmt t) true)

/-! ### Conversions and packing (R272 to R275) -/

def execCvt (d a b sf df m sat q : Nat) (s : State) :=
  perLaneFlags (.cvt d a b sf df m sat q) s q fun v l =>
    let src := if sf = 13 ∨ sf = 14 then v.pair a l else (v.reg a l).toNat
    let r := convert sf df m (sat == 1) (if m = 4 then (v.reg b l).toNat else 0) src
    (if df = 13 ∨ df = 14 then pairRegs d (BitVec.ofNat 64 r.1) else [(d, word r.1)], r.2)

/-- Joins the low k bits of n registers from va. -/
def gather (v : Wave) (a l k : Nat) : Nat → Nat
  | 0 => 0
  | n + 1 => (v.reg a l).toNat % 2 ^ k + 2 ^ k * gather v (a + 1) l k n

def execPackH2 (d a b : Nat) (s : State) :=
  perLane (.packH2 d a b) s fun _ v l => [(d, word ((v.reg a l).toNat % 65536 + 65536 * ((v.reg b l).toNat % 65536)))]
def execPackB4 (d a : Nat) (s : State) := perLane (.packB4 d a) s fun _ v l => [(d, word (gather v a l 8 4))]
def execPackE2m1x8 (d a : Nat) (s : State) :=
  perLane (.packE2m1x8 d a) s fun _ v l => [(d, word (gather v a l 4 8))]

/-- Spreads a register's n fields of k bits over n registers from vd. -/
def spread (v : Wave) (d a l k n : Nat) : List (Nat × Word) :=
  (List.range n).map fun j => (d + j, word (bits (v.reg a l).toNat (k * j + k - 1) (k * j)))

def execUnpackH2 (d a : Nat) (s : State) := perLane (.unpackH2 d a) s fun _ v l => spread v d a l 16 2
def execUnpackB4 (d a : Nat) (s : State) := perLane (.unpackB4 d a) s fun _ v l => spread v d a l 8 4
def execUnpackE2m1x8 (d a : Nat) (s : State) := perLane (.unpackE2m1x8 d a) s fun _ v l => spread v d a l 4 8

/-! ### Flags (R276) -/

def execFlagr (d : Nat) (s : State) := perLane (.flagr d) s fun _ v l => [(d, word (v.flags l))]

def execFlagrWave (d : Nat) (s : State) :=
  issue (.flagrWave d) s fun b act t =>
    match s.wave? b.ctx b.wave with
    | some v =>
      let m := (v.present act).foldl (fun m l => m ||| v.flags l) 0
      .done (t.setRegs b.ctx b.wave (act.map fun l => (32 * d + l, word m)))
    | none => .done t

def execFlagc (s : State) :=
  issue .flagc s fun b act t =>
    .done (t.modLanes b.ctx b.wave act fun n => { n with lsw := word (setBits n.lsw.toNat 4 0 0) })

/-! ### red.f32 (R286) -/

/-- The reduction of the codes cs: 0 exact sum rounded once, 1 min, 2 max; with its flags. -/
def redFloat (o : Nat) (cs : List Nat) : Nat × Nat :=
  let f := fmtF32
  let fl := sigFlags f cs
  match o with
  | 0 =>
    let xs := cs.map f.value
    if xs.any XVal.isNaN then
      (f.nan, fl ||| flagIf (xs.any (fun x => x == .inf true) && xs.any (fun x => x == .inf false)) flInvalid)
    else match xs with
      | [] => (0, 0)
      | x :: ys => arith f 0 cs (xs.any (fun x => x == .inf true) && xs.any (fun x => x == .inf false))
          (ys.foldl (XVal.add false) x)
  | _ =>
    match cs with
    | [] => (f.infCode (o != 1), 0)
    | c :: ks =>
      if cs.any f.isNaN then (f.nan, fl)
      else (ks.foldl (fun m k => (fpMinMax f (o != 1) m k).1) c, fl)

def execRedF32 (d a o q : Nat) (s : State) :=
  perLaneFlags (.redF32 d a o q) s q fun v l =>
    match s.cur with
    | some b =>
      let r := redFloat o ((participants v (v.active b.run) l).map fun k => (v.reg a k).toNat)
      ([(d, word r.1)], r.2)
    | none => ([], 0)

end Sys2Proof.Machine
end

