-- ==== Sys2Proof/Machine/Privileged.lean ====
section
/-! DEFINITION. Privileged.lean: reading and writing system registers (R394 to R396), return from handler mode (R400), halt and wait for
event (R401 to R403), and invalidation of translations (R404). -/
namespace Sys2Proof.Machine

/-! ### Reading the window (R396, R410, R433, R447, R465, R482) -/

/-- CTXSTAT of the selected context. -/
def State.ctxStatus (s : State) : Nat :=
  s.hubGet 0x042 0 + match s.ctx? (s.hubGet 0x040 0 % 0x10000) with
    | some x => x.state.code + if x.busy then 16 else 0
    | none => 0

/-- Word k of the selected context's entry; 0 for a free one. -/
def State.ctxEntry (s : State) (k : Nat) : Nat :=
  match s.ctx? (s.hubGet 0x040 0 % 0x10000) with
  | some x => bits x.entry (32 * k + 31) (32 * k)
  | none => 0

/-- QDEF of a queue: units of 1,024 core-cycles, saturating to s32. -/
def State.queueDeficit (s : State) (q : Nat) : Nat :=
  wrapNat (Max.max (-(2 ^ 31 : Int)) (Min.min (2 ^ 31 - 1 : Int) ((s.queue q).deficit / 1024))) 32

/-- CHMAP of the home that CHSEL selects. -/
def State.chmap (s : State) : Nat :=
  let h := s.hubGet 0x601 0 % 1024
  let v := s.hubGet 0x602 h
  match SMap.find? s.lost h with
  | none => setBits v 25 16 h
  | some 0 => setBits v 30 30 1
  | some (j + 1) => setBits (setBits v 30 30 1) 25 16 j

/-- SYSSTAT. -/
def State.sysStatus (s : State) : Nat :=
  s.hubGet 0x802 0 % 2 + (if s.rebuilds.isEmpty then 0 else 2) + if s.training ≠ 0 then 4 else 0

/-- The value of register n of the window. A lo register reads the value written to it until its pair is loaded
(R4); write-only registers and keys read as zero (R465). -/
def State.regRead (s : State) (n : Nat) : Nat :=
  let sel := s.regSel n
  let held := s.staged n
  let notify := s.hubGet 0x08A 0 % 256
  if held.isSome then held.getD 0
  else if n = 0x042 then s.ctxStatus
  else if 0x043 ≤ n ∧ n ≤ 0x052 then s.ctxEntry (n - 0x043)
  else if n = 0x087 then s.readSlot (s.hubGet 0x085 0) (s.hubGet 0x086 0)
  else if n = 0x08B then s.notifyValue notify % 2 ^ 32
  else if n = 0x08C then s.notifyValue notify / 2 ^ 32
  else if n = 0x08D then (if s.notifyPending notify then 1 else 0)
  else if n = 0x409 then s.queueDeficit (s.hubGet 0x400 0 % 4096)
  else if n = 0x40A then s.queueState (s.hubGet 0x400 0 % 4096) + s.hubGet 0x40A sel
  else if n = 0x602 then s.chmap
  else if n = 0x603 then s.hubGet 0x603 0 % 2 + if s.rebuilds.isEmpty && !s.remirroring then 0 else 2
  else if 0x710 ≤ n ∧ n ≤ 0x717 then 0
  else if n = 0x802 then s.sysStatus
  else if n = 0x81A then (if SMap.get false s.dead (s.hubGet 0x818 0 % 0x100000) then 1 else 0)
  else s.hubGet n sel

/-! ### sysr and sysw (R395, R396) -/

/-- Half h of a 64-bit value. -/
def half (x : Dword) (h : Nat) : Nat := x.toNat / 2 ^ (32 * h) % 2 ^ 32

/-- A 64-bit value with half h replaced. -/
def putHalf (x : Dword) (h v : Nat) : Dword := BitVec.ofNat 64 (setBits x.toNat (32 * h + 31) (32 * h) v)

/-- Register n below 0x040 of a wave, in lane l. -/
def waveRegister (c : Nat) (x : Ctx) (v : Wave) (n l : Nat) : Nat :=
  let lane (f : Lane → Dword) (h : Nat) : Nat := match v.lane? l with
    | some m => half (f m) h
    | none => 0
  match n with
  | 0x000 => c + x.part * 2 ^ 16
  | 0x001 => (if x.priv then 1 else 0) + (if v.hmode then 2 else 0) + if x.dbgen then 4 else 0
  | 0x002 => half x.tvec 0
  | 0x003 => half x.tvec 1
  | 0x004 => lane (·.epc) 0
  | 0x005 => lane (·.epc) 1
  | 0x006 => v.tcause.toNat
  | 0x007 => v.tmask.toNat
  | 0x008 => half v.tval 0
  | 0x009 => half v.tval 1
  | 0x00A => half x.tscr 0
  | 0x00B => half x.tscr 1
  | 0x00C => if v.event then 1 else 0
  | 0x00D => lane (·.ovrec) 0
  | 0x00E => lane (·.ovrec) 1
  | _ => 0

/-- sysr writes the register's value to vd in every lane of the active set, helpers included. -/
def execSysr (d n : Nat) (s : State) :=
  issue (.sysr d n) s fun b act t =>
    match t.ctx? b.ctx, t.wave? b.ctx b.wave with
    | some x, some v =>
      let value (l : Nat) : Nat := if n < 0x040 then waveRegister b.ctx x v n l else t.regRead n
      .done (t.setRegs b.ctx b.wave (act.map fun l => (32 * d + l, word (value l))))
    | _, _ => .done t

/-- A write of register n below 0x040, the per-lane ones apart, which the lowest lane makes. Bits [31:23] of TCAUSE are reserved
(R437). -/
def State.writeWaveReg (s : State) (c w n y : Nat) : State :=
  match n with
  | 0x002 => s.modCtx c fun x => { x with tvec := putHalf x.tvec 0 y }
  | 0x003 => s.modCtx c fun x => { x with tvec := putHalf x.tvec 1 y }
  | 0x006 => s.modWave c w fun v => { v with tcause := word (y % 2 ^ 23) }
  | 0x007 => s.modWave c w fun v => { v with tmask := word y }
  | 0x008 => s.modWave c w fun v => { v with tval := putHalf v.tval 0 y }
  | 0x009 => s.modWave c w fun v => { v with tval := putHalf v.tval 1 y }
  | 0x00A => s.modCtx c fun x => { x with tscr := putHalf x.tscr 0 y }
  | 0x00B => s.modCtx c fun x => { x with tscr := putHalf x.tscr 1 y }
  | 0x00C => if y.testBit 0 then s.modWave c w fun v => { v with event := false } else s
  | _ => s

/-- sysw writes a per-lane register from each lane of the active set that is no helper, any other once, from the lowest of them. -/
def execSysw (a n : Nat) (s : State) :=
  issue (.sysw a n) s fun b act t =>
    match s.wave? b.ctx b.wave with
    | some v =>
      let ls := v.present act
      match ls with
      | [] => .done t
      | low :: _ =>
        let y (l : Nat) : Nat := (v.reg a l).toNat
        if n = 0x004 ∨ n = 0x005 then
          .done (t.modLanesBy b.ctx b.wave fun l m =>
            if ls.contains l then { m with epc := putHalf m.epc (n - 4) (y l) } else m)
        else if n < 0x040 then .done (t.writeWaveReg b.ctx b.wave n (y low))
        else .done (t.writeLow n (y low) true)
    | none => .done t

/-! ### eret, halt and wfe (R400, R401, R403) -/

def execEret (s : State) :=
  issue .eret s fun b act t => .done (if act.isEmpty then t else t.modWave b.ctx b.wave Wave.leave)

/-- halt: the wave passes it and its span is saved into Halted. -/
def execHalt (s : State) :=
  issue .halt s fun b act t => .done (if act.isEmpty then t else t.startDrain b.ctx .halted .saveComplete)

/-- wfe clears the event bit, or parks the lanes of the active set behind it. -/
def execWfe (s : State) :=
  issue .wfe s fun b act t =>
    match s.wave? b.ctx b.wave with
    | some v =>
      .done (if act.isEmpty then t
        else if v.event then t.modWave b.ctx b.wave fun u => { u with event := false }
        else t.modLanes b.ctx b.wave act fun m => { m with park := .wfe })
    | none => .done t

/-! ### tlbinv (R404) -/

/-- tlbinv acts first as fence.full.pkg of each active lane, and completes with TLBINV_COMPLETE. -/
def tlbinv (i : Instr) (s : State) (form : Nat) (operand : Ctx → Wave → Nat → Nat × Nat) : Host.Outcome State Fault Refusal :=
  issue i s fun b act t =>
    match act, s.ctx? b.ctx, s.wave? b.ctx b.wave with
    | low :: _, some x, some v =>
      let (part, va) := operand x v low
      let ws := fenceWaits t b act 2
      let u := t.modLanes b.ctx b.wave act fun n => { n with fenced := Nat.max n.fenced 5 }
      let u := u.launchOp b act (.tlbinv form part va ws)
      .done (if ws.isEmpty then u.post .tlbinvComplete [t.thisId] else u)
    | _, _, _ => .done t

def execTlbinvPage (a : Nat) (s : State) := tlbinv (.tlbinvPage a) s 0 fun x v l => (x.part, v.pair a l)
def execTlbinvPart (a : Nat) (s : State) := tlbinv (.tlbinvPart a) s 1 fun _ v l => ((v.reg a l).toNat % 16, 0)
def execTlbinvAll (s : State) := tlbinv .tlbinvAll s 2 fun _ _ _ => (0, 0)

/-- The translation is one that an invalidation names. -/
def State.invalidated (s : State) (form part va : Nat) (x : Xlat) : Bool :=
  match form with
  | 0 =>
    let tensor := addrSpace va == 2
    let off := if tensor then va % 2 ^ 40 else addrOff va
    s.xlatOf part x && x.tensor == tensor && x.page == off / 2 ^ pageBits x.lvl &&
      (if tensor then addrPkg va == s.pkg else addrSpace va == 1)
  | 1 => s.xlatOf part x
  | _ => true

/-- The pointer entry is one that an invalidation names: those of the page's tables, of a partition, or all. -/
def State.pointerInvalidated (s : State) (form part va : Nat) (p : Pointer) : Bool :=
  match form with
  | 0 =>
    let tensor := addrSpace va == 2
    let off := if tensor then va % 2 ^ 40 else addrOff va
    s.pointerOf part p && p.tensor == tensor && p.area == off / tableSpan p.lvl &&
      (if tensor then addrPkg va == s.pkg else addrSpace va == 1)
  | 1 => s.pointerOf part p
  | _ => true

/-- TLBINV_COMPLETE: id. -/
def execTlbinvComplete (s : State) : Host.Outcome State Fault Refusal :=
  let id := s.arg 0
  .next (match s.op? id with
    | some o => match o.kind with
      | .tlbinv form part va [] =>
        let t := (s.discardTlb (s.invalidated form part va)).discardPointers (s.pointerInvalidated form part va)
        let t := match t.ctx? o.ctx with
          | some x => t.acquire x.place 4
          | none => t
        t.endOp id
      | _ => s
    | none => s)

end Sys2Proof.Machine
end

