-- ==== Sys2Proof/Machine/Dispatch.lean ====
section
/-! DEFINITION. Dispatch.lean: one arm for every instruction and event, each a direct call of its meaning. -/
namespace Sys2Proof.Machine

def exec (i : Instr) (s : State) : Host.Outcome State Fault Refusal :=
  match i with
  | .movS d b => Sys2Proof.Machine.execMovS d b s
  | .addS d b => Sys2Proof.Machine.execAddS d b s
  | .subS d b => Sys2Proof.Machine.execSubS d b s
  | .andS d b => Sys2Proof.Machine.execAndS d b s
  | .orS d b => Sys2Proof.Machine.execOrS d b s
  | .xorS d b => Sys2Proof.Machine.execXorS d b s
  | .shlS d b => Sys2Proof.Machine.execShlS d b s
  | .shrS d b => Sys2Proof.Machine.execShrS d b s
  | .sarS d b => Sys2Proof.Machine.execSarS d b s
  | .mul24S d b => Sys2Proof.Machine.execMul24S d b s
  | .faddS d b q => Sys2Proof.Machine.execFaddS d b q s
  | .fsubS d b q => Sys2Proof.Machine.execFsubS d b q s
  | .fmulS d b q => Sys2Proof.Machine.execFmulS d b q s
  | .fminS d b q => Sys2Proof.Machine.execFminS d b q s
  | .fmaxS d b q => Sys2Proof.Machine.execFmaxS d b q s
  | .setlt d b => Sys2Proof.Machine.execSetlt d b s
  | .nop => Sys2Proof.Machine.execNop s
  | .guard c n sc => Sys2Proof.Machine.execGuard c n sc s
  | .mov d b => Sys2Proof.Machine.execMov d b s
  | .movi d imm => Sys2Proof.Machine.execMovi d imm s
  | .addImm d a imm => Sys2Proof.Machine.execAddImm d a imm s
  | .part p => Sys2Proof.Machine.execPart p s
  | .yield => Sys2Proof.Machine.execYield s
  | .exit => Sys2Proof.Machine.execExit s
  | .trap n => Sys2Proof.Machine.execTrap n s
  | .brk n => Sys2Proof.Machine.execBrk n s
  | .barSync n => Sys2Proof.Machine.execBarSync n s
  | .barArrive n => Sys2Proof.Machine.execBarArrive n s
  | .bra c o => Sys2Proof.Machine.execBra c o s
  | .braZ c o => Sys2Proof.Machine.execBraZ c o s
  | .jmp c off => Sys2Proof.Machine.execJmp c off s
  | .call c o => Sys2Proof.Machine.execCall c o s
  | .jmpr a => Sys2Proof.Machine.execJmpr a s
  | .callr d a => Sys2Proof.Machine.execCallr d a s
  | .ret a => Sys2Proof.Machine.execRet a s
  | .sreg d imm => Sys2Proof.Machine.execSreg d imm s
  | .add d a b => Sys2Proof.Machine.execAdd d a b s
  | .sub d a b => Sys2Proof.Machine.execSub d a b s
  | .addc d a b => Sys2Proof.Machine.execAddc d a b s
  | .subb d a b => Sys2Proof.Machine.execSubb d a b s
  | .neg d a => Sys2Proof.Machine.execNeg d a s
  | .abs d a => Sys2Proof.Machine.execAbs d a s
  | .min d a b t => Sys2Proof.Machine.execMin d a b t s
  | .max d a b t => Sys2Proof.Machine.execMax d a b t s
  | .and d a b => Sys2Proof.Machine.execAnd d a b s
  | .or d a b => Sys2Proof.Machine.execOr d a b s
  | .xor d a b => Sys2Proof.Machine.execXor d a b s
  | .andn d a b => Sys2Proof.Machine.execAndn d a b s
  | .not d a => Sys2Proof.Machine.execNot d a s
  | .shl d a b => Sys2Proof.Machine.execShl d a b s
  | .shr d a b => Sys2Proof.Machine.execShr d a b s
  | .sar d a b => Sys2Proof.Machine.execSar d a b s
  | .rol d a b => Sys2Proof.Machine.execRol d a b s
  | .ror d a b => Sys2Proof.Machine.execRor d a b s
  | .shlImm d a c => Sys2Proof.Machine.execShlImm d a c s
  | .shrImm d a c => Sys2Proof.Machine.execShrImm d a c s
  | .sarImm d a c => Sys2Proof.Machine.execSarImm d a c s
  | .rolImm d a c => Sys2Proof.Machine.execRolImm d a c s
  | .rorImm d a c => Sys2Proof.Machine.execRorImm d a c s
  | .mul24 d a b t h => Sys2Proof.Machine.execMul24 d a b t h s
  | .mad24 d a b t h => Sys2Proof.Machine.execMad24 d a b t h s
  | .mul32 d a b t h => Sys2Proof.Machine.execMul32 d a b t h s
  | .mad32 d a b t h => Sys2Proof.Machine.execMad32 d a b t h s
  | .div d a b t => Sys2Proof.Machine.execDiv d a b t s
  | .rem d a b t => Sys2Proof.Machine.execRem d a b t s
  | .popc d a => Sys2Proof.Machine.execPopc d a s
  | .clz d a => Sys2Proof.Machine.execClz d a s
  | .ctz d a => Sys2Proof.Machine.execCtz d a s
  | .brev d a => Sys2Proof.Machine.execBrev d a s
  | .bfeN32 d a n p => Sys2Proof.Machine.execBfeN32 d a n p s
  | .bfeS32 d a n p => Sys2Proof.Machine.execBfeS32 d a n p s
  | .bfi d a n p => Sys2Proof.Machine.execBfi d a n p s
  | .bsel d a b => Sys2Proof.Machine.execBsel d a b s
  | .bgath d a b => Sys2Proof.Machine.execBgath d a b s
  | .lea d a b sc => Sys2Proof.Machine.execLea d a b sc s
  | .add64 d a b => Sys2Proof.Machine.execAdd64 d a b s
  | .sub64 d a b => Sys2Proof.Machine.execSub64 d a b s
  | .shl64 d a b => Sys2Proof.Machine.execShl64 d a b s
  | .shr64 d a b => Sys2Proof.Machine.execShr64 d a b s
  | .cmpS32 d a b c => Sys2Proof.Machine.execCmpS32 d a b c s
  | .cmpN32 d a b c => Sys2Proof.Machine.execCmpN32 d a b c s
  | .sel d a b => Sys2Proof.Machine.execSel d a b s
  | .fadd d a b m q => Sys2Proof.Machine.execFadd d a b m q s
  | .fsub d a b m q => Sys2Proof.Machine.execFsub d a b m q s
  | .fmul d a b m q => Sys2Proof.Machine.execFmul d a b m q s
  | .ffma d a b m q => Sys2Proof.Machine.execFfma d a b m q s
  | .ffma3 d a b c m q => Sys2Proof.Machine.execFfma3 d a b c m q s
  | .fmin d a b q => Sys2Proof.Machine.execFmin d a b q s
  | .fmax d a b q => Sys2Proof.Machine.execFmax d a b q s
  | .fminn d a b q => Sys2Proof.Machine.execFminn d a b q s
  | .fmaxn d a b q => Sys2Proof.Machine.execFmaxn d a b q s
  | .fabs d a q => Sys2Proof.Machine.execFabs d a q s
  | .fneg d a q => Sys2Proof.Machine.execFneg d a q s
  | .fcmpEq d a b q => Sys2Proof.Machine.execFcmpEq d a b q s
  | .fcmpLt d a b q => Sys2Proof.Machine.execFcmpLt d a b q s
  | .fcmpLe d a b q => Sys2Proof.Machine.execFcmpLe d a b q s
  | .fcmpUn d a b q => Sys2Proof.Machine.execFcmpUn d a b q s
  | .fcmpNe d a b q => Sys2Proof.Machine.execFcmpNe d a b q s
  | .fcmpGt d a b q => Sys2Proof.Machine.execFcmpGt d a b q s
  | .fcmpGe d a b q => Sys2Proof.Machine.execFcmpGe d a b q s
  | .fcmpOrd d a b q => Sys2Proof.Machine.execFcmpOrd d a b q s
  | .fclass d a q => Sys2Proof.Machine.execFclass d a q s
  | .fdiv d a b m q => Sys2Proof.Machine.execFdiv d a b m q s
  | .fsqrt d a m q => Sys2Proof.Machine.execFsqrt d a m q s
  | .frcp d a l q => Sys2Proof.Machine.execFrcp d a l q s
  | .frsq d a l q => Sys2Proof.Machine.execFrsq d a l q s
  | .fexp2 d a l q => Sys2Proof.Machine.execFexp2 d a l q s
  | .flog2 d a l q => Sys2Proof.Machine.execFlog2 d a l q s
  | .fsin d a l q => Sys2Proof.Machine.execFsin d a l q s
  | .fcos d a l q => Sys2Proof.Machine.execFcos d a l q s
  | .frnd d a m q => Sys2Proof.Machine.execFrnd d a m q s
  | .fldexp d a b m q => Sys2Proof.Machine.execFldexp d a b m q s
  | .cvt d a b sf df m sat q => Sys2Proof.Machine.execCvt d a b sf df m sat q s
  | .hadd2F16 d a b q => Sys2Proof.Machine.execHadd2F16 d a b q s
  | .hsub2F16 d a b q => Sys2Proof.Machine.execHsub2F16 d a b q s
  | .hmul2F16 d a b q => Sys2Proof.Machine.execHmul2F16 d a b q s
  | .hfma2F16 d a b q => Sys2Proof.Machine.execHfma2F16 d a b q s
  | .hadd2Bf16 d a b q => Sys2Proof.Machine.execHadd2Bf16 d a b q s
  | .hsub2Bf16 d a b q => Sys2Proof.Machine.execHsub2Bf16 d a b q s
  | .hmul2Bf16 d a b q => Sys2Proof.Machine.execHmul2Bf16 d a b q s
  | .hfma2Bf16 d a b q => Sys2Proof.Machine.execHfma2Bf16 d a b q s
  | .hmin2 d a b t q => Sys2Proof.Machine.execHmin2 d a b t q s
  | .hmax2 d a b t q => Sys2Proof.Machine.execHmax2 d a b t q s
  | .packH2 d a b => Sys2Proof.Machine.execPackH2 d a b s
  | .packB4 d a => Sys2Proof.Machine.execPackB4 d a s
  | .packE2m1x8 d a => Sys2Proof.Machine.execPackE2m1x8 d a s
  | .unpackH2 d a => Sys2Proof.Machine.execUnpackH2 d a s
  | .unpackB4 d a => Sys2Proof.Machine.execUnpackB4 d a s
  | .unpackE2m1x8 d a => Sys2Proof.Machine.execUnpackE2m1x8 d a s
  | .flagr d => Sys2Proof.Machine.execFlagr d s
  | .flagrWave d => Sys2Proof.Machine.execFlagrWave d s
  | .flagc => Sys2Proof.Machine.execFlagc s
  | .vote d a => Sys2Proof.Machine.execVote d a s
  | .ballot d a => Sys2Proof.Machine.execBallot d a s
  | .shflAt d a b => Sys2Proof.Machine.execShflAt d a b s
  | .shflRot d a b => Sys2Proof.Machine.execShflRot d a b s
  | .shflXor d a b => Sys2Proof.Machine.execShflXor d a b s
  | .shflAtImm d a x => Sys2Proof.Machine.execShflAtImm d a x s
  | .shflRotImm d a x => Sys2Proof.Machine.execShflRotImm d a x s
  | .shflXorImm d a x => Sys2Proof.Machine.execShflXorImm d a x s
  | .shflRev d a => Sys2Proof.Machine.execShflRev d a s
  | .quad d a sc => Sys2Proof.Machine.execQuad d a sc s
  | .red d a o => Sys2Proof.Machine.execRed d a o s
  | .redF32 d a o q => Sys2Proof.Machine.execRedF32 d a o q s
  | .scanInc d a o => Sys2Proof.Machine.execScanInc d a o s
  | .scanExc d a o => Sys2Proof.Machine.execScanExc d a o s
  | .matchB32 d a => Sys2Proof.Machine.execMatchB32 d a s
  | .matchB64 d a => Sys2Proof.Machine.execMatchB64 d a s
  | .elect d => Sys2Proof.Machine.execElect d s
  | .ld d a x w l => Sys2Proof.Machine.execLd d a x w l s
  | .ldAcq d a sc w l => Sys2Proof.Machine.execLdAcq d a sc w l s
  | .st d a w l => Sys2Proof.Machine.execSt d a w l s
  | .stRel d a sc w l => Sys2Proof.Machine.execStRel d a sc w l s
  | .lds d a x w l => Sys2Proof.Machine.execLds d a x w l s
  | .ldsAcq d a sc w l => Sys2Proof.Machine.execLdsAcq d a sc w l s
  | .sts d a w l => Sys2Proof.Machine.execSts d a w l s
  | .stsRel d a sc w l => Sys2Proof.Machine.execStsRel d a sc w l s
  | .atom d a b c op kind scope use f w l => Sys2Proof.Machine.execAtom d a b c op kind scope use f w l s
  | .atoms d a b c op kind scope use f w l => Sys2Proof.Machine.execAtoms d a b c op kind scope use f w l s
  | .ratom a b op tb f w l => Sys2Proof.Machine.execRatom a b op tb f w l s
  | .prefetchL1 a l => Sys2Proof.Machine.execPrefetchL1 a l s
  | .prefetchCm a l => Sys2Proof.Machine.execPrefetchCm a l s
  | .fenceAcq sc => Sys2Proof.Machine.execFenceAcq sc s
  | .fenceRel sc => Sys2Proof.Machine.execFenceRel sc s
  | .fenceFull sc => Sys2Proof.Machine.execFenceFull sc s
  | .tfence => Sys2Proof.Machine.execTfence s
  | .inval => Sys2Proof.Machine.execInval s
  | .mcfg a l => Sys2Proof.Machine.execMcfg a l s
  | .gang a => Sys2Proof.Machine.execGang a s
  | .mmaE2m1 d a t r l => Sys2Proof.Machine.execMmaE2m1 d a t r l s
  | .mmaE4m3 d a sc t r l => Sys2Proof.Machine.execMmaE4m3 d a sc t r l s
  | .mmaE5m2 d a sc t r l => Sys2Proof.Machine.execMmaE5m2 d a sc t r l s
  | .mmaS8 d t r l => Sys2Proof.Machine.execMmaS8 d t r l s
  | .mmaBf16 d t r l => Sys2Proof.Machine.execMmaBf16 d t r l s
  | .mmaF16 d t r l => Sys2Proof.Machine.execMmaF16 d t r l s
  | .mzero t l => Sys2Proof.Machine.execMzero t l s
  | .mrd d a t l => Sys2Proof.Machine.execMrd d a t l s
  | .mwr d a t l => Sys2Proof.Machine.execMwr d a t l s
  | .mscale a t l => Sys2Proof.Machine.execMscale a t l s
  | .rgnSet d a l => Sys2Proof.Machine.execRgnSet d a l s
  | .rgnPre a l => Sys2Proof.Machine.execRgnPre a l s
  | .rgnFlush a l => Sys2Proof.Machine.execRgnFlush a l s
  | .rgnDrop a l => Sys2Proof.Machine.execRgnDrop a l s
  | .rgnStat d a l => Sys2Proof.Machine.execRgnStat d a l s
  | .tbarInit a l => Sys2Proof.Machine.execTbarInit a l s
  | .tbarArrive a l => Sys2Proof.Machine.execTbarArrive a l s
  | .tbarWait a l => Sys2Proof.Machine.execTbarWait a l s
  | .tbarTest d a l => Sys2Proof.Machine.execTbarTest d a l s
  | .tbarRead d a l => Sys2Proof.Machine.execTbarRead d a l s
  | .chain a l => Sys2Proof.Machine.execChain a l s
  | .rcap d b n l => Sys2Proof.Machine.execRcap d b n l s
  | .rcapL d b n l => Sys2Proof.Machine.execRcapL d b n l s
  | .arm d n l => Sys2Proof.Machine.execArm d n l s
  | .sendstat d c l => Sys2Proof.Machine.execSendstat d c l s
  | .sendW d a k sc r l => Sys2Proof.Machine.execSendW d a k sc r l s
  | .sendL d a k sc r l => Sys2Proof.Machine.execSendL d a k sc r l s
  | .qput d a l => Sys2Proof.Machine.execQput d a l s
  | .ntfRead d a l => Sys2Proof.Machine.execNtfRead d a l s
  | .ntfWait d a => Sys2Proof.Machine.execNtfWait d a s
  | .ntfWrite d a l => Sys2Proof.Machine.execNtfWrite d a l s
  | .sqProp d a l => Sys2Proof.Machine.execSqProp d a l s
  | .sqVerify d a l => Sys2Proof.Machine.execSqVerify d a l s
  | .sqCommit d a => Sys2Proof.Machine.execSqCommit d a s
  | .sqCommitD d a => Sys2Proof.Machine.execSqCommitD d a s
  | .sqNext d a l => Sys2Proof.Machine.execSqNext d a l s
  | .sqWatch d a l => Sys2Proof.Machine.execSqWatch d a l s
  | .sqRead d a l => Sys2Proof.Machine.execSqRead d a l s
  | .sqCtlOpen d l => Sys2Proof.Machine.execSqCtlOpen d l s
  | .sqCtlClose d a l => Sys2Proof.Machine.execSqCtlClose d a l s
  | .sqCtlResume d a l => Sys2Proof.Machine.execSqCtlResume d a l s
  | .sqCtlSetclass d a l => Sys2Proof.Machine.execSqCtlSetclass d a l s
  | .sqCtlSetmask d a l => Sys2Proof.Machine.execSqCtlSetmask d a l s
  | .sqCtlSetcnt d a l => Sys2Proof.Machine.execSqCtlSetcnt d a l s
  | .sqCtlClrdraft d a l => Sys2Proof.Machine.execSqCtlClrdraft d a l s
  | .sqCtlClrfq d a l => Sys2Proof.Machine.execSqCtlClrfq d a l s
  | .sysr d n => Sys2Proof.Machine.execSysr d n s
  | .sysw a n => Sys2Proof.Machine.execSysw a n s
  | .eret => Sys2Proof.Machine.execEret s
  | .halt => Sys2Proof.Machine.execHalt s
  | .wfe => Sys2Proof.Machine.execWfe s
  | .tlbinvPage a => Sys2Proof.Machine.execTlbinvPage a s
  | .tlbinvPart a => Sys2Proof.Machine.execTlbinvPart a s
  | .tlbinvAll => Sys2Proof.Machine.execTlbinvAll s
  | .bundleIssue => Sys2Proof.Machine.execBundleIssue s
  | .instructionComplete => Sys2Proof.Machine.execInstructionComplete s
  | .waveRetire => Sys2Proof.Machine.execWaveRetire s
  | .blockRetire => Sys2Proof.Machine.execBlockRetire s
  | .loadDataReturn => Sys2Proof.Machine.execLoadDataReturn s
  | .storeAcknowledged => Sys2Proof.Machine.execStoreAcknowledged s
  | .atomicAtHome => Sys2Proof.Machine.execAtomicAtHome s
  | .inboundSectorWritten => Sys2Proof.Machine.execInboundSectorWritten s
  | .outboundSectorAck => Sys2Proof.Machine.execOutboundSectorAck s
  | .reduceOnStoreCombine => Sys2Proof.Machine.execReduceOnStoreCombine s
  | .multicastLanding => Sys2Proof.Machine.execMulticastLanding s
  | .copyComplete => Sys2Proof.Machine.execCopyComplete s
  | .copyFail => Sys2Proof.Machine.execCopyFail s
  | .ratomAtTarget => Sys2Proof.Machine.execRatomAtTarget s
  | .ratomAcknowledged => Sys2Proof.Machine.execRatomAcknowledged s
  | .chainStart => Sys2Proof.Machine.execChainStart s
  | .chainComplete => Sys2Proof.Machine.execChainComplete s
  | .mmaRendezvous => Sys2Proof.Machine.execMmaRendezvous s
  | .matrixOperationComplete => Sys2Proof.Machine.execMatrixOperationComplete s
  | .laneWriteDecided => Sys2Proof.Machine.execLaneWriteDecided s
  | .laneWriteForward => Sys2Proof.Machine.execLaneWriteForward s
  | .sendOutcomeReturn => Sys2Proof.Machine.execSendOutcomeReturn s
  | .vesperReply => Sys2Proof.Machine.execVesperReply s
  | .queueInsertion => Sys2Proof.Machine.execQueueInsertion s
  | .launchBegin => Sys2Proof.Machine.execLaunchBegin s
  | .launchComplete => Sys2Proof.Machine.execLaunchComplete s
  | .collectiveBegin => Sys2Proof.Machine.execCollectiveBegin s
  | .waitBegin => Sys2Proof.Machine.execWaitBegin s
  | .waitPoll => Sys2Proof.Machine.execWaitPoll s
  | .signalBegin => Sys2Proof.Machine.execSignalBegin s
  | .signalComplete => Sys2Proof.Machine.execSignalComplete s
  | .fencePacket => Sys2Proof.Machine.execFencePacket s
  | .markerPacket => Sys2Proof.Machine.execMarkerPacket s
  | .nopPacket => Sys2Proof.Machine.execNopPacket s
  | .placementOpportunity => Sys2Proof.Machine.execPlacementOpportunity s
  | .epochBoundary => Sys2Proof.Machine.execEpochBoundary s
  | .capReached => Sys2Proof.Machine.execCapReached s
  | .matinsPreempt => Sys2Proof.Machine.execMatinsPreempt s
  | .saveComplete => Sys2Proof.Machine.execSaveComplete s
  | .deferredHaltSave => Sys2Proof.Machine.execDeferredHaltSave s
  | .contextResume => Sys2Proof.Machine.execContextResume s
  | .restoreComplete => Sys2Proof.Machine.execRestoreComplete s
  | .handlerEntry => Sys2Proof.Machine.execHandlerEntry s
  | .breakpointPcStop => Sys2Proof.Machine.execBreakpointPcStop s
  | .stopComplete => Sys2Proof.Machine.execStopComplete s
  | .pageWalkComplete => Sys2Proof.Machine.execPageWalkComplete s
  | .tlbinvComplete => Sys2Proof.Machine.execTlbinvComplete s
  | .uncorrectableError => Sys2Proof.Machine.execUncorrectableError s
  | .collectiveStep => Sys2Proof.Machine.execCollectiveStep s
  | .collectiveComplete => Sys2Proof.Machine.execCollectiveComplete s
  | .collectiveStepTimeout => Sys2Proof.Machine.execCollectiveStepTimeout s
  | .suspendNotice => Sys2Proof.Machine.execSuspendNotice s
  | .resumeNotice => Sys2Proof.Machine.execResumeNotice s
  | .suspensionSlotRelease => Sys2Proof.Machine.execSuspensionSlotRelease s
  | .linkSlotGrant => Sys2Proof.Machine.execLinkSlotGrant s
  | .cohRead => Sys2Proof.Machine.execCohRead s
  | .cohWrite => Sys2Proof.Machine.execCohWrite s
  | .cohRollout => Sys2Proof.Machine.execCohRollout s
  | .commAddRequest => Sys2Proof.Machine.execCommAddRequest s
  | .homeAtomicRecall => Sys2Proof.Machine.execHomeAtomicRecall s
  | .gather => Sys2Proof.Machine.execGather s
  | .mirrorUpdate => Sys2Proof.Machine.execMirrorUpdate s
  | .agentReport => Sys2Proof.Machine.execAgentReport s
  | .sliceRebuildComplete => Sys2Proof.Machine.execSliceRebuildComplete s
  | .flitArrive => Sys2Proof.Machine.execFlitArrive s
  | .flitRetry => Sys2Proof.Machine.execFlitRetry s
  | .remoteAckArrive => Sys2Proof.Machine.execRemoteAckArrive s
  | .linkReceiveTimeout => Sys2Proof.Machine.execLinkReceiveTimeout s
  | .linkRetryExhausted => Sys2Proof.Machine.execLinkRetryExhausted s
  | .keepAlive => Sys2Proof.Machine.execKeepAlive s
  | .linkTrained => Sys2Proof.Machine.execLinkTrained s
  | .trainComplete => Sys2Proof.Machine.execTrainComplete s
  | .controlFlitReissue => Sys2Proof.Machine.execControlFlitReissue s
  | .packageReset => Sys2Proof.Machine.execPackageReset s
  | .thermalThrottle => Sys2Proof.Machine.execThermalThrottle s
  | .thermalTrip => Sys2Proof.Machine.execThermalTrip s
  | .traceRecord => Sys2Proof.Machine.execTraceRecord s
  | .tracePageTimeout => Sys2Proof.Machine.execTracePageTimeout s
  | .traceSample => Sys2Proof.Machine.execTraceSample s
  | .laneCycleInterval => Sys2Proof.Machine.execLaneCycleInterval s
  | .ctxPreempt => Sys2Proof.Machine.execCtxPreempt s
  | .ctxHalt => Sys2Proof.Machine.execCtxHalt s
  | .ctxRelease => Sys2Proof.Machine.execCtxRelease s
  | .ctxKill => Sys2Proof.Machine.execCtxKill s
  | .ctxStop => Sys2Proof.Machine.execCtxStop s
  | .ctxContinue => Sys2Proof.Machine.execCtxContinue s
  | .ctxSignal => Sys2Proof.Machine.execCtxSignal s
  | .ctxSetdbg0 => Sys2Proof.Machine.execCtxSetdbg0 s
  | .ctxSetdbg1 => Sys2Proof.Machine.execCtxSetdbg1 s
  | .vopOpen => Sys2Proof.Machine.execVopOpen s
  | .vopClose => Sys2Proof.Machine.execVopClose s
  | .vopResume => Sys2Proof.Machine.execVopResume s
  | .vopSetclass => Sys2Proof.Machine.execVopSetclass s
  | .vopSetmask => Sys2Proof.Machine.execVopSetmask s
  | .vopSetcnt => Sys2Proof.Machine.execVopSetcnt s
  | .vopClrdraft => Sys2Proof.Machine.execVopClrdraft s
  | .vopClrfq => Sys2Proof.Machine.execVopClrfq s
  | .vopInstall => Sys2Proof.Machine.execVopInstall s
  | .vdataWrite => Sys2Proof.Machine.execVdataWrite s
  | .vnhiWrite => Sys2Proof.Machine.execVnhiWrite s
  | .vnpendClear => Sys2Proof.Machine.execVnpendClear s
  | .gcmdWrite => Sys2Proof.Machine.execGcmdWrite s
  | .cmregionWrite => Sys2Proof.Machine.execCmregionWrite s
  | .cmwindowWrite => Sys2Proof.Machine.execCmwindowWrite s
  | .queuePause => Sys2Proof.Machine.execQueuePause s
  | .queueUnpause => Sys2Proof.Machine.execQueueUnpause s
  | .queueEvict => Sys2Proof.Machine.execQueueEvict s
  | .queueReset => Sys2Proof.Machine.execQueueReset s
  | .qctlWrite => Sys2Proof.Machine.execQctlWrite s
  | .qputRegister => Sys2Proof.Machine.execQputRegister s
  | .pmaskWrite => Sys2Proof.Machine.execPmaskWrite s
  | .lseedWrite => Sys2Proof.Machine.execLseedWrite s
  | .evsizeWrite => Sys2Proof.Machine.execEvsizeWrite s
  | .rootWrite => Sys2Proof.Machine.execRootWrite s
  | .domselfWrite => Sys2Proof.Machine.execDomselfWrite s
  | .chmapWrite => Sys2Proof.Machine.execChmapWrite s
  | .dmpkgWrite => Sys2Proof.Machine.execDmpkgWrite s
  | .partitionSeal => Sys2Proof.Machine.execPartitionSeal s
  | .partitionDissolve => Sys2Proof.Machine.execPartitionDissolve s
  | .dissolutionEnd => Sys2Proof.Machine.execDissolutionEnd s
  | .firewallWindowWrite => Sys2Proof.Machine.execFirewallWindowWrite s
  | .traceEnable => Sys2Proof.Machine.execTraceEnable s
  | .traceDisable => Sys2Proof.Machine.execTraceDisable s
  | .verify => Sys2Proof.Machine.execVerify s
  | .leavedawn => Sys2Proof.Machine.execLeavedawn s
  | .train => Sys2Proof.Machine.execTrain s
  | .pkgnumWrite => Sys2Proof.Machine.execPkgnumWrite s
  | .feataccWrite => Sys2Proof.Machine.execFeataccWrite s
  | .peerDeclare => Sys2Proof.Machine.execPeerDeclare s
  | .peerAdmit => Sys2Proof.Machine.execPeerAdmit s
  | .pwrcapWrite => Sys2Proof.Machine.execPwrcapWrite s
  | .registerWrite => Sys2Proof.Machine.execRegisterWrite s
  | .dieCoolsBelow100c => Sys2Proof.Machine.execDieCoolsBelow100c s
  | .packagePowerOverPwrcap => Sys2Proof.Machine.execPackagePowerOverPwrcap s
  | .pcieControlMemoryAccess => Sys2Proof.Machine.execPcieControlMemoryAccess s

end Sys2Proof.Machine
end

