-- ==== Sys2Proof/Machine/Step.lean ====
section
/-! DEFINITION. Step.lean: one step of the machine, and a word placed where the next step fetches. -/
namespace Sys2Proof.Machine

/-- Performs the bundle that stands issued, if one does. -/
def performIssued (s : State) : Host.Outcome State Fault Refusal :=
  match s.cur with
  | some b => exec b.instr s
  | none => .next s

/-- Serves the next issue slot (R41, R48) and performs the bundle it issues. -/
def stepBundle (s : State) : Host.Outcome State Fault Refusal :=
  match exec .bundleIssue s.serve with
  | .next t => performIssued t
  | r => r

/-- One step: the bundle that stands issued; else an event that is due, or the next bundle (log 4). -/
def step (s : State) : Host.Outcome State Fault Refusal :=
  match s.cur with
  | some b => exec b.instr s
  | none => match s.dueEvent with
    | some (e, t) => exec e t
    | none => stepBundle s.chooseBundle

/-- The state with an instruction's word stored where the next step fetches it (log 4). -/
def State.withFetchWord (s : State) (nbits w : Nat) : State := s.placeWord nbits w

end Sys2Proof.Machine
end

