-- ==== Sys2Proof/Laws/SMap.lean ====
section
/-! SUPPORT. Laws/SMap.lean: what the operations on maps do: read after write, and the canonical form. -/
namespace Sys2Proof.Machine.SMap

variable {α : Type}

theorem find?_insert (m : List (Nat × α)) (k : Nat) (v : α) (j : Nat) :
    find? (insert m k v) j = if k = j then some v else find? m j := by
  induction m with
  | nil => simp [insert, find?]
  | cons e m ih =>
    obtain ⟨a, w⟩ := e
    simp only [insert]
    split
    · simp only [find?]
    · split
      · subst a; simp only [find?]; split <;> rfl
      · simp only [find?, ih]
        by_cases h : a = j
        · subst h; simp_all [eq_comm]
        · simp [h]

theorem find?_erase (m : List (Nat × α)) (k j : Nat) :
    find? (erase m k) j = if k = j then none else find? m j := by
  induction m with
  | nil => simp [erase, find?]
  | cons e m ih =>
    obtain ⟨a, w⟩ := e
    simp only [erase]
    split
    · subst a; rw [ih]; split <;> simp_all [find?]
    · simp only [find?, ih]
      by_cases h : a = j
      · subst h; simp_all [eq_comm]
      · simp [h]

@[simp] theorem find?_insert_self (m : List (Nat × α)) (k : Nat) (v : α) : find? (insert m k v) k = some v := by
  simp [find?_insert]

@[simp] theorem find?_insert_ne {m : List (Nat × α)} {k j : Nat} {v : α} (h : k ≠ j) :
    find? (insert m k v) j = find? m j := by simp [find?_insert, h]

@[simp] theorem find?_mapVals (m : List (Nat × α)) (f : Nat → α → α) (k : Nat) :
    find? (mapVals m f) k = (find? m k).map (f k) := by
  induction m with
  | nil => rfl
  | cons e m ih =>
    obtain ⟨a, w⟩ := e
    simp only [mapVals, List.map_cons, find?] at ih ⊢
    split
    · subst a; rfl
    · exact ih

theorem find?_modify (m : List (Nat × α)) (k : Nat) (f : α → α) (j : Nat) :
    find? (modify m k f) j = if k = j then (find? m j).map f else find? m j := by
  unfold modify
  by_cases h : k = j
  · subst h
    cases hm : find? m k <;> simp_all
  · cases hm : find? m k <;> simp [h]

@[simp] theorem find?_modify_self (m : List (Nat × α)) (k : Nat) (f : α → α) :
    find? (modify m k f) k = (find? m k).map f := by simp [find?_modify]

@[simp] theorem find?_modify_ne {m : List (Nat × α)} {k j : Nat} {f : α → α} (h : k ≠ j) :
    find? (modify m k f) j = find? m j := by simp [find?_modify, h]

/-- Read after write. -/
theorem get_set [DecidableEq α] (d : α) (m : List (Nat × α)) (k : Nat) (v : α) (j : Nat) :
    get d (set d m k v) j = if k = j then v else get d m j := by
  unfold get set
  by_cases hv : v = d
  · simp only [hv, if_true, find?_erase]; split <;> simp
  · simp only [hv, if_false, find?_insert]; split <;> simp

@[simp] theorem get_set_self [DecidableEq α] (d : α) (m : List (Nat × α)) (k : Nat) (v : α) :
    get d (set d m k v) k = v := by simp [get_set]

@[simp] theorem get_set_ne [DecidableEq α] {d : α} {m : List (Nat × α)} {k j : Nat} {v : α} (h : k ≠ j) :
    get d (set d m k v) j = get d m j := by simp [get_set, h]

@[simp] theorem get_nil (d : α) (k : Nat) : get d [] k = d := rfl

@[simp] theorem get_mapVals (d : α) (m : List (Nat × α)) (f : Nat → α → α) (k : Nat) (h : f k d = d) :
    get d (mapVals m f) k = f k (get d m k) := by
  unfold get; rw [find?_mapVals]; cases find? m k <;> simp [h]

/-! ### The canonical form -/

theorem sortedFrom_mono {m : List (Nat × α)} {a b : Nat} (h : sortedFrom b m = true) (hab : a ≤ b) :
    sortedFrom a m = true := by
  cases m with
  | nil => rfl
  | cons e m => simp only [sortedFrom, Bool.and_eq_true, decide_eq_true_eq] at h ⊢; exact ⟨by omega, h.2⟩

theorem sortedFrom_insert {m : List (Nat × α)} {lo k : Nat} {v : α} (h : sortedFrom lo m = true) (hk : lo ≤ k) :
    sortedFrom lo (insert m k v) = true := by
  induction m generalizing lo with
  | nil => simp [insert, sortedFrom, hk]
  | cons e m ih =>
    obtain ⟨a, w⟩ := e
    simp only [sortedFrom, Bool.and_eq_true, decide_eq_true_eq] at h
    simp only [insert]
    split
    · simp only [sortedFrom, Bool.and_eq_true, decide_eq_true_eq]; exact ⟨hk, by omega, h.2⟩
    · split
      · subst a; simp only [sortedFrom, Bool.and_eq_true, decide_eq_true_eq]; exact h
      · simp only [sortedFrom, Bool.and_eq_true, decide_eq_true_eq]
        exact ⟨h.1, ih h.2 (by omega)⟩

theorem sortedFrom_filter {m : List (Nat × α)} {lo : Nat} (p : Nat × α → Bool) (h : sortedFrom lo m = true) :
    sortedFrom lo (m.filter p) = true := by
  induction m generalizing lo with
  | nil => rfl
  | cons e m ih =>
    obtain ⟨a, w⟩ := e
    simp only [sortedFrom, Bool.and_eq_true, decide_eq_true_eq] at h
    rw [List.filter_cons]
    split
    · simp only [sortedFrom, Bool.and_eq_true, decide_eq_true_eq]; exact ⟨h.1, ih h.2⟩
    · exact sortedFrom_mono (ih h.2) (by omega)

theorem erase_eq_filter (m : List (Nat × α)) (k : Nat) : erase m k = m.filter fun e => decide (e.1 ≠ k) := by
  induction m with
  | nil => rfl
  | cons e m ih => obtain ⟨a, w⟩ := e; simp only [erase, List.filter_cons, ih]; by_cases h : a = k <;> simp [h]

theorem mem_insert {m : List (Nat × α)} {k : Nat} {v : α} {e : Nat × α} (h : e ∈ insert m k v) :
    e = (k, v) ∨ e ∈ m := by
  induction m with
  | nil => simpa [insert] using h
  | cons f m ih =>
    obtain ⟨a, w⟩ := f
    simp only [insert] at h
    split at h
    · simpa using h
    · split at h
      · rcases List.mem_cons.1 h with rfl | h
        · exact .inl rfl
        · exact .inr (List.mem_cons_of_mem _ h)
      · rcases List.mem_cons.1 h with rfl | h
        · exact .inr (List.mem_cons_self ..)
        · exact (ih h).imp_right (List.mem_cons_of_mem _)

theorem wf_nil [DecidableEq α] (d : α) : wf d ([] : List (Nat × α)) = true := rfl

theorem wf_filter [DecidableEq α] {d : α} {m : List (Nat × α)} (p : Nat × α → Bool) (h : wf d m = true) :
    wf d (m.filter p) = true := by
  simp only [wf, Bool.and_eq_true, List.all_eq_true] at h ⊢
  exact ⟨sortedFrom_filter p h.1, fun e he => h.2 e (List.mem_filter.1 he).1⟩

theorem wf_insert [DecidableEq α] {d : α} {m : List (Nat × α)} {k : Nat} {v : α} (h : wf d m = true) (hv : v ≠ d) :
    wf d (insert m k v) = true := by
  simp only [wf, Bool.and_eq_true, List.all_eq_true] at h ⊢
  refine ⟨sortedFrom_insert h.1 (Nat.zero_le _), fun e he => ?_⟩
  rcases mem_insert he with rfl | he
  · simpa using hv
  · exact h.2 e he

theorem wf_erase [DecidableEq α] {d : α} {m : List (Nat × α)} {k : Nat} (h : wf d m = true) :
    wf d (erase m k) = true := by
  rw [erase_eq_filter]; exact wf_filter _ h

/-- A write keeps the canonical form. -/
theorem wf_set [DecidableEq α] {d : α} {m : List (Nat × α)} {k : Nat} {v : α} (h : wf d m = true) :
    wf d (set d m k v) = true := by
  unfold set
  split
  · exact wf_erase h
  · rename_i hv; exact wf_insert h hv

end Sys2Proof.Machine.SMap
end

