-- ==== Sys2Proof/Laws/State.lean ====
section
/-! SUPPORT. Laws/State.lean: what each named update of the state leaves of every field, one lemma per field per update. -/
namespace Sys2Proof.Machine

/-! ### modCtx -/
@[simp] theorem clock_modCtx (s : State) (c : Nat) (f : Ctx → Ctx) : (s.modCtx c f).clock = s.clock := rfl
@[simp] theorem free_modCtx (s : State) (c : Nat) (f : Ctx → Ctx) : (s.modCtx c f).free = s.free := rfl
@[simp] theorem nextId_modCtx (s : State) (c : Nat) (f : Ctx → Ctx) : (s.modCtx c f).nextId = s.nextId := rfl
@[simp] theorem agenda_modCtx (s : State) (c : Nat) (f : Ctx → Ctx) : (s.modCtx c f).agenda = s.agenda := rfl
@[simp] theorem args_modCtx (s : State) (c : Nat) (f : Ctx → Ctx) : (s.modCtx c f).args = s.args := rfl
@[simp] theorem cur_modCtx (s : State) (c : Nat) (f : Ctx → Ctx) : (s.modCtx c f).cur = s.cur := rfl
@[simp] theorem port_modCtx (s : State) (c : Nat) (f : Ctx → Ctx) : (s.modCtx c f).port = s.port := rfl
@[simp] theorem mem_modCtx (s : State) (c : Nat) (f : Ctx → Ctx) : (s.modCtx c f).mem = s.mem := rfl
@[simp] theorem poison_modCtx (s : State) (c : Nat) (f : Ctx → Ctx) : (s.modCtx c f).poison = s.poison := rfl
@[simp] theorem l1_modCtx (s : State) (c : Nat) (f : Ctx → Ctx) : (s.modCtx c f).l1 = s.l1 := rfl
@[simp] theorem tlb_modCtx (s : State) (c : Nat) (f : Ctx → Ctx) : (s.modCtx c f).tlb = s.tlb := rfl
@[simp] theorem walkers_modCtx (s : State) (c : Nat) (f : Ctx → Ctx) : (s.modCtx c f).walkers = s.walkers := rfl
@[simp] theorem recs_modCtx (s : State) (c : Nat) (f : Ctx → Ctx) : (s.modCtx c f).recs = s.recs := rfl
@[simp] theorem cores_modCtx (s : State) (c : Nat) (f : Ctx → Ctx) : (s.modCtx c f).cores = s.cores := rfl
@[simp] theorem ops_modCtx (s : State) (c : Nat) (f : Ctx → Ctx) : (s.modCtx c f).ops = s.ops := rfl
@[simp] theorem hub_modCtx (s : State) (c : Nat) (f : Ctx → Ctx) : (s.modCtx c f).hub = s.hub := rfl
@[simp] theorem interrupts_modCtx (s : State) (c : Nat) (f : Ctx → Ctx) : (s.modCtx c f).interrupts = s.interrupts := rfl
@[simp] theorem egress_modCtx (s : State) (c : Nat) (f : Ctx → Ctx) : (s.modCtx c f).egress = s.egress := rfl
@[simp] theorem lines_modCtx (s : State) (c : Nat) (f : Ctx → Ctx) : (s.modCtx c f).lines = s.lines := rfl
@[simp] theorem leaving_modCtx (s : State) (c : Nat) (f : Ctx → Ctx) : (s.modCtx c f).leaving = s.leaving := rfl
@[simp] theorem purged_modCtx (s : State) (c : Nat) (f : Ctx → Ctx) : (s.modCtx c f).purged = s.purged := rfl
@[simp] theorem mdir_modCtx (s : State) (c : Nat) (f : Ctx → Ctx) : (s.modCtx c f).mdir = s.mdir := rfl
@[simp] theorem seqs_modCtx (s : State) (c : Nat) (f : Ctx → Ctx) : (s.modCtx c f).seqs = s.seqs := rfl
@[simp] theorem applied_modCtx (s : State) (c : Nat) (f : Ctx → Ctx) : (s.modCtx c f).applied = s.applied := rfl
@[simp] theorem lost_modCtx (s : State) (c : Nat) (f : Ctx → Ctx) : (s.modCtx c f).lost = s.lost := rfl
@[simp] theorem rebuilds_modCtx (s : State) (c : Nat) (f : Ctx → Ctx) : (s.modCtx c f).rebuilds = s.rebuilds := rfl
@[simp] theorem waiting_modCtx (s : State) (c : Nat) (f : Ctx → Ctx) : (s.modCtx c f).waiting = s.waiting := rfl
@[simp] theorem vesper_modCtx (s : State) (c : Nat) (f : Ctx → Ctx) : (s.modCtx c f).vesper = s.vesper := rfl
@[simp] theorem notify_modCtx (s : State) (c : Nat) (f : Ctx → Ctx) : (s.modCtx c f).notify = s.notify := rfl
@[simp] theorem queues_modCtx (s : State) (c : Nat) (f : Ctx → Ctx) : (s.modCtx c f).queues = s.queues := rfl
@[simp] theorem launches_modCtx (s : State) (c : Nat) (f : Ctx → Ctx) : (s.modCtx c f).launches = s.launches := rfl
@[simp] theorem colls_modCtx (s : State) (c : Nat) (f : Ctx → Ctx) : (s.modCtx c f).colls = s.colls := rfl
@[simp] theorem groups_modCtx (s : State) (c : Nat) (f : Ctx → Ctx) : (s.modCtx c f).groups = s.groups := rfl
@[simp] theorem colseq_modCtx (s : State) (c : Nat) (f : Ctx → Ctx) : (s.modCtx c f).colseq = s.colseq := rfl
@[simp] theorem colfail_modCtx (s : State) (c : Nat) (f : Ctx → Ctx) : (s.modCtx c f).colfail = s.colfail := rfl
@[simp] theorem routes_modCtx (s : State) (c : Nat) (f : Ctx → Ctx) : (s.modCtx c f).routes = s.routes := rfl
@[simp] theorem ptrs_modCtx (s : State) (c : Nat) (f : Ctx → Ctx) : (s.modCtx c f).ptrs = s.ptrs := rfl
@[simp] theorem placed_modCtx (s : State) (c : Nat) (f : Ctx → Ctx) : (s.modCtx c f).placed = s.placed := rfl
@[simp] theorem saves_modCtx (s : State) (c : Nat) (f : Ctx → Ctx) : (s.modCtx c f).saves = s.saves := rfl
@[simp] theorem unsaved_modCtx (s : State) (c : Nat) (f : Ctx → Ctx) : (s.modCtx c f).unsaved = s.unsaved := rfl
@[simp] theorem pages_modCtx (s : State) (c : Nat) (f : Ctx → Ctx) : (s.modCtx c f).pages = s.pages := rfl
@[simp] theorem salts_modCtx (s : State) (c : Nat) (f : Ctx → Ctx) : (s.modCtx c f).salts = s.salts := rfl
@[simp] theorem spent_modCtx (s : State) (c : Nat) (f : Ctx → Ctx) : (s.modCtx c f).spent = s.spent := rfl
@[simp] theorem keyed_modCtx (s : State) (c : Nat) (f : Ctx → Ctx) : (s.modCtx c f).keyed = s.keyed := rfl
@[simp] theorem dead_modCtx (s : State) (c : Nat) (f : Ctx → Ctx) : (s.modCtx c f).dead = s.dead := rfl
@[simp] theorem hot_modCtx (s : State) (c : Nat) (f : Ctx → Ctx) : (s.modCtx c f).hot = s.hot := rfl
@[simp] theorem training_modCtx (s : State) (c : Nat) (f : Ctx → Ctx) : (s.modCtx c f).training = s.training := rfl

/-! ### modWave -/
@[simp] theorem clock_modWave (s : State) (c w : Nat) (f : Wave → Wave) : (s.modWave c w f).clock = s.clock := rfl
@[simp] theorem free_modWave (s : State) (c w : Nat) (f : Wave → Wave) : (s.modWave c w f).free = s.free := rfl
@[simp] theorem nextId_modWave (s : State) (c w : Nat) (f : Wave → Wave) : (s.modWave c w f).nextId = s.nextId := rfl
@[simp] theorem agenda_modWave (s : State) (c w : Nat) (f : Wave → Wave) : (s.modWave c w f).agenda = s.agenda := rfl
@[simp] theorem args_modWave (s : State) (c w : Nat) (f : Wave → Wave) : (s.modWave c w f).args = s.args := rfl
@[simp] theorem cur_modWave (s : State) (c w : Nat) (f : Wave → Wave) : (s.modWave c w f).cur = s.cur := rfl
@[simp] theorem port_modWave (s : State) (c w : Nat) (f : Wave → Wave) : (s.modWave c w f).port = s.port := rfl
@[simp] theorem mem_modWave (s : State) (c w : Nat) (f : Wave → Wave) : (s.modWave c w f).mem = s.mem := rfl
@[simp] theorem poison_modWave (s : State) (c w : Nat) (f : Wave → Wave) : (s.modWave c w f).poison = s.poison := rfl
@[simp] theorem l1_modWave (s : State) (c w : Nat) (f : Wave → Wave) : (s.modWave c w f).l1 = s.l1 := rfl
@[simp] theorem tlb_modWave (s : State) (c w : Nat) (f : Wave → Wave) : (s.modWave c w f).tlb = s.tlb := rfl
@[simp] theorem walkers_modWave (s : State) (c w : Nat) (f : Wave → Wave) : (s.modWave c w f).walkers = s.walkers := rfl
@[simp] theorem recs_modWave (s : State) (c w : Nat) (f : Wave → Wave) : (s.modWave c w f).recs = s.recs := rfl
@[simp] theorem cores_modWave (s : State) (c w : Nat) (f : Wave → Wave) : (s.modWave c w f).cores = s.cores := rfl
@[simp] theorem ops_modWave (s : State) (c w : Nat) (f : Wave → Wave) : (s.modWave c w f).ops = s.ops := rfl
@[simp] theorem hub_modWave (s : State) (c w : Nat) (f : Wave → Wave) : (s.modWave c w f).hub = s.hub := rfl
@[simp] theorem interrupts_modWave (s : State) (c w : Nat) (f : Wave → Wave) : (s.modWave c w f).interrupts = s.interrupts := rfl
@[simp] theorem egress_modWave (s : State) (c w : Nat) (f : Wave → Wave) : (s.modWave c w f).egress = s.egress := rfl
@[simp] theorem lines_modWave (s : State) (c w : Nat) (f : Wave → Wave) : (s.modWave c w f).lines = s.lines := rfl
@[simp] theorem leaving_modWave (s : State) (c w : Nat) (f : Wave → Wave) : (s.modWave c w f).leaving = s.leaving := rfl
@[simp] theorem purged_modWave (s : State) (c w : Nat) (f : Wave → Wave) : (s.modWave c w f).purged = s.purged := rfl
@[simp] theorem mdir_modWave (s : State) (c w : Nat) (f : Wave → Wave) : (s.modWave c w f).mdir = s.mdir := rfl
@[simp] theorem seqs_modWave (s : State) (c w : Nat) (f : Wave → Wave) : (s.modWave c w f).seqs = s.seqs := rfl
@[simp] theorem applied_modWave (s : State) (c w : Nat) (f : Wave → Wave) : (s.modWave c w f).applied = s.applied := rfl
@[simp] theorem lost_modWave (s : State) (c w : Nat) (f : Wave → Wave) : (s.modWave c w f).lost = s.lost := rfl
@[simp] theorem rebuilds_modWave (s : State) (c w : Nat) (f : Wave → Wave) : (s.modWave c w f).rebuilds = s.rebuilds := rfl
@[simp] theorem waiting_modWave (s : State) (c w : Nat) (f : Wave → Wave) : (s.modWave c w f).waiting = s.waiting := rfl
@[simp] theorem vesper_modWave (s : State) (c w : Nat) (f : Wave → Wave) : (s.modWave c w f).vesper = s.vesper := rfl
@[simp] theorem notify_modWave (s : State) (c w : Nat) (f : Wave → Wave) : (s.modWave c w f).notify = s.notify := rfl
@[simp] theorem queues_modWave (s : State) (c w : Nat) (f : Wave → Wave) : (s.modWave c w f).queues = s.queues := rfl
@[simp] theorem launches_modWave (s : State) (c w : Nat) (f : Wave → Wave) : (s.modWave c w f).launches = s.launches := rfl
@[simp] theorem colls_modWave (s : State) (c w : Nat) (f : Wave → Wave) : (s.modWave c w f).colls = s.colls := rfl
@[simp] theorem groups_modWave (s : State) (c w : Nat) (f : Wave → Wave) : (s.modWave c w f).groups = s.groups := rfl
@[simp] theorem colseq_modWave (s : State) (c w : Nat) (f : Wave → Wave) : (s.modWave c w f).colseq = s.colseq := rfl
@[simp] theorem colfail_modWave (s : State) (c w : Nat) (f : Wave → Wave) : (s.modWave c w f).colfail = s.colfail := rfl
@[simp] theorem routes_modWave (s : State) (c w : Nat) (f : Wave → Wave) : (s.modWave c w f).routes = s.routes := rfl
@[simp] theorem ptrs_modWave (s : State) (c w : Nat) (f : Wave → Wave) : (s.modWave c w f).ptrs = s.ptrs := rfl
@[simp] theorem placed_modWave (s : State) (c w : Nat) (f : Wave → Wave) : (s.modWave c w f).placed = s.placed := rfl
@[simp] theorem saves_modWave (s : State) (c w : Nat) (f : Wave → Wave) : (s.modWave c w f).saves = s.saves := rfl
@[simp] theorem unsaved_modWave (s : State) (c w : Nat) (f : Wave → Wave) : (s.modWave c w f).unsaved = s.unsaved := rfl
@[simp] theorem pages_modWave (s : State) (c w : Nat) (f : Wave → Wave) : (s.modWave c w f).pages = s.pages := rfl
@[simp] theorem salts_modWave (s : State) (c w : Nat) (f : Wave → Wave) : (s.modWave c w f).salts = s.salts := rfl
@[simp] theorem spent_modWave (s : State) (c w : Nat) (f : Wave → Wave) : (s.modWave c w f).spent = s.spent := rfl
@[simp] theorem keyed_modWave (s : State) (c w : Nat) (f : Wave → Wave) : (s.modWave c w f).keyed = s.keyed := rfl
@[simp] theorem dead_modWave (s : State) (c w : Nat) (f : Wave → Wave) : (s.modWave c w f).dead = s.dead := rfl
@[simp] theorem hot_modWave (s : State) (c w : Nat) (f : Wave → Wave) : (s.modWave c w f).hot = s.hot := rfl
@[simp] theorem training_modWave (s : State) (c w : Nat) (f : Wave → Wave) : (s.modWave c w f).training = s.training := rfl

/-! ### modLanesBy -/
@[simp] theorem clock_modLanesBy (s : State) (c w : Nat) (f : Nat → Lane → Lane) : (s.modLanesBy c w f).clock = s.clock := rfl
@[simp] theorem free_modLanesBy (s : State) (c w : Nat) (f : Nat → Lane → Lane) : (s.modLanesBy c w f).free = s.free := rfl
@[simp] theorem nextId_modLanesBy (s : State) (c w : Nat) (f : Nat → Lane → Lane) : (s.modLanesBy c w f).nextId = s.nextId := rfl
@[simp] theorem agenda_modLanesBy (s : State) (c w : Nat) (f : Nat → Lane → Lane) : (s.modLanesBy c w f).agenda = s.agenda := rfl
@[simp] theorem args_modLanesBy (s : State) (c w : Nat) (f : Nat → Lane → Lane) : (s.modLanesBy c w f).args = s.args := rfl
@[simp] theorem cur_modLanesBy (s : State) (c w : Nat) (f : Nat → Lane → Lane) : (s.modLanesBy c w f).cur = s.cur := rfl
@[simp] theorem port_modLanesBy (s : State) (c w : Nat) (f : Nat → Lane → Lane) : (s.modLanesBy c w f).port = s.port := rfl
@[simp] theorem mem_modLanesBy (s : State) (c w : Nat) (f : Nat → Lane → Lane) : (s.modLanesBy c w f).mem = s.mem := rfl
@[simp] theorem poison_modLanesBy (s : State) (c w : Nat) (f : Nat → Lane → Lane) : (s.modLanesBy c w f).poison = s.poison := rfl
@[simp] theorem l1_modLanesBy (s : State) (c w : Nat) (f : Nat → Lane → Lane) : (s.modLanesBy c w f).l1 = s.l1 := rfl
@[simp] theorem tlb_modLanesBy (s : State) (c w : Nat) (f : Nat → Lane → Lane) : (s.modLanesBy c w f).tlb = s.tlb := rfl
@[simp] theorem walkers_modLanesBy (s : State) (c w : Nat) (f : Nat → Lane → Lane) : (s.modLanesBy c w f).walkers = s.walkers := rfl
@[simp] theorem recs_modLanesBy (s : State) (c w : Nat) (f : Nat → Lane → Lane) : (s.modLanesBy c w f).recs = s.recs := rfl
@[simp] theorem cores_modLanesBy (s : State) (c w : Nat) (f : Nat → Lane → Lane) : (s.modLanesBy c w f).cores = s.cores := rfl
@[simp] theorem ops_modLanesBy (s : State) (c w : Nat) (f : Nat → Lane → Lane) : (s.modLanesBy c w f).ops = s.ops := rfl
@[simp] theorem hub_modLanesBy (s : State) (c w : Nat) (f : Nat → Lane → Lane) : (s.modLanesBy c w f).hub = s.hub := rfl
@[simp] theorem interrupts_modLanesBy (s : State) (c w : Nat) (f : Nat → Lane → Lane) : (s.modLanesBy c w f).interrupts = s.interrupts := rfl
@[simp] theorem egress_modLanesBy (s : State) (c w : Nat) (f : Nat → Lane → Lane) : (s.modLanesBy c w f).egress = s.egress := rfl
@[simp] theorem lines_modLanesBy (s : State) (c w : Nat) (f : Nat → Lane → Lane) : (s.modLanesBy c w f).lines = s.lines := rfl
@[simp] theorem leaving_modLanesBy (s : State) (c w : Nat) (f : Nat → Lane → Lane) : (s.modLanesBy c w f).leaving = s.leaving := rfl
@[simp] theorem purged_modLanesBy (s : State) (c w : Nat) (f : Nat → Lane → Lane) : (s.modLanesBy c w f).purged = s.purged := rfl
@[simp] theorem mdir_modLanesBy (s : State) (c w : Nat) (f : Nat → Lane → Lane) : (s.modLanesBy c w f).mdir = s.mdir := rfl
@[simp] theorem seqs_modLanesBy (s : State) (c w : Nat) (f : Nat → Lane → Lane) : (s.modLanesBy c w f).seqs = s.seqs := rfl
@[simp] theorem applied_modLanesBy (s : State) (c w : Nat) (f : Nat → Lane → Lane) : (s.modLanesBy c w f).applied = s.applied := rfl
@[simp] theorem lost_modLanesBy (s : State) (c w : Nat) (f : Nat → Lane → Lane) : (s.modLanesBy c w f).lost = s.lost := rfl
@[simp] theorem rebuilds_modLanesBy (s : State) (c w : Nat) (f : Nat → Lane → Lane) : (s.modLanesBy c w f).rebuilds = s.rebuilds := rfl
@[simp] theorem waiting_modLanesBy (s : State) (c w : Nat) (f : Nat → Lane → Lane) : (s.modLanesBy c w f).waiting = s.waiting := rfl
@[simp] theorem vesper_modLanesBy (s : State) (c w : Nat) (f : Nat → Lane → Lane) : (s.modLanesBy c w f).vesper = s.vesper := rfl
@[simp] theorem notify_modLanesBy (s : State) (c w : Nat) (f : Nat → Lane → Lane) : (s.modLanesBy c w f).notify = s.notify := rfl
@[simp] theorem queues_modLanesBy (s : State) (c w : Nat) (f : Nat → Lane → Lane) : (s.modLanesBy c w f).queues = s.queues := rfl
@[simp] theorem launches_modLanesBy (s : State) (c w : Nat) (f : Nat → Lane → Lane) : (s.modLanesBy c w f).launches = s.launches := rfl
@[simp] theorem colls_modLanesBy (s : State) (c w : Nat) (f : Nat → Lane → Lane) : (s.modLanesBy c w f).colls = s.colls := rfl
@[simp] theorem groups_modLanesBy (s : State) (c w : Nat) (f : Nat → Lane → Lane) : (s.modLanesBy c w f).groups = s.groups := rfl
@[simp] theorem colseq_modLanesBy (s : State) (c w : Nat) (f : Nat → Lane → Lane) : (s.modLanesBy c w f).colseq = s.colseq := rfl
@[simp] theorem colfail_modLanesBy (s : State) (c w : Nat) (f : Nat → Lane → Lane) : (s.modLanesBy c w f).colfail = s.colfail := rfl
@[simp] theorem routes_modLanesBy (s : State) (c w : Nat) (f : Nat → Lane → Lane) : (s.modLanesBy c w f).routes = s.routes := rfl
@[simp] theorem ptrs_modLanesBy (s : State) (c w : Nat) (f : Nat → Lane → Lane) : (s.modLanesBy c w f).ptrs = s.ptrs := rfl
@[simp] theorem placed_modLanesBy (s : State) (c w : Nat) (f : Nat → Lane → Lane) : (s.modLanesBy c w f).placed = s.placed := rfl
@[simp] theorem saves_modLanesBy (s : State) (c w : Nat) (f : Nat → Lane → Lane) : (s.modLanesBy c w f).saves = s.saves := rfl
@[simp] theorem unsaved_modLanesBy (s : State) (c w : Nat) (f : Nat → Lane → Lane) : (s.modLanesBy c w f).unsaved = s.unsaved := rfl
@[simp] theorem pages_modLanesBy (s : State) (c w : Nat) (f : Nat → Lane → Lane) : (s.modLanesBy c w f).pages = s.pages := rfl
@[simp] theorem salts_modLanesBy (s : State) (c w : Nat) (f : Nat → Lane → Lane) : (s.modLanesBy c w f).salts = s.salts := rfl
@[simp] theorem spent_modLanesBy (s : State) (c w : Nat) (f : Nat → Lane → Lane) : (s.modLanesBy c w f).spent = s.spent := rfl
@[simp] theorem keyed_modLanesBy (s : State) (c w : Nat) (f : Nat → Lane → Lane) : (s.modLanesBy c w f).keyed = s.keyed := rfl
@[simp] theorem dead_modLanesBy (s : State) (c w : Nat) (f : Nat → Lane → Lane) : (s.modLanesBy c w f).dead = s.dead := rfl
@[simp] theorem hot_modLanesBy (s : State) (c w : Nat) (f : Nat → Lane → Lane) : (s.modLanesBy c w f).hot = s.hot := rfl
@[simp] theorem training_modLanesBy (s : State) (c w : Nat) (f : Nat → Lane → Lane) : (s.modLanesBy c w f).training = s.training := rfl

/-! ### modLanes -/
@[simp] theorem clock_modLanes (s : State) (c w : Nat) (ls : List Nat) (f : Lane → Lane) : (s.modLanes c w ls f).clock = s.clock := rfl
@[simp] theorem free_modLanes (s : State) (c w : Nat) (ls : List Nat) (f : Lane → Lane) : (s.modLanes c w ls f).free = s.free := rfl
@[simp] theorem nextId_modLanes (s : State) (c w : Nat) (ls : List Nat) (f : Lane → Lane) : (s.modLanes c w ls f).nextId = s.nextId := rfl
@[simp] theorem agenda_modLanes (s : State) (c w : Nat) (ls : List Nat) (f : Lane → Lane) : (s.modLanes c w ls f).agenda = s.agenda := rfl
@[simp] theorem args_modLanes (s : State) (c w : Nat) (ls : List Nat) (f : Lane → Lane) : (s.modLanes c w ls f).args = s.args := rfl
@[simp] theorem cur_modLanes (s : State) (c w : Nat) (ls : List Nat) (f : Lane → Lane) : (s.modLanes c w ls f).cur = s.cur := rfl
@[simp] theorem port_modLanes (s : State) (c w : Nat) (ls : List Nat) (f : Lane → Lane) : (s.modLanes c w ls f).port = s.port := rfl
@[simp] theorem mem_modLanes (s : State) (c w : Nat) (ls : List Nat) (f : Lane → Lane) : (s.modLanes c w ls f).mem = s.mem := rfl
@[simp] theorem poison_modLanes (s : State) (c w : Nat) (ls : List Nat) (f : Lane → Lane) : (s.modLanes c w ls f).poison = s.poison := rfl
@[simp] theorem l1_modLanes (s : State) (c w : Nat) (ls : List Nat) (f : Lane → Lane) : (s.modLanes c w ls f).l1 = s.l1 := rfl
@[simp] theorem tlb_modLanes (s : State) (c w : Nat) (ls : List Nat) (f : Lane → Lane) : (s.modLanes c w ls f).tlb = s.tlb := rfl
@[simp] theorem walkers_modLanes (s : State) (c w : Nat) (ls : List Nat) (f : Lane → Lane) : (s.modLanes c w ls f).walkers = s.walkers := rfl
@[simp] theorem recs_modLanes (s : State) (c w : Nat) (ls : List Nat) (f : Lane → Lane) : (s.modLanes c w ls f).recs = s.recs := rfl
@[simp] theorem cores_modLanes (s : State) (c w : Nat) (ls : List Nat) (f : Lane → Lane) : (s.modLanes c w ls f).cores = s.cores := rfl
@[simp] theorem ops_modLanes (s : State) (c w : Nat) (ls : List Nat) (f : Lane → Lane) : (s.modLanes c w ls f).ops = s.ops := rfl
@[simp] theorem hub_modLanes (s : State) (c w : Nat) (ls : List Nat) (f : Lane → Lane) : (s.modLanes c w ls f).hub = s.hub := rfl
@[simp] theorem interrupts_modLanes (s : State) (c w : Nat) (ls : List Nat) (f : Lane → Lane) : (s.modLanes c w ls f).interrupts = s.interrupts := rfl
@[simp] theorem egress_modLanes (s : State) (c w : Nat) (ls : List Nat) (f : Lane → Lane) : (s.modLanes c w ls f).egress = s.egress := rfl
@[simp] theorem lines_modLanes (s : State) (c w : Nat) (ls : List Nat) (f : Lane → Lane) : (s.modLanes c w ls f).lines = s.lines := rfl
@[simp] theorem leaving_modLanes (s : State) (c w : Nat) (ls : List Nat) (f : Lane → Lane) : (s.modLanes c w ls f).leaving = s.leaving := rfl
@[simp] theorem purged_modLanes (s : State) (c w : Nat) (ls : List Nat) (f : Lane → Lane) : (s.modLanes c w ls f).purged = s.purged := rfl
@[simp] theorem mdir_modLanes (s : State) (c w : Nat) (ls : List Nat) (f : Lane → Lane) : (s.modLanes c w ls f).mdir = s.mdir := rfl
@[simp] theorem seqs_modLanes (s : State) (c w : Nat) (ls : List Nat) (f : Lane → Lane) : (s.modLanes c w ls f).seqs = s.seqs := rfl
@[simp] theorem applied_modLanes (s : State) (c w : Nat) (ls : List Nat) (f : Lane → Lane) : (s.modLanes c w ls f).applied = s.applied := rfl
@[simp] theorem lost_modLanes (s : State) (c w : Nat) (ls : List Nat) (f : Lane → Lane) : (s.modLanes c w ls f).lost = s.lost := rfl
@[simp] theorem rebuilds_modLanes (s : State) (c w : Nat) (ls : List Nat) (f : Lane → Lane) : (s.modLanes c w ls f).rebuilds = s.rebuilds := rfl
@[simp] theorem waiting_modLanes (s : State) (c w : Nat) (ls : List Nat) (f : Lane → Lane) : (s.modLanes c w ls f).waiting = s.waiting := rfl
@[simp] theorem vesper_modLanes (s : State) (c w : Nat) (ls : List Nat) (f : Lane → Lane) : (s.modLanes c w ls f).vesper = s.vesper := rfl
@[simp] theorem notify_modLanes (s : State) (c w : Nat) (ls : List Nat) (f : Lane → Lane) : (s.modLanes c w ls f).notify = s.notify := rfl
@[simp] theorem queues_modLanes (s : State) (c w : Nat) (ls : List Nat) (f : Lane → Lane) : (s.modLanes c w ls f).queues = s.queues := rfl
@[simp] theorem launches_modLanes (s : State) (c w : Nat) (ls : List Nat) (f : Lane → Lane) : (s.modLanes c w ls f).launches = s.launches := rfl
@[simp] theorem colls_modLanes (s : State) (c w : Nat) (ls : List Nat) (f : Lane → Lane) : (s.modLanes c w ls f).colls = s.colls := rfl
@[simp] theorem groups_modLanes (s : State) (c w : Nat) (ls : List Nat) (f : Lane → Lane) : (s.modLanes c w ls f).groups = s.groups := rfl
@[simp] theorem colseq_modLanes (s : State) (c w : Nat) (ls : List Nat) (f : Lane → Lane) : (s.modLanes c w ls f).colseq = s.colseq := rfl
@[simp] theorem colfail_modLanes (s : State) (c w : Nat) (ls : List Nat) (f : Lane → Lane) : (s.modLanes c w ls f).colfail = s.colfail := rfl
@[simp] theorem routes_modLanes (s : State) (c w : Nat) (ls : List Nat) (f : Lane → Lane) : (s.modLanes c w ls f).routes = s.routes := rfl
@[simp] theorem ptrs_modLanes (s : State) (c w : Nat) (ls : List Nat) (f : Lane → Lane) : (s.modLanes c w ls f).ptrs = s.ptrs := rfl
@[simp] theorem placed_modLanes (s : State) (c w : Nat) (ls : List Nat) (f : Lane → Lane) : (s.modLanes c w ls f).placed = s.placed := rfl
@[simp] theorem saves_modLanes (s : State) (c w : Nat) (ls : List Nat) (f : Lane → Lane) : (s.modLanes c w ls f).saves = s.saves := rfl
@[simp] theorem unsaved_modLanes (s : State) (c w : Nat) (ls : List Nat) (f : Lane → Lane) : (s.modLanes c w ls f).unsaved = s.unsaved := rfl
@[simp] theorem pages_modLanes (s : State) (c w : Nat) (ls : List Nat) (f : Lane → Lane) : (s.modLanes c w ls f).pages = s.pages := rfl
@[simp] theorem salts_modLanes (s : State) (c w : Nat) (ls : List Nat) (f : Lane → Lane) : (s.modLanes c w ls f).salts = s.salts := rfl
@[simp] theorem spent_modLanes (s : State) (c w : Nat) (ls : List Nat) (f : Lane → Lane) : (s.modLanes c w ls f).spent = s.spent := rfl
@[simp] theorem keyed_modLanes (s : State) (c w : Nat) (ls : List Nat) (f : Lane → Lane) : (s.modLanes c w ls f).keyed = s.keyed := rfl
@[simp] theorem dead_modLanes (s : State) (c w : Nat) (ls : List Nat) (f : Lane → Lane) : (s.modLanes c w ls f).dead = s.dead := rfl
@[simp] theorem hot_modLanes (s : State) (c w : Nat) (ls : List Nat) (f : Lane → Lane) : (s.modLanes c w ls f).hot = s.hot := rfl
@[simp] theorem training_modLanes (s : State) (c w : Nat) (ls : List Nat) (f : Lane → Lane) : (s.modLanes c w ls f).training = s.training := rfl

/-! ### setReg -/
@[simp] theorem clock_setReg (s : State) (c w r l : Nat) (v : Word) : (s.setReg c w r l v).clock = s.clock := rfl
@[simp] theorem free_setReg (s : State) (c w r l : Nat) (v : Word) : (s.setReg c w r l v).free = s.free := rfl
@[simp] theorem nextId_setReg (s : State) (c w r l : Nat) (v : Word) : (s.setReg c w r l v).nextId = s.nextId := rfl
@[simp] theorem agenda_setReg (s : State) (c w r l : Nat) (v : Word) : (s.setReg c w r l v).agenda = s.agenda := rfl
@[simp] theorem args_setReg (s : State) (c w r l : Nat) (v : Word) : (s.setReg c w r l v).args = s.args := rfl
@[simp] theorem cur_setReg (s : State) (c w r l : Nat) (v : Word) : (s.setReg c w r l v).cur = s.cur := rfl
@[simp] theorem port_setReg (s : State) (c w r l : Nat) (v : Word) : (s.setReg c w r l v).port = s.port := rfl
@[simp] theorem mem_setReg (s : State) (c w r l : Nat) (v : Word) : (s.setReg c w r l v).mem = s.mem := rfl
@[simp] theorem poison_setReg (s : State) (c w r l : Nat) (v : Word) : (s.setReg c w r l v).poison = s.poison := rfl
@[simp] theorem l1_setReg (s : State) (c w r l : Nat) (v : Word) : (s.setReg c w r l v).l1 = s.l1 := rfl
@[simp] theorem tlb_setReg (s : State) (c w r l : Nat) (v : Word) : (s.setReg c w r l v).tlb = s.tlb := rfl
@[simp] theorem walkers_setReg (s : State) (c w r l : Nat) (v : Word) : (s.setReg c w r l v).walkers = s.walkers := rfl
@[simp] theorem recs_setReg (s : State) (c w r l : Nat) (v : Word) : (s.setReg c w r l v).recs = s.recs := rfl
@[simp] theorem cores_setReg (s : State) (c w r l : Nat) (v : Word) : (s.setReg c w r l v).cores = s.cores := rfl
@[simp] theorem ops_setReg (s : State) (c w r l : Nat) (v : Word) : (s.setReg c w r l v).ops = s.ops := rfl
@[simp] theorem hub_setReg (s : State) (c w r l : Nat) (v : Word) : (s.setReg c w r l v).hub = s.hub := rfl
@[simp] theorem interrupts_setReg (s : State) (c w r l : Nat) (v : Word) : (s.setReg c w r l v).interrupts = s.interrupts := rfl
@[simp] theorem egress_setReg (s : State) (c w r l : Nat) (v : Word) : (s.setReg c w r l v).egress = s.egress := rfl
@[simp] theorem lines_setReg (s : State) (c w r l : Nat) (v : Word) : (s.setReg c w r l v).lines = s.lines := rfl
@[simp] theorem leaving_setReg (s : State) (c w r l : Nat) (v : Word) : (s.setReg c w r l v).leaving = s.leaving := rfl
@[simp] theorem purged_setReg (s : State) (c w r l : Nat) (v : Word) : (s.setReg c w r l v).purged = s.purged := rfl
@[simp] theorem mdir_setReg (s : State) (c w r l : Nat) (v : Word) : (s.setReg c w r l v).mdir = s.mdir := rfl
@[simp] theorem seqs_setReg (s : State) (c w r l : Nat) (v : Word) : (s.setReg c w r l v).seqs = s.seqs := rfl
@[simp] theorem applied_setReg (s : State) (c w r l : Nat) (v : Word) : (s.setReg c w r l v).applied = s.applied := rfl
@[simp] theorem lost_setReg (s : State) (c w r l : Nat) (v : Word) : (s.setReg c w r l v).lost = s.lost := rfl
@[simp] theorem rebuilds_setReg (s : State) (c w r l : Nat) (v : Word) : (s.setReg c w r l v).rebuilds = s.rebuilds := rfl
@[simp] theorem waiting_setReg (s : State) (c w r l : Nat) (v : Word) : (s.setReg c w r l v).waiting = s.waiting := rfl
@[simp] theorem vesper_setReg (s : State) (c w r l : Nat) (v : Word) : (s.setReg c w r l v).vesper = s.vesper := rfl
@[simp] theorem notify_setReg (s : State) (c w r l : Nat) (v : Word) : (s.setReg c w r l v).notify = s.notify := rfl
@[simp] theorem queues_setReg (s : State) (c w r l : Nat) (v : Word) : (s.setReg c w r l v).queues = s.queues := rfl
@[simp] theorem launches_setReg (s : State) (c w r l : Nat) (v : Word) : (s.setReg c w r l v).launches = s.launches := rfl
@[simp] theorem colls_setReg (s : State) (c w r l : Nat) (v : Word) : (s.setReg c w r l v).colls = s.colls := rfl
@[simp] theorem groups_setReg (s : State) (c w r l : Nat) (v : Word) : (s.setReg c w r l v).groups = s.groups := rfl
@[simp] theorem colseq_setReg (s : State) (c w r l : Nat) (v : Word) : (s.setReg c w r l v).colseq = s.colseq := rfl
@[simp] theorem colfail_setReg (s : State) (c w r l : Nat) (v : Word) : (s.setReg c w r l v).colfail = s.colfail := rfl
@[simp] theorem routes_setReg (s : State) (c w r l : Nat) (v : Word) : (s.setReg c w r l v).routes = s.routes := rfl
@[simp] theorem ptrs_setReg (s : State) (c w r l : Nat) (v : Word) : (s.setReg c w r l v).ptrs = s.ptrs := rfl
@[simp] theorem placed_setReg (s : State) (c w r l : Nat) (v : Word) : (s.setReg c w r l v).placed = s.placed := rfl
@[simp] theorem saves_setReg (s : State) (c w r l : Nat) (v : Word) : (s.setReg c w r l v).saves = s.saves := rfl
@[simp] theorem unsaved_setReg (s : State) (c w r l : Nat) (v : Word) : (s.setReg c w r l v).unsaved = s.unsaved := rfl
@[simp] theorem pages_setReg (s : State) (c w r l : Nat) (v : Word) : (s.setReg c w r l v).pages = s.pages := rfl
@[simp] theorem salts_setReg (s : State) (c w r l : Nat) (v : Word) : (s.setReg c w r l v).salts = s.salts := rfl
@[simp] theorem spent_setReg (s : State) (c w r l : Nat) (v : Word) : (s.setReg c w r l v).spent = s.spent := rfl
@[simp] theorem keyed_setReg (s : State) (c w r l : Nat) (v : Word) : (s.setReg c w r l v).keyed = s.keyed := rfl
@[simp] theorem dead_setReg (s : State) (c w r l : Nat) (v : Word) : (s.setReg c w r l v).dead = s.dead := rfl
@[simp] theorem hot_setReg (s : State) (c w r l : Nat) (v : Word) : (s.setReg c w r l v).hot = s.hot := rfl
@[simp] theorem training_setReg (s : State) (c w r l : Nat) (v : Word) : (s.setReg c w r l v).training = s.training := rfl

/-! ### setCore -/
@[simp] theorem clock_setCore (s : State) (k : Nat) (x : Core) : (s.setCore k x).clock = s.clock := rfl
@[simp] theorem free_setCore (s : State) (k : Nat) (x : Core) : (s.setCore k x).free = s.free := rfl
@[simp] theorem nextId_setCore (s : State) (k : Nat) (x : Core) : (s.setCore k x).nextId = s.nextId := rfl
@[simp] theorem agenda_setCore (s : State) (k : Nat) (x : Core) : (s.setCore k x).agenda = s.agenda := rfl
@[simp] theorem args_setCore (s : State) (k : Nat) (x : Core) : (s.setCore k x).args = s.args := rfl
@[simp] theorem cur_setCore (s : State) (k : Nat) (x : Core) : (s.setCore k x).cur = s.cur := rfl
@[simp] theorem port_setCore (s : State) (k : Nat) (x : Core) : (s.setCore k x).port = s.port := rfl
@[simp] theorem mem_setCore (s : State) (k : Nat) (x : Core) : (s.setCore k x).mem = s.mem := rfl
@[simp] theorem poison_setCore (s : State) (k : Nat) (x : Core) : (s.setCore k x).poison = s.poison := rfl
@[simp] theorem l1_setCore (s : State) (k : Nat) (x : Core) : (s.setCore k x).l1 = s.l1 := rfl
@[simp] theorem tlb_setCore (s : State) (k : Nat) (x : Core) : (s.setCore k x).tlb = s.tlb := rfl
@[simp] theorem walkers_setCore (s : State) (k : Nat) (x : Core) : (s.setCore k x).walkers = s.walkers := rfl
@[simp] theorem recs_setCore (s : State) (k : Nat) (x : Core) : (s.setCore k x).recs = s.recs := rfl
@[simp] theorem ctxs_setCore (s : State) (k : Nat) (x : Core) : (s.setCore k x).ctxs = s.ctxs := rfl
@[simp] theorem ops_setCore (s : State) (k : Nat) (x : Core) : (s.setCore k x).ops = s.ops := rfl
@[simp] theorem hub_setCore (s : State) (k : Nat) (x : Core) : (s.setCore k x).hub = s.hub := rfl
@[simp] theorem interrupts_setCore (s : State) (k : Nat) (x : Core) : (s.setCore k x).interrupts = s.interrupts := rfl
@[simp] theorem egress_setCore (s : State) (k : Nat) (x : Core) : (s.setCore k x).egress = s.egress := rfl
@[simp] theorem lines_setCore (s : State) (k : Nat) (x : Core) : (s.setCore k x).lines = s.lines := rfl
@[simp] theorem leaving_setCore (s : State) (k : Nat) (x : Core) : (s.setCore k x).leaving = s.leaving := rfl
@[simp] theorem purged_setCore (s : State) (k : Nat) (x : Core) : (s.setCore k x).purged = s.purged := rfl
@[simp] theorem mdir_setCore (s : State) (k : Nat) (x : Core) : (s.setCore k x).mdir = s.mdir := rfl
@[simp] theorem seqs_setCore (s : State) (k : Nat) (x : Core) : (s.setCore k x).seqs = s.seqs := rfl
@[simp] theorem applied_setCore (s : State) (k : Nat) (x : Core) : (s.setCore k x).applied = s.applied := rfl
@[simp] theorem lost_setCore (s : State) (k : Nat) (x : Core) : (s.setCore k x).lost = s.lost := rfl
@[simp] theorem rebuilds_setCore (s : State) (k : Nat) (x : Core) : (s.setCore k x).rebuilds = s.rebuilds := rfl
@[simp] theorem waiting_setCore (s : State) (k : Nat) (x : Core) : (s.setCore k x).waiting = s.waiting := rfl
@[simp] theorem vesper_setCore (s : State) (k : Nat) (x : Core) : (s.setCore k x).vesper = s.vesper := rfl
@[simp] theorem notify_setCore (s : State) (k : Nat) (x : Core) : (s.setCore k x).notify = s.notify := rfl
@[simp] theorem queues_setCore (s : State) (k : Nat) (x : Core) : (s.setCore k x).queues = s.queues := rfl
@[simp] theorem launches_setCore (s : State) (k : Nat) (x : Core) : (s.setCore k x).launches = s.launches := rfl
@[simp] theorem colls_setCore (s : State) (k : Nat) (x : Core) : (s.setCore k x).colls = s.colls := rfl
@[simp] theorem groups_setCore (s : State) (k : Nat) (x : Core) : (s.setCore k x).groups = s.groups := rfl
@[simp] theorem colseq_setCore (s : State) (k : Nat) (x : Core) : (s.setCore k x).colseq = s.colseq := rfl
@[simp] theorem colfail_setCore (s : State) (k : Nat) (x : Core) : (s.setCore k x).colfail = s.colfail := rfl
@[simp] theorem routes_setCore (s : State) (k : Nat) (x : Core) : (s.setCore k x).routes = s.routes := rfl
@[simp] theorem ptrs_setCore (s : State) (k : Nat) (x : Core) : (s.setCore k x).ptrs = s.ptrs := rfl
@[simp] theorem placed_setCore (s : State) (k : Nat) (x : Core) : (s.setCore k x).placed = s.placed := rfl
@[simp] theorem saves_setCore (s : State) (k : Nat) (x : Core) : (s.setCore k x).saves = s.saves := rfl
@[simp] theorem unsaved_setCore (s : State) (k : Nat) (x : Core) : (s.setCore k x).unsaved = s.unsaved := rfl
@[simp] theorem pages_setCore (s : State) (k : Nat) (x : Core) : (s.setCore k x).pages = s.pages := rfl
@[simp] theorem salts_setCore (s : State) (k : Nat) (x : Core) : (s.setCore k x).salts = s.salts := rfl
@[simp] theorem spent_setCore (s : State) (k : Nat) (x : Core) : (s.setCore k x).spent = s.spent := rfl
@[simp] theorem keyed_setCore (s : State) (k : Nat) (x : Core) : (s.setCore k x).keyed = s.keyed := rfl
@[simp] theorem dead_setCore (s : State) (k : Nat) (x : Core) : (s.setCore k x).dead = s.dead := rfl
@[simp] theorem hot_setCore (s : State) (k : Nat) (x : Core) : (s.setCore k x).hot = s.hot := rfl
@[simp] theorem training_setCore (s : State) (k : Nat) (x : Core) : (s.setCore k x).training = s.training := rfl

/-! ### hubSet -/
@[simp] theorem clock_hubSet (s : State) (n sel v : Nat) : (s.hubSet n sel v).clock = s.clock := rfl
@[simp] theorem free_hubSet (s : State) (n sel v : Nat) : (s.hubSet n sel v).free = s.free := rfl
@[simp] theorem nextId_hubSet (s : State) (n sel v : Nat) : (s.hubSet n sel v).nextId = s.nextId := rfl
@[simp] theorem agenda_hubSet (s : State) (n sel v : Nat) : (s.hubSet n sel v).agenda = s.agenda := rfl
@[simp] theorem args_hubSet (s : State) (n sel v : Nat) : (s.hubSet n sel v).args = s.args := rfl
@[simp] theorem cur_hubSet (s : State) (n sel v : Nat) : (s.hubSet n sel v).cur = s.cur := rfl
@[simp] theorem port_hubSet (s : State) (n sel v : Nat) : (s.hubSet n sel v).port = s.port := rfl
@[simp] theorem mem_hubSet (s : State) (n sel v : Nat) : (s.hubSet n sel v).mem = s.mem := rfl
@[simp] theorem poison_hubSet (s : State) (n sel v : Nat) : (s.hubSet n sel v).poison = s.poison := rfl
@[simp] theorem l1_hubSet (s : State) (n sel v : Nat) : (s.hubSet n sel v).l1 = s.l1 := rfl
@[simp] theorem tlb_hubSet (s : State) (n sel v : Nat) : (s.hubSet n sel v).tlb = s.tlb := rfl
@[simp] theorem walkers_hubSet (s : State) (n sel v : Nat) : (s.hubSet n sel v).walkers = s.walkers := rfl
@[simp] theorem recs_hubSet (s : State) (n sel v : Nat) : (s.hubSet n sel v).recs = s.recs := rfl
@[simp] theorem cores_hubSet (s : State) (n sel v : Nat) : (s.hubSet n sel v).cores = s.cores := rfl
@[simp] theorem ctxs_hubSet (s : State) (n sel v : Nat) : (s.hubSet n sel v).ctxs = s.ctxs := rfl
@[simp] theorem ops_hubSet (s : State) (n sel v : Nat) : (s.hubSet n sel v).ops = s.ops := rfl
@[simp] theorem interrupts_hubSet (s : State) (n sel v : Nat) : (s.hubSet n sel v).interrupts = s.interrupts := rfl
@[simp] theorem egress_hubSet (s : State) (n sel v : Nat) : (s.hubSet n sel v).egress = s.egress := rfl
@[simp] theorem lines_hubSet (s : State) (n sel v : Nat) : (s.hubSet n sel v).lines = s.lines := rfl
@[simp] theorem leaving_hubSet (s : State) (n sel v : Nat) : (s.hubSet n sel v).leaving = s.leaving := rfl
@[simp] theorem purged_hubSet (s : State) (n sel v : Nat) : (s.hubSet n sel v).purged = s.purged := rfl
@[simp] theorem mdir_hubSet (s : State) (n sel v : Nat) : (s.hubSet n sel v).mdir = s.mdir := rfl
@[simp] theorem seqs_hubSet (s : State) (n sel v : Nat) : (s.hubSet n sel v).seqs = s.seqs := rfl
@[simp] theorem applied_hubSet (s : State) (n sel v : Nat) : (s.hubSet n sel v).applied = s.applied := rfl
@[simp] theorem lost_hubSet (s : State) (n sel v : Nat) : (s.hubSet n sel v).lost = s.lost := rfl
@[simp] theorem rebuilds_hubSet (s : State) (n sel v : Nat) : (s.hubSet n sel v).rebuilds = s.rebuilds := rfl
@[simp] theorem waiting_hubSet (s : State) (n sel v : Nat) : (s.hubSet n sel v).waiting = s.waiting := rfl
@[simp] theorem vesper_hubSet (s : State) (n sel v : Nat) : (s.hubSet n sel v).vesper = s.vesper := rfl
@[simp] theorem notify_hubSet (s : State) (n sel v : Nat) : (s.hubSet n sel v).notify = s.notify := rfl
@[simp] theorem queues_hubSet (s : State) (n sel v : Nat) : (s.hubSet n sel v).queues = s.queues := rfl
@[simp] theorem launches_hubSet (s : State) (n sel v : Nat) : (s.hubSet n sel v).launches = s.launches := rfl
@[simp] theorem colls_hubSet (s : State) (n sel v : Nat) : (s.hubSet n sel v).colls = s.colls := rfl
@[simp] theorem groups_hubSet (s : State) (n sel v : Nat) : (s.hubSet n sel v).groups = s.groups := rfl
@[simp] theorem colseq_hubSet (s : State) (n sel v : Nat) : (s.hubSet n sel v).colseq = s.colseq := rfl
@[simp] theorem colfail_hubSet (s : State) (n sel v : Nat) : (s.hubSet n sel v).colfail = s.colfail := rfl
@[simp] theorem routes_hubSet (s : State) (n sel v : Nat) : (s.hubSet n sel v).routes = s.routes := rfl
@[simp] theorem ptrs_hubSet (s : State) (n sel v : Nat) : (s.hubSet n sel v).ptrs = s.ptrs := rfl
@[simp] theorem placed_hubSet (s : State) (n sel v : Nat) : (s.hubSet n sel v).placed = s.placed := rfl
@[simp] theorem saves_hubSet (s : State) (n sel v : Nat) : (s.hubSet n sel v).saves = s.saves := rfl
@[simp] theorem unsaved_hubSet (s : State) (n sel v : Nat) : (s.hubSet n sel v).unsaved = s.unsaved := rfl
@[simp] theorem pages_hubSet (s : State) (n sel v : Nat) : (s.hubSet n sel v).pages = s.pages := rfl
@[simp] theorem salts_hubSet (s : State) (n sel v : Nat) : (s.hubSet n sel v).salts = s.salts := rfl
@[simp] theorem spent_hubSet (s : State) (n sel v : Nat) : (s.hubSet n sel v).spent = s.spent := rfl
@[simp] theorem keyed_hubSet (s : State) (n sel v : Nat) : (s.hubSet n sel v).keyed = s.keyed := rfl
@[simp] theorem dead_hubSet (s : State) (n sel v : Nat) : (s.hubSet n sel v).dead = s.dead := rfl
@[simp] theorem hot_hubSet (s : State) (n sel v : Nat) : (s.hubSet n sel v).hot = s.hot := rfl
@[simp] theorem training_hubSet (s : State) (n sel v : Nat) : (s.hubSet n sel v).training = s.training := rfl

/-! ### post -/
@[simp] theorem clock_post (s : State) (e : Instr) (as : List Nat) : (s.post e as).clock = s.clock := rfl
@[simp] theorem free_post (s : State) (e : Instr) (as : List Nat) : (s.post e as).free = s.free := rfl
@[simp] theorem nextId_post (s : State) (e : Instr) (as : List Nat) : (s.post e as).nextId = s.nextId := rfl
@[simp] theorem args_post (s : State) (e : Instr) (as : List Nat) : (s.post e as).args = s.args := rfl
@[simp] theorem cur_post (s : State) (e : Instr) (as : List Nat) : (s.post e as).cur = s.cur := rfl
@[simp] theorem port_post (s : State) (e : Instr) (as : List Nat) : (s.post e as).port = s.port := rfl
@[simp] theorem mem_post (s : State) (e : Instr) (as : List Nat) : (s.post e as).mem = s.mem := rfl
@[simp] theorem poison_post (s : State) (e : Instr) (as : List Nat) : (s.post e as).poison = s.poison := rfl
@[simp] theorem l1_post (s : State) (e : Instr) (as : List Nat) : (s.post e as).l1 = s.l1 := rfl
@[simp] theorem tlb_post (s : State) (e : Instr) (as : List Nat) : (s.post e as).tlb = s.tlb := rfl
@[simp] theorem walkers_post (s : State) (e : Instr) (as : List Nat) : (s.post e as).walkers = s.walkers := rfl
@[simp] theorem recs_post (s : State) (e : Instr) (as : List Nat) : (s.post e as).recs = s.recs := rfl
@[simp] theorem cores_post (s : State) (e : Instr) (as : List Nat) : (s.post e as).cores = s.cores := rfl
@[simp] theorem ctxs_post (s : State) (e : Instr) (as : List Nat) : (s.post e as).ctxs = s.ctxs := rfl
@[simp] theorem ops_post (s : State) (e : Instr) (as : List Nat) : (s.post e as).ops = s.ops := rfl
@[simp] theorem hub_post (s : State) (e : Instr) (as : List Nat) : (s.post e as).hub = s.hub := rfl
@[simp] theorem interrupts_post (s : State) (e : Instr) (as : List Nat) : (s.post e as).interrupts = s.interrupts := rfl
@[simp] theorem egress_post (s : State) (e : Instr) (as : List Nat) : (s.post e as).egress = s.egress := rfl
@[simp] theorem lines_post (s : State) (e : Instr) (as : List Nat) : (s.post e as).lines = s.lines := rfl
@[simp] theorem leaving_post (s : State) (e : Instr) (as : List Nat) : (s.post e as).leaving = s.leaving := rfl
@[simp] theorem purged_post (s : State) (e : Instr) (as : List Nat) : (s.post e as).purged = s.purged := rfl
@[simp] theorem mdir_post (s : State) (e : Instr) (as : List Nat) : (s.post e as).mdir = s.mdir := rfl
@[simp] theorem seqs_post (s : State) (e : Instr) (as : List Nat) : (s.post e as).seqs = s.seqs := rfl
@[simp] theorem applied_post (s : State) (e : Instr) (as : List Nat) : (s.post e as).applied = s.applied := rfl
@[simp] theorem lost_post (s : State) (e : Instr) (as : List Nat) : (s.post e as).lost = s.lost := rfl
@[simp] theorem rebuilds_post (s : State) (e : Instr) (as : List Nat) : (s.post e as).rebuilds = s.rebuilds := rfl
@[simp] theorem waiting_post (s : State) (e : Instr) (as : List Nat) : (s.post e as).waiting = s.waiting := rfl
@[simp] theorem vesper_post (s : State) (e : Instr) (as : List Nat) : (s.post e as).vesper = s.vesper := rfl
@[simp] theorem notify_post (s : State) (e : Instr) (as : List Nat) : (s.post e as).notify = s.notify := rfl
@[simp] theorem queues_post (s : State) (e : Instr) (as : List Nat) : (s.post e as).queues = s.queues := rfl
@[simp] theorem launches_post (s : State) (e : Instr) (as : List Nat) : (s.post e as).launches = s.launches := rfl
@[simp] theorem colls_post (s : State) (e : Instr) (as : List Nat) : (s.post e as).colls = s.colls := rfl
@[simp] theorem groups_post (s : State) (e : Instr) (as : List Nat) : (s.post e as).groups = s.groups := rfl
@[simp] theorem colseq_post (s : State) (e : Instr) (as : List Nat) : (s.post e as).colseq = s.colseq := rfl
@[simp] theorem colfail_post (s : State) (e : Instr) (as : List Nat) : (s.post e as).colfail = s.colfail := rfl
@[simp] theorem routes_post (s : State) (e : Instr) (as : List Nat) : (s.post e as).routes = s.routes := rfl
@[simp] theorem ptrs_post (s : State) (e : Instr) (as : List Nat) : (s.post e as).ptrs = s.ptrs := rfl
@[simp] theorem placed_post (s : State) (e : Instr) (as : List Nat) : (s.post e as).placed = s.placed := rfl
@[simp] theorem saves_post (s : State) (e : Instr) (as : List Nat) : (s.post e as).saves = s.saves := rfl
@[simp] theorem unsaved_post (s : State) (e : Instr) (as : List Nat) : (s.post e as).unsaved = s.unsaved := rfl
@[simp] theorem pages_post (s : State) (e : Instr) (as : List Nat) : (s.post e as).pages = s.pages := rfl
@[simp] theorem salts_post (s : State) (e : Instr) (as : List Nat) : (s.post e as).salts = s.salts := rfl
@[simp] theorem spent_post (s : State) (e : Instr) (as : List Nat) : (s.post e as).spent = s.spent := rfl
@[simp] theorem keyed_post (s : State) (e : Instr) (as : List Nat) : (s.post e as).keyed = s.keyed := rfl
@[simp] theorem dead_post (s : State) (e : Instr) (as : List Nat) : (s.post e as).dead = s.dead := rfl
@[simp] theorem hot_post (s : State) (e : Instr) (as : List Nat) : (s.post e as).hot = s.hot := rfl
@[simp] theorem training_post (s : State) (e : Instr) (as : List Nat) : (s.post e as).training = s.training := rfl

/-! ### addOp -/
@[simp] theorem clock_addOp (s : State) (o : Op) : (s.addOp o).clock = s.clock := rfl
@[simp] theorem free_addOp (s : State) (o : Op) : (s.addOp o).free = s.free := rfl
@[simp] theorem agenda_addOp (s : State) (o : Op) : (s.addOp o).agenda = s.agenda := rfl
@[simp] theorem args_addOp (s : State) (o : Op) : (s.addOp o).args = s.args := rfl
@[simp] theorem cur_addOp (s : State) (o : Op) : (s.addOp o).cur = s.cur := rfl
@[simp] theorem port_addOp (s : State) (o : Op) : (s.addOp o).port = s.port := rfl
@[simp] theorem mem_addOp (s : State) (o : Op) : (s.addOp o).mem = s.mem := rfl
@[simp] theorem poison_addOp (s : State) (o : Op) : (s.addOp o).poison = s.poison := rfl
@[simp] theorem l1_addOp (s : State) (o : Op) : (s.addOp o).l1 = s.l1 := rfl
@[simp] theorem tlb_addOp (s : State) (o : Op) : (s.addOp o).tlb = s.tlb := rfl
@[simp] theorem walkers_addOp (s : State) (o : Op) : (s.addOp o).walkers = s.walkers := rfl
@[simp] theorem recs_addOp (s : State) (o : Op) : (s.addOp o).recs = s.recs := rfl
@[simp] theorem cores_addOp (s : State) (o : Op) : (s.addOp o).cores = s.cores := rfl
@[simp] theorem ctxs_addOp (s : State) (o : Op) : (s.addOp o).ctxs = s.ctxs := rfl
@[simp] theorem hub_addOp (s : State) (o : Op) : (s.addOp o).hub = s.hub := rfl
@[simp] theorem interrupts_addOp (s : State) (o : Op) : (s.addOp o).interrupts = s.interrupts := rfl
@[simp] theorem egress_addOp (s : State) (o : Op) : (s.addOp o).egress = s.egress := rfl
@[simp] theorem lines_addOp (s : State) (o : Op) : (s.addOp o).lines = s.lines := rfl
@[simp] theorem leaving_addOp (s : State) (o : Op) : (s.addOp o).leaving = s.leaving := rfl
@[simp] theorem purged_addOp (s : State) (o : Op) : (s.addOp o).purged = s.purged := rfl
@[simp] theorem mdir_addOp (s : State) (o : Op) : (s.addOp o).mdir = s.mdir := rfl
@[simp] theorem seqs_addOp (s : State) (o : Op) : (s.addOp o).seqs = s.seqs := rfl
@[simp] theorem applied_addOp (s : State) (o : Op) : (s.addOp o).applied = s.applied := rfl
@[simp] theorem lost_addOp (s : State) (o : Op) : (s.addOp o).lost = s.lost := rfl
@[simp] theorem rebuilds_addOp (s : State) (o : Op) : (s.addOp o).rebuilds = s.rebuilds := rfl
@[simp] theorem waiting_addOp (s : State) (o : Op) : (s.addOp o).waiting = s.waiting := rfl
@[simp] theorem vesper_addOp (s : State) (o : Op) : (s.addOp o).vesper = s.vesper := rfl
@[simp] theorem notify_addOp (s : State) (o : Op) : (s.addOp o).notify = s.notify := rfl
@[simp] theorem queues_addOp (s : State) (o : Op) : (s.addOp o).queues = s.queues := rfl
@[simp] theorem launches_addOp (s : State) (o : Op) : (s.addOp o).launches = s.launches := rfl
@[simp] theorem colls_addOp (s : State) (o : Op) : (s.addOp o).colls = s.colls := rfl
@[simp] theorem groups_addOp (s : State) (o : Op) : (s.addOp o).groups = s.groups := rfl
@[simp] theorem colseq_addOp (s : State) (o : Op) : (s.addOp o).colseq = s.colseq := rfl
@[simp] theorem colfail_addOp (s : State) (o : Op) : (s.addOp o).colfail = s.colfail := rfl
@[simp] theorem routes_addOp (s : State) (o : Op) : (s.addOp o).routes = s.routes := rfl
@[simp] theorem ptrs_addOp (s : State) (o : Op) : (s.addOp o).ptrs = s.ptrs := rfl
@[simp] theorem placed_addOp (s : State) (o : Op) : (s.addOp o).placed = s.placed := rfl
@[simp] theorem saves_addOp (s : State) (o : Op) : (s.addOp o).saves = s.saves := rfl
@[simp] theorem unsaved_addOp (s : State) (o : Op) : (s.addOp o).unsaved = s.unsaved := rfl
@[simp] theorem pages_addOp (s : State) (o : Op) : (s.addOp o).pages = s.pages := rfl
@[simp] theorem salts_addOp (s : State) (o : Op) : (s.addOp o).salts = s.salts := rfl
@[simp] theorem spent_addOp (s : State) (o : Op) : (s.addOp o).spent = s.spent := rfl
@[simp] theorem keyed_addOp (s : State) (o : Op) : (s.addOp o).keyed = s.keyed := rfl
@[simp] theorem dead_addOp (s : State) (o : Op) : (s.addOp o).dead = s.dead := rfl
@[simp] theorem hot_addOp (s : State) (o : Op) : (s.addOp o).hot = s.hot := rfl
@[simp] theorem training_addOp (s : State) (o : Op) : (s.addOp o).training = s.training := rfl

/-! ### dropL1 -/
@[simp] theorem clock_dropL1 (s : State) (k : Nat) : (s.dropL1 k).clock = s.clock := rfl
@[simp] theorem free_dropL1 (s : State) (k : Nat) : (s.dropL1 k).free = s.free := rfl
@[simp] theorem nextId_dropL1 (s : State) (k : Nat) : (s.dropL1 k).nextId = s.nextId := rfl
@[simp] theorem agenda_dropL1 (s : State) (k : Nat) : (s.dropL1 k).agenda = s.agenda := rfl
@[simp] theorem args_dropL1 (s : State) (k : Nat) : (s.dropL1 k).args = s.args := rfl
@[simp] theorem cur_dropL1 (s : State) (k : Nat) : (s.dropL1 k).cur = s.cur := rfl
@[simp] theorem port_dropL1 (s : State) (k : Nat) : (s.dropL1 k).port = s.port := rfl
@[simp] theorem mem_dropL1 (s : State) (k : Nat) : (s.dropL1 k).mem = s.mem := rfl
@[simp] theorem poison_dropL1 (s : State) (k : Nat) : (s.dropL1 k).poison = s.poison := rfl
@[simp] theorem tlb_dropL1 (s : State) (k : Nat) : (s.dropL1 k).tlb = s.tlb := rfl
@[simp] theorem walkers_dropL1 (s : State) (k : Nat) : (s.dropL1 k).walkers = s.walkers := rfl
@[simp] theorem recs_dropL1 (s : State) (k : Nat) : (s.dropL1 k).recs = s.recs := rfl
@[simp] theorem cores_dropL1 (s : State) (k : Nat) : (s.dropL1 k).cores = s.cores := rfl
@[simp] theorem ctxs_dropL1 (s : State) (k : Nat) : (s.dropL1 k).ctxs = s.ctxs := rfl
@[simp] theorem ops_dropL1 (s : State) (k : Nat) : (s.dropL1 k).ops = s.ops := rfl
@[simp] theorem hub_dropL1 (s : State) (k : Nat) : (s.dropL1 k).hub = s.hub := rfl
@[simp] theorem interrupts_dropL1 (s : State) (k : Nat) : (s.dropL1 k).interrupts = s.interrupts := rfl
@[simp] theorem egress_dropL1 (s : State) (k : Nat) : (s.dropL1 k).egress = s.egress := rfl
@[simp] theorem lines_dropL1 (s : State) (k : Nat) : (s.dropL1 k).lines = s.lines := rfl
@[simp] theorem leaving_dropL1 (s : State) (k : Nat) : (s.dropL1 k).leaving = s.leaving := rfl
@[simp] theorem purged_dropL1 (s : State) (k : Nat) : (s.dropL1 k).purged = s.purged := rfl
@[simp] theorem mdir_dropL1 (s : State) (k : Nat) : (s.dropL1 k).mdir = s.mdir := rfl
@[simp] theorem seqs_dropL1 (s : State) (k : Nat) : (s.dropL1 k).seqs = s.seqs := rfl
@[simp] theorem applied_dropL1 (s : State) (k : Nat) : (s.dropL1 k).applied = s.applied := rfl
@[simp] theorem lost_dropL1 (s : State) (k : Nat) : (s.dropL1 k).lost = s.lost := rfl
@[simp] theorem rebuilds_dropL1 (s : State) (k : Nat) : (s.dropL1 k).rebuilds = s.rebuilds := rfl
@[simp] theorem waiting_dropL1 (s : State) (k : Nat) : (s.dropL1 k).waiting = s.waiting := rfl
@[simp] theorem vesper_dropL1 (s : State) (k : Nat) : (s.dropL1 k).vesper = s.vesper := rfl
@[simp] theorem notify_dropL1 (s : State) (k : Nat) : (s.dropL1 k).notify = s.notify := rfl
@[simp] theorem queues_dropL1 (s : State) (k : Nat) : (s.dropL1 k).queues = s.queues := rfl
@[simp] theorem launches_dropL1 (s : State) (k : Nat) : (s.dropL1 k).launches = s.launches := rfl
@[simp] theorem colls_dropL1 (s : State) (k : Nat) : (s.dropL1 k).colls = s.colls := rfl
@[simp] theorem groups_dropL1 (s : State) (k : Nat) : (s.dropL1 k).groups = s.groups := rfl
@[simp] theorem colseq_dropL1 (s : State) (k : Nat) : (s.dropL1 k).colseq = s.colseq := rfl
@[simp] theorem colfail_dropL1 (s : State) (k : Nat) : (s.dropL1 k).colfail = s.colfail := rfl
@[simp] theorem routes_dropL1 (s : State) (k : Nat) : (s.dropL1 k).routes = s.routes := rfl
@[simp] theorem ptrs_dropL1 (s : State) (k : Nat) : (s.dropL1 k).ptrs = s.ptrs := rfl
@[simp] theorem placed_dropL1 (s : State) (k : Nat) : (s.dropL1 k).placed = s.placed := rfl
@[simp] theorem saves_dropL1 (s : State) (k : Nat) : (s.dropL1 k).saves = s.saves := rfl
@[simp] theorem unsaved_dropL1 (s : State) (k : Nat) : (s.dropL1 k).unsaved = s.unsaved := rfl
@[simp] theorem pages_dropL1 (s : State) (k : Nat) : (s.dropL1 k).pages = s.pages := rfl
@[simp] theorem salts_dropL1 (s : State) (k : Nat) : (s.dropL1 k).salts = s.salts := rfl
@[simp] theorem spent_dropL1 (s : State) (k : Nat) : (s.dropL1 k).spent = s.spent := rfl
@[simp] theorem keyed_dropL1 (s : State) (k : Nat) : (s.dropL1 k).keyed = s.keyed := rfl
@[simp] theorem dead_dropL1 (s : State) (k : Nat) : (s.dropL1 k).dead = s.dead := rfl
@[simp] theorem hot_dropL1 (s : State) (k : Nat) : (s.dropL1 k).hot = s.hot := rfl
@[simp] theorem training_dropL1 (s : State) (k : Nat) : (s.dropL1 k).training = s.training := rfl

/-! ### The fields they change -/

@[simp] theorem agenda_post_self (s : State) (e : Instr) (as : List Nat) : (s.post e as).agenda = s.agenda ++ [(e, as)] := rfl
@[simp] theorem nextId_addOp_self (s : State) (o : Op) : (s.addOp o).nextId = s.nextId + 1 := rfl
@[simp] theorem ops_addOp_self (s : State) (o : Op) : (s.addOp o).ops = SMap.insert s.ops s.nextId o := rfl
@[simp] theorem l1_dropL1_self (s : State) (k : Nat) :
    (s.dropL1 k).l1 = s.l1.filter fun (j, _) => j / 0x200000000 ≠ k := rfl

/-! ### Reads of the state that an update leaves -/

@[simp] theorem op?_modCtx (s : State) (c : Nat) (f : Ctx → Ctx) (d : Nat) : (s.modCtx c f).op? d = s.op? d := rfl
@[simp] theorem hubGet_modCtx (s : State) (c : Nat) (f : Ctx → Ctx) (m j : Nat) : (s.modCtx c f).hubGet m j = s.hubGet m j := rfl
@[simp] theorem core_modCtx (s : State) (c : Nat) (f : Ctx → Ctx) (j : Nat) : (s.modCtx c f).core j = s.core j := rfl
@[simp] theorem op?_modWave (s : State) (c w : Nat) (f : Wave → Wave) (d : Nat) : (s.modWave c w f).op? d = s.op? d := rfl
@[simp] theorem hubGet_modWave (s : State) (c w : Nat) (f : Wave → Wave) (m j : Nat) : (s.modWave c w f).hubGet m j = s.hubGet m j := rfl
@[simp] theorem core_modWave (s : State) (c w : Nat) (f : Wave → Wave) (j : Nat) : (s.modWave c w f).core j = s.core j := rfl
@[simp] theorem op?_modLanesBy (s : State) (c w : Nat) (f : Nat → Lane → Lane) (d : Nat) : (s.modLanesBy c w f).op? d = s.op? d := rfl
@[simp] theorem hubGet_modLanesBy (s : State) (c w : Nat) (f : Nat → Lane → Lane) (m j : Nat) : (s.modLanesBy c w f).hubGet m j = s.hubGet m j := rfl
@[simp] theorem core_modLanesBy (s : State) (c w : Nat) (f : Nat → Lane → Lane) (j : Nat) : (s.modLanesBy c w f).core j = s.core j := rfl
@[simp] theorem op?_modLanes (s : State) (c w : Nat) (ls : List Nat) (f : Lane → Lane) (d : Nat) : (s.modLanes c w ls f).op? d = s.op? d := rfl
@[simp] theorem hubGet_modLanes (s : State) (c w : Nat) (ls : List Nat) (f : Lane → Lane) (m j : Nat) : (s.modLanes c w ls f).hubGet m j = s.hubGet m j := rfl
@[simp] theorem core_modLanes (s : State) (c w : Nat) (ls : List Nat) (f : Lane → Lane) (j : Nat) : (s.modLanes c w ls f).core j = s.core j := rfl
@[simp] theorem op?_setReg (s : State) (c w r l : Nat) (v : Word) (d : Nat) : (s.setReg c w r l v).op? d = s.op? d := rfl
@[simp] theorem hubGet_setReg (s : State) (c w r l : Nat) (v : Word) (m j : Nat) : (s.setReg c w r l v).hubGet m j = s.hubGet m j := rfl
@[simp] theorem core_setReg (s : State) (c w r l : Nat) (v : Word) (j : Nat) : (s.setReg c w r l v).core j = s.core j := rfl
@[simp] theorem ctx?_setCore (s : State) (k : Nat) (x : Core) (d : Nat) : (s.setCore k x).ctx? d = s.ctx? d := rfl
@[simp] theorem wave?_setCore (s : State) (k : Nat) (x : Core) (d j : Nat) : (s.setCore k x).wave? d j = s.wave? d j := rfl
@[simp] theorem op?_setCore (s : State) (k : Nat) (x : Core) (d : Nat) : (s.setCore k x).op? d = s.op? d := rfl
@[simp] theorem hubGet_setCore (s : State) (k : Nat) (x : Core) (m j : Nat) : (s.setCore k x).hubGet m j = s.hubGet m j := rfl
@[simp] theorem ctx?_hubSet (s : State) (n sel v : Nat) (d : Nat) : (s.hubSet n sel v).ctx? d = s.ctx? d := rfl
@[simp] theorem wave?_hubSet (s : State) (n sel v : Nat) (d j : Nat) : (s.hubSet n sel v).wave? d j = s.wave? d j := rfl
@[simp] theorem op?_hubSet (s : State) (n sel v : Nat) (d : Nat) : (s.hubSet n sel v).op? d = s.op? d := rfl
@[simp] theorem core_hubSet (s : State) (n sel v : Nat) (j : Nat) : (s.hubSet n sel v).core j = s.core j := rfl
@[simp] theorem ctx?_post (s : State) (e : Instr) (as : List Nat) (d : Nat) : (s.post e as).ctx? d = s.ctx? d := rfl
@[simp] theorem wave?_post (s : State) (e : Instr) (as : List Nat) (d j : Nat) : (s.post e as).wave? d j = s.wave? d j := rfl
@[simp] theorem op?_post (s : State) (e : Instr) (as : List Nat) (d : Nat) : (s.post e as).op? d = s.op? d := rfl
@[simp] theorem hubGet_post (s : State) (e : Instr) (as : List Nat) (m j : Nat) : (s.post e as).hubGet m j = s.hubGet m j := rfl
@[simp] theorem core_post (s : State) (e : Instr) (as : List Nat) (j : Nat) : (s.post e as).core j = s.core j := rfl
@[simp] theorem ctx?_addOp (s : State) (o : Op) (d : Nat) : (s.addOp o).ctx? d = s.ctx? d := rfl
@[simp] theorem wave?_addOp (s : State) (o : Op) (d j : Nat) : (s.addOp o).wave? d j = s.wave? d j := rfl
@[simp] theorem hubGet_addOp (s : State) (o : Op) (m j : Nat) : (s.addOp o).hubGet m j = s.hubGet m j := rfl
@[simp] theorem core_addOp (s : State) (o : Op) (j : Nat) : (s.addOp o).core j = s.core j := rfl
@[simp] theorem ctx?_dropL1 (s : State) (k : Nat) (d : Nat) : (s.dropL1 k).ctx? d = s.ctx? d := rfl
@[simp] theorem wave?_dropL1 (s : State) (k : Nat) (d j : Nat) : (s.dropL1 k).wave? d j = s.wave? d j := rfl
@[simp] theorem op?_dropL1 (s : State) (k : Nat) (d : Nat) : (s.dropL1 k).op? d = s.op? d := rfl
@[simp] theorem hubGet_dropL1 (s : State) (k : Nat) (m j : Nat) : (s.dropL1 k).hubGet m j = s.hubGet m j := rfl
@[simp] theorem core_dropL1 (s : State) (k : Nat) (j : Nat) : (s.dropL1 k).core j = s.core j := rfl

end Sys2Proof.Machine
end

