-- ==== Sys2Proof/Laws/Memory.lean ====
section
/-! SUPPORT. Laws/Memory.lean: bytes of memory after a write, and the canonical form that every memory operation keeps. -/
namespace Sys2Proof.Machine

theorem readByte_writeByte (m : List Host.Cell) (k : Nat) (b : Byte) (j : Nat) :
    readByte (writeByte m k b) j = if k = j then b else readByte m j := SMap.get_set ..

@[simp] theorem readByte_writeByte_self (m : List Host.Cell) (k : Nat) (b : Byte) :
    readByte (writeByte m k b) k = b := by simp [readByte_writeByte]

/-- A byte after a store of the low 8n bits of x at key k. -/
theorem readByte_writeMem (n : Nat) : ∀ (m : List Host.Cell) (k x j : Nat), readByte (writeMem m k n x) j =
    if k ≤ j ∧ j < k + n then BitVec.ofNat 8 (x / 256 ^ (j - k)) else readByte m j := by
  induction n with
  | zero => intro m k x j; rw [writeMem, if_neg (by omega)]
  | succ n ih =>
    intro m k x j
    rw [writeMem, ih]
    by_cases h : k = j
    · subst h
      rw [if_neg (by omega), if_pos (by omega), readByte_writeByte_self, Nat.sub_self, Nat.pow_zero, Nat.div_one]
    · by_cases h' : k + 1 ≤ j ∧ j < k + 1 + n
      · rw [if_pos h', if_pos (by omega), Nat.div_div_eq_div_mul, ← Nat.pow_succ', show (j - (k + 1)).succ = j - k by omega]
      · rw [if_neg h', if_neg (by omega), readByte_writeByte, if_neg h]

/-- A store leaves every byte outside it alone. -/
theorem readByte_writeMem_other {m : List Host.Cell} {k n x j : Nat} (h : j < k ∨ k + n ≤ j) :
    readByte (writeMem m k n x) j = readByte m j := by
  rw [readByte_writeMem, if_neg (by omega)]

/-! ### The canonical form -/

theorem wf_writeByte {m : List Host.Cell} (h : Memory.wf m = true) (k : Nat) (b : Byte) :
    Memory.wf (writeByte m k b) = true := SMap.wf_set h

theorem wf_writeMem (n : Nat) : ∀ {m : List Host.Cell} (k x : Nat), Memory.wf m = true →
    Memory.wf (writeMem m k n x) = true := by
  induction n with
  | zero => intro m k x h; exact h
  | succ n ih => intro m k x h; exact ih _ _ (wf_writeByte h ..)

theorem wf_filter_mem {m : List Host.Cell} (p : Host.Cell → Bool) (h : Memory.wf m = true) :
    Memory.wf (m.filter p) = true := SMap.wf_filter p h

@[simp] theorem wf_empty : Memory.wf [] = true := rfl

end Sys2Proof.Machine
end

