-- ==== Sys2Proof/Safety.lean ====
section
/-! DEFINITION. Safety.lean: what counts as a safe run, and the terms in which statements say what an instruction does
and what it leaves alone. -/
namespace Sys2Proof.Machine

/-- A state that some run of steps from s reaches. -/
inductive Reaches (s : State) : State → Prop where
  | refl : Reaches s s
  | step {t u : State} : Reaches s t → Machine.step t = .next u → Reaches s u

/-- A run from s is safe for p when p holds of every state it reaches. -/
def Safe (p : State → Prop) (s : State) : Prop := ∀ t, Reaches s t → p t

/-! ### What an instruction leaves alone -/

/-- A wave but for its lanes, its registers, the arrivals it has still to acquire, and its windows. -/
def Wave.rest (v : Wave) : Wave := { v with lanes := [], regs := [], acq := [], windows := [], skip := [] }

/-- A block but for its waves and the reuse latch of its matrix unit. -/
def Ctx.rest (x : Ctx) : Ctx := { x with waves := [], mat := { x.mat with latch := none } }

/-- A core but for what the issue of a bundle moves on: its lane-cycle counts, the waves last issued and held, and the sample it owes. -/
def Core.rest (k : Core) : Core := { k with counts := [], last := [], held := [], want := none }

/-- The machine but for memory, contexts, cores and L1 lines (of which the other clauses speak), the bundle
issued, the clock and the number of the next operation. -/
def State.rest (s : State) : State :=
  { s with mem := [], ctxs := [], cores := [], l1 := [], cur := none, clock := 0, nextId := 0 }

/-- The bundle b, of wave v of context x, stands issued, and instruction i passes every check of R221 and R441 for the
active set act, which is not empty. -/
structure Passes (i : Instr) (s : State) (b : Bundle) (x : Ctx) (v : Wave) (act : List Nat) : Prop where
  cur : s.cur = some b
  ctx : s.ctx? b.ctx = some x
  wave : SMap.find? x.waves b.wave = some v
  go : issueCheck i b s = .go act
  active : act ≠ []

/-- Lane l of a run after instruction i has passed (R207, R219, R41, R43), before the instruction's own effect on it. -/
def Lane.passed (i : Instr) (run act : List Nat) (l : Nat) (n : Lane) : Lane :=
  if run.contains l then
    { n with
      pc := n.pc + BitVec.ofNat 64 i.length, gcount := n.gcount - 1, deferred := false
      age := if i.resetsAge && act.contains l then 0 else n.age }
  else { n with deferred := false }

/-- From s, the wave of bundle b passes i and nothing else changes but what wr, fl and out say: register p.1 of lane l of
the active set holds p.2 for each p of wr l; lane l, having passed, is as fl says; memory, operations in flight, the agenda
and every other part of the machine outside the contexts stand as in out. Every other register, wave and context stands as
before; a core's lane-cycle counts and issue slots move on, and its L1 may lose lines to the acquire side of an arrival read for the first
time (R125). -/
structure Effect (i : Instr) (s out : State) (b : Bundle) (x : Ctx) (v : Wave) (act : List Nat)
    (wr : Nat → List (Nat × Word)) (fl : Nat → Lane → Lane) (t : State) : Prop where
  memory : ∀ k, readByte t.mem k = readByte out.mem k
  rest : t.rest = out.rest
  cur : t.cur = none
  clock : t.clock = s.clock + BitVec.ofNat 64 (issueRate i)
  cores : ∀ k, (t.core k).rest = (s.core k).rest
  l1 : ∀ e ∈ t.l1, e ∈ s.l1
  contexts : ∀ c, c ≠ b.ctx → t.ctx? c = s.ctx? c
  own : ∃ y u, t.ctx? b.ctx = some y ∧ y.rest = x.rest ∧
    (∀ w, w ≠ b.wave → SMap.find? y.waves w = SMap.find? x.waves w) ∧
    SMap.find? y.waves b.wave = some u ∧ u.rest = v.rest ∧
    (∀ l, u.lane? l = (v.lane? l).map fun n => fl l (n.passed i b.run act l)) ∧
    (∀ l ∈ act, ∀ p ∈ wr l, u.reg p.1 l = p.2) ∧
    (∀ r l, l < 32 → (l ∉ act ∨ ∀ p ∈ wr l, p.1 ≠ r) → u.reg r l = v.reg r l)

/-- Instruction i, once issued for an active set, completes, and does to registers and lanes what wr and fl say and
nothing else; a sample that its issue slot owes is produced (R478). -/
def Does (i : Instr) (wr : State → Bundle → Ctx → Wave → List Nat → Nat → List (Nat × Word))
    (fl : Bundle → Wave → List Nat → Nat → Lane → Lane) : Prop :=
  ∀ s b x v act, Passes i s b x v act →
    ∃ t, exec i s = .next t ∧ Effect i s (s.noteSample b act) b x v act (wr s b x v act) (fl b v act) t

/-- Instruction i has passed (R41, R207, R219): the wave's lanes have moved on, the instruction has a number, and nothing
else has changed. Its own effect comes next. -/
structure Passed (i : Instr) (s : State) (b : Bundle) (x : Ctx) (v : Wave) (act : List Nat) (t : State) : Prop where
  effect : Effect i s (s.noteSample b act) b x v act (fun _ => []) (fun _ n => n) t
  number : t.nextId = s.nextId + 1

/-- Instruction i, once issued for an active set and passed, completes with the change g of the state. -/
def PassesThen (i : Instr) (g : State → Bundle → Ctx → Wave → List Nat → State → State) : Prop :=
  ∀ s b x v act, Passes i s b x v act → ∃ t, Passed i s b x v act t ∧ exec i s = .next (g s b x v act t)

/-- Instruction i, once issued for an active set, takes the precise fault k, and nothing of its effect stands (R11, R399):
its issue slot has issued the bundle (R48, R472), samples and counts show it (R478, R479), and the cycle passes. -/
def Takes (i : Instr) (s : State) (b : Bundle) (k : Trap) : Prop :=
  exec i s = .next (({ s.noteFaulted b with cur := none, clock := s.clock + 1 } : State).takeTrap b.ctx b.wave k)

/-- State t is s with an event record written: in the ring at EVBASE + 32 × (EVTAIL mod 2^EVSIZE), at the home, whose line is recalled;
EVTAIL advances and the interrupt is raised; with a full ring, or EVSIZE 0, the record is dropped and EVLOST counts it (R425, R426).
While the line cannot be recalled the record waits (log 15). -/
def EventWritten (type queue ctx code data : Nat) (s t : State) : Prop :=
  let size := s.hubGet 0x432 0
  let tail := s.hubGet 0x433 0
  let off := (s.hubGet64 0x430 0 + 32 * (tail % 2 ^ size)) % 2 ^ 36 + s.homeBase
  let image := type + 2 ^ 36 * queue + 2 ^ 48 * ctx + 2 ^ 64 * code + 2 ^ 128 * data + 2 ^ 192 * s.clock.toNat
  if size = 0 ∨ tail = (s.hubGet 0x434 0 + 2 ^ size) % 2 ^ 32 then
    t = s.hubSet 0x435 0 (Nat.min (2 ^ 32 - 1) (s.hubGet 0x435 0 + 1))
  else if s.lineState 2 0 (off / 128) = .serves then
    t = { s with
      mem := t.mem, poison := t.poison, lines := t.lines, recs := t.recs, agenda := t.agenda, hub := t.hub
      interrupts := s.interrupts + 1 } ∧
    (∀ e ∈ s.agenda, e ∈ t.agenda) ∧ t.hubGet 0x433 0 = (tail + 1) % 2 ^ 32 ∧
    (∀ n k, (n, k) ≠ (0x433, 0) → k < 2 ^ 16 → t.hubGet n k = s.hubGet n k) ∧
    (∀ j, j < 32 → readByte t.mem (ctlKey (off + j)) = BitVec.ofNat 8 (image / 256 ^ j)) ∧
    ∀ k, (k < ctlKey (off / 128 * 128) ∨ ctlKey (off / 128 * 128 + 128) ≤ k) → (k < ctlKey off ∨ ctlKey (off + 32) ≤ k) →
      readByte t.mem k = readByte s.mem k
  else t = { s with waiting := t.waiting }

/-- Address a names n bytes of the own scratchpad or of the own commons window, aligned, in bounds and at memory key k, none of them
poisoned (R27, R64, R65, R71, R72, R298). -/
def Plain (s : State) (b : Bundle) (x : Ctx) (n a k : Nat) : Prop :=
  a % n = 0 ∧ (∀ j, j < n → SMap.get 0 s.poison ((k + j) / 32) = 0) ∧
    ((addrSpace a = 3 ∧ a / 2 ^ 24 % 2 ^ 36 = 0 ∧ a / 2 ^ 18 % 64 = 63 ∧ a % 2 ^ 18 < x.scratchBytes ∧
        k = scratchKey b.ctx (a % 2 ^ 18)) ∨
      (addrSpace a = 4 ∧ a / 2 ^ 27 % 2 ^ 33 = 0 ∧ a % 2 ^ 27 < (s.cmWindow x.die x.part).2 ∧
        k = commonsKey x.die ((s.cmWindow x.die x.part).1 + a % 2 ^ 27)))

/-- Nothing of the block or the machine holds back or faults an access of n bytes by the wave of bundle b to such an address: no
window of the block is absent or still to be filled, no range lock stands, and the wave has no store or atomic still to be
performed (R82, R83, R91, R100). -/
def Quiet (s : State) (b : Bundle) (x : Ctx) (n : Nat) : Prop :=
  (∀ o, x.touched o n = [] ∧ s.unwritten b.ctx o n = false) ∧ (∀ p c, (p, c) ∈ s.cores → c.locks = []) ∧
    ∀ id o, (id, o) ∈ s.ops → o.ctx = b.ctx → o.wave = b.wave → o.kind.pending.1 = []

/-- Instruction i writes in each lane of the active set the registers that f gives from the registers before it, and
nothing else: no flag, no other register, no memory. -/
def Computes (i : Instr) (f : Wave → Nat → List (Nat × Word)) : Prop :=
  Does i (fun _ _ _ v _ l => f v l) fun _ _ _ _ n => n

/-- Instruction i computes in each lane of the active set registers and flags, and ORs the flags into the lane status word
unless the quiet bit q is set (R198, R258). -/
def ComputesFlags (i : Instr) (q : Nat) (f : Wave → Nat → List (Nat × Word) × Nat) : Prop :=
  Does i (fun _ _ _ v _ l => (f v l).1) fun _ v act l n =>
    if q = 0 ∧ l ∈ act then { n with lsw := n.lsw ||| word ((f v l).2 % 32) } else n

/-- Instruction i goes in flight as operation k of its lanes, under the next number, and ends with the event e that comes
on the agenda; until then it changes nothing else. -/
def GoesInFlight (i : Instr) (k : Wave → List Nat → OpKind) (e : Instr) : Prop :=
  ∀ s b x v act, Passes i s b x v act →
    ∃ t, exec i s = .next t ∧
      Effect i s (((s.noteSample b act).launchAt s.nextId b act (k v act)).post e [s.nextId]) b x v act (fun _ => []) (fun _ n => n) t

/-- Instruction i writes register d of each lane of the active set with f of registers a, and b, and d as it was. -/
def Writes1 (i : Instr) (d a : Nat) (f : Word → Word) : Prop := Computes i fun v l => [(d, f (v.reg a l))]
def Writes2 (i : Instr) (d a b : Nat) (f : Word → Word → Word) : Prop :=
  Computes i fun v l => [(d, f (v.reg a l) (v.reg b l))]
def Writes3 (i : Instr) (d a b : Nat) (f : Word → Word → Word → Word) : Prop :=
  Computes i fun v l => [(d, f (v.reg a l) (v.reg b l) (v.reg d l))]

/-- The same with flags, each result with the flags it raises. -/
def Flags1 (i : Instr) (d a q : Nat) (f : Word → Word × Nat) : Prop :=
  ComputesFlags i q fun v l => ([(d, (f (v.reg a l)).1)], (f (v.reg a l)).2)
/-- The same, the results and flags being written when the operation in flight completes. -/
def FlagsInFlight (i : Instr) (d a q : Nat) (f : Word → Word × Nat) : Prop :=
  GoesInFlight i (fun v act => .result (act.map fun l => (32 * d + l, (f (v.reg a l)).1))
    (if q = 0 then act.map fun l => (l, (f (v.reg a l)).2) else [])) .instructionComplete
def Flags2 (i : Instr) (d a b q : Nat) (f : Word → Word → Word × Nat) : Prop :=
  ComputesFlags i q fun v l => ([(d, (f (v.reg a l) (v.reg b l)).1)], (f (v.reg a l) (v.reg b l)).2)
def Flags3 (i : Instr) (d a b c q : Nat) (f : Word → Word → Word → Word × Nat) : Prop :=
  ComputesFlags i q fun v l =>
    ([(d, (f (v.reg a l) (v.reg b l) (v.reg c l)).1)], (f (v.reg a l) (v.reg b l) (v.reg c l)).2)

end Sys2Proof.Machine
end

