-- ==== Sys2Proof/Certificates/Slice0/Obligations.lean ====
section
/-! DEFINITION. Obligations.lean: the statements for the provers, about every instruction, event, operation and kind of state. -/
open Sys2Proof Sys2Proof.Machine

/-! ### The step, decoding, reset and memory -/

/-- R41: a step performs the bundle that stands issued. With none, a step performs the event that is due, or serves the
next issue slot and performs the bundle that it issues (stepBundle): with a wave selected, no window closed and no breakpoint matched, the
word at the wave's lowest program counter is fetched and decoded, and the step is the meaning of the instruction it decodes to,
the run and program counter standing issued with it. That an event comes before a bundle by free choice is the model's (log 4). -/
def Obligations.StepRunsIssued : Prop :=
  (∀ s b, s.cur = some b → step s = exec b.instr s) ∧
  (∀ s e as rest, s.cur = none → s.agenda = (e, as) :: rest → step s =
    if Config.freeBool s.free then exec e { s with agenda := rest, args := as, free := s.free + 1 }
    else stepBundle { s with free := s.free + 1 }) ∧
  (∀ s, s.cur = none → s.agenda = [] → step s = stepBundle s) ∧
  ∀ s slot c w x v pc run raw i u,
    let p := s.nextPort
    s.serve.withheld = false → s.serve.selectWave (p / 4) (p % 4) = some (slot, c, w) →
    s.ctx? c = some x → SMap.find? x.waves w = some v → v.nextRun = some (pc, run) →
    (∀ k ∈ v.windows, k.pos < k.span ∨ s.inFlight k.id = false) → v.active run = [] ∨ pcMatch s x v pc = none →
    fetch (s.serve.hold (p / 4) slot) x pc.toNat = .ok raw u → decode raw = .ok i →
    stepBundle s = exec i { u with
      cur := some ⟨c, w, pc, run, i, if raw % 2 = 0 then raw % 2 ^ 16 else raw % 2 ^ 32⟩, free := u.free + 1 }

/-- R207 to R212, R230, R231, R233: a few words of every format, as the tables give them: each decodes to the instruction
whose fields stand in it, and a word with a reserved bit set or an unassigned function decodes to none. -/
def Obligations.DecodeWords : Prop :=
  decode 0x1442 = .ok (.addS 2 5) ∧ decode 0x5E3F061F = .ok (.call 6 0xBC7E) ∧
  decode 0x00C20329 = .ok (.add 3 4 3) ∧ decode (0x3F800000 * 2 ^ 32 + 0x509) = .ok (.movi 5 0x3F800000) ∧
  decode 0x80420329 = .error .unassigned ∧ decode 0x80000003 = .error .unassigned ∧ decode 0x8442 = .error .unassigned ∧
  decode 0xFF = .error .unassigned ∧ decode 0x400000F7 = .ok .wfe

/-- R207 to R212, R230 to R233: the encoder and the decoder agree on every well-formed instruction, with every operand at every
value: the bytes of its encoding, whatever follows them, decode to it and leave what follows; and a word that decodes to an
instruction is, in the bits of its length, that instruction's encoding, so that no two words of one length are one
instruction. -/
def Obligations.DecodeEncode : Prop :=
  (∀ i, i.wellFormed = true → ∀ rest, decodeBytes (encodeBytes i ++ rest) = .ok (i, rest)) ∧
  ∀ w i, decode w = .ok i → i.wellFormed = true ∧ lengthOf w = i.length ∧ encode i = w % 2 ^ (8 * i.length)

/-- R3, log 3: every step that answers a next state keeps the canonical form of memory: addresses strictly rising, and no byte listed that
reads as an unlisted one does. -/
def Obligations.MemoryStaysCanonical : Prop :=
  ∀ s t, Memory.wf s.mem = true → step s = .next t → Memory.wf t.mem = true

/-- R29, R30, R130, R237, R409, R418, R423, R434, R448, R449, R466, R482, R484: after package reset STATE is 1 with die C0 and
the control memory trained, LMODE is 1, PKGNUM and FEATACC are 0 and PWRCAP is 4,200; the cycle counter is 0; every partition
is Unused and no queue enabled; every generation counter, priority pointer and directory entry is 0; nothing is resident, in
flight, cached, locked or queued, and no link is up. That memory lists nothing, and what unlisted bytes read as, is the model's
choice (log 3), as is the canonical form of it; so is that the L1 and the translation caches are empty (log 7, DESIGN CHOICE). -/
def Obligations.ResetState : Prop :=
  let s := State.reset
  s.svcState = 1 ∧ s.hubGet 0x800 0 = 0x61 ∧ s.hubGet 0x425 0 = 1 ∧ s.hubGet64 0x426 0 = 1 ∧ s.pkg = 0 ∧
    (∀ k, k < 4 → s.hubGet (0x80C + k) 0 = 0) ∧ s.hubGet 0x828 0 = 4200 ∧ s.clock = 0 ∧
    (∀ p, s.partState p = 0) ∧ (∀ q, s.qenabled q = false ∧ (s.queue q).entries = []) ∧ (∀ k, (s.core k).gen = 0 ∧ (s.core k).locks = []) ∧
    (∀ p, SMap.get 0 s.ptrs p = 0) ∧ s.lines = [] ∧ s.purged = [] ∧ s.ctxs = [] ∧ s.ops = [] ∧ s.tlb = [] ∧ s.l1 = [] ∧ s.waiting = [] ∧ s.leaving = [] ∧
    s.dead = [] ∧ s.lost = [] ∧ (∀ l, s.hubGet 0x811 l = 0) ∧ s.cur = none ∧ s.agenda = [] ∧ s.mem = [] ∧ Memory.wf s.mem = true

/-! ### Rules stated whole -/

/-- R44: each active lane of yield becomes deferred; no register, no memory, no other lane and no other state changes. -/
def Obligations.Yield : Prop :=
  Does .yield (fun _ _ _ _ _ _ => []) (fun _ _ act l n => if l ∈ act then { n with deferred := true } else n)

/-- R204: div writes the quotient of a by b rounded toward zero and rem the remainder a - q b; b = 0 gives all ones (-1) and a;
-2^31 by -1 gives -2^31 and 0. Type 0 is s32, 1 is n32. -/
def Obligations.DivideRemainder : Prop :=
  let val (t : Nat) (x : Word) : Int := if t = 0 then x.toInt else (x.toNat : Int)
  let quotient (t : Nat) (x y : Word) : Int := Int.tdiv (val t x) (val t y)
  (∀ d a b t, t ≤ 1 →
    Writes2 (.div d a b t) d a b (fun x y => if y = 0 then 0xFFFFFFFF else BitVec.ofInt 32 (quotient t x y)) ∧
    Writes2 (.rem d a b t) d a b (fun x y => if y = 0 then x else BitVec.ofInt 32 (val t x - quotient t x y * val t y))) ∧
  BitVec.ofInt 32 (quotient 0 0x80000000 0xFFFFFFFF) = 0x80000000

/-- R253: popc, clz, ctz and brev. -/
def Obligations.BitCounts : Prop := ∀ d a,
  Writes1 (.popc d a) d a (fun x => word ((List.range 32).filter fun i => x.getLsbD i).length) ∧
  Writes1 (.clz d a) d a (fun x => word (if x = 0 then 32 else 31 - x.toNat.log2)) ∧
  Writes1 (.ctz d a) d a (fun x => word ((List.range 32).filter fun i => x.toNat % 2 ^ (i + 1) == 0).length) ∧
  Writes1 (.brev d a) d a (fun x => x.reverse)

/-- R284: quad writes in each active lane l the register a of lane 4 (l div 4) + s of the selector of l mod 4, whatever the
partition register and whatever that lane's state; its word has major 0x4C with imm10 the selectors. -/
def Obligations.QuadExchange : Prop :=
  (∀ d a x, Computes (.quad d a x) (fun v l => [(d, v.reg a (4 * (l / 4) + x / 2 ^ (2 * (l % 4)) % 4))])) ∧
  ∀ d a s0 s1 s2 s3, d < 128 → a < 128 → s0 < 4 → s1 < 4 → s2 < 4 → s3 < 4 →
    decode (0x99 + d * 2 ^ 8 + a * 2 ^ 15 + (s0 + s1 * 4 + s2 * 16 + s3 * 64) * 2 ^ 22) =
      .ok (.quad d a (s0 + s1 * 4 + s2 * 16 + s3 * 64))

/-! ### Issue and instructions of the lanes -/

/-- R220: a run of no active lane meets no check of R221: it passes, no register and no byte of memory changes in that, and the
lanes of the run move on, guard counts among them (log 13, DEDUCED); the instruction's meaning then has no lane to act on.
R10, R59, R131, R219, R220, R221, R236, R311, R335, R337, R400, R441: with a lane active, an instruction whose feature the context
lacks, a guard where a lane of the run has a guard count, and eret of a system-level context outside handler mode (log 31, DEDUCED) are
illegal instructions (that the counts fall in a run of no active lane too is log 13, DEDUCED); else a privileged instruction at user level, and sysr or sysw of the group table registers at every level, raise
the privileged-instruction fault; else a register, named barrier, barrier index of the literal word, or descriptor flag that the
descriptor does not give, then a region entry or barrier index of an operand taken once, raises resource overreach, rcap testing its
flag before its registers (the order of the overreach checks, and the barrier beyond SCRATCH, are log 12, DEDUCED). Each is precise:
TMASK is the run (for overreach the active set), TVAL the instruction's word (for overreach the least offending register, or the index).
Helper lanes raise them as others do (log 17, DEDUCED); but what a lane's own operand decides they never raise: the barrier index of
tbar.wait, tbar.test and tbar.read, which the lowest other lane with one that is too large raises, lookahead violations and
overwrites.
R42, R100, R105, R133, R198, R314, R315: an instruction that reads a register with a pending bit set does not issue: the
cycle passes and nothing else changes. -/
def Obligations.IssueChecks : Prop :=
  (∀ i s b x v body, s.cur = some b → s.ctx? b.ctx = some x → SMap.find? x.waves b.wave = some v → v.active b.run = [] →
    cannotIssue i s b v [] = false → issue i s body = .next (settle b s (body b [] (pass i b [] s))) ∧
      (pass i b [] s).mem = s.mem ∧ (pass i b [] s).hub = s.hub ∧
      ∃ u, (pass i b [] s).wave? b.ctx b.wave = some u ∧ u.regs = v.regs ∧
        ∀ l, u.lane? l = (v.lane? l).map fun n => n.passed i b.run [] l) ∧
  (∀ i s b x v, s.cur = some b → s.ctx? b.ctx = some x → SMap.find? x.waves b.wave = some v →
    let act := v.active b.run
    let illegal : Prop := (∃ f ∈ i.features, x.feat.testBit f = false) ∨
      (∃ c n k, i = .guard c n k ∧ ∃ l ∈ b.run, ∃ m, v.lane? l = some m ∧ m.gcount ≠ 0) ∨
      (i = .eret ∧ x.priv = true ∧ v.hmode = false)
    let system : Prop := x.priv = true ∨ v.hmode = true
    let beyond : List Nat := (i.regs ++ i.minted).filter fun r => x.declared ≤ r
    let index (r l : Nat) : Nat := (v.reg r l).toNat % 2 ^ 14
    let low := act.headD 0
    act ≠ [] →
    (illegal → Takes i s b ⟨2, 0, 0, laneMask b.run, b.raw⟩) ∧
    (¬ illegal → i.privileged = true → ¬ system → Takes i s b ⟨3, 0, 0, laneMask b.run, b.raw⟩) ∧
    (∀ r n, 0x0E0 ≤ n → n ≤ 0x0E5 → i = .sysr r n ∨ i = .sysw r n → Takes i s b ⟨3, 0, 0, laneMask b.run, b.raw⟩) ∧
    (¬ illegal → i.groupRegister = false → i.privileged = false ∨ system →
      (i.minted = [] ∨ x.ffabric = true → ∀ r ∈ beyond, (∀ q ∈ beyond, r ≤ q) → Takes i s b ⟨4, 0, 0, laneMask act, r⟩) ∧
      (i.minted ≠ [] → x.ffabric = false → Takes i s b ⟨4, 5, 0, laneMask act, 0⟩) ∧
      (∀ k, beyond = [] → i.flagBit = some k → x.desc.testBit k = false → Takes i s b ⟨4, 5, 0, laneMask act, 0⟩)) ∧
    (∀ n, i = .barSync n ∨ i = .barArrive n → x.nbarriers ≤ n → Takes i s b ⟨4, 1, 0, laneMask act, n⟩) ∧
    (∀ d a c tb o t e, i = .ratom d a c tb o t e → beyond = [] →
      (x.ntbars ≤ tb → Takes i s b ⟨4, 3, 0, laneMask act, tb⟩) ∧
      (tb < x.ntbars → x.scratchBytes < 16 * tb + 16 → Takes i s b ⟨4, 4, 0, laneMask act, 16 * tb⟩)) ∧
    (¬ illegal → beyond = [] → cannotIssue i s b v act = false → ∀ a d e,
      ((i = .rgnSet a d e ∨ i = .rgnPre a d ∨ i = .rgnFlush a d ∨ i = .rgnDrop a d ∨ i = .rgnStat d a e) →
        x.nregions ≤ (v.reg a low).toNat → Takes i s b ⟨4, 2, 0, laneMask act, (v.reg a low).toNat⟩) ∧
      ((i = .tbarInit a d ∨ i = .tbarArrive a d) → x.ntbars ≤ index a low →
        Takes i s b ⟨4, 3, 0, laneMask act, index a low⟩) ∧
      ((i = .tbarWait a d ∨ i = .tbarTest d a e ∨ i = .tbarRead d a e) → ∀ ls l ks, act = ls ++ l :: ks →
        (∀ k ∈ ls, v.isHelper k = true ∨ index a k < x.ntbars) → v.isHelper l = false → x.ntbars ≤ index a l →
        Takes i s b ⟨4, 3, 0, laneMask act, index a l⟩)) ∧
    ((∀ l ∈ act, v.isHelper l = true) → ¬ illegal → i.groupRegister = false → i.privileged = false ∨ system →
      overreach i x act = none → cannotIssue i s b v act = false →
      (∀ a d e, i ≠ .rgnSet a d e ∧ i ≠ .rgnPre a d ∧ i ≠ .rgnFlush a d ∧ i ≠ .rgnDrop a d ∧ i ≠ .rgnStat d a e ∧
        i ≠ .tbarInit a d ∧ i ≠ .tbarArrive a d) →
      (∀ k ∈ v.windows, ∀ l ∈ k.lanes, v.isHelper l = true) → ∀ body,
        issue i s body = .next (settle b s (body b act (pass i b act s))))) ∧
  (∀ i s b x v r, s.cur = some b → s.ctx? b.ctx = some x → SMap.find? x.waves b.wave = some v →
    illegalHere i x v b.run = false → i.groupRegister = false → i.privileged = false → overreach i x (v.active b.run) = none →
    r ∈ i.reads → SMap.get 0 v.pend r ≠ 0 → ∀ body,
      issue i s body = .next { s with cur := none, clock := s.clock + 1 })

/-- R240, R241, R244: moves copy; movi writes its literal.
R245 with R37, R39, R46, R128: the special value of each code, the same for helper lanes from their own numbers. -/
def Obligations.MovesAndSpecialValues : Prop :=
  (∀ d b imm,
  Writes1 (.movS d b) d b (fun x => x) ∧ Writes1 (.mov d b) d b (fun x => x) ∧
  Computes (.movi d imm) fun _ _ => [(d, word imm)]) ∧
  (∀ d i,
  Does (.sreg d i) (fun s b x v _ l => [(d, word (match i with
      | 0 => l
      | 1 => l / 4
      | 2 => b.wave
      | 3 => (x.bdimx * x.bdimy * x.bdimz + 31) / 32
      | 4 => 32 * b.wave + l
      | 5 => (32 * b.wave + l) % x.bdimx
      | 6 => (32 * b.wave + l) / x.bdimx % x.bdimy
      | 7 => (32 * b.wave + l) / (x.bdimx * x.bdimy)
      | 8 => x.bdimx
      | 9 => x.bdimy
      | 10 => x.bdimz
      | 11 => x.lx % x.sdimx
      | 12 => x.ly % x.sdimy
      | 13 => x.lz % x.sdimz
      | 14 => x.sdimx
      | 15 => x.sdimy
      | 16 => x.sdimz
      | 17 => x.lx
      | 18 => x.ly
      | 19 => x.lz
      | 20 => x.ldimx
      | 21 => x.ldimy
      | 22 => x.ldimz
      | 23 => x.core
      | 24 => x.core / 48
      | 25 => x.die
      | 26 => s.pkg
      | 27 => s.clock.toNat % 2 ^ 32
      | 28 => s.clock.toNat / 2 ^ 32
      | 29 => 2 ^ v.part
      | 30 => x.fgen
      | _ => ((v.lane? l).map fun n => n.lsw.toNat).getD 0))])
    fun _ _ _ _ n => n)

/-- R246 and R247: sums and differences modulo 2^32, the carry and borrow chain, negation and absolute value.
R203 and R251: the exact 24-bit and 32-bit products by type, their low and high parts, and the multiply-adds. Type 0 is
s32, 1 is n32.
R256 and R257: pair arithmetic modulo 2^64, with whole shift counts; vd + 1 receives the high word. -/
def Obligations.IntegerArithmetic : Prop :=
  (∀ d a b imm,
  Writes2 (.add d a b) d a b (fun x y => word (x.toNat + y.toNat)) ∧
  Writes2 (.addS d b) d d b (fun x y => word (x.toNat + y.toNat)) ∧
  Writes1 (.addImm d a imm) d a (fun x => wordInt (x.toNat + signExtend imm 10)) ∧
  Writes2 (.sub d a b) d a b (fun x y => wordInt (x.toNat - y.toNat : Int)) ∧
  Writes2 (.subS d b) d d b (fun x y => wordInt (x.toNat - y.toNat : Int)) ∧
  Writes1 (.neg d a) d a (fun x => wordInt (0 - x.toNat : Int)) ∧
  Writes1 (.abs d a) d a (fun x => word x.toInt.natAbs) ∧
  Computes (.addc d a b) (fun v l =>
    let n := (v.reg a l).toNat + (v.reg b l).toNat + (v.reg d l).toNat % 2
    [(d, word n), (d + 1, if 2 ^ 32 ≤ n then 1 else 0)]) ∧
  Computes (.subb d a b) (fun v l =>
    let n : Int := (v.reg a l).toNat - (v.reg b l).toNat - ((v.reg d l).toNat % 2 : Nat)
    [(d, wordInt n), (d + 1, if n < 0 then 1 else 0)])) ∧
  (let val (t n : Nat) (x : Word) : Int := if t = 0 then signExtend x.toNat n else ((x.toNat % 2 ^ n : Nat) : Int)
  let mul24 (t h : Nat) (x y : Word) : Word :=
    let p := wrapNat (val t 24 x * val t 24 y) 48
    if h = 0 then word p else if t = 0 then wordInt (signExtend (p / 2 ^ 24) 24) else word (p / 2 ^ 24)
  let mul32 (t h : Nat) (x y : Word) : Word :=
    let p := wrapNat (val t 32 x * val t 32 y) 64
    if h = 0 then word p else word (p / 2 ^ 32)
  ∀ d a b t h, t ≤ 1 → h ≤ 1 →
  Writes2 (.mul24 d a b t h) d a b (mul24 t h) ∧ Writes2 (.mul24S d b) d d b (mul24 0 0) ∧
  Writes3 (.mad24 d a b t h) d a b (fun x y z => mul24 t h x y + z) ∧
  Writes2 (.mul32 d a b t h) d a b (mul32 t h) ∧
  Writes3 (.mad32 d a b t h) d a b (fun x y z => mul32 t h x y + z)) ∧
  (let pair (d : Nat) (n : Int) : List (Nat × Word) := [(d, wordInt n), (d + 1, wordInt (n / 2 ^ 32))]
  ∀ d a b k,
  Computes (.add64 d a b) (fun v l => pair d (v.pair a l + v.pair b l : Nat)) ∧
  Computes (.sub64 d a b) (fun v l => pair d ((v.pair a l : Int) - v.pair b l)) ∧
  Computes (.shl64 d a b) (fun v l =>
    pair d (if (v.reg b l).toNat < 64 then (v.pair a l * 2 ^ (v.reg b l).toNat : Nat) else 0)) ∧
  Computes (.shr64 d a b) (fun v l =>
    pair d (if (v.reg b l).toNat < 64 then (v.pair a l / 2 ^ (v.reg b l).toNat : Nat) else 0)) ∧
  Computes (.lea d a b k) (fun v l => pair d (v.pair a l + (v.reg b l).toInt * 2 ^ k)))

/-- R249: the logic instructions act on each bit.
R250: every shift as arithmetic on the whole unsigned count: logical shifts by 32 or more give 0, sar by 32 or more
fills with the sign, rotations take the count modulo 32.
R252, R254, R255: fields of pos and len = n + 1 with pos + len at most 32, and the byte gather.
R248: the lesser and greater by type, the six conditions, and the two selects, whose third operand is vd. -/
def Obligations.LogicShiftsBits : Prop :=
  (∀ d a b,
  Writes2 (.and d a b) d a b (fun x y => x &&& y) ∧ Writes2 (.andS d b) d d b (fun x y => x &&& y) ∧
  Writes2 (.or d a b) d a b (fun x y => x ||| y) ∧ Writes2 (.orS d b) d d b (fun x y => x ||| y) ∧
  Writes2 (.xor d a b) d a b (fun x y => x ^^^ y) ∧ Writes2 (.xorS d b) d d b (fun x y => x ^^^ y) ∧
  Writes2 (.andn d a b) d a b (fun x y => x &&& ~~~y) ∧ Writes1 (.not d a) d a (fun x => ~~~x)) ∧
  (let shl (x : Word) (c : Nat) : Word := if c < 32 then word (x.toNat * 2 ^ c) else 0
  let shr (x : Word) (c : Nat) : Word := if c < 32 then word (x.toNat / 2 ^ c) else 0
  let sar (x : Word) (c : Nat) : Word := wordInt (x.toInt / 2 ^ Nat.min c 31)
  let rol (x : Word) (c : Nat) : Word := word (x.toNat * 2 ^ (c % 32) + x.toNat / 2 ^ (32 - c % 32))
  let ror (x : Word) (c : Nat) : Word := word (x.toNat / 2 ^ (c % 32) + x.toNat * 2 ^ (32 - c % 32))
  ∀ d a b,
  Writes2 (.shl d a b) d a b (fun x y => shl x y.toNat) ∧ Writes2 (.shlS d b) d d b (fun x y => shl x y.toNat) ∧
  Writes2 (.shr d a b) d a b (fun x y => shr x y.toNat) ∧ Writes2 (.shrS d b) d d b (fun x y => shr x y.toNat) ∧
  Writes2 (.sar d a b) d a b (fun x y => sar x y.toNat) ∧ Writes2 (.sarS d b) d d b (fun x y => sar x y.toNat) ∧
  Writes2 (.rol d a b) d a b (fun x y => rol x y.toNat) ∧ Writes2 (.ror d a b) d a b (fun x y => ror x y.toNat) ∧
  ∀ c, c < 32 → Writes1 (.shlImm d a c) d a (shl · c) ∧ Writes1 (.shrImm d a c) d a (shr · c) ∧
    Writes1 (.sarImm d a c) d a (sar · c) ∧ Writes1 (.rolImm d a c) d a (rol · c) ∧ Writes1 (.rorImm d a c) d a (ror · c)) ∧
  (∀ d a b,
  (∀ n p, p + n + 1 ≤ 32 →
    Writes1 (.bfeN32 d a n p) d a (fun x => word (x.toNat / 2 ^ p % 2 ^ (n + 1))) ∧
    Writes1 (.bfeS32 d a n p) d a (fun x => wordInt (signExtend (x.toNat / 2 ^ p) (n + 1))) ∧
    Computes (.bfi d a n p) fun v l => [(d, word ((v.reg d l).toNat / 2 ^ (p + n + 1) * 2 ^ (p + n + 1) +
      (v.reg a l).toNat % 2 ^ (n + 1) * 2 ^ p + (v.reg d l).toNat % 2 ^ p))]) ∧
  Writes3 (.bgath d a b) d a b (fun x y ctl =>
    let byte (i : Nat) : Nat :=
      let n := ctl.toNat / 2 ^ (3 * i) % 8
      let y := (x.toNat + 2 ^ 32 * y.toNat) / 2 ^ (8 * n) % 256
      match ctl.toNat / 2 ^ (2 * i + 12) % 4 with
      | 0 => y
      | 1 => 0
      | 2 => 0xFF
      | _ => if 128 ≤ y then 0xFF else 0
    word (byte 0 + byte 1 * 2 ^ 8 + byte 2 * 2 ^ 16 + byte 3 * 2 ^ 24))) ∧
  (∀ d a b,
  Writes2 (.min d a b 0) d a b (fun x y => if x.toInt ≤ y.toInt then x else y) ∧
  Writes2 (.min d a b 1) d a b (fun x y => if x.toNat ≤ y.toNat then x else y) ∧
  Writes2 (.max d a b 0) d a b (fun x y => if x.toInt ≤ y.toInt then y else x) ∧
  Writes2 (.max d a b 1) d a b (fun x y => if x.toNat ≤ y.toNat then y else x) ∧
  (∀ cc, cc ≤ 5 → Writes2 (.cmpS32 d a b cc) d a b (fun x y => bool01 (match cc with
    | 0 => decide (x.toInt = y.toInt)
    | 1 => decide (x.toInt ≠ y.toInt)
    | 2 => decide (x.toInt < y.toInt)
    | 3 => decide (x.toInt ≤ y.toInt)
    | 4 => decide (y.toInt < x.toInt)
    | _ => decide (y.toInt ≤ x.toInt)))) ∧
  (∀ cc, cc ≤ 5 → Writes2 (.cmpN32 d a b cc) d a b (fun x y => bool01 (match cc with
    | 0 => decide (x.toNat = y.toNat)
    | 1 => decide (x.toNat ≠ y.toNat)
    | 2 => decide (x.toNat < y.toNat)
    | 3 => decide (x.toNat ≤ y.toNat)
    | 4 => decide (y.toNat < x.toNat)
    | _ => decide (y.toNat ≤ x.toNat)))) ∧
  Writes2 (.setlt d b) d d b (fun x y => if x.toInt < y.toInt then 1 else 0) ∧
  Writes3 (.sel d a b) d a b (fun x y c => if c ≠ 0 then x else y) ∧
  Writes3 (.bsel d a b) d a b (fun x y m => (x &&& m) ||| (y &&& ~~~m)))

/-- R260 to R264: NaN and flag rules of the arithmetic instructions, each rounding its exact result once. m is the
rounding mode; flag 1 is invalid.
R262 to R264: quotient, root, scaling and rounding to an integral value. 0 / 0 and infinity / infinity are invalid, a
finite nonzero number over 0 is a divide-by-zero (flag 2), a root of a negative number is invalid and that of a zero is that
zero; frnd adds no inexact flag.
R268, R269: the special functions go in flight with their results, which INSTRUCTION_COMPLETE writes. Zeros,
infinities, NaNs and negative sources are those of the table, but that frcp of a finite negative source is the negative 1/x of R268 and
not the table's -1/x (log 54, DEDUCED); any other source rounds the exact value once (log 8). -/
def Obligations.FloatArithmetic : Prop :=
  (let f := fmtF32
  let val (x : Word) : XVal := f.value x.toNat
  let sig (cs : List Word) : Nat := if cs.any (fun c => f.isSignalling c.toNat) then 1 else 0
  let body (m : Nat) (cs : List Word) (invalid : Bool) (e : XVal) : Word × Nat :=
    if invalid then (0x7FC00000, sig cs ||| 1)
    else if cs.any (fun c => val c == .nan) then (0x7FC00000, sig cs)
    else (word (roundToFormat f m false 0 e).1, sig cs ||| (roundToFormat f m false 0 e).2)
  let opposite (x y : XVal) : Bool := (x == .inf true && y == .inf false) || (x == .inf false && y == .inf true)
  let inf (x : XVal) : Bool := x == .inf true || x == .inf false
  let zero (x : XVal) : Bool := match x with
    | .fin _ m _ => m == 0
    | _ => false
  let add (m : Nat) (x y : Word) := body m [x, y] (opposite (val x) (val y)) ((val x).add (m == 3) (val y))
  let sub (m : Nat) (x y : Word) :=
    body m [x, y] (opposite (val x) (val y).negate) ((val x).add (m == 3) (val y).negate)
  let mul (m : Nat) (x y : Word) :=
    body m [x, y] ((zero (val x) && inf (val y)) || (inf (val x) && zero (val y))) ((val x).mul (val y))
  let fma (m : Nat) (x y z : Word) := body m [x, y, z]
    ((zero (val x) && inf (val y)) || (inf (val x) && zero (val y)) || opposite ((val x).mul (val y)) (val z))
    (((val x).mul (val y)).add (m == 3) (val z))
  ∀ d a b c m q,
  Flags2 (.fadd d a b m q) d a b q (add m) ∧ Flags2 (.faddS d b q) d d b q (add 0) ∧
  Flags2 (.fsub d a b m q) d a b q (sub m) ∧ Flags2 (.fsubS d b q) d d b q (sub 0) ∧
  Flags2 (.fmul d a b m q) d a b q (mul m) ∧ Flags2 (.fmulS d b q) d d b q (mul 0) ∧
  Flags3 (.ffma d a b m q) d a b d q (fma m) ∧ Flags3 (.ffma3 d a b c m q) d a b c q (fma m)) ∧
  (let f := fmtF32
  let sig (x : Word) : Nat := if f.isSignalling x.toNat then 1 else 0
  let round (m : Nat) (e : XVal) : Word × Nat := (word (roundToFormat f m false 0 e).1, (roundToFormat f m false 0 e).2)
  let inf (s : Bool) : Word := if s then 0xFF800000 else 0x7F800000
  let zero (s : Bool) : Word := if s then 0x80000000 else 0
  ∀ d a b m q,
  Flags2 (.fdiv d a b m q) d a b q (fun x y => match f.value x.toNat, f.value y.toNat with
    | .nan, _ | _, .nan => (0x7FC00000, sig x ||| sig y)
    | .inf _, .inf _ => (0x7FC00000, 1)
    | .inf s, .fin t _ _ => (inf (s != t), 0)
    | .fin s _ _, .inf t => (zero (s != t), 0)
    | .fin s k e, .fin t n g =>
      if n = 0 then (if k = 0 then (0x7FC00000, 1) else (inf (s != t), 2)) else round m (quotient (s != t) k e n g)) ∧
  Flags1 (.fsqrt d a m q) d a q (fun x => match f.value x.toNat with
    | .nan => (0x7FC00000, sig x)
    | .inf s => if s then (0x7FC00000, 1) else (inf false, 0)
    | .fin s k e => if k = 0 then (x, 0) else if s then (0x7FC00000, 1) else round m (rootOf k e)) ∧
  Flags2 (.fldexp d a b m q) d a b q (fun x n => match f.value x.toNat with
    | .nan => (0x7FC00000, sig x)
    | .inf s => (inf s, 0)
    | .fin s k e => if k = 0 then (zero s, 0) else round m (.fin s k (e + n.toInt))) ∧
  Flags1 (.frnd d a m q) d a q (fun x => match f.value x.toNat with
    | .nan => (0x7FC00000, sig x)
    | .inf s => (inf s, 0)
    | .fin s k e => ((round 0 (.fin s (roundAt s k e 0 m 0).1 0)).1, 0))) ∧
  (let f := fmtF32
  let sig (x : Word) : Nat := if f.isSignalling x.toNat then 1 else 0
  let round (e : XVal) : Word × Nat := (word (roundToFormat f 0 false 0 e).1, (roundToFormat f 0 false 0 e).2)
  let inf (s : Bool) : Word := if s then 0xFF800000 else 0x7F800000
  ∀ d a l q,
  FlagsInFlight (.frcp d a l q) d a q (fun x => match f.value x.toNat with
    | .nan => (0x7FC00000, sig x)
    | .inf s => (if s then 0x80000000 else 0, 0)
    | .fin s m e => if m = 0 then (inf s, 2) else round (quotient s 1 0 m e)) ∧
  FlagsInFlight (.frsq d a l q) d a q (fun x => match f.value x.toNat with
    | .nan => (0x7FC00000, sig x)
    | .inf s => if s then (0x7FC00000, 1) else (0, 0)
    | .fin s m e => if m = 0 then (inf s, 2) else if s then (0x7FC00000, 1) else round (rsqrtOf m e)) ∧
  FlagsInFlight (.fexp2 d a l q) d a q (fun x => match f.value x.toNat with
    | .nan => (0x7FC00000, sig x)
    | .inf s => (if s then 0 else 0x7F800000, 0)
    | .fin s m e => if m = 0 then (0x3F800000, 0) else round (exp2Of s m e)) ∧
  FlagsInFlight (.flog2 d a l q) d a q (fun x => match f.value x.toNat with
    | .nan => (0x7FC00000, sig x)
    | .inf s => if s then (0x7FC00000, 1) else (0x7F800000, 0)
    | .fin s m e => if m = 0 then (0xFF800000, 2) else if s then (0x7FC00000, 1) else round (log2Of m e)) ∧
  FlagsInFlight (.fsin d a l q) d a q (fun x => match f.value x.toNat with
    | .nan => (0x7FC00000, sig x)
    | .inf _ => (0x7FC00000, 1)
    | .fin s m e => if m = 0 then (x, 0) else round (sinOf s m e)) ∧
  FlagsInFlight (.fcos d a l q) d a q (fun x => match f.value x.toNat with
    | .nan => (0x7FC00000, sig x)
    | .inf _ => (0x7FC00000, 1)
    | .fin _ m e => if m = 0 then (0x3F800000, 0) else round (cosOf m e)))

/-- R265 to R267: minimum and maximum with -0 below +0, their NaN-ignoring forms, sign operations, the eight comparisons
and the class mask.
R276: flagr reads the five flags of its lane, flagr.wave the union over the active lanes that are no helpers, and
flagc clears the flags and no other bit of the lane status word. -/
def Obligations.FloatCompareAndFlags : Prop :=
  (let f := fmtF32
  let nan (x : Word) : Bool := f.isNaN x.toNat
  let sig (x y : Word) : Nat := if f.isSignalling x.toNat || f.isSignalling y.toNat then 1 else 0
  let less (x y : Word) : Bool := f.less x.toNat y.toNat
  let lesser (mx : Bool) (x y : Word) : Word := if (if mx then less x y else less y x) then y else x
  let mn (mx : Bool) (x y : Word) : Word × Nat :=
    (if nan x || nan y then 0x7FC00000 else lesser mx x y, sig x y)
  let mnn (mx : Bool) (x y : Word) : Word × Nat :=
    (if nan x && nan y then 0x7FC00000 else if nan x then y else if nan y then x else lesser mx x y, sig x y)
  let key (x : Word) : Int := if x.msb then -((x.toNat % 2 ^ 31 : Nat) : Int) else x.toNat
  let cmp (strict ifUnordered : Bool) (p : Int → Int → Bool) (x y : Word) : Word × Nat :=
    (if (if nan x || nan y then ifUnordered else p (key x) (key y)) then 1 else 0,
     if strict then (if nan x || nan y then 1 else 0) else sig x y)
  ∀ d a b q,
  Flags2 (.fmin d a b q) d a b q (mn false) ∧ Flags2 (.fmax d a b q) d a b q (mn true) ∧
  Flags2 (.fminS d b q) d d b q (mn false) ∧ Flags2 (.fmaxS d b q) d d b q (mn true) ∧
  Flags2 (.fminn d a b q) d a b q (mnn false) ∧ Flags2 (.fmaxn d a b q) d a b q (mnn true) ∧
  Flags1 (.fabs d a q) d a q (fun x => (if nan x then 0x7FC00000 else x &&& 0x7FFFFFFF, sig x x)) ∧
  Flags1 (.fneg d a q) d a q (fun x => (if nan x then 0x7FC00000 else x ^^^ 0x80000000, sig x x)) ∧
  Flags2 (.fcmpEq d a b q) d a b q (cmp false false fun x y => x == y) ∧
  Flags2 (.fcmpLt d a b q) d a b q (cmp true false fun x y => decide (x < y)) ∧
  Flags2 (.fcmpLe d a b q) d a b q (cmp true false fun x y => decide (x ≤ y)) ∧
  Flags2 (.fcmpUn d a b q) d a b q (cmp false true fun _ _ => false) ∧
  Flags2 (.fcmpNe d a b q) d a b q (cmp false true fun x y => x != y) ∧
  Flags2 (.fcmpGt d a b q) d a b q (cmp true false fun x y => decide (y < x)) ∧
  Flags2 (.fcmpGe d a b q) d a b q (cmp true false fun x y => decide (y ≤ x)) ∧
  Flags2 (.fcmpOrd d a b q) d a b q (cmp false false fun _ _ => true) ∧
  Flags1 (.fclass d a q) d a q (fun x => (word (2 ^ (match f.value x.toNat with
    | .nan => if f.isSignalling x.toNat then 8 else 9
    | .inf s => if s then 0 else 7
    | .fin s k _ => if k = 0 then (if s then 3 else 4)
        else if k < 2 ^ 23 then (if s then 2 else 5) else (if s then 1 else 6))), 0))) ∧
  (let flags (v : Wave) (l : Nat) : Nat := ((v.lane? l).map fun n => n.lsw.toNat % 32).getD 0
  ∀ d,
  Computes (.flagr d) (fun v l => [(d, word (flags v l))]) ∧
  Does (.flagrWave d) (fun _ _ _ v act _ =>
      [(d, word ((act.filter fun k => !v.isHelper k).foldl (fun m k => m ||| flags v k) 0))]) (fun _ _ _ _ n => n) ∧
  Does .flagc (fun _ _ _ _ _ _ => []) fun _ _ act l n =>
    if l ∈ act then { n with lsw := n.lsw &&& 0xFFFFFFE0 } else n)

/-- R194: a value that its format holds rounds to its own code, in every mode and format, with no flag. -/
def Obligations.HeldValuesRoundToThemselves : Prop :=
  ∀ f ∈ [fmtF32, fmtF16, fmtBf16, fmtE4m3, fmtE5m2, fmtE2m1, fmtE3m5], ∀ mode sat rnd c,
    c < 2 ^ f.width → ∀ s m e, f.value c = .fin s m e → roundToFormat f mode sat rnd (f.value c) = (c, 0)

/-- R192, R196, R271 to R274: a conversion reads its source from the low bits or the pair, converts by the row of its two
formats, and writes its destination with every bit defined; .sat has no effect to an f32 or f16 that holds
every number of the source format.
R270: both 16-bit elements as the scalar instruction under RNE, flags of the two united; min and max as fmin, fmax.
R275: packing joins the low bits of its sources, first source lowest, and unpacking spreads the fields, zero-extended. -/
def Obligations.ConversionsAndPacking : Prop :=
  (let wide (n : Nat) : Bool := n == 13 || n == 14
  /- f32 0 holds every format, f16 1 every one but f32 and bf16 2 -/
  let fits (sf df : Nat) : Bool := df == 0 || (df == 1 && sf != 0 && sf != 2)
  let result (sf df m : Nat) (sat : Bool) (rnd src : Nat) : Nat × Nat :=
    match cvtFmt sf, cvtFmt df with
    | some f, some g =>
      let c := src % 2 ^ f.width
      let r := roundToFormat g m (sat && !fits sf df) rnd (f.value c)
      (r.1, r.2 ||| if f.isSignalling c then 1 else 0)
    | some f, none =>
      let c := src % 2 ^ f.width
      let r := toInteger (cvtInt df).1 (cvtInt df).2 m (f.value c)
      (wrapNat r.1 (if wide df then 64 else 32), r.2 ||| if f.isSignalling c then 1 else 0)
    | none, some g =>
      let c := src % 2 ^ (cvtInt sf).1
      roundToFormat g m sat rnd (XVal.ofInt (if (cvtInt sf).2 then signExtend c (cvtInt sf).1 else c) 0)
    | none, none =>
      let c := src % 2 ^ (cvtInt sf).1
      let v : Int := if (cvtInt sf).2 then signExtend c (cvtInt sf).1 else c
      let n := (cvtInt df).1
      let r : Int := if sat then clampInt n (cvtInt df).2 v
        else if (cvtInt df).2 then signExtend (wrapNat v n) n else wrapNat v n
      (wrapNat r (if wide df then 64 else 32), 0)
  ∀ d a b sf df m sat q, sf ≤ 14 → df ≤ 14 →
    ComputesFlags (.cvt d a b sf df m sat q) q fun v l =>
      let src := if wide sf then v.pair a l else (v.reg a l).toNat
      let r := result sf df m (sat == 1) (if m = 4 then (v.reg b l).toNat else 0) src
      (if wide df then [(d, word r.1), (d + 1, word (r.1 / 2 ^ 32))] else [(d, word r.1)], r.2)) ∧
  (let both (g : Nat → Nat → Nat → Nat × Nat) (x y z : Word) : Word × Nat :=
    let lo := g (x.toNat % 65536) (y.toNat % 65536) (z.toNat % 65536)
    let hi := g (x.toNat / 65536) (y.toNat / 65536) (z.toNat / 65536)
    (word (lo.1 + 65536 * hi.1), lo.2 ||| hi.2)
  ∀ d a b q,
  Flags2 (.hadd2F16 d a b q) d a b q (fun x y => both (fun x y _ => fpAdd fmtF16 0 x y) x y 0) ∧
  Flags2 (.hsub2F16 d a b q) d a b q (fun x y => both (fun x y _ => fpSub fmtF16 0 x y) x y 0) ∧
  Flags2 (.hmul2F16 d a b q) d a b q (fun x y => both (fun x y _ => fpMul fmtF16 0 x y) x y 0) ∧
  Flags3 (.hfma2F16 d a b q) d a b d q (both (fpFma fmtF16 0)) ∧
  Flags2 (.hadd2Bf16 d a b q) d a b q (fun x y => both (fun x y _ => fpAdd fmtBf16 0 x y) x y 0) ∧
  Flags2 (.hsub2Bf16 d a b q) d a b q (fun x y => both (fun x y _ => fpSub fmtBf16 0 x y) x y 0) ∧
  Flags2 (.hmul2Bf16 d a b q) d a b q (fun x y => both (fun x y _ => fpMul fmtBf16 0 x y) x y 0) ∧
  Flags3 (.hfma2Bf16 d a b q) d a b d q (both (fpFma fmtBf16 0)) ∧
  (∀ t, t ≤ 1 →
    let f := if t = 0 then fmtF16 else fmtBf16
    Flags2 (.hmin2 d a b t q) d a b q (fun x y => both (fun x y _ => fpMinMax f false x y) x y 0) ∧
    Flags2 (.hmax2 d a b t q) d a b q (fun x y => both (fun x y _ => fpMinMax f true x y) x y 0))) ∧
  (∀ d a b,
  Writes2 (.packH2 d a b) d a b (fun x y => word (x.toNat % 2 ^ 16 + 2 ^ 16 * (y.toNat % 2 ^ 16))) ∧
  Computes (.packB4 d a) (fun v l =>
    [(d, word ((List.range 4).foldl (fun n j => n + 2 ^ (8 * j) * ((v.reg (a + j) l).toNat % 2 ^ 8)) 0))]) ∧
  Computes (.packE2m1x8 d a) (fun v l =>
    [(d, word ((List.range 8).foldl (fun n j => n + 2 ^ (4 * j) * ((v.reg (a + j) l).toNat % 2 ^ 4)) 0))]) ∧
  Computes (.unpackH2 d a) (fun v l =>
    (List.range 2).map fun j => (d + j, word ((v.reg a l).toNat / 2 ^ (16 * j) % 2 ^ 16))) ∧
  Computes (.unpackB4 d a) (fun v l =>
    (List.range 4).map fun j => (d + j, word ((v.reg a l).toNat / 2 ^ (8 * j) % 2 ^ 8))) ∧
  Computes (.unpackE2m1x8 d a) (fun v l =>
    (List.range 8).map fun j => (d + j, word ((v.reg a l).toNat / 2 ^ (4 * j) % 2 ^ 4))))

/-- R277, R281, R282: over the participants of each lane (active, no helper, of its tile), the vote word with SIZE, COUNT
and the three tests, the mask of those whose value is nonzero, and the lowest of them.
R278, R283: a shuffle reads register a of a lane of the reader's tile, wherever that lane's pc stands.
R285 to R287: reductions and scans over the participants with each operation's identity, the exactly rounded sum and
the minimum and maximum of red.f32, and the group word of match: RANK, LEAD and NEQ. -/
def Obligations.LaneExchange : Prop :=
  (let parts (v : Wave) (act : List Nat) (l : Nat) : List Nat :=
    (List.range 32).filter fun k => act.contains k && !v.isHelper k && l / 2 ^ v.part == k / 2 ^ v.part
  let does (i : Instr) (d : Nat) (f : Wave → List Nat → Nat → Word) : Prop :=
    Does i (fun _ _ _ v act l => [(d, f v (parts v act l) l)]) fun _ _ _ _ n => n
  ∀ d a,
  does (.vote d a) d (fun v ps _ =>
    let count := (ps.filter fun k => v.reg a k != 0).length
    word (ps.length * 2 ^ 16 + count * 2 ^ 8 + (if count = 0 ∨ count = ps.length then 4 else 0) +
      (if 0 < count then 2 else 0) + (if count = ps.length then 1 else 0))) ∧
  does (.ballot d a) d (fun v ps _ => (ps.filter fun k => v.reg a k != 0).foldl (fun m k => m ||| 1#32 <<< k) 0) ∧
  does (.elect d) d (fun _ ps l => if ps.head? = some l then 1 else 0)) ∧
  (let base (v : Wave) (l : Nat) : Nat := l - l % 2 ^ v.part
  ∀ d a b x,
  Computes (.shflAt d a b) (fun v l => [(d, v.reg a (base v l + (v.reg b l).toNat % 2 ^ v.part))]) ∧
  Computes (.shflAtImm d a x) (fun v l => [(d, v.reg a (base v l + x % 2 ^ v.part))]) ∧
  Computes (.shflRot d a b) (fun v l =>
    [(d, v.reg a (base v l + (((l : Int) - (v.reg b l).toNat) % (2 ^ v.part : Nat)).toNat))]) ∧
  Computes (.shflRotImm d a x) (fun v l => [(d, v.reg a (base v l + (((l : Int) - x) % (2 ^ v.part : Nat)).toNat))]) ∧
  Computes (.shflXor d a b) (fun v l => [(d, v.reg a (base v l + ((l % 2 ^ v.part) ^^^ ((v.reg b l).toNat % 2 ^ v.part))))]) ∧
  Computes (.shflXorImm d a x) (fun v l => [(d, v.reg a (base v l + ((l % 2 ^ v.part) ^^^ (x % 2 ^ v.part))))]) ∧
  Computes (.shflRev d a) (fun v l => [(d, v.reg a (base v l + (2 ^ v.part - 1 - l % 2 ^ v.part)))])) ∧
  (let parts (v : Wave) (act : List Nat) (l : Nat) : List Nat :=
    (List.range 32).filter fun k => act.contains k && !v.isHelper k && l / 2 ^ v.part == k / 2 ^ v.part
  let does (i : Instr) (d : Nat) (f : Wave → List Nat → Nat → Word) : Prop :=
    Does i (fun _ _ _ v act l => [(d, f v (parts v act l) l)]) fun _ _ _ _ n => n
  let fold (o : Nat) (xs : List Word) : Word := match o with
    | 0 => xs.foldl (· + ·) 0
    | 1 => xs.foldl (fun x y => if x.toInt ≤ y.toInt then x else y) 0x7FFFFFFF
    | 2 => xs.foldl (fun x y => if x.toInt ≤ y.toInt then y else x) 0x80000000
    | 3 => xs.foldl (fun x y => if x.toNat ≤ y.toNat then x else y) 0xFFFFFFFF
    | 4 => xs.foldl (fun x y => if x.toNat ≤ y.toNat then y else x) 0
    | 5 => xs.foldl (· &&& ·) 0xFFFFFFFF
    | 6 => xs.foldl (· ||| ·) 0
    | _ => xs.foldl (· ^^^ ·) 0
  let group (g : List Nat) (l : Nat) : Word :=
    word ((g.filter (· < l)).length * 2 ^ 16 + g.headD l * 2 ^ 8 + g.length)
  let f := fmtF32
  let sig (cs : List Nat) : Nat := if cs.any f.isSignalling then 1 else 0
  let sum (cs : List Nat) : Nat × Nat :=
    let opposite := cs.any (f.value · == .inf true) && cs.any (f.value · == .inf false)
    if cs.any (f.value · == .nan) then (0x7FC00000, sig cs ||| if opposite then 1 else 0)
    else if opposite then (0x7FC00000, sig cs ||| 1)
    else match cs with
      | [] => (0, 0)
      | c :: cs => roundToFormat f 0 false 0 (cs.foldl (fun x k => x.add false (f.value k)) (f.value c))
  let extreme (mx : Bool) (cs : List Nat) : Nat × Nat :=
    if cs.any (f.value · == .nan) then (0x7FC00000, sig cs)
    else match cs with
      | [] => (if mx then 0xFF800000 else 0x7F800000, 0)
      | c :: cs => (cs.foldl (fun x k => if (if mx then f.less x k else f.less k x) then k else x) c, 0)
  ∀ d a o, o ≤ 7 →
  does (.red d a o) d (fun v ps _ => fold o (ps.map fun k => v.reg a k)) ∧
  does (.scanInc d a o) d (fun v ps l => fold o ((ps.filter (· ≤ l)).map fun k => v.reg a k)) ∧
  does (.scanExc d a o) d (fun v ps l => fold o ((ps.filter (· < l)).map fun k => v.reg a k)) ∧
  does (.matchB32 d a) d (fun v ps l => group (ps.filter fun k => v.reg a k == v.reg a l) l) ∧
  does (.matchB64 d a) d (fun v ps l =>
    group (ps.filter fun k => v.reg a k == v.reg a l && v.reg (a + 1) k == v.reg (a + 1) l) l) ∧
  ∀ q op, op ≤ 2 → Does (.redF32 d a op q)
    (fun _ _ _ v act l =>
      let cs := (parts v act l).map fun k => (v.reg a k).toNat
      [(d, word (if op = 0 then sum cs else extreme (op == 2) cs).1)])
    fun _ v act l n =>
      let cs := (parts v act l).map fun k => (v.reg a k).toNat
      if q = 0 ∧ l ∈ act then { n with lsw := n.lsw ||| word ((if op = 0 then sum cs else extreme (op == 2) cs).2 % 32) }
      else n)

/-- R216, R288, R289: bra, bra.z and jmp move to their target the active lanes whose condition holds (0x7F always), call
every active lane, leaving p + 4 in its link pair; jmpr, callr and ret go to the pair va when it is even in every active
lane that is no helper; a taken bra, jmp or jmpr to no higher an address counts towards aging (R43), and so, the model's choice
(log 47), does bra.z.
R218, R280: nop does nothing but pass; guard sets, in each active lane, the count to
n + 1 and the predicate to its condition; part sets the partition register.
R49, R290: exit ends each active lane and no other lane, changes no register and no byte of memory, and completes. -/
def Obligations.ControlFlow : Prop :=
  (let aged (p : Dword) (n : Lane) : Lane :=
    if n.pc.toNat ≤ p.toNat then
      let k := if n.ageAddr = p then n.age + 1 else 1
      { n with ageAddr := p, age := if 256 ≤ k then 0 else k, deferred := n.deferred || decide (256 ≤ k) }
    else n
  let rel (p : Dword) (off : Int) : Dword := p + BitVec.ofInt 64 (2 * off)
  let going (v : Wave) (a l : Nat) : Dword := (v.reg (a + 1) l) ++ (v.reg a l)
  let link (b : Bundle) (d : Nat) : List (Nat × Word) :=
    [(d, (b.pc + 4).setWidth 32), (d + 1, ((b.pc + 4) >>> 32).setWidth 32)]
  ∀ c o d a,
  Does (.bra c o) (fun _ _ _ _ _ _ => []) (fun b v act l n =>
    if l ∈ act ∧ (c = 127 ∨ v.reg c l ≠ 0) then aged b.pc { n with pc := rel b.pc (signExtend o 17) } else n) ∧
  Does (.braZ c o) (fun _ _ _ _ _ _ => []) (fun b v act l n =>
    if l ∈ act ∧ (c = 127 ∨ v.reg c l = 0) then aged b.pc { n with pc := rel b.pc (signExtend o 17) } else n) ∧
  Does (.jmp c o) (fun _ _ _ _ _ _ => []) (fun b v act l n =>
    if l ∈ act ∧ (c = 127 ∨ v.reg c l ≠ 0) then aged b.pc { n with pc := rel b.pc (signExtend o 32) } else n) ∧
  Does (.call c o) (fun _ b _ _ _ _ => link b c) (fun b _ act l n =>
    if l ∈ act then { n with pc := rel b.pc (signExtend o 17) } else n) ∧
  ∀ s b x v act, (∀ l ∈ act, v.isHelper l = true ∨ (v.reg a l).toNat % 2 = 0) →
    (Passes (.jmpr a) s b x v act → ∃ t, exec (.jmpr a) s = .next t ∧
      Effect (.jmpr a) s (s.noteSample b act) b x v act (fun _ => [])
        (fun l n => if l ∈ act then aged b.pc { n with pc := going v a l } else n) t) ∧
    (Passes (.callr d a) s b x v act → ∃ t, exec (.callr d a) s = .next t ∧
      Effect (.callr d a) s (s.noteSample b act) b x v act (fun _ => link b d)
        (fun l n => if l ∈ act then { n with pc := going v a l } else n) t) ∧
    (Passes (.ret a) s b x v act → ∃ t, exec (.ret a) s = .next t ∧
      Effect (.ret a) s (s.noteSample b act) b x v act (fun _ => [])
        (fun l n => if l ∈ act then { n with pc := going v a l } else n) t)) ∧
  (Does .nop (fun _ _ _ _ _ _ => []) (fun _ _ _ _ n => n) ∧
  (∀ c n k, Does (.guard c n k) (fun _ _ _ _ _ _ => []) fun _ v act l m =>
    if l ∈ act then { m with gcount := n + 1, gpred := decide (v.reg c l ≠ 0) == decide (k = 0) } else m) ∧
  ∀ p, PassesThen (.part p) fun _ b _ _ _ t => t.modWave b.ctx b.wave fun v => { v with part := p }) ∧
  (∀ s b x v act, Passes .exit s b x v act → ∃ t, exec .exit s = .next t ∧ t.mem = s.mem ∧ t.hub = s.hub ∧
    ∀ c w u, s.wave? c w = some u → ∃ z, t.wave? c w = some z ∧ z.regs = u.regs ∧ z.part = u.part ∧
      ∀ l m, u.lane? l = some m → ∃ k, z.lane? l = some k ∧ k.lsw = m.lsw ∧
        k.exited = (m.exited || decide (c = b.ctx ∧ w = b.wave ∧ l ∈ act)))

/-- R294, R295, R399: trap and, with debug disabled, brk raise their class at the active lanes with the immediate as DETAIL
and their own address as TVAL, after they have passed.
R289, R441: a register target whose bit 0 is set raises the fetch fault with DETAIL 0 at jmpr, callr or ret: LANE 0, TMASK
the run and TVAL the target of the lowest such active lane that is no helper. -/
def Obligations.TrapsAndOddTargets : Prop :=
  ((∀ n, PassesThen (.trap n) fun _ b _ _ act t => t.takeTrap b.ctx b.wave ⟨0x1A, n, 0, laneMask act, b.pc.toNat⟩) ∧
  ∀ n s b x v act, Passes (.brk n) s b x v act → ∃ t, Passed (.brk n) s b x v act t ∧
    exec (.brk n) s = .next (if x.dbgen then (t.startDrain b.ctx .stopped .stopComplete).markStop b.ctx ⟨2, 0, 0, b.wave, 0⟩
      else t.takeTrap b.ctx b.wave ⟨0x1B, n, 0, laneMask act, b.pc.toNat⟩)) ∧
  (∀ s b x v act d a l ls ks, act = ls ++ l :: ks → (∀ k ∈ ls, v.isHelper k = true ∨ (v.reg a k).toNat % 2 = 0) →
    v.isHelper l = false → (v.reg a l).toNat % 2 = 1 →
    ∀ i ∈ [.jmpr a, .callr d a, .ret a], Passes i s b x v act →
      Takes i s b ⟨1, 0, 0, laneMask b.run, ((v.reg (a + 1) l) ++ (v.reg a l)).toNat⟩)

/-- R55, R291, R292: bar.sync and bar.arrive complete: they make one arrival of each active lane, ascending, and change no
memory, register, program counter or other block. A lane that has arrived in the phase parks, and its arrival waits behind those that
wait already; else it is counted, bar.sync parks it, and the phase ends when every lane of the block that has not exited has arrived,
and with it each later one that the arrivals that waited complete.
R55, R292, R293: the end of a phase of barrier n makes of each lane the oldest arrival that waited for it an arrival of the new
phase, and no other; releases every lane parked there but one that waits for a second arrival which is not the one made, or is of
bar.sync; discards the L1 lines of the core when a lane waited at bar.sync (its acquire) and otherwise none; and changes no other
barrier, register or byte of memory. -/
def Obligations.BlockBarriers : Prop :=
  (let all (n : Nat) (y : Ctx) : Prop := (∃ w v k m, (w, v) ∈ y.waves ∧ (k, m) ∈ v.lanes ∧ m.exited = false) ∧
    ∀ w v k m, (w, v) ∈ y.waves → (k, m) ∈ v.lanes → m.exited = false → y.arrived n w k = true
  (∀ i n sync, (i = .barSync n ∧ sync = true) ∨ (i = .barArrive n ∧ sync = false) → ∀ s b x v act, Passes i s b x v act →
    ∃ t u, Passed i s b x v act t ∧ exec i s = .next u ∧ u = act.foldl (arriveAt b n sync) t ∧ u.mem = t.mem ∧ u.hub = t.hub ∧
      u.ops = t.ops ∧ u.agenda = t.agenda ∧ (∀ c, c ≠ b.ctx → u.ctx? c = t.ctx? c) ∧
      ∀ w y, t.wave? b.ctx w = some y → ∃ z, u.wave? b.ctx w = some z ∧ z.regs = y.regs ∧ z.pend = y.pend ∧
        ∀ l m, y.lane? l = some m → ∃ k, z.lane? l = some k ∧ k.pc = m.pc ∧ k.exited = m.exited ∧ k.lsw = m.lsw) ∧
  (∀ s b n sync l x, s.ctx? b.ctx = some x → (∀ w v, (w, v) ∈ x.waves → w < 16 ∧ ∀ k m, (k, m) ∈ v.lanes → k < 32) →
    let once := s.modCtx b.ctx fun y => { y with nbar := SMap.set false y.nbar (512 * n + 32 * b.wave + l) true }
    let counted := if sync then once.modLanes b.ctx b.wave [l] fun m => { m with park := .bar n } else once
    let ends (k : Nat) : State := (fun u => barrierEnd u b.ctx n)^[k] counted
    let full (u : State) : Prop := ∃ y, u.ctx? b.ctx = some y ∧ all n y
    (x.arrived n b.wave l = true → arriveAt b n sync s l = s.modLanes b.ctx b.wave [l] fun m =>
      { m with park := .bar n, owed := m.owed ++ [⟨n, sync, .lane⟩] }) ∧
    (x.arrived n b.wave l = false → ∃ k, arriveAt b n sync s l = ends k ∧ (∀ j, j < k → full (ends j)) ∧ ¬ full (ends k)))) ∧
  (let waiting (m : Lane) (n : Nat) (w : Waits) : Prop := ∃ o ∈ m.owed, o.bar = n ∧ o.waits = w;
  ∀ s c n x, s.ctx? c = some x → ∃ y, (barrierEnd s c n).ctx? c = some y ∧ (barrierEnd s c n).mem = s.mem ∧
    (∀ j, j ≠ c → (barrierEnd s c n).ctx? j = s.ctx? j) ∧
    (let waits : Prop := ∃ w v l m, (w, v) ∈ x.waves ∧ (l, m) ∈ v.lanes ∧ m.exited = false ∧
        ((m.park = .bar n ∧ ¬ waiting m n .lane) ∨ (m.kept.park = .bar n ∧ ¬ waiting m n .kept));
      (waits → (barrierEnd s c n).l1 = s.l1.filter fun e => e.1 / 0x200000000 ≠ x.place) ∧
      (¬ waits → (barrierEnd s c n).l1 = s.l1)) ∧
    (∀ m w l, m ≠ n → w < 16 → l < 32 → y.arrived m w l = x.arrived m w l) ∧
    (∀ w l, w < 16 → l < 32 → (y.arrived n w l = true ↔ ∃ v m, SMap.find? x.waves w = some v ∧ v.lane? l = some m ∧
      m.exited = false ∧ ∃ o ∈ m.owed, o.bar = n)) ∧
    ∀ w v, SMap.find? x.waves w = some v → ∃ u, SMap.find? y.waves w = some u ∧ u.regs = v.regs ∧
      ∀ l m, v.lane? l = some m → m.exited = false → ∃ k, u.lane? l = some k ∧ k.pc = m.pc ∧ k.exited = false ∧
        k.owed = (m.owed.eraseP fun o => o.bar == n) ∧
        (m.park ≠ .bar n → k.park = m.park) ∧
        (m.park = .bar n → ¬ waiting m n .lane → k.park = .none) ∧
        (m.park = .bar n → waiting m n .lane → ∀ o, m.owed.find? (fun o => o.bar == n) = some o →
          k.park = if o.waits = .lane ∧ o.sync = false then .none else .bar n))

/-! ### Memory, fences and atomics -/

/-- R3: the n bytes stored at a key read back as the value, little-endian, and n bytes that lie apart read as before; and
memories in canonical form that read alike at every key are equal.
R64 to R66, R71, R298: the checks of a lane's address that come before translation, in their order: null space,
reserved space, must-be-zero bits and home index, the space table of the class, the bound of the space, alignment. -/
def Obligations.MemoryAndAddresses : Prop :=
  ((∀ m k n x, readMem (writeMem m k n x) k n = x % 256 ^ n) ∧
  (∀ m k n x j i, j + i ≤ k ∨ k + n ≤ j → readMem (writeMem m k n x) j i = readMem m j i) ∧
  ∀ m m', Memory.wf m = true → Memory.wf m' = true → (∀ k, readByte m k = readByte m' k) → m = m') ∧
  (∀ s c x act q l a, s.ctx? c = some x →
    let sp := addrSpace a
    let form : Prop := (sp = 1 ∧ (a / 2 ^ 46 % 2 ^ 14 ≠ 0 ∨ s.domPkg? (a / 2 ^ 36 % 2 ^ 10) = none)) ∨
      (sp = 3 ∧ a / 2 ^ 24 % 2 ^ 36 ≠ 0) ∨ (sp = 4 ∧ a / 2 ^ 27 % 2 ^ 33 ≠ 0)
    let allowed : Prop := match q.cls with
      | .ldst => sp = 1 ∨ (sp = 2 ∧ addrPkg a = s.pkg) ∨ sp = 3 ∨ sp = 4
      | .atom => sp = 1 ∨ (sp = 2 ∧ addrPkg a = s.pkg) ∨ sp = 4
      | .atoms => sp = 3
      | .ratom => sp = 2
    let remote : Prop := (q.cls = .ldst ∨ q.cls = .atom) ∧ sp = 2 ∧ addrPkg a ≠ s.pkg
    let r := earlyCheck s c x act q l a
    (sp = 0 → r = .error ⟨7, 0, l, 2 ^ l, a⟩) ∧
    (5 < sp → r = .error ⟨8, 0, l, 2 ^ l, a⟩) ∧
    (form → r = .error ⟨9, 0, l, 2 ^ l, a⟩) ∧
    (0 < sp → sp ≤ 5 → ¬ form → remote → r = .error ⟨0x0B, 0, l, 2 ^ l, a⟩) ∧
    (0 < sp → sp ≤ 5 → ¬ form → ¬ allowed → ¬ remote → r = .error ⟨0x0A, 0, l, 2 ^ l, a⟩) ∧
    (¬ form → allowed → sp = 3 → a / 2 ^ 18 % 64 = 63 → x.scratchBytes ≤ a % 2 ^ 18 →
      r = .error ⟨4, 4, 0, laneMask act, a % 2 ^ 18⟩) ∧
    (¬ form → allowed → sp = 4 → (s.cmWindow x.die x.part).2 ≤ a % 2 ^ 27 → r = .error ⟨0x0D, 0, l, 2 ^ l, a⟩) ∧
    (¬ form → allowed → sp = 3 → a / 2 ^ 18 % 64 = 63 → a % 2 ^ 18 < x.scratchBytes →
      r = if a % q.n = 0 then .ok (c, a % 2 ^ 18) else .error ⟨0x0E, 0, l, 2 ^ l, a⟩) ∧
    (¬ form → allowed → sp = 4 → a % 2 ^ 27 < (s.cmWindow x.die x.part).2 →
      r = if a % q.n = 0 then .ok (0, (s.cmWindow x.die x.part).1 + a % 2 ^ 27) else .error ⟨0x0E, 0, l, 2 ^ l, a⟩) ∧
    (¬ form → allowed → sp = 1 →
      r = if a % q.n = 0 then .ok (0, a % 2 ^ 46) else .error ⟨0x0E, 0, l, 2 ^ l, a⟩) ∧
    (¬ form → allowed → sp = 2 →
      r = if a % q.n = 0 then .ok (0, a % 2 ^ 40) else .error ⟨0x0E, 0, l, 2 ^ l, a⟩))

/-- R65, R299, R304, R305: in own scratchpad and the own commons window, which have no translation, a load or store completes when every
lane's address is in bounds and aligned, no region is bound or still being filled, no range lock stands, no unit of it is poisoned, an acquire meets no
record, and the wave has no access still to be performed: a load goes in flight with the bytes of memory, which it may, by free
choice, read again when its data return, a store with its bytes written at once or still to be written (log 5); no register and no other
byte changes.
R83, R100, R101, R124, R304, R305, R461, log 5: a load or store whose lanes' addresses pass every check (the state after them is u). A
load that starts no copy goes in flight: with the bytes a lane reads, or, in a window of the own block that a copy has yet to write,
with that lane waiting; by free choice it reads the others again when its data return; an acquire and a load of a poisoned unit do not
wait in flight. A store goes in flight with its bytes written at once or, by free choice, still to be written; with helper lanes alone
it changes nothing. Where a home of a line has a mirror, the end waits for it (0 and the lines stand in its event). No register, lane
or hub register changes. STORE_ACKNOWLEDGED writes what is left, the highest lane's bytes last, and ends the store. Of control space,
whose lines agents may hold, the memory after it is said elsewhere. -/
def Obligations.LoadsAndStores : Prop :=
  (let left (i : Instr) (s : State) (b : Bundle) (act : List Nat) (t : State) : Prop := t.hub = s.hub ∧
    ∀ c k, (t.wave? c k).map (fun z => { z with rend := none }) = ((pass i b act s).wave? c k).map fun z => { z with rend := none }
  ∀ d a sc w l e s b x v act (ks : List (Nat × Nat)), Quiet s b x (2 ^ w) →
    (∀ i own ext acq, (i = .ld d a e w l ∧ own = false ∧ ext = decide (e = 1) ∧ acq = none) ∨
        (i = .ldAcq d a sc w l ∧ own = false ∧ ext = false ∧ acq = some sc) ∨
        (i = .lds d a e w l ∧ own = true ∧ ext = decide (e = 1) ∧ acq = none) ∨
        (i = .ldsAcq d a sc w l ∧ own = true ∧ ext = false ∧ acq = some sc) →
      Passes i s b x v act → ks.map (·.1) = act → act.Nodup → (∀ p ∈ ks, Plain s b x (2 ^ w) (laneAddr v own a p.1) p.2) →
      (acq ≠ none → ∀ p ∈ ks, p.2 < 0x4000000000000000 ∨ SMap.find? s.recs (p.2 / 128) = none) →
      ∃ t vals todo later, exec i s = .next t ∧ left i s b act t ∧ t.mem = s.mem ∧
        t.op? s.nextId = some ⟨b.ctx, b.wave, act, .load d (2 ^ w) ext vals [] todo later⟩ ∧
        ((todo = [] ∧ later = none) ∨ (todo = ks ∧ later = acq)) ∧ (.loadDataReturn, [s.nextId]) ∈ t.agenda ∧
        ∀ p ∈ ks, SMap.find? vals p.1 = some (readMem s.mem p.2 (2 ^ w))) ∧
    ∀ i own rel, (i = .st d a w l ∧ own = false ∧ rel = none) ∨ (i = .stRel d a sc w l ∧ own = false ∧ rel = some sc) ∨
        (i = .sts d a w l ∧ own = true ∧ rel = none) ∨ (i = .stsRel d a sc w l ∧ own = true ∧ rel = some sc) →
      Passes i s b x v act → ks.map (·.1) = act.filter (fun k => !v.isHelper k) → ks ≠ [] →
      (∀ p ∈ ks, Plain s b x (2 ^ w) (laneAddr v own a p.1) p.2) →
      ∃ t todo, exec i s = .next t ∧ left i s b act t ∧
        t.op? s.nextId = some ⟨b.ctx, b.wave, ks.map (·.1), .store (2 ^ w) rel todo⟩ ∧ (.storeAcknowledged, [s.nextId]) ∈ t.agenda ∧
        ((todo = ks.map fun p => (p.1, p.2, storeData v d (2 ^ w) p.1)) ∧ t.mem = s.mem ∨
          todo = [] ∧ ∀ j, readByte t.mem j = ks.foldl (fun y p => if p.2 ≤ j ∧ j < p.2 + 2 ^ w then
            BitVec.ofNat 8 (storeData v d (2 ^ w) p.1 / 256 ^ (j - p.2)) else y) (readByte s.mem j))) ∧
  (let left (i : Instr) (s : State) (b : Bundle) (act : List Nat) (t : State) : Prop := t.hub = s.hub ∧
    ∀ c k, (t.wave? c k).map (fun z => { z with rend := none }) = ((pass i b act s).wave? c k).map fun z => { z with rend := none }
  let written (n : Nat) (steps : List (Nat × Nat × Nat)) (m t : List Host.Cell) : Prop :=
    ∀ j, readByte t j = steps.foldl (fun y e => if e.2.1 ≤ j ∧ j < e.2.1 + n then
      BitVec.ofNat 8 (e.2.2 / 256 ^ (j - e.2.1)) else y) (readByte m j)
  let mirrors (s : State) (ks : List Nat) : List Nat := if s.mirroredLines ks = [] then [] else 0 :: s.mirroredLines ks
  (∀ d a sc w l e i own ext acq, (i = .ld d a e w l ∧ own = false ∧ ext = decide (e = 1) ∧ acq = none) ∨
      (i = .ldAcq d a sc w l ∧ own = false ∧ ext = false ∧ acq = some sc) ∨
      (i = .lds d a e w l ∧ own = true ∧ ext = decide (e = 1) ∧ acq = none) ∨
      (i = .ldsAcq d a sc w l ∧ own = true ∧ ext = false ∧ acq = some sc) →
    ∀ s b x v act, Passes i s b x v act → (∀ o, x.touched o (2 ^ w) = []) →
      let waits (p : Place) : Prop := p.space = 3 ∧ p.ctx = b.ctx ∧ s.unwritten b.ctx p.off (2 ^ w) = true
      let as := act.map fun k => (k, laneAddr v own a k)
      ∀ ps u, plan (pass i b act s) b x v act ⟨.ldst, 2 ^ w, permR, true, acq, none⟩ as = .go ps u →
        (∀ k j p, (k, j, some p) ∈ ps → waits p → acq = none ∧ ∀ m, SMap.get 0 s.poison m = 0) →
        ∃ t vals waiting todo later, exec i s = .next t ∧ left i s b act t ∧
          t.op? s.nextId = some ⟨b.ctx, b.wave, act, .load d (2 ^ w) ext vals waiting todo later⟩ ∧
          ((todo = [] ∧ later = none) ∨ (later = acq ∧
            todo = ps.filterMap fun e => if (SMap.find? waiting e.1).isSome then none else e.2.2.map fun p => (e.1, p.key))) ∧
          ((∀ k j p, (k, j, some p) ∈ ps → ¬ waits p) → waiting = [] ∧
            (.loadDataReturn, s.nextId :: mirrors s (ps.filterMap fun e => e.2.2.map fun p => p.key)) ∈ t.agenda) ∧
          (act.Nodup → ∀ k j p, (k, j, some p) ∈ ps → waits p → SMap.find? waiting k = some p.off) ∧
          ((∀ e ∈ as, addrSpace e.2 ≠ 1) → t.mem = u.mem ∧ (act.Nodup → ∀ k j p, (k, j, some p) ∈ ps → ¬ waits p →
            p.space ≠ 2 ∨ (acq ≠ none ∧ p.key % 128 + 2 ^ w ≤ 128) →
              SMap.find? vals k = some (readMem u.mem p.key (2 ^ w))))) ∧
  (∀ d a sc w l i own rel, (i = .st d a w l ∧ own = false ∧ rel = none) ∨ (i = .stRel d a sc w l ∧ own = false ∧ rel = some sc) ∨
      (i = .sts d a w l ∧ own = true ∧ rel = none) ∨ (i = .stsRel d a sc w l ∧ own = true ∧ rel = some sc) →
    ∀ s b x v act, Passes i s b x v act →
      let stored := (act.filter fun k => !v.isHelper k).map fun k => (k, laneAddr v own a k)
      (stored = [] → ∃ t, Passed i s b x v act t ∧ exec i s = .next t) ∧
      ∀ ps u, stored ≠ [] → plan (pass i b act s) b x v act ⟨.ldst, 2 ^ w, permW, false, none, none⟩ stored = .go ps u →
        let steps := ps.filterMap fun e => e.2.2.map fun p => (e.1, p.key, storeData v d (2 ^ w) e.1)
        ∃ t todo, exec i s = .next t ∧ left i s b act t ∧
          t.op? s.nextId = some ⟨b.ctx, b.wave, stored.map (·.1), .store (2 ^ w) rel todo⟩ ∧
          ((todo = steps ∧ (.storeAcknowledged, [s.nextId]) ∈ t.agenda) ∨
            (todo = [] ∧ (.storeAcknowledged, s.nextId :: mirrors s (steps.map fun e => e.2.1)) ∈ t.agenda)) ∧ ((∀ e ∈ stored, addrSpace e.2 ≠ 1) →
            (todo = steps → steps ≠ [] → t.mem = u.mem) ∧ (todo = [] → written (2 ^ w) steps u.mem t.mem))) ∧
  ∀ s id o x n rel todo, s.args = [id] → s.op? id = some o → s.ctx? o.ctx = some x → o.kind = .store n rel todo →
    (∀ e ∈ todo, 0x2000000000000000 ≤ e.2.1 ∧ e.2.1 < 0x5000000000000000) → s.mirrorsAwaited .storeAcknowledged id = false →
    (∀ k ∈ s.waiting, k.turn = false ∧ ¬ (k.event = .storeAcknowledged ∧ k.args.head? = some id)) →
    ∃ t, exec .storeAcknowledged s = .next t ∧ t.op? id = none ∧ t.hub = s.hub ∧ (∀ c w, t.wave? c w = s.wave? c w) ∧
      written n todo s.mem t.mem)

/-- R102, R314, R315: a fence goes in flight waiting for the unfinished accesses of its lanes: an acquire for loads and
atomics that return a value, a release for stores, atomics and loads not yet performed, a full fence for all; tfence for the wave's
remote atomics and copies of another package's memory. With nothing to wait for its completion comes next; and the lanes keep the
widest scope of their release fences: of R113's record the model's choice (log 14, DEDUCED).
R313, R316: inval discards every L1 line of its core. A prefetch changes no register, lane, hub register or operation, and, with no
partials held in control space (whose page tables it may read), no byte of memory outside control space: the L1 of its core may take
lines, each with the bytes memory holds.
R27, R62, R100, R105, R268, R303, R304: LOAD_DATA_RETURN writes each lane's registers from the bytes read, sign-extended when
the load says so, and no other register; what it left to be read it reads now, in the own scratchpad that nothing locks (log 5); INSTRUCTION_COMPLETE writes results and ORs their flags, and ends a fence or tfence
that waits for nothing more. The operation is in flight no more, and no byte of memory
changes. UNCORRECTABLE_ERROR poisons every byte of its 32-byte unit and
nothing else; one of a unit that an atomic in flight has yet to change is found after it. -/
def Obligations.FencesAndCompletions : Prop :=
  (let waits (s : State) (p : Op → Bool) : List Nat := (s.ops.filter fun e => p e.2).map (·.1)
  let own (b : Bundle) (o : Op) : Bool := o.ctx == b.ctx && o.wave == b.wave
  let met (act : List Nat) (o : Op) : Bool := o.lanes.any act.contains
  let isLoad : OpKind → Bool := fun k => match k with | .load .. => true | _ => false
  let isStore : OpKind → Bool := fun k => match k with | .store .. => true | _ => false
  let late : OpKind → Bool := fun k => match k with | .load _ _ _ _ ws todo _ => !ws.isEmpty || !todo.isEmpty | _ => false
  let isAtomic : OpKind → Bool := fun k => match k with | .atomic .. => true | _ => false
  let returns : OpKind → Bool := fun k => match k with | .atomic _ _ _ _ r _ _ => r | _ => false
  let far : OpKind → Bool := fun k => match k with
    | .ratom .. => true
    | .copy _ _ _ _ _ _ _ _ link => link != 0
    | _ => false
  let goes (t : State) (b : Bundle) (act : List Nat) (id : Nat) (k : OpKind) (ws : List Nat) : State :=
    if ws = [] then (t.launchAt id b act k).post .instructionComplete [id] else t.launchAt id b act k
  let widen (t : State) (b : Bundle) (act : List Nat) (sc : Nat) : State :=
    t.modLanes b.ctx b.wave act fun n => { n with fenced := max n.fenced (sc + 1) }
  ∀ sc,
  PassesThen (.fenceAcq sc) (fun s b _ _ act t =>
    let ws := waits s fun o => own b o && met act o && (isLoad o.kind || returns o.kind)
    goes t b act s.nextId (.fence 0 sc ws) ws) ∧
  PassesThen (.fenceRel sc) (fun s b _ _ act t =>
    let ws := waits s fun o => own b o && met act o && (late o.kind || isStore o.kind || isAtomic o.kind)
    goes (widen t b act sc) b act s.nextId (.fence 1 sc ws) ws) ∧
  PassesThen (.fenceFull sc) (fun s b _ _ act t =>
    let ws := waits s fun o => own b o && met act o && (isLoad o.kind || isStore o.kind || isAtomic o.kind)
    goes (widen t b act sc) b act s.nextId (.fence 2 sc ws) ws) ∧
  PassesThen .tfence (fun s b _ _ act t =>
    let ws := waits s fun o => own b o && far o.kind
    goes t b act s.nextId (.tfence ws) ws)) ∧
  (PassesThen .inval (fun _ _ x _ _ t => { t with l1 := t.l1.filter fun e => e.1 / 0x200000000 ≠ x.place }) ∧
  ∀ a w i, i = .prefetchL1 a w ∨ i = .prefetchCm a w → ∀ s b x v act, Passes i s b x v act →
    ∃ t, exec i s = .next t ∧ t.hub = s.hub ∧ t.ops = s.ops ∧ (∀ c k, t.wave? c k = (pass i b act s).wave? c k) ∧
      ((∀ n y c, (n, y) ∈ s.lines → c ∈ y.members → c.state ≠ .c) → (∀ l ∈ act, addrSpace (v.pair a l) ≠ 1) →
        t.mem = s.mem ∧ ∀ e ∈ t.l1, e ∈ s.l1 ∨
          (i = .prefetchL1 a w ∧ ∃ n, e = (0x200000000 * x.place + n, readMem s.mem (tensorKey (n * 128)) 128)))) ∧
  ((∀ s id o d n (ext : Bool) vals acq y v, s.args = [id] → s.op? id = some o → o.kind = .load d n ext vals [] [] acq →
    s.ctx? o.ctx = some y → SMap.find? y.waves o.wave = some v → 0 < n → (vals.map (·.1)).Nodup → (∀ e ∈ vals, e.1 < 32) →
    ∃ t u, exec .loadDataReturn s = .next t ∧ t.op? id = none ∧ t.mem = s.mem ∧ t.hub = s.hub ∧
      t.wave? o.ctx o.wave = some u ∧ u.lanes = v.lanes ∧
      (∀ e ∈ vals, ∀ j, j < (n + 3) / 4 → u.reg (d + j) e.1 =
        if ext ∧ n < 4 then BitVec.ofInt 32 (signExtend e.2 (8 * n)) else BitVec.ofNat 32 (e.2 / 2 ^ (32 * j))) ∧
      ∀ r l, l < 32 → (l ∉ vals.map (·.1) ∨ r < d ∨ d + (n + 3) / 4 ≤ r) → u.reg r l = v.reg r l) ∧
  (∀ s id o d n (ext : Bool) vals todo y v, s.args = [id] → s.op? id = some o → o.kind = .load d n ext vals [] todo none →
    s.ctx? o.ctx = some y → SMap.find? y.waves o.wave = some v → y.placed = true → o.ctx < 2 ^ 16 → 0 < n →
    (todo.map (·.1)).Nodup → (vals.map (·.1)).Pairwise (· < ·) → (∀ e ∈ vals, e.1 < 32) → s.poison = [] → (∀ p c, (p, c) ∈ s.cores → c.locks = []) → (∀ k, s.unwritten o.ctx k n = false) →
    (∀ e ∈ todo, e.1 < 32 ∧ ∃ k, k < 2 ^ 18 ∧ e.2 = scratchKey o.ctx k) →
    ∃ t u, exec .loadDataReturn s = .next t ∧ t.op? id = none ∧ t.mem = s.mem ∧ t.wave? o.ctx o.wave = some u ∧
      ∀ e ∈ todo, ∀ j, j < (n + 3) / 4 → u.reg (d + j) e.1 =
        if ext ∧ n < 4 then BitVec.ofInt 32 (signExtend (readMem s.mem e.2 n) (8 * n))
        else BitVec.ofNat 32 (readMem s.mem e.2 n / 2 ^ (32 * j))) ∧
  (∀ s id o sc, s.args = [id] → s.op? id = some o → o.kind = .fence 1 sc [] ∨ o.kind = .tfence [] →
    exec .instructionComplete s = .next (s.endOp id)) ∧
  (∀ s id o x k sc, s.args = [id] → s.op? id = some o → s.ctx? o.ctx = some x → o.kind = .fence k sc [] → k ≠ 1 →
    ∃ t, exec .instructionComplete s = .next t ∧ t.op? id = none ∧ t.mem = s.mem ∧
      (1 ≤ sc → ∀ e ∈ t.l1, e ∈ s.l1 ∧ e.1 / 0x200000000 ≠ x.place)) ∧
  (∀ s id o ws fl y v, s.args = [id] → s.op? id = some o → o.kind = .result ws fl →
    s.ctx? o.ctx = some y → SMap.find? y.waves o.wave = some v → (ws.map (·.1)).Nodup →
    ∃ t u, exec .instructionComplete s = .next t ∧ t.op? id = none ∧ t.mem = s.mem ∧ t.wave? o.ctx o.wave = some u ∧
      (∀ e ∈ ws, SMap.get 0 u.regs e.1 = e.2) ∧ (∀ k, k ∉ ws.map (·.1) → SMap.get 0 u.regs k = SMap.get 0 v.regs k) ∧
      ∀ l n, v.lane? l = some n → ∃ m, u.lane? l = some m ∧
        m.lsw = fl.foldl (fun z e => if e.1 = l then z ||| BitVec.ofNat 32 (e.2 % 32) else z) n.lsw) ∧
  ∀ s k, s.args = [k] → 0x1000000000000000 / 32 ≤ k → k < 0x5000000000000000 / 32 →
    ((∀ id o, (id, o) ∈ s.ops → (∀ op f n d r as vs, o.kind ≠ .atomic op f n d r as vs) ∧
        ∀ d n e vs ws td aq, o.kind = .load d n e vs ws td aq → ws = [] ∧ td = []) →
      exec .uncorrectableError s = .next { s with poison := SMap.set 0 s.poison k (2 ^ 32 - 1) }) ∧
    (∀ id o op f n d r as vs, (id, o) ∈ s.ops → o.kind = .atomic op f n d r as vs → o.kind.meets (32 * k) 32 = true →
      exec .uncorrectableError s = .next (s.post .uncorrectableError [k])))

/-- R100, R109 to R111, R309 to R311, log 5: an atomic whose lanes' addresses pass every check (the state after them is u), outside
control space, makes one read-modify-write for each lane that is no helper, ascending, its operand a register, or a pair for 8
bytes. One of use .sync makes them at once, and goes in flight with the values found or, as a store, its acknowledgement; one of
another use goes in flight to its home. One of helper lanes alone changes nothing.
R109 to R111, R299, R309, R310: in own scratchpad (atoms) and the own commons window (atom) an atomic completes when every lane's
address is in bounds and aligned, no window of the block is absent or to be filled, no range lock stands, no unit is poisoned, one
of use .sync meets no record, and the wave has no store or atomic still to be performed.
R109, R112, R309: ATOMIC_AT_HOME executes the steps of an atomic outside control space in ascending lane order: each finds a
value, stores the new one (R307) and changes no other byte; the values found return to the lanes, or the acknowledgement does.
f32 adds of use .comm, which may be merged, change their words alone, and with one lane and no other of them in flight round once.
R307: the new value of an atomic on 4 or 8 bytes by its operation: add, minimum, maximum (each signed, unsigned or, on 4
bytes, f32), and, or, xor, exchange, compare-and-swap. -/
def Obligations.Atomics : Prop :=
  (∀ d a rb rc op kind sc use f w l i scratch,
  (i = .atom d a rb rc op kind sc use f w l ∧ scratch = false) ∨ (i = .atoms d a rb rc op kind sc use f w l ∧ scratch = true) →
  ∀ s b x v act, Passes i s b x v act →
    let ls := act.filter fun k => !v.isHelper k
    let operand (r k : Nat) : Nat := (v.reg r k).toNat + if w = 3 then 2 ^ 32 * (v.reg (r + 1) k).toNat else 0
    (ls = [] → ∃ t, Passed i s b x v act t ∧ exec i s = .next t) ∧
    ∀ ps u, ls ≠ [] → plan (pass i b act s) b x v act ⟨if scratch then .atoms else .atom, 2 ^ w, permR + permW, false,
        if use = 0 then some sc else none, if use = 2 ∧ op = 0 then some (if f = 2 then 2 else if w = 3 then 1 else 0) else none⟩
        (ls.map fun k => (k, v.pair a k)) = .go ps u →
      ∃ t o, exec i s = .next t ∧ t.hub = s.hub ∧ (∀ c k, (t.wave? c k).map (fun z => { z with rend := none }) =
          ((pass i b act s).wave? c k).map fun z => { z with rend := none }) ∧
        t.op? s.nextId = some o ∧ o.ctx = b.ctx ∧ o.wave = b.wave ∧ o.lanes = ls ∧
        ((∀ k ∈ ls, addrSpace (v.pair a k) ≠ 1) →
          let steps := ps.filterMap fun e => e.2.2.map fun p =>
            (⟨e.1, p.key, operand rb e.1, operand rc e.1, p.comm && use == 2 && op == 0⟩ : AStep)
          let run := steps.foldl (fun (r : List Host.Cell × List (Nat × Nat)) a =>
            let old := readMem r.1 a.key (2 ^ w)
            (writeMem r.1 a.key (2 ^ w) (atomicNew op f (2 ^ w) old a.x a.c), SMap.insert r.2 a.lane old)) (u.mem, [])
          (use = 0 → t.mem = run.1 ∧ o.kind = .load d (2 ^ w) false run.2 [] [] none ∧ (.loadDataReturn, [s.nextId]) ∈ t.agenda) ∧
          (use ≠ 0 → steps ≠ [] → t.mem = u.mem ∧ o.kind = .atomic op f (2 ^ w) d (use != 2) steps [] ∧
            (.atomicAtHome, [s.nextId]) ∈ t.agenda))) ∧
  (∀ d a rb rc op kind sc use f w l i, i = .atom d a rb rc op kind sc use f w l ∨ i = .atoms d a rb rc op kind sc use f w l →
  ∀ s b x v act (ks : List (Nat × Nat)), Passes i s b x v act → Quiet s b x (2 ^ w) → ks.map (·.1) = act.filter (fun k => !v.isHelper k) → ks ≠ [] →
    (∀ p ∈ ks, Plain s b x (2 ^ w) (v.pair a p.1) p.2 ∧
      (i = .atom d a rb rc op kind sc use f w l → addrSpace (v.pair a p.1) = 4) ∧
      (i = .atoms d a rb rc op kind sc use f w l → addrSpace (v.pair a p.1) = 3)) →
    (use = 0 → ∀ p ∈ ks, p.2 < 0x4000000000000000 ∨ SMap.find? s.recs (p.2 / 128) = none) →
    let operand (r k : Nat) : Nat := (v.reg r k).toNat + if w = 3 then 2 ^ 32 * (v.reg (r + 1) k).toNat else 0
    let run := ks.foldl (fun (r : List Host.Cell × List (Nat × Nat)) p =>
      let old := readMem r.1 p.2 (2 ^ w)
      (writeMem r.1 p.2 (2 ^ w) (atomicNew op f (2 ^ w) old (operand rb p.1) (operand rc p.1)), SMap.insert r.2 p.1 old)) (s.mem, [])
    ∃ t, exec i s = .next t ∧ t.hub = s.hub ∧
      (use = 0 → t.mem = run.1 ∧ t.op? s.nextId = some ⟨b.ctx, b.wave, ks.map (·.1), .load d (2 ^ w) false run.2 [] [] none⟩ ∧
        (.loadDataReturn, [s.nextId]) ∈ t.agenda) ∧
      (use ≠ 0 → t.mem = s.mem ∧ t.op? s.nextId = some ⟨b.ctx, b.wave, ks.map (·.1), .atomic op f (2 ^ w) d (use != 2)
          (ks.map fun p => ⟨p.1, p.2, operand rb p.1, operand rc p.1, false⟩) []⟩ ∧ (.atomicAtHome, [s.nextId]) ∈ t.agenda)) ∧
  (∀ s id o x op f n d ret steps vals, s.args = [id] → s.op? id = some o → s.ctx? o.ctx = some x →
    o.kind = .atomic op f n d ret steps vals → (∀ a ∈ steps, 0x2000000000000000 ≤ a.key ∧ a.key < 0x5000000000000000) →
    s.mirrorsAwaited .atomicAtHome id = false →
    (∀ k ∈ s.waiting, k.turn = false ∧ ¬ (k.event = .atomicAtHome ∧ k.args.head? = some id)) →
    let run := steps.foldl (fun (r : List Host.Cell × List (Nat × Nat)) a =>
      let old := readMem r.1 a.key n
      (writeMem r.1 a.key n (atomicNew op f n old a.x a.c), SMap.insert r.2 a.lane old)) (s.mem, vals)
    ∃ t, exec .atomicAtHome s = .next t ∧ t.hub = s.hub ∧ (∀ c w, t.wave? c w = s.wave? c w) ∧
      t.agenda = s.agenda ++ [(if ret then .loadDataReturn else .storeAcknowledged, [id])] ∧
      (ret = true → t.mem = run.1 ∧ t.op? id = some { o with kind := .load d n false run.2 [] [] none }) ∧
      (ret = false → t.op? id = some { o with kind := .store n none [] }) ∧
      (ret = false → (op ≠ 0 ∨ f ≠ 2 ∨ (steps.length ≤ 1 ∧ n = 4 ∧ ∀ j p, (j, p) ∈ s.ops → p.kind.pending.1 ≠ [] → j = id)) →
        t.mem = run.1) ∧
      (op = 0 → f = 2 → n = 4 → ∀ k, (∀ a ∈ steps, k < a.key ∨ a.key + 4 ≤ k) → readByte t.mem k = readByte s.mem k)) ∧
  (∀ n x y c, n = 4 ∨ n = 8 → x < 256 ^ n → y < 256 ^ n →
    let s (z : Nat) : Int := if z < 256 ^ n / 2 then z else (z : Int) - (256 ^ n : Nat)
    (∀ f, f ≤ 1 → atomicNew 0 f n x y c = (x + y) % 256 ^ n) ∧
    atomicNew 1 0 n x y c = (if s x ≤ s y then x else y) ∧ atomicNew 1 1 n x y c = min x y ∧
    atomicNew 2 0 n x y c = (if s x ≤ s y then y else x) ∧ atomicNew 2 1 n x y c = max x y ∧
    (∀ f, atomicNew 3 f n x y c = x &&& y ∧ atomicNew 4 f n x y c = x ||| y ∧ atomicNew 5 f n x y c = x ^^^ y ∧
      atomicNew 6 f n x y c = y ∧ atomicNew 7 f n x y c = if x = c then y else x) ∧
    atomicNew 0 2 4 x y c = roundCode fmtF32 0 ((fmtF32.value x).add false (fmtF32.value y)) ∧
    atomicNew 1 2 4 x y c = (fpMinMax fmtF32 false x y).1 ∧ atomicNew 2 2 4 x y c = (fpMinMax fmtF32 true x y).1)

/-- R87, R124, R312, R443: a ratom whose lanes' addresses pass the checks that come before its issue goes in flight with an operation
for each lane that is no helper, those on the own package due at once; with helper lanes alone it makes its arrival at the
barrier at once. RATOM_AT_TARGET makes the operations of the lanes that name one word, there and ascending, changing no other
byte, and each is acknowledged, with a code when the address cannot be reached; an acknowledgement with a code records it at
the barrier, and the last makes the one arrival and ends the operation. -/
def Obligations.RemoteAtomics : Prop :=
  (∀ a rb op tb f w l s b x v act, Passes (.ratom a rb op tb f w l) s b x v act →
    let i : Instr := .ratom a rb op tb f w l
    let ls := act.filter fun k => !v.isHelper k
    (ls = [] → ∃ t, Passed i s b x v act t ∧ exec i s = .next (t.barrierArrive b.ctx tb 1 0)) ∧
    (ls ≠ [] → (∀ k ∈ ls, ∃ r, earlyCheck (pass i b act s) b.ctx x act ⟨.ratom, 2 ^ w, permR + permW, false, none, none⟩ k
        (v.pair a k) = .ok r) →
      ∃ t todo, exec i s = .next t ∧ t.mem = s.mem ∧ t.hub = s.hub ∧
        (∀ c k, (t.wave? c k).map (fun z => { z with rend := none }) =
          ((pass i b act s).wave? c k).map fun z => { z with rend := none }) ∧
        t.op? s.nextId = some ⟨b.ctx, b.wave, ls, .ratom op f (2 ^ w) tb (ls.map fun k =>
          (k, v.pair a k, (v.reg rb k).toNat + if w = 3 then 2 ^ 32 * (v.reg (rb + 1) k).toNat else 0)) todo⟩ ∧
        todo.map (·.1) = ls ∧ ∀ k ∈ ls, addrPkg (v.pair a k) = s.pkg →
          (k, 0) ∈ todo ∧ (.ratomAtTarget, [s.nextId, k]) ∈ t.agenda)) ∧
  (∀ s id k o x op f n tb steps todo a y, s.args = [id, k] → s.op? id = some o → s.ctx? o.ctx = some x →
    o.kind = .ratom op f n tb steps todo → SMap.find? steps k = some (a, y) →
    let left : State := { s with ops := SMap.insert s.ops id { o with kind := .ratom op f n tb (steps.filter fun e => e.2.1 != a) todo } }
    let same := steps.filter fun e => e.2.1 == a
    (∃ t, exec .ratomAtTarget s = .next t ∧ ∀ e ∈ same, ∃ code, (.ratomAcknowledged, [id, e.1, code]) ∈ t.agenda) ∧
    (same = [(k, a, y)] → ∃ t, exec .ratomAtTarget s = .next t ∧
      (∀ key u, left.engineAddr x a n (permR + permW) = (.ok key, u) → poisoned u key n = false →
        t.agenda = u.agenda ++ [(.ratomAcknowledged, [id, k, 0])] ∧ ∀ j, readByte t.mem j = if key ≤ j ∧ j < key + n then
          BitVec.ofNat 8 (atomicNew op f n (readMem u.mem key n) y 0 / 256 ^ (j - key)) else readByte u.mem j) ∧
      (∀ key u, left.engineAddr x a n (permR + permW) = (.ok key, u) → poisoned u key n = true →
        t.agenda = u.agenda ++ [(.ratomAcknowledged, [id, k, 4])] ∧ t.mem = u.mem) ∧
      ∀ c u, left.engineAddr x a n (permR + permW) = (.error c, u) →
        t.agenda = u.agenda ++ [(.ratomAcknowledged, [id, k, c])] ∧ t.mem = u.mem)) ∧
  ∀ s id k code o op f n tb steps todo z, s.args = [id, k, code] → s.op? id = some o → o.kind = .ratom op f n tb steps todo →
    SMap.find? todo k = some z → code ≤ 9 →
    let r := if code = 0 then s else s.barrierFail o.ctx tb code
    (SMap.erase todo k ≠ [] → exec .ratomAcknowledged s = .next { r with
      ops := SMap.insert r.ops id { o with kind := .ratom op f n tb steps (SMap.erase todo k) } }) ∧
    (SMap.erase todo k = [] → exec .ratomAcknowledged s = .next ((r.barrierArrive o.ctx tb 1 0).endOp id) ∧
      ((r.barrierArrive o.ctx tb 1 0).endOp id).op? id = none)

/-! ### Privileged state -/

/-- R137, R399, R442: a fault or trap of a wave with nothing in flight, outside handler mode, in a context with a trap vector,
enters the handler: EPC takes each lane's program counter, its guard and parked state are kept, it goes on unparked and
unguarded at TVEC with aging count 0, HMODE is 1, and TCAUSE, TMASK and TVAL hold the record; an overwrite fault clears OVWPEND
of its lanes; registers, memory and other waves stand. With no trap vector, or in handler mode, the record is kept, every block of the
span goes to Halted by a drain, and an event of type 2 is written. With instructions in flight the wave waits for them, and
HANDLER_ENTRY then does the same. Which arrivals at barriers wait with the kept state is the model's own record. -/
def Obligations.HandlerEntry : Prop :=
  let entered (x : Ctx) (k : Trap) (v u : Wave) : Prop := u.hmode = true ∧ u.trap = none ∧ u.regs = v.regs ∧ u.part = v.part ∧
    u.pend = v.pend ∧ u.sends = v.sends ∧ u.event = v.event ∧
    u.tcause = BitVec.ofNat 32 (k.cls + 2 ^ 8 * k.detail + 2 ^ 18 * k.lane) ∧ u.tmask = BitVec.ofNat 32 k.mask ∧
    u.tval = BitVec.ofNat 64 k.tval ∧ ∀ l n, v.lane? l = some n → ∃ m, u.lane? l = some m ∧
      let lsw := if k.cls = 6 ∧ k.mask.testBit l = true then n.lsw &&& ~~~0x100#32 else n.lsw
      (n.exited = true → m = { n with lsw := lsw }) ∧ (n.exited = false → m = { n with
        lsw := lsw, epc := n.pc, kept := ⟨n.gcount, n.gpred, n.park⟩, park := .none, gcount := 0, gpred := false, pc := x.tvec, age := 0
        owed := n.owed.map fun o => if o.waits = .lane then { o with waits := .kept } else o })
  let others (c w : Nat) (s t : State) : Prop := t.mem = s.mem ∧ t.hub = s.hub ∧
    ∀ d k, (d, k) ≠ (c, w) → t.wave? d k = s.wave? d k
  let halts (x : Ctx) (k : Trap) (c w : Nat) (v : Wave) (s t : State) : Prop := t.mem = s.mem ∧ t.hub = s.hub ∧
    (∃ u, t.wave? c w = some u ∧ u.trap = none ∧ u.regs = v.regs ∧ u.hmode = v.hmode ∧
      u.tcause = BitVec.ofNat 32 (k.cls + 2 ^ 8 * k.detail + 2 ^ 18 * k.lane) ∧ u.tmask = BitVec.ofNat 32 k.mask ∧
      u.tval = BitVec.ofNat 64 k.tval) ∧
    ∀ d y, s.ctx? d = some y → y.launch = x.launch → y.span = x.span → y.state ≠ .free → y.state ≠ .retiring →
      (y.state = .resident ∧ y.goal = .none) ∨ y.goal = .saved ∨ y.goal = .stopped →
      ∃ z, t.ctx? d = some z ∧ z.state = .saving ∧ z.goal = .halted ∧ z.busy = true ∧ (.saveComplete, [d]) ∈ t.agenda
  ∀ s c w x v k, s.ctx? c = some x → SMap.find? x.waves w = some v →
    (s.waveBusy c w = false → x.tvec = 0 ∨ v.hmode = true →
      ∃ u, halts x k c w v s u ∧ EventWritten 2 x.queue c k.cls k.tval u (s.takeTrap c w k)) ∧
    (s.args = [c, w] → v.trap = some k → s.waveBusy c w = false → x.tvec = 0 ∨ v.hmode = true → x.goal = .none →
      ∃ u t, halts x k c w v s u ∧ EventWritten 2 x.queue c k.cls k.tval u t ∧ exec .handlerEntry s = .next (t.afterWork c w)) ∧
    (s.waveBusy c w = false → x.tvec ≠ 0 → v.hmode = false → others c w s (s.takeTrap c w k) ∧
      ∃ u, (s.takeTrap c w k).wave? c w = some u ∧ entered x k v u) ∧
    (s.waveBusy c w = true → others c w s (s.takeTrap c w k) ∧
      (s.takeTrap c w k).wave? c w = some { v with trap := some k }) ∧
    (s.args = [c, w] → v.trap = some k → s.waveBusy c w = false → x.tvec ≠ 0 → v.hmode = false → x.goal = .none →
      ∃ t u, exec .handlerEntry s = .next t ∧ others c w s t ∧ t.wave? c w = some u ∧ entered x k v u)

/-- R395, R396: sysr writes the named register to vd in every active lane, a per-lane register with each lane's own half;
those from 0x040 read the window.
R395, R396, R403, R437: sysw writes a per-lane register from each active lane that is no helper and any other from the lowest of
them; EVENT is cleared by a one; TCAUSE keeps its reserved bits zero; read-only registers keep their values; from 0x040 the window takes the write. -/
def Obligations.SystemRegisters : Prop :=
  (∀ d n s b x v act, Passes (.sysr d n) s b x v act →
    let lo (y : Dword) : Word := y.setWidth 32
    let hi (y : Dword) : Word := (y >>> 32).setWidth 32
    let value (l : Nat) : Word :=
      if 0x040 ≤ n then BitVec.ofNat 32 ((pass (.sysr d n) b act s).regRead n) else
      let lane (f : Lane → Word) : Word := ((v.lane? l).map f).getD 0
      match n with
      | 0x000 => BitVec.ofNat 32 (b.ctx + 2 ^ 16 * x.part)
      | 0x001 => BitVec.ofNat 32 ((if x.priv then 1 else 0) + (if v.hmode then 2 else 0) + if x.dbgen then 4 else 0)
      | 0x002 => lo x.tvec
      | 0x003 => hi x.tvec
      | 0x004 => lane fun m => lo m.epc
      | 0x005 => lane fun m => hi m.epc
      | 0x006 => v.tcause
      | 0x007 => v.tmask
      | 0x008 => lo v.tval
      | 0x009 => hi v.tval
      | 0x00A => lo x.tscr
      | 0x00B => hi x.tscr
      | 0x00C => if v.event then 1 else 0
      | 0x00D => lane fun m => lo m.ovrec
      | 0x00E => lane fun m => hi m.ovrec
      | _ => 0
    ∃ t, exec (.sysr d n) s = .next t ∧ Effect (.sysr d n) s (s.noteSample b act) b x v act (fun l => [(d, value l)]) (fun _ m => m) t) ∧
  (∀ a n, PassesThen (.sysw a n) fun _ b _ v act t =>
    let ls := act.filter fun l => !v.isHelper l
    let lo (y : Dword) (z : Word) : Dword := ((y >>> 32).setWidth 32 : Word) ++ z
    let hi (y : Dword) (z : Word) : Dword := z ++ (y.setWidth 32 : Word)
    let lane (f : Dword → Word → Dword) : State := t.modLanesBy b.ctx b.wave fun l m =>
      if l ∈ ls then { m with epc := f m.epc (v.reg a l) } else m
    match ls with
    | [] => t
    | k :: _ =>
      let z := v.reg a k
      if 0x040 ≤ n then t.writeLow n z.toNat true else
      match n with
      | 0x002 => t.modCtx b.ctx fun x => { x with tvec := lo x.tvec z }
      | 0x003 => t.modCtx b.ctx fun x => { x with tvec := hi x.tvec z }
      | 0x004 => lane lo
      | 0x005 => lane hi
      | 0x006 => t.modWave b.ctx b.wave fun u => { u with tcause := BitVec.ofNat 32 (z.toNat % 2 ^ 23) }
      | 0x007 => t.modWave b.ctx b.wave fun u => { u with tmask := z }
      | 0x008 => t.modWave b.ctx b.wave fun u => { u with tval := lo u.tval z }
      | 0x009 => t.modWave b.ctx b.wave fun u => { u with tval := hi u.tval z }
      | 0x00A => t.modCtx b.ctx fun x => { x with tscr := lo x.tscr z }
      | 0x00B => t.modCtx b.ctx fun x => { x with tscr := hi x.tscr z }
      | 0x00C => if z.toNat % 2 = 1 then t.modWave b.ctx b.wave fun u => { u with event := false } else t
      | _ => t)

/-- R400 to R404: eret restores each lane's program counter from EPC and its kept guard, clears HMODE, and parks a lane again
at its named barrier or, the event bit being 0, at wfe; halt saves the span into Halted; wfe clears a set event bit, else
parks the active lanes; tlbinv goes in flight behind a full fence at package scope, and discards its translations, with the
core's L1, when it completes. -/
def Obligations.SystemInstructions : Prop :=
  PassesThen .eret (fun _ b _ v _ t => t.modWave b.ctx b.wave fun u => { u with
    hmode := false
    event := if ∃ e ∈ u.lanes, e.2.exited = false ∧ e.2.kept.park = .wfe then false else u.event
    lanes := SMap.mapVals u.lanes fun _ n => if n.exited then n else { n with
      pc := n.epc, gcount := n.kept.gcount, gpred := n.kept.gpred, age := 0
      owed := n.owed.map fun o => { o with waits := match o.waits with
        | .kept => .lane
        | _ => .none }
      park := (match n.kept.park with
        | .bar k => .bar k
        | .wfe => if v.event then .none else .wfe
        | _ => .none)
      kept := ⟨0, false, .none⟩ } }) ∧
  PassesThen .halt (fun _ b _ _ _ t => t.startDrain b.ctx .halted .saveComplete) ∧
  PassesThen .wfe (fun _ b _ v act t =>
    if v.event then t.modWave b.ctx b.wave fun u => { u with event := false }
    else t.modLanes b.ctx b.wave act fun m => { m with park := .wfe }) ∧
  (∀ a i form operand, (i = .tlbinvPage a ∧ form = 0 ∧ operand = fun x v l => ((x : Ctx).part, (v : Wave).pair a l)) ∨
      (i = .tlbinvPart a ∧ form = 1 ∧ operand = fun _ v l => ((v.reg a l).toNat % 16, 0)) ∨
      (i = .tlbinvAll ∧ form = 2 ∧ operand = fun _ _ _ => (0, 0)) →
    PassesThen i fun s b x v act t =>
      let ws := (s.ops.filter fun e => e.2.ctx == b.ctx && e.2.wave == b.wave && e.2.lanes.any act.contains &&
        match e.2.kind with
        | .load .. | .store .. | .atomic .. => true
        | _ => false).map (·.1)
      let op := operand x v (act.headD 0)
      let u := (t.modLanes b.ctx b.wave act fun n => { n with fenced := max n.fenced 5 }).launchAt s.nextId b act
        (.tlbinv form op.1 op.2 ws)
      if ws = [] then u.post .tlbinvComplete [s.nextId] else u) ∧
  ∀ s id o form part va x, s.args = [id] → s.op? id = some o → o.kind = .tlbinv form part va [] → s.ctx? o.ctx = some x →
    ∃ t, exec .tlbinvComplete s = .next t ∧ t.op? id = none ∧ t.mem = s.mem ∧
      t.tlb = s.tlb.filter (fun e => !s.invalidated form part va e) ∧
      t.walkers = s.walkers.filter (fun e => !s.pointerInvalidated form part va e) ∧ ∀ e ∈ t.l1, e ∈ s.l1 ∧ e.1 / 0x200000000 ≠ x.place

/-! ### Matrix units, regions, transaction barriers and chains -/

/-- R320, R324, R331, R333: mcfg loads the 64-byte configuration it reads, unless R323 calls it malformed (DETAIL 1), with
accumulators zero, tile flags clear and the latch empty, once the pipeline is empty; gang sets the gang register of its wave
to 0 or to 2 to 6 waves of the block with its own among them, else it faults with cause 2. On a loaded unit mzero, mrd, mwr
and mscale mark their tile and enter the pipeline; a row index of 96 or more is cause 7; on an unloaded one cause 1. -/
def Obligations.MatrixAccess : Prop :=
  let takes (i : Instr) (s : State) (b : Bundle) (v : Wave) (act : List Nat) (k : Trap) : Prop :=
    v.isHelper (act.headD 0) = false → Takes i s b k
  (∀ a l s b x v act low k ws u, Passes (.mcfg a l) s b x v act →
    readImages s (pass (.mcfg a l) b act s) b x v act 64 [(act.headD 0, v.pair a (act.headD 0))] = .ok ((low, k) :: ws) u →
    (cfgMalformed k = true → takes (.mcfg a l) s b v act ⟨0x14, 1, 0, laneMask act, v.pair a (act.headD 0)⟩) ∧
    (cfgMalformed k = false → x.mat.pipe = [] →
      exec (.mcfg a l) s = .next (u.modCtx b.ctx fun y => { y with mat := ⟨true, k, [], [], none, []⟩ }))) ∧
  (∀ a l s b x v act p, Passes (.mcfg a l) s b x v act → Quiet s b x 64 → Plain s b x 64 (v.pair a (act.headD 0)) p →
    cfgMalformed (readMem s.mem p 64) = false → x.mat.pipe = [] → ∃ t y, exec (.mcfg a l) s = .next t ∧ t.mem = s.mem ∧ t.hub = s.hub ∧
      t.ops = s.ops ∧ t.ctx? b.ctx = some y ∧ y.mat = ⟨true, readMem s.mem p 64, [], [], none, []⟩ ∧ y.regions = x.regions) ∧
  (∀ a s b x v act, Passes (.gang a) s b x v act →
    let g := (v.reg a (act.headD 0)).toNat
    let size := ((List.range 16).filter fun k => g.testBit k).length
    let good : Prop := g = 0 ∨ (g < 2 ^ 16 ∧ g.testBit b.wave = true ∧ 2 ≤ size ∧ size ≤ 6 ∧ g < 2 ^ x.nwaves)
    (good → ∃ t, exec (.gang a) s = .next t ∧ t.mem = s.mem ∧ t.hub = s.hub ∧ t.ops = s.ops ∧
      ∃ y u, t.ctx? b.ctx = some y ∧ SMap.find? y.waves b.wave = some u ∧ u.gang = g ∧ u.regs = v.regs ∧
        y.mat.acc = x.mat.acc ∧ y.mat.cfg = x.mat.cfg ∧ (∀ k, y.mat.latch = some k → k.ofWave b.wave = false) ∧
        ∀ w, w ≠ b.wave → SMap.find? y.waves w = SMap.find? x.waves w) ∧
    (¬ good → takes (.gang a) s b v act ⟨0x17, 2, 0, laneMask act, 0⟩)) ∧
  let mark (t : State) (c tl : Nat) (z : Tile) : State := t.modCtx c fun y => { y with mat := y.mat.setTile tl z }
  let enter (t : State) (c : Nat) (o : MatOp) : State :=
    (t.modCtx c fun y => { y with mat := { y.mat with pipe := y.mat.pipe ++ [o] } }).post .matrixOperationComplete [c]
  let row (v : Wave) (a l : Nat) : Nat := (v.reg a l).toNat % 128
  let first (v : Wave) (a l : Nat) : Nat := 64 * row v a l + 8 * ((v.reg a l).toNat / 128 % 8)
  (∀ i tl l d a s b x v act, Passes i s b x v act → i = .mzero tl l ∨ i = .mrd d a tl l ∨ i = .mwr d a tl l ∨ i = .mscale a tl l →
    x.mat.loaded = false → takes i s b v act ⟨0x17, 1, 0, laneMask act, 0⟩) ∧
  (∀ i tl l d a s b x v act, Passes i s b x v act → i = .mrd d a tl l ∨ i = .mwr d a tl l → x.mat.loaded = true →
    (∃ k ∈ act, v.isHelper k = false ∧ 96 ≤ row v a k) → Takes i s b ⟨0x17, 7, 0, laneMask act, 0⟩) ∧
  (∀ tl l s b x v act, Passes (.mzero tl l) s b x v act → x.mat.loaded = true →
    ∃ t, Passed (.mzero tl l) s b x v act t ∧
      exec (.mzero tl l) s = .next (enter (mark t b.ctx tl ⟨0, false, false⟩) b.ctx (.mzero tl))) ∧
  (∀ d a tl l s b x v act, Passes (.mrd d a tl l) s b x v act → x.mat.loaded = true →
    (∀ k ∈ act, v.isHelper k = false → row v a k < 96) →
    ∃ t, Passed (.mrd d a tl l) s b x v act t ∧ exec (.mrd d a tl l) s = .next
      (enter ((mark t b.ctx tl { x.mat.tile tl with inuse := true }).launchAt s.nextId b act .mrd) b.ctx
        (.mrd tl s.nextId d (act.map fun k => (k, if row v a k < 96 then some (first v a k) else none))))) ∧
  (∀ d a tl l s b x v act, Passes (.mwr d a tl l) s b x v act → x.mat.loaded = true →
    (∀ k ∈ act, v.isHelper k = false → row v a k < 96) → (∃ k ∈ act, v.isHelper k = false) →
    ∃ t, Passed (.mwr d a tl l) s b x v act t ∧ exec (.mwr d a tl l) s = .next
      (enter (mark t b.ctx tl ⟨(x.mat.tile tl).kcur, true, true⟩) b.ctx (.mwr tl ((act.filter fun k => !v.isHelper k).flatMap fun k =>
        (List.range 8).map fun j => (first v a k + j, v.reg (d + j) k))))) ∧
  (∀ a tl l s b x v act, Passes (.mscale a tl l) s b x v act → x.mat.loaded = true →
    let z := v.reg a (act.headD 0)
    ∃ t, Passed (.mscale a tl l) s b x v act t ∧ exec (.mscale a tl l) s = .next
      (enter (mark t b.ctx tl { x.mat.tile tl with inuse := true }) b.ctx
        (.mscale tl (z.toNat % 2 ^ 16) (z.toNat / 2 ^ 16) ((v.reg (a + 1) (act.headD 0)).toNat % 2 ^ 16))))

/-- R325, R327 to R330: an mma on a loaded unit whose wave names a gang waits at the rendezvous latch, nothing else
changing, and the last wave of the gang brings MMA_RENDEZVOUS. With fields that agree, the gang size and format of the
configuration, no overwritten register, and a readable B operand, the mma of the whole gang then enters the pipeline with A from registers d to d + 7
of lanes r and r + 16 and B from scratchpad, the K-cursor of the tile goes on, and every wave of the gang passes its mma. -/
def Obligations.MatrixMultiply : Prop :=
  (∀ i f d a sel tl r l, (i = .mmaE2m1 d a tl r l ∧ f = 0 ∧ sel = 0) ∨ (i = .mmaE4m3 d a sel tl r l ∧ f = 1) ∨
      (i = .mmaE5m2 d a sel tl r l ∧ f = 2) ∨ (i = .mmaS8 d tl r l ∧ f = 3 ∧ a = 255 ∧ sel = 0) ∨
      (i = .mmaBf16 d tl r l ∧ f = 4 ∧ a = 255 ∧ sel = 0) ∨ (i = .mmaF16 d tl r l ∧ f = 5 ∧ a = 255 ∧ sel = 0) →
    ∀ s b x v act, Passes i s b x v act →
      ((∃ k ∈ act, v.isHelper k = false) → (x.mat.loaded = false → Takes i s b ⟨0x17, 1, 0, laneMask act, 0⟩) ∧
        (x.mat.loaded = true → v.gang = 0 → Takes i s b ⟨0x17, 2, 0, laneMask act, 0⟩)) ∧
      (x.mat.loaded = true → v.gang ≠ 0 → x.gangClash b.wave v.gang = [] → x.gangGone v.gang = false →
        let u := s.modWave b.ctx b.wave fun v => { v with rend := some ⟨b, act, f, tl, r == 1, d, a, sel⟩ }
        ∀ y, u.ctx? b.ctx = some y →
          exec i s = .next { (if y.gangReady v.gang then u.post .mmaRendezvous [b.ctx, v.gang] else u) with
            cur := none, clock := s.clock + 1 })) ∧
  ∀ s c g x w r rs, s.args = [c, g] → s.ctx? c = some x → x.state = .resident → x.goal = .none → x.gangReady g = true →
    g ≠ 0 → ((gangWaves g).filterMap fun w => match SMap.find? x.waves w with
        | some v => v.rend.map fun r => (w, r)
        | none => none) = (w, r) :: rs →
    (∀ e ∈ (w, r) :: rs, ∀ v l n, SMap.find? x.waves e.1 = some v → v.lane? l = some n → n.lsw.toNat.testBit 8 = false) → rendCause x.mat.cfg g ((w, r) :: rs) = none →
    operandFault s c x r.act (operandRanges x.mat.cfg (cfgTile x.mat.cfg r.tile) (x.mat.tile r.tile).kcur r.fmt) = none →
    x.mat.latch = none → (∀ e ∈ (w, r) :: rs, e.2.d + 8 ≤ 128 ∧ (e.2.a < 128 ∨ e.2.a = 255) ∧ e.2.bundle.ctx = c ∧ e.2.bundle.wave = e.1) →
    ∃ t y ma mb sa sb, exec .mmaRendezvous s = .next t ∧ t.mem = s.mem ∧ t.hub = s.hub ∧ t.ctx? c = some y ∧
      y.mat.acc = x.mat.acc ∧ y.mat.cfg = x.mat.cfg ∧
      (∀ k, y.mat.tile k = if k = r.tile then ⟨((x.mat.tile k).kcur + 1) % cfgKsteps x.mat.cfg, true, true⟩ else x.mat.tile k) ∧
      y.mat.pipe = x.mat.pipe ++ [.mma r.tile (16 * ((w, r) :: rs).length) (cfgN x.mat.cfg) (mmaK r.fmt / 16) r.fmt ma mb sa sb] ∧
      (.matrixOperationComplete, [c]) ∈ t.agenda ∧
      (∀ q e v i, ((w, r) :: rs)[q]? = some e → SMap.find? x.waves e.1 = some v → i < 16 →
        SMap.find? ma (16 * q + i) = some (((List.range 8).map fun g =>
          (v.reg (e.2.d + g) i).toNat * 2 ^ (32 * g) + (v.reg (e.2.d + g) (i + 16)).toNat * 2 ^ (256 + 32 * g)).sum)) ∧
      (∀ j, j < cfgN x.mat.cfg → SMap.find? mb j = some (((List.range 4).map fun k => readMem s.mem (scratchKey c
        ((columnUnits x.mat.cfg (cfgTile x.mat.cfg r.tile) (x.mat.tile r.tile).kcur j).getD k 0)) 16 * 2 ^ (128 * k)).sum)) ∧
      ∀ e ∈ (w, r) :: rs, ∃ v u, SMap.find? x.waves e.1 = some v ∧ SMap.find? y.waves e.1 = some u ∧ u.rend = none ∧
        u.regs = v.regs ∧ ∀ l, u.lane? l = (v.lane? l).map fun n => n.passed e.2.bundle.instr e.2.bundle.run e.2.act l

/-- R201, R319, R331: MATRIX_OPERATION_COMPLETE performs the earliest operation of the pipeline and no other: an mma gives each
element of the rows and columns it has the value of R201 from its old value and leaves every other element; mzero zeroes the
tile; mwr writes its elements; mscale changes the band scales of its tile alone; mrd brings the elements to the registers. -/
def Obligations.MatrixCompletion : Prop :=
  let elt (m : Matrix) (t e : Nat) : Nat := (SMap.get (0 : Word) m.acc (6144 * t + e)).toNat
  ∀ s c x o ops, s.args = [c] → s.ctx? c = some x → x.mat.pipe = o :: ops →
    ∃ t y, exec .matrixOperationComplete s = .next t ∧ t.mem = s.mem ∧ t.hub = s.hub ∧ t.ctx? c = some y ∧ y.mat.pipe = ops ∧
      y.mat.tiles = x.mat.tiles ∧
      (∀ tl m n nb f a b sa sb, o = .mma tl m n nb f a b sa sb → (a.map (·.1)).Nodup → (b.map (·.1)).Nodup →
        m ≤ 96 → n ≤ 64 → y.mat.cfg = x.mat.cfg ∧ ∀ tk i j, i < 96 → j < 64 →
          elt y.mat tk (64 * i + j) = match SMap.find? a i, SMap.find? b j with
            | some row, some col => if tk = tl ∧ i < m ∧ j < n then
                let z := cfgTile x.mat.cfg tl
                mmaElement f nb (elt x.mat tl (64 * i + j)) row col (SMap.get 0 sa i) (SMap.get 0 sb j)
                  (if i < 64 then tileBandA0 z else tileBandA1 z) (tileBandB z) % 2 ^ 32
              else elt x.mat tk (64 * i + j)
            | _, _ => elt x.mat tk (64 * i + j)) ∧
      (∀ tl, o = .mzero tl → y.mat.cfg = x.mat.cfg ∧ ∀ tk e, e < 6144 →
        elt y.mat tk e = if tk = tl then 0 else elt x.mat tk e) ∧
      (∀ tl vals, o = .mwr tl vals → (vals.map (·.1)).Nodup → (∀ e ∈ vals, e.1 < 6144) → y.mat.cfg = x.mat.cfg ∧
        (∀ e ∈ vals, elt y.mat tl e.1 = e.2.toNat) ∧
        ∀ tk e, e < 6144 → (tk ≠ tl ∨ e ∉ vals.map (·.1)) → elt y.mat tk e = elt x.mat tk e) ∧
      (∀ tl p q r, o = .mscale tl p q r → tl < 4 → p < 2 ^ 16 → q < 2 ^ 16 → r < 2 ^ 16 → y.mat.acc = x.mat.acc ∧
        (∀ k, k < 128 + 96 * tl ∨ 176 + 96 * tl ≤ k → y.mat.cfg.testBit k = x.mat.cfg.testBit k) ∧
        tileBandA0 (cfgTile y.mat.cfg tl) = p ∧ tileBandA1 (cfgTile y.mat.cfg tl) = q ∧ tileBandB (cfgTile y.mat.cfg tl) = r) ∧
      ∀ tl id d lanes p v, o = .mrd tl id d lanes → s.op? id = some p → p.ctx = c → SMap.find? x.waves p.wave = some v →
        (lanes.map (·.1)).Nodup → (∀ e ∈ lanes, e.1 < 32) → t.op? id = none ∧ y.mat.acc = x.mat.acc ∧
        ∃ u, SMap.find? y.waves p.wave = some u ∧ u.lanes = v.lanes ∧
          (∀ e ∈ lanes, ∀ j, j < 8 → u.reg (d + j) e.1 = match e.2 with
            | some k => BitVec.ofNat 32 (elt x.mat tl (k + j))
            | none => 0) ∧
          ∀ r l, l < 32 → (l ∉ lanes.map (·.1) ∨ r < d ∨ d + 8 ≤ r) → u.reg r l = v.reg r l

/-- R82, R334 to R336: rgn.set binds the entry it names to the descriptor it reads, absent, with the origin from its
registers; rgn.stat writes the entry's state code and bit 7 for a copy in flight; rgn.pre on an absent entry, and rgn.flush
and rgn.drop on a dirty one, start a copy: the entry is filling, or dirty with its copy, the window is locked, and the copy
is in flight; rgn.drop makes a present entry absent; an entry not bound is fault 15h with the entry as DETAIL. -/
def Obligations.RegionInstructions : Prop :=
  let code : RState → Nat := fun r => match r with
    | .unbound => 0
    | .absent => 1
    | .filling => 2
    | .present => 3
    | .dirty => 4
  let own (pkg d : Nat) : Prop := boxSize d ≠ 0 ∧ addrSpace (boxBase d) = 2 ∧ addrPkg (boxBase d) = pkg ∧ boxMcast d = 0
  /- no other lock entry is wanting, and no store or atomic is still to be performed -/
  let free (s : State) (x : Ctx) : Prop := (∃ k, k < 32 ∧ SMap.find? (s.core x.place).locks k = none) ∧
    ∀ id o, (id, o) ∈ s.ops → o.kind.pending.1 = []
  let starts (i : Instr) (s : State) (b : Bundle) (act : List Nat) (x : Ctx) (n : Nat) (r : Region) (out drop : Bool) (t : State) : Prop :=
    t.mem = s.mem ∧ t.hub = s.hub ∧ t.agenda = (pass i b act s).agenda ++ [(if out then .outboundSectorAck else .inboundSectorWritten, [s.nextId + 1])] ∧
    t.op? (s.nextId + 1) = some ⟨b.ctx, b.wave, [], .copy n out drop r.desc r.origin [] [] [] 0⟩ ∧
    (∃ k, k < 32 ∧ SMap.find? (s.core x.place).locks k = none ∧ SMap.find? (t.core x.place).locks k =
      some ⟨s.nextId + 1, b.ctx, false, if out then 1 else 0, boxSwin r.desc, boxSwin r.desc + boxWindow r.desc - 1⟩) ∧
    ∃ y, t.ctx? b.ctx = some y ∧ (∀ w v, SMap.find? x.waves w = some v → ∃ u, SMap.find? y.waves w = some u ∧ u.regs = v.regs) ∧
      SMap.find? y.regions n = some { r with state := if out then .dirty else .filling, copy := some (s.nextId + 1) } ∧
      ∀ k, k ≠ n → SMap.find? y.regions k = SMap.find? x.regions k
  (∀ d a l s b x v act k desc ws u, Passes (.rgnSet d a l) s b x v act →
    let low := act.headD 0
    let n := (v.reg d low).toNat
    readImages s (pass (.rgnSet d a l) b act s) b x v act 64 [(low, v.pair a low)] = .ok ((k, desc) :: ws) u →
    (regionSetFault x act n desc (v.pair a low) = none → exec (.rgnSet d a l) s = .next (u.modCtx b.ctx fun y => { y with
      regions := SMap.insert y.regions n ⟨.absent, desc, (List.range 5).map fun i => (v.reg (d + 1 + i) low).toInt, none⟩ })) ∧
    (boxMalformed desc x.spanBlocks = true → v.isHelper low = false →
      Takes (.rgnSet d a l) s b ⟨0x14, 0, 0, laneMask act, v.pair a low⟩)) ∧
  (∀ d a l s b x v act p, Passes (.rgnSet d a l) s b x v act → Quiet s b x 64 → Plain s b x 64 (v.pair a (act.headD 0)) p →
    let low := act.headD 0
    let n := (v.reg d low).toNat
    let desc := readMem s.mem p 64
    boxMalformed desc x.spanBlocks = false → boxTbar desc < x.ntbars → 16 * boxTbar desc + 16 ≤ x.scratchBytes →
    boxSwin desc + boxWindow desc ≤ x.scratchBytes → (∀ k r, (k, r) ∈ x.regions → r.state = .absent ∨ r.state = .unbound) →
    ∃ t y, exec (.rgnSet d a l) s = .next t ∧ t.mem = s.mem ∧ t.hub = s.hub ∧ t.ops = s.ops ∧ t.ctx? b.ctx = some y ∧
      SMap.find? y.regions n = some ⟨.absent, desc, (List.range 5).map fun i => (v.reg (d + 1 + i) low).toInt, none⟩ ∧
      ∀ k, k ≠ n → SMap.find? y.regions k = SMap.find? x.regions k) ∧
  (∀ d a l, Does (.rgnStat d a l) (fun _ _ x v act _ =>
    let r := x.region (v.reg a (act.headD 0)).toNat
    [(d, BitVec.ofNat 32 (code r.state + if r.copy = none then 0 else 128))]) fun _ _ _ _ n => n) ∧
  (∀ i a l s b x v act, i = .rgnPre a l ∨ i = .rgnFlush a l ∨ i = .rgnDrop a l → Passes i s b x v act →
    let n := (v.reg a (act.headD 0)).toNat
    SMap.find? x.regions n = none → v.isHelper (act.headD 0) = false → Takes i s b ⟨0x15, n, 0, laneMask act, 0⟩) ∧
  ∀ a l s b x v act,
    let n := (v.reg a (act.headD 0)).toNat
    ∀ r, SMap.find? x.regions n = some r →
      (Passes (.rgnPre a l) s b x v act → r.state ≠ .unbound → r.state ≠ .absent →
        exec (.rgnPre a l) s = .next (pass (.rgnPre a l) b act s)) ∧
      (Passes (.rgnPre a l) s b x v act → r.state = .absent → own s.pkg r.desc → free s x →
        ∃ t, exec (.rgnPre a l) s = .next t ∧ starts (.rgnPre a l) s b act x n r false false t) ∧
      (Passes (.rgnFlush a l) s b x v act → r.state = .absent ∨ r.state = .filling ∨ r.state = .present →
        exec (.rgnFlush a l) s = .next (pass (.rgnFlush a l) b act s)) ∧
      (∀ i drop, (i = .rgnFlush a l ∧ drop = false) ∨ (i = .rgnDrop a l ∧ drop = true) → Passes i s b x v act →
        r.state = .dirty → r.copy = none → own s.pkg r.desc → free s x →
        ∃ t, exec i s = .next t ∧ starts i s b act x n r true drop t) ∧
      (Passes (.rgnDrop a l) s b x v act → r.state = .present → exec (.rgnDrop a l) s = .next
        ((pass (.rgnDrop a l) b act s).modCtx b.ctx fun y => { y with regions := SMap.insert y.regions n { r with state := .absent } }))

/-- R85, R86: the step of a transaction barrier by arr arrivals and sec sectors. With no more than are pending they are
deducted; when both counts then are 0 the phase completes: PHASE goes up by one modulo 16, both counts are as at init, the
other fields stand, and the parked lanes are released. More than are pending set the error bit with code 1 if none is set. A barrier
whose reserved field a store has set takes no step: the model's choice (log 52, DEDUCED).
R91, R118, R337 to R339: with the barrier's 16 bytes in the allocation and no range lock on them (for a reader, none but an
inbound copy's, with the bytes written), tbar.init writes the barrier from its counts; tbar.arrive makes its arrivals, none for
a count of 0; tbar.read writes its 16 bytes to four registers; tbar.test writes whether the phase differs from its operand, and
tbar.wait lets a lane pass whose phase differs and parks the others at the instruction; a phase that has moved is an acquire at
block scope. A barrier with an error faults with class 18h in the latter two; bytes beyond the allocation are resource overreach, and a
range lock on them is fault 10h. -/
def Obligations.TransactionBarriers : Prop :=
  ((∀ b arr sec, b / 2 ^ 92 % 2 ^ 36 ≠ 0 → barrierStep b arr sec = (b, false)) ∧ ∀ b arr sec, b < 2 ^ 92 →
    let phase := b % 16
    let pa := b / 2 ^ 4 % 2 ^ 16
    let ps := b / 2 ^ 20 % 2 ^ 24
    let ia := b / 2 ^ 44 % 2 ^ 16
    let is := b / 2 ^ 60 % 2 ^ 24
    let err := b / 2 ^ 84 % 2
    let r := (barrierStep b arr sec).1
    r / 2 ^ 44 % 2 ^ 40 = b / 2 ^ 44 % 2 ^ 40 ∧ r / 2 ^ 92 = 0 ∧
    (arr ≤ pa → sec ≤ ps → r / 2 ^ 84 % 2 ^ 8 = b / 2 ^ 84 % 2 ^ 8) ∧
    (pa < arr ∨ ps < sec → (barrierStep b arr sec).2 = true ∨ err = 1) ∧
    (pa < arr ∨ ps < sec → r / 2 ^ 84 % 2 = 1 ∧ r / 2 ^ 85 % 2 ^ 7 = if err = 1 then b / 2 ^ 85 % 2 ^ 7 else 1) ∧
    (pa ≤ arr → ps ≤ sec → r % 16 = (phase + 1) % 16 ∧ r / 2 ^ 4 % 2 ^ 16 = ia ∧ r / 2 ^ 20 % 2 ^ 24 = is ∧
      (barrierStep b arr sec).2 = true) ∧
    (arr < pa ∨ sec < ps → r % 16 = phase ∧ r / 2 ^ 4 % 2 ^ 16 = pa - arr ∧ r / 2 ^ 20 % 2 ^ 24 = ps - sec)) ∧
  (let index (v : Wave) (a l : Nat) : Nat := (v.reg a l).toNat % 2 ^ 14
  let at' (s : State) (b : Bundle) (v : Wave) (a l : Nat) : Nat := readMem s.mem (scratchKey b.ctx (16 * index v a l)) 16
  let ready (s : State) (b : Bundle) (x : Ctx) (v : Wave) (a : Nat) (reads : Bool) (ls : List Nat) : Prop :=
    ∀ l ∈ ls, index v a l < x.ntbars ∧ 16 * index v a l + 16 ≤ x.scratchBytes ∧
      (∀ k ∈ s.scratchLocks b.ctx, k.covers (16 * index v a l) 16 = true → reads = true ∧ k.kind = 0) ∧
      (reads = true → s.unwritten b.ctx (16 * index v a l) 16 = false)
  let moved (s : State) (b : Bundle) (v : Wave) (a l : Nat) : Prop := at' s b v a l % 16 ≠ (v.reg (a + 1) l).toNat % 16
  let acquired (x : Ctx) (some' : Prop) (t u : State) : Prop :=
    (some' → u = { t with l1 := t.l1.filter fun e => e.1 / 0x200000000 ≠ x.place }) ∧ (¬ some' → u = t)
  (∀ a k s b x v act, Passes (.tbarInit a k) s b x v act → ready s b x v a false [act.headD 0] →
    let low := act.headD 0
    let arr := (v.reg (a + 1) low).toNat % 2 ^ 16
    let sec := (v.reg (a + 2) low).toNat % 2 ^ 24
    ∃ t, Passed (.tbarInit a k) s b x v act t ∧ exec (.tbarInit a k) s = .next (t.put (scratchKey b.ctx (16 * index v a low)) 16
      (2 ^ 4 * arr + 2 ^ 20 * sec + 2 ^ 44 * arr + 2 ^ 60 * sec))) ∧
  (∀ a k s b x v act, Passes (.tbarArrive a k) s b x v act → ready s b x v a false [act.headD 0] →
    let low := act.headD 0
    let n := (v.reg (a + 1) low).toNat % 2 ^ 16
    ∃ t, Passed (.tbarArrive a k) s b x v act t ∧ exec (.tbarArrive a k) s = .next
      (if n = 0 then t else t.barrierArrive b.ctx (index v a low) n 0)) ∧
  (∀ d a k s b x v act, Passes (.tbarRead d a k) s b x v act → ready s b x v a true act →
    ∃ t, exec (.tbarRead d a k) s = .next t ∧ Effect (.tbarRead d a k) s (s.noteSample b act) b x v act
      (fun l => (List.range 4).map fun j => (d + j, BitVec.ofNat 32 (at' s b v a l / 2 ^ (32 * j)))) (fun _ n => n) t) ∧
  (∀ d a k s b x v act, Passes (.tbarTest d a k) s b x v act → ready s b x v a true act →
    (∀ l ∈ act, v.isHelper l = true ∨ (at' s b v a l).testBit 84 = false) →
    ∃ t u, Effect (.tbarTest d a k) s (s.noteSample b act) b x v act
      (fun l => [(d, if at' s b v a l % 16 = (v.reg (a + 1) l).toNat % 16 then 0 else 1)]) (fun _ n => n) t ∧
      exec (.tbarTest d a k) s = .next u ∧ acquired x (∃ l ∈ act, moved s b v a l) t u) ∧
  (∀ a k s b x v act, Passes (.tbarWait a k) s b x v act → ready s b x v a true act →
    (∀ l ∈ act, v.isHelper l = true ∨ (at' s b v a l).testBit 84 = false) →
    ∃ t u, Effect (.tbarWait a k) s (s.noteSample b act) b x v act (fun _ => []) (fun l n =>
        if l ∈ act ∧ at' s b v a l % 16 = (v.reg (a + 1) l).toNat % 16 then
          { ((v.lane? l).getD n) with park := .tbar (index v a l), deferred := false }
        else n) t ∧
      exec (.tbarWait a k) s = .next u ∧ acquired x (∃ l ∈ act, moved s b v a l) t u) ∧
  (∀ i d a k, i = .tbarTest d a k ∨ i = .tbarWait a k → ∀ s b x v act, Passes i s b x v act → ready s b x v a true act →
    ∀ l ∈ act, v.isHelper l = false → (at' s b v a l).testBit 84 = true →
      (∀ j ∈ act, j < l → v.isHelper j = true ∨ (at' s b v a j).testBit 84 = false) →
      act.Pairwise (· < ·) → Takes i s b ⟨0x18, at' s b v a l / 2 ^ 85 % 2 ^ 7, l, 2 ^ l, index v a l⟩) ∧
  ∀ i a k, i = .tbarInit a k ∨ i = .tbarArrive a k → ∀ s b x v act, Passes i s b x v act →
    let low := act.headD 0
    v.isHelper low = false → index v a low < x.ntbars →
    (x.scratchBytes < 16 * index v a low + 16 → Takes i s b ⟨4, 4, 0, laneMask act, 16 * index v a low⟩) ∧
    (16 * index v a low + 16 ≤ x.scratchBytes → (∃ h ∈ s.scratchLocks b.ctx, h.covers (16 * index v a low) 16 = true) →
      ∃ h ∈ s.scratchLocks b.ctx, h.covers (16 * index v a low) 16 = true ∧
        Takes i s b ⟨0x10, h.kind, low, 2 ^ low, scratchAddr (16 * index v a low)⟩))

/-- R91, R92, R340 to R344: chain, once it has read its descriptor, takes the locks of its commons streams, when it is to
run and has any, and goes to the engine; while it cannot take them it does not issue. CHAIN_START turns a malformed one away with code
6, ends an empty one, and else starts it; CHAIN_COMPLETE forms every element. Each end makes one arrival at the chain's
barrier, after recording a code that is not 0, and releases the chain's locks. -/
def Obligations.Chains : Prop :=
  let arrived (s : State) (o : Op) (k code : Nat) : State :=
    (if code = 0 then s else s.barrierFail o.ctx k code).barrierArrive o.ctx k 1 0
  let unlocked (t : State) (id : Nat) : Prop := ∀ p k l, l.op = id → SMap.find? (t.core p).locks k ≠ some l
  (∀ a l s b x v act k d ws u, Passes (.chain a l) s b x v act →
    readImages s (pass (.chain a l) b act s) b x v act 64 [(act.headD 0, v.pair a (act.headD 0))] = .ok ((k, d) :: ws) u →
    chainTbar d < x.ntbars → 16 * chainTbar d + 16 ≤ x.scratchBytes →
    (∀ w, chainReserve u b.ctx x d = some w → exec (.chain a l) s =
      .next ((w.launchAt s.nextId b act (.chain d false)).post .chainStart [s.nextId])) ∧
    (chainReserve u b.ctx x d = none → exec (.chain a l) s = .next { s with cur := none, clock := s.clock + 1 }) ∧
    (chainMalformed u.pkg d = true ∨ chainCount d = 0 ∨ (∀ p ∈ chainStreams d, addrSpace p ≠ 4) → chainReserve u b.ctx x d = some u)) ∧
  (∀ a l s b x v act p, Passes (.chain a l) s b x v act → Quiet s b x 64 → Plain s b x 64 (v.pair a (act.headD 0)) p →
    let d := readMem s.mem p 64
    chainTbar d < x.ntbars → 16 * chainTbar d + 16 ≤ x.scratchBytes → (∀ q ∈ chainStreams d, addrSpace q ≠ 4) →
    ∃ t, exec (.chain a l) s = .next t ∧ t.mem = s.mem ∧ t.hub = s.hub ∧
      t.op? s.nextId = some ⟨b.ctx, b.wave, act, .chain d false⟩ ∧ (.chainStart, [s.nextId]) ∈ t.agenda ∧
      ∀ c w, t.wave? c w = (pass (.chain a l) b act s).wave? c w) ∧
  (∀ s id o x d, s.args = [id] → s.op? id = some o → o.kind = .chain d false → s.ctx? o.ctx = some x →
    ∃ t, exec .chainStart s = .next t ∧ t.hub = s.hub ∧
      (chainMalformed s.pkg d = true → t.op? id = none ∧ t.mem = (arrived s o (chainTbar d) 6).mem ∧ unlocked t id) ∧
      (chainMalformed s.pkg d = false → chainCount d = 0 → t.op? id = none ∧ t.mem = (arrived s o (chainTbar d) 0).mem ∧
        unlocked t id) ∧
      (chainMalformed s.pkg d = false → chainCount d ≠ 0 → t.op? id = some { o with kind := .chain d true } ∧
        t.mem = s.mem ∧ t.agenda = s.agenda ++ [(.chainComplete, [id])])) ∧
  ∀ s id o x d code u, s.args = [id] → s.op? id = some o → o.kind = .chain d true → s.ctx? o.ctx = some x →
    chainElements x d s = (code, u) → ∃ t, exec .chainComplete s = .next t ∧ t.op? id = none ∧
      t.mem = (arrived u o (chainTbar d) code).mem ∧ unlocked t id

/-- R79 to R84, R88: INBOUND_SECTOR_WRITTEN of a local copy writes one sector not yet moved, chosen freely, into the window
from the elements of the box; OUTBOUND_SECTOR_ACK of a copy without reduction writes one to the box; an error fails the
copy. OUTBOUND_SECTOR_ACK of a reduction lets REDUCE_ON_STORE_COMBINE combine a sector. COPY_COMPLETE of a copy all of whose
sectors and landings are done releases its locks, makes its entry present or, for a drop, absent, and arrives once at its
barrier, as each sector counts one there; COPY_FAIL records its code there, arrives, and counts the sectors that are left. -/
def Obligations.CopyEvents : Prop :=
  let copy (n : Nat) (out drop : Bool) (d : Nat) (org : List Int) (done : List (Nat × Bool)) : OpKind :=
    .copy n out drop d org done [] [] 0
  let entry (t : State) (c n : Nat) : Option Region := (t.ctx? c).bind fun y => SMap.find? y.regions n
  (∀ s id o x d n drop org done, s.args = [id] → s.op? id = some o → o.kind = copy n false drop d org done → s.ctx? o.ctx = some x →
    leftSectors d done ≠ [] → ∃ j ∈ leftSectors d done, ∃ t, exec .inboundSectorWritten s = .next t ∧
      (∀ c u, s.sectorIn x d org j = (.error c, u) →
        t = ({ u with free := u.free + 1 } : State).post .copyFail [id, c]) ∧
      ∀ v u, s.sectorIn x d org j = (.ok v, u) →
        let len := min 32 (boxSize d - 32 * j)
        t = (({ u with free := u.free + 1 } : State).put (scratchKey o.ctx (boxSwin d + 32 * j)) len v).sectorDone id j o) ∧
  (∀ s id o x d n drop org done, s.args = [id] → s.op? id = some o → o.kind = copy n true drop d org done → s.ctx? o.ctx = some x →
    leftSectors d done ≠ [] → ∃ j ∈ leftSectors d done, ∃ t, exec .outboundSectorAck s = .next t ∧
      let w : State := { s with free := s.free + 1 }
      (boxRedop d = 0 → (∀ c u, w.sectorOut o.ctx x d org j = (some c, u) → t = u.post .copyFail [id, c]) ∧
        ∀ u, w.sectorOut o.ctx x d org j = (none, u) → t = u.sectorDone id j o) ∧
      (boxRedop d ≠ 0 → t = w.post .reduceOnStoreCombine [id, j + 1])) ∧
  (∀ (s : State) id (o : Op) d n out drop org done j, o.kind = copy n out drop d org done → SMap.find? done j = none →
    (∀ p, (id, p) ∈ s.ops → p = o) →
    let t := s.sectorDone id j o
    let all := SMap.insert done j true
    t.mem = (s.barrierArrive o.ctx (boxTbar d) 0 1).mem ∧ t.op? id = some { o with kind := copy n out drop d org all } ∧
      (if all.length < boxSectors d then (if out then .outboundSectorAck else .inboundSectorWritten, [id]) else (.copyComplete, [id]))
        ∈ t.agenda) ∧
  (∀ s id o x d n drop org done j, s.args = [id, j + 1] → s.op? id = some o → o.kind = copy n true drop d org done →
    s.ctx? o.ctx = some x → j ∈ leftSectors d done →
    exec .outboundSectorAck s = .next (s.sectorDone id j o) ∧ ∃ t, exec .reduceOnStoreCombine s = .next t ∧
      (∀ c u, s.sectorOut o.ctx x d org j = (some c, u) → t = u.post .copyFail [id, c]) ∧
      ∀ u, s.sectorOut o.ctx x d org j = (none, u) → t = u.post .outboundSectorAck [id, j + 1]) ∧
  (∀ s id o x d n out drop org done r, s.args = [id] → s.op? id = some o → o.kind = copy n out drop d org done → s.ctx? o.ctx = some x →
    SMap.find? x.regions n = some r →
    (done.length = boxSectors d → ∃ t, exec .copyComplete s = .next t ∧ t.op? id = none ∧
      t.mem = (s.barrierArrive o.ctx (boxTbar d) 1 0).mem ∧
      entry t o.ctx n = some { r with state := if out && drop then .absent else .present, copy := none } ∧
      ∀ k l, l.op = id → SMap.find? (t.core x.place).locks k ≠ some l)) ∧
  (∀ s id o x d n out drop org done r code, s.args = [id, code] → s.op? id = some o → o.kind = copy n out drop d org done →
    s.ctx? o.ctx = some x → SMap.find? x.regions n = some r → 1 ≤ code → code ≤ 9 →
    ∃ t, exec .copyFail s = .next t ∧ t.op? id = none ∧ t.mem = (s.failBarrier o.ctx (boxTbar d) code (leftSectors d done).length).mem ∧
      entry t o.ctx n = some { r with state := if out && drop then .absent else .present, copy := none }) ∧
  ∀ s id c o y d n drop org done ts ld rm, s.args = [id, c] → s.op? id = some o →
    o.kind = .copy n false drop d org done ts ld rm → s.ctx? c = some y → c ∈ ts → c ∉ ld → c ≠ o.ctx → done.length = boxSectors d →
    (∃ l ∈ s.scratchLocks c, l.op = id) → (∀ l ∈ s.scratchLocks c, l.op = id) → boxSwin d + boxSize d ≤ 0x40000 → boxSize d % 16 = 0 →
    (∀ k, k < 16 → boxTbar d * 16 + k < boxSwin d ∨ boxSwin d + boxSize d ≤ boxTbar d * 16 + k) →
    ∃ t, exec .multicastLanding s = .next t ∧
      (∀ k, k < boxSize d → readByte t.mem (scratchKey c (boxSwin d + k)) = readByte s.mem (scratchKey o.ctx (boxSwin d + k))) ∧
      t.op? id = some { o with kind := .copy n false drop d org done ts (c :: ld) rm } ∧ t.hub = s.hub

/-! ### Register fabric and trace -/

/-- R130 to R132, R140, R347, R348: rcap and rcap.l write to each lane its capability, from the fabric name of its wave, the
first register, the count minus one and the lane; arm sets the pending bits of its registers for the lanes that are not
helpers; sendstat writes the five send-status counters to five registers and, with .clr, makes them zero.
R134, R145, R350: a send puts one lane write in flight for each active lane that is no helper, ascending: its capability,
that of the lowest such lane for send.w and its own for send.l, the register offset, the target lane, the value, the sender's
tag and name, and the scope of a release; on the own package each is decided next. Nothing else changes. -/
def Obligations.FabricInstructions : Prop :=
  (let cap (s : State) (x : Ctx) (w base n k l : Nat) : Nat :=
    l + 2 ^ 5 * k + 2 ^ 6 * n + 2 ^ 9 * base + 2 ^ 16 * x.fgen + 2 ^ 28 * SMap.get 0 x.fslots w + 2 ^ 32 * x.fcore +
      2 ^ 42 * x.fdie + 2 ^ 44 * s.pkg
  (∀ i d base n q k, (i = .rcap d base n q ∧ k = 0) ∨ (i = .rcapL d base n q ∧ k = 1) →
    Does i (fun s b x _ _ l => [(d, BitVec.ofNat 32 (cap s x b.wave base n k l)),
      (d + 1, BitVec.ofNat 32 (cap s x b.wave base n k l / 2 ^ 32))]) fun _ _ _ _ n => n) ∧
  (∀ d n q s b x v act, Passes (.arm d n q) s b x v act → ∃ t, exec (.arm d n q) s = .next t ∧ t.mem = s.mem ∧ t.hub = s.hub ∧
    t.ops = s.ops ∧ ∃ u, t.wave? b.ctx b.wave = some u ∧ u.regs = v.regs ∧ u.sends = v.sends ∧
      ∀ r l, l < 32 → u.pending r l = (v.pending r l || decide (d ≤ r ∧ r ≤ d + n ∧ l ∈ act ∧ v.isHelper l = false))) ∧
  ∀ d k q s b x v act, Passes (.sendstat d k q) s b x v act → ∃ t, Effect (.sendstat d k q) s (s.noteSample b act) b x v act
      (fun _ => (List.range 5).map fun j => (d + j, BitVec.ofNat 32 (SMap.get 0 v.sends j))) (fun _ n => n) t ∧
    exec (.sendstat d k q) s = .next (if k = 1 then t.modWave b.ctx b.wave fun u => { u with sends := [] } else t)) ∧
  (∀ i d a k sc r q wide, (i = .sendW d a k sc r q ∧ wide = true) ∨ (i = .sendL d a k sc r q ∧ wide = false) →
    ∀ s b x v act, Passes i s b x v act →
      let ls := act.filter fun l => !v.isHelper l
      let cap (l : Nat) : Nat := v.pair a (if wide then ls.headD 0 else l)
      let lane (l : Nat) : Nat := if wide = false ∧ (cap l).testBit 5 = true then cap l % 32 else l
      let name : Nat := s.pkg + x.fdie * 2 ^ 20 + x.fcore * 2 ^ 22 + SMap.get 0 x.fslots b.wave * 2 ^ 32
      (∀ l ∈ ls, cap l / 2 ^ 44 = s.pkg) →
        ∃ t, exec i s = .next t ∧ t.mem = s.mem ∧ t.hub = s.hub ∧ t.nextId = s.nextId + 1 + ls.length ∧
          (∀ c w, t.wave? c w = (pass i b act s).wave? c w) ∧
          (∀ id, id ≤ s.nextId → t.op? id = s.op? id) ∧
          t.agenda = (pass i b act s).agenda ++ (List.range ls.length).map (fun j => (.laneWriteDecided, [s.nextId + 1 + j])) ∧
          ∀ j l, ls[j]? = some l → t.op? (s.nextId + 1 + j) = some ⟨b.ctx, b.wave, [l], .laneWrite (cap l) k (lane l) (v.reg d l)
            x.ptag l name (if r = 1 then sc + 1 else 0) 0 0⟩)

/-- R135 to R138, R140: a lane write to a live wave in its own partition, whose capability and lane are good, at the port of
the core it names or, moved, by Matins: with the pending bit of its register and lane set it is an arrival, which writes the
register and clears that bit; else it is an overwrite, which changes no register, and marks the lane's OVWPEND and, once, its
overwrite record. A dead name is refused as stale, and another partition's tag as partition, with nothing changed. The
outcome returns to the sender and counts once in its counter, saturating at 65,535. -/
def Obligations.LaneWrites : Prop :=
  let write (cap k l : Nat) (v : Word) (tag sl nm rel out lk : Nat) : OpKind := .laneWrite cap k l v tag sl nm rel out lk
  let done (s t : State) (id : Nat) (o : Op) (cap k l : Nat) (v : Word) (tag sl nm rel lk out : Nat) : Prop :=
    t.op? id = some { o with kind := write cap k l v tag sl nm rel (out + 1) lk } ∧ t.mem = s.mem ∧ t.hub = s.hub ∧
      t.agenda = s.agenda ++ [(.sendOutcomeReturn, [id])]
  (∀ e, e = .laneWriteDecided ∨ e = .laneWriteForward → ∀ s id o cap k l v tag sl nm rel lk, s.args = [id] → s.op? id = some o →
    o.kind = write cap k l v tag sl nm rel 0 lk → cap / 2 ^ 44 = s.pkg → cap < 2 ^ 64 → s.earlierWrite id o = false →
    (s.named cap = none → ∃ t, exec e s = .next t ∧ done s t id o cap k l v tag sl nm rel lk 2 ∧ t.ctxs = s.ctxs) ∧
    ∀ c w x y n, s.named cap = some (c, w) → s.ctx? c = some x → SMap.find? x.waves w = some y → y.lane? l = some n →
      x.state = .resident → l < 32 → n.exited = false → (e = .laneWriteForward ∨ (x.die = x.fdie ∧ x.core = x.fcore)) →
      (tag ≠ x.ptag → ∃ t, exec e s = .next t ∧ done s t id o cap k l v tag sl nm rel lk 3 ∧ t.ctxs = s.ctxs) ∧
      let r := cap / 2 ^ 9 % 2 ^ 7 + k
      (tag = x.ptag → x.ffabric = true → k ≤ cap / 2 ^ 6 % 2 ^ 3 → r < x.declared → (cap.testBit 5 = true → l = cap % 32) →
        n.kind = .present → ∃ t u, exec e s = .next t ∧ done s t id o cap k l v tag sl nm rel lk 0 ∧ t.wave? c w = some u ∧
          (∀ d j, (d, j) ≠ (c, w) → t.wave? d j = s.wave? d j) ∧
          (y.pending r l = true → u.reg r l = v ∧ u.lanes = y.lanes ∧
            (∀ q j, j < 32 → (q, j) ≠ (r, l) → u.reg q j = y.reg q j ∧ u.pending q j = y.pending q j) ∧ u.pending r l = false) ∧
          (y.pending r l = false → u.regs = y.regs ∧ u.pend = y.pend ∧ u.lane? l = some (if n.lsw.getLsbD 8 then n else { n with
            lsw := n.lsw ||| 0x100, ovrec := BitVec.ofNat 64 (nm + sl * 2 ^ 36 + r * 2 ^ 41) }) ∧
            ∀ j, j ≠ l → u.lane? j = y.lane? j))) ∧
  ∀ s id o cap k l v tag sl nm rel out lk y, s.args = [id] → s.op? id = some o → o.kind = write cap k l v tag sl nm rel (out + 1) lk →
    out < 5 → s.wave? o.ctx o.wave = some y → ∃ t u, exec .sendOutcomeReturn s = .next t ∧ t.op? id = none ∧ t.mem = s.mem ∧
      t.wave? o.ctx o.wave = some u ∧ u.regs = y.regs ∧ u.lanes = y.lanes ∧
      ∀ j, SMap.get 0 u.sends j = if j = out then min 65535 (SMap.get 0 y.sends j + 1) else SMap.get 0 y.sends j

/-- R473 to R480: with trace of its partition on, TRACE_RECORD appends its record to the open page while it fits, and
TRACE_PAGE_TIMEOUT closes the page 2^20 cycles after its opening; TRACE_ENABLE makes TBWR, TBRD and TBLOSS zero, advances
TBEPOCH and starts the intervals; TRACE_DISABLE closes the open page. TRACE_SAMPLE and LANE_CYCLE_INTERVAL that are not due,
or of an earlier enable, produce nothing; a due one begins the next interval, with a record for each core that held a block in it. -/
def Obligations.Trace : Prop :=
  (∀ s part n v p, s.args = [part, n, v] → (s.hubGet 0x720 part).testBit 0 = true → SMap.find? s.pages part = some p →
    p.fill + n ≤ 4048 → exec .traceRecord s = .next { s with
      pages := SMap.insert s.pages part { p with area := p.area + v % 2 ^ (8 * n) * 2 ^ (8 * p.fill), fill := p.fill + n } }) ∧
  (∀ s part p, s.args = [part, p.opened] → SMap.find? s.pages part = some p →
    (p.opened + 2 ^ 20 ≤ s.clock.toNat → ∃ t, exec .tracePageTimeout s = .next t ∧ SMap.find? t.pages part = none ∧
      t.hubGet 0x724 part = (s.hubGet 0x724 part + 1) % 2 ^ 32 ∧ t.ctxs = s.ctxs ∧ t.ops = s.ops) ∧
    (s.clock.toNat < p.opened + 2 ^ 20 → exec .tracePageTimeout s = .next { s with
      agenda := s.agenda ++ [(.tracePageTimeout, [part, p.opened])], clock := s.clock + 1 })) ∧
  (∀ s part v, s.args = [part, v] → part < 16 → s.partState part ≠ 2 → (s.hubGet 0x720 part).testBit 0 = false → ∃ t, exec .traceEnable s = .next t ∧
    t.hubGet 0x720 part = (v ||| 1) % 32 ∧ t.hubGet 0x724 part = 0 ∧ t.hubGet 0x725 part = 0 ∧ t.hubGet 0x726 part = 0 ∧
    t.hubGet 0x727 part = (s.hubGet 0x727 part + 1) % 2 ^ 32 ∧ t.mem = s.mem ∧ t.ctxs = s.ctxs ∧
    t.agenda = s.agenda ++ [(.laneCycleInterval, [part, (s.hubGet 0x727 part + 1) % 2 ^ 32, s.clock.toNat]),
      (.traceSample, [part, (s.hubGet 0x727 part + 1) % 2 ^ 32, s.clock.toNat + s.hubGet 0x729 part * 1024])]) ∧
  (∀ s part v, s.args = [part, v] → part < 16 → s.partState part ≠ 2 → (s.hubGet 0x720 part).testBit 0 = true → ∃ t, exec .traceDisable s = .next t ∧
    SMap.find? t.pages part = none ∧ t.hubGet 0x720 part = v / 2 * 2 % 32 ∧ t.ctxs = s.ctxs ∧ t.ops = s.ops ∧
    (SMap.find? s.pages part ≠ none → t.hubGet 0x724 part = (s.hubGet 0x724 part + 1) % 2 ^ 32)) ∧
  (∀ e, e = .traceSample ∨ e = .laneCycleInterval → ∀ s part ep at', s.args = [part, ep, at'] →
    (s.hubGet 0x720 part).testBit 0 = false ∨ s.hubGet 0x727 part ≠ ep → exec e s = .next s) ∧
  (∀ s part ep due, s.args = [part, ep, due] → (s.hubGet 0x720 part).testBit 0 = true → s.hubGet 0x727 part = ep →
    (s.clock.toNat < due → exec .traceSample s = .next { s with
      agenda := s.agenda ++ [(.traceSample, [part, ep, due])], clock := s.clock + 1 }) ∧
    (due ≤ s.clock.toNat → s.hubGet 0x729 part ≠ 0 → ∃ t, exec .traceSample s = .next t ∧ t.mem = s.mem ∧ t.hub = s.hub ∧
      t.ctxs = s.ctxs ∧ (.traceSample, [part, ep, due + s.hubGet 0x729 part * 1024]) ∈ t.agenda ∧
      ((s.hubGet 0x720 part).testBit 2 = false → t.agenda =
        s.agenda ++ [(.traceSample, [part, ep, due + s.hubGet 0x729 part * 1024])]))) ∧
  ∀ s part ep began, s.args = [part, ep, began] → (s.hubGet 0x720 part).testBit 0 = true → s.hubGet 0x727 part = ep →
    let period := max 1 (s.hubGet 0x728 part) * 1024
    (s.clock.toNat < began + period → exec .laneCycleInterval s = .next { s with
        agenda := s.agenda ++ [(.laneCycleInterval, [part, ep, began])], clock := s.clock + 1 }) ∧
    (began + period ≤ s.clock.toNat → ∃ t, exec .laneCycleInterval s = .next t ∧ t.mem = s.mem ∧ t.ctxs = s.ctxs ∧
      (.laneCycleInterval, [part, ep, s.clock.toNat]) ∈ t.agenda ∧
      ((s.hubGet 0x720 part).testBit 1 = true → ∀ k ∈ s.heldCores part, (t.core k).counts = [] ∧
        ∃ r, (.traceRecord, [part, 1088, r]) ∈ t.agenda ∧ r % 2 ^ 16 = 3 ∧ r / 2 ^ 16 % 2 ^ 16 = 1088))

/-! ### Sequences, queues and launches -/

/-- R152, R153, R156, R158, R163, R361, R362: a sequence operation of one lane on a slot of its own partition and context, in
the slot's state and with the counts that the operation asks for, has the effect of its rule on the slot's words, changes no
other word, and puts its status in Vesper's reply: 0 on success; a full draft buffer is status 5. Those that read what commits write drop the L1
lines of their core with the read (R121). sq.watch installs the image that it reads under the rules of loads, from the own scratchpad or
commons window for one. The reply then writes its registers and nothing else. -/
def Obligations.SequenceInstructions : Prop :=
  let word (s : State) (n w : Nat) : Nat := (SMap.get 0 s.vesper (512 * n + w)).toNat
  let drafts (s : State) (n : Nat) : Nat := word s n 0 / 2 ^ 9 % 2 ^ 4
  let forced (s : State) (n : Nat) : Nat := word s n 0 / 2 ^ 13 % 2 ^ 5
  let fits (s : State) (x : Ctx) (n : Nat) : Prop :=
    n < 16384 ∧ s.hubGet 0x081 x.part ≤ n ∧ n < s.hubGet 0x081 x.part + s.hubGet 0x082 x.part
  let owned (s : State) (x : Ctx) (n : Nat) : Prop :=
    fits s x n ∧ word s n 46 = x.ptag ∧ x.ptag < 2 ^ 16 ∧ word s n 47 = x.fname 0
  let op (v : Wave) (a k l : Nat) : Nat := (v.reg (a + k) l).toNat
  /- of slot n only the words of ws may have changed, and the model's own word 385 (log 2) -/
  let only (s t : State) (n : Nat) (ws : List Nat) : Prop :=
    ∀ k, (∀ w ∈ 385 :: ws, k ≠ 512 * n + w) → SMap.get 0 t.vesper k = SMap.get 0 s.vesper k
  let runs (i : Instr) (a : Nat) (acq : Bool) (pre : State → Ctx → Wave → Nat → Nat → Prop)
      (post : State → Ctx → Wave → Nat → Nat → State → List (Nat × Nat) → Prop) : Prop :=
    ∀ s b x v l, Passes i s b x v [l] → v.isHelper l = false → pre s x v l (op v a 0 l) →
      ∃ t ws, exec i s = .next t ∧ t.mem = s.mem ∧ t.hub = s.hub ∧ (∀ c w, t.wave? c w = (pass i b [l] s).wave? c w) ∧
        t.op? s.nextId = some ⟨b.ctx, b.wave, [l], .reply (ws.map fun e => (32 * e.1 + l, BitVec.ofNat 32 e.2))⟩ ∧
        (acq = true → ∀ e ∈ t.l1, e.1 / 0x200000000 ≠ x.place) ∧
        (.vesperReply, [s.nextId]) ∈ t.agenda ∧ post s x v l (op v a 0 l) t ws
  (∀ d a q,
    runs (.sqProp d a q) a false (fun s x _ _ n => owned s x n ∧ word s n 0 % 4 = 1) (fun s _ v l n t ws =>
      (drafts s n = 8 → ws = [(d, 5)] ∧ only s t n []) ∧
      (drafts s n < 8 → ws = [(d, 0)] ∧ word t n (22 + drafts s n) = op v a 1 l ∧ drafts t n = drafts s n + 1 ∧
        (word t n 0).testBit 18 = false ∧ word t n 0 % 2 ^ 9 = word s n 0 % 2 ^ 9 ∧ only s t n [0, 22 + drafts s n])) ∧
    runs (.sqVerify d a q) a false (fun s x _ _ n => owned s x n ∧ word s n 0 % 4 = 1) (fun s _ v l n t ws =>
      ws = [(d, 0)] ∧ drafts t n = min (op v a 1 l) (drafts s n) ∧ (word t n 0).testBit 18 = true ∧
        word t n 0 % 2 ^ 9 = word s n 0 % 2 ^ 9 ∧ only s t n [0]) ∧
    runs (.sqNext d a q) a true (fun s x _ _ n => owned s x n ∧ word s n 0 % 4 = 1) (fun s _ _ _ n t ws =>
      (forced s n = 0 → 0 < word s n 1 → ws = [(d, word s n 6), (d + 1, 0)] ∧ only s t n []) ∧
      (forced s n = 0 → word s n 1 = 0 → ws = [(d, 0), (d + 1, 11)] ∧ only s t n []) ∧
      (0 < forced s n → forced s n ≤ 16 → ws = [(d, word s n 30), (d + 1, 2 ^ 26)] ∧ forced t n = forced s n - 1 ∧
        ∀ j, j + 1 < forced s n → word t n (30 + j) = word s n (31 + j))) ∧
    runs (.sqRead d a q) a true (fun s x v l n => fits s x n ∧ op v a 1 l < 384 ∧ word s n 385 = 0) (fun s _ v l n t ws =>
      ws = [(d, word s n (op v a 1 l))] ∧ t.vesper = s.vesper) ∧
    runs (.sqCtlClose d a q) a false (fun s x _ _ n => owned s x n ∧ word s n 0 % 4 ≠ 0) (fun s _ _ _ n t ws =>
      ws = [(d, 0), (d + 1, 0)] ∧ (∀ w, w < 512 → word t n w = 0) ∧ only s t n (List.range 512)) ∧
    runs (.sqCtlResume d a q) a false (fun s x _ _ n => owned s x n ∧ 2 ≤ word s n 0 % 4) (fun s _ _ _ n t ws =>
      ws = [(d, 0), (d + 1, 0)] ∧ word t n 0 % 4 = 1 ∧ (word t n 0).testBit 5 = false ∧ drafts t n = 0 ∧ only s t n [0]) ∧
    runs (.sqCtlSetclass d a q) a false (fun s x _ _ n => owned s x n ∧ word s n 0 % 4 ≠ 0) (fun s _ v l n t ws =>
      let k := op v a 1 l % 16
      ws = [(d, 0), (d + 1, 0)] ∧ word t n (48 + k) = op v a 2 l ∧ word t n (64 + k) = op v a 3 l ∧ only s t n [48 + k, 64 + k]) ∧
    runs (.sqCtlSetmask d a q) a false (fun s x _ _ n => owned s x n ∧ word s n 0 % 4 ≠ 0) (fun s _ v l n t ws =>
      let k := op v a 1 l % 4
      (k = 0 → ws = [(d, 9), (d + 1, 0)] ∧ only s t n []) ∧
      (k ≠ 0 → ws = [(d, 0), (d + 1, 0)] ∧ word t n (79 + k) = op v a 2 l % 2 ^ 16 ∧ only s t n [79 + k])) ∧
    runs (.sqCtlSetcnt d a q) a false (fun s x _ _ n => owned s x n ∧ word s n 0 % 4 ≠ 0) (fun s _ v l n t ws =>
      let k := op v a 1 l % 4
      ws = [(d, 0), (d + 1, 0)] ∧ word t n (2 + k) = op v a 2 l ∧ only s t n [2 + k]) ∧
    runs (.sqCtlClrdraft d a q) a false (fun s x _ _ n => owned s x n ∧ word s n 0 % 4 ≠ 0) (fun s _ _ _ n t ws =>
      ws = [(d, 0), (d + 1, 0)] ∧ drafts t n = 0 ∧ (word t n 0).testBit 18 = false ∧ only s t n [0]) ∧
    runs (.sqCtlClrfq d a q) a false (fun s x _ _ n => owned s x n ∧ word s n 0 % 4 ≠ 0) (fun s _ _ _ n t ws =>
      ws = [(d, 0), (d + 1, 0)] ∧ forced t n = 0 ∧ only s t n [0])) ∧
  (∀ d q s b x v l n, Passes (.sqCtlOpen d q) s b x v [l] → v.isHelper l = false → fits s x n → word s n 0 % 4 = 0 →
    (∀ m, fits s x m → word s m 0 % 4 = 0 → n ≤ m) → ∃ t, exec (.sqCtlOpen d q) s = .next t ∧ t.mem = s.mem ∧
      t.op? s.nextId = some ⟨b.ctx, b.wave, [l], .reply [(32 * d + l, 0), (32 * (d + 1) + l, BitVec.ofNat 32 n)]⟩ ∧
      word t n 0 = 1 ∧ word t n 46 = x.ptag % 2 ^ 16 ∧ word t n 47 = x.fname 0 % 2 ^ 32 ∧
      (∀ c, c < 16 → word t n (48 + c) = 2 ^ 32 - 1) ∧
      (∀ w, w < 512 → w ≠ 0 → w ≠ 46 → w ≠ 47 → w < 48 ∨ 64 ≤ w → word t n w = 0) ∧ only s t n (List.range 512)) ∧
  (∀ d a q s b x v l, Passes (.sqWatch d a q) s b x v [l] → v.isHelper l = false →
    let n := op v a 0 l
    let e := op v a 1 l
    let installs (k : Nat) (u t : State) : Prop := exec (.sqWatch d a q) s = .next t ∧ t.mem = u.mem ∧
      t.op? s.nextId = some ⟨b.ctx, b.wave, [l], .reply [(32 * d + l, 0)]⟩ ∧
      (∀ w, w < 32 → word t n (128 + 32 * e + w) = k / 2 ^ (32 * w) % 2 ^ 32) ∧
      only s t n ((List.range 32).map (128 + 32 * e + ·))
    owned s x n → word s n 0 % 4 ≠ 0 → e < 8 →
    (∀ k u y z ws, (pass (.sqWatch d a q) b [l] s).ctx? b.ctx = some y →
      (pass (.sqWatch d a q) b [l] s).wave? b.ctx b.wave = some z →
      readImages s (pass (.sqWatch d a q) b [l] s) b y z [l] 128 [(l, v.pair (a + 2) l)] = .ok ((l, k) :: ws) u →
      u.vesper = s.vesper → u.hub = s.hub → u.entryOk (u.slotPart n) k = true → ws = [] → ∃ t, installs k u t) ∧
    (∀ p, Quiet s b x 128 → Plain s b x 128 (v.pair (a + 2) l) p →
      s.entryOk (s.slotPart n) (readMem s.mem p 128) = true → ∃ t, installs (readMem s.mem p 128) s t)) ∧
  ∀ s id o ws y v, s.args = [id] → s.op? id = some o → o.kind = .reply ws → s.ctx? o.ctx = some y →
    SMap.find? y.waves o.wave = some v → (ws.map (·.1)).Nodup → ∃ t u, exec .vesperReply s = .next t ∧ t.op? id = none ∧
      t.mem = s.mem ∧ t.vesper = s.vesper ∧ t.wave? o.ctx o.wave = some u ∧ u.lanes = v.lanes ∧
      (∀ e ∈ ws, SMap.get 0 u.regs e.1 = e.2) ∧ (∀ k, k ∉ ws.map (·.1) → SMap.get 0 u.regs k = SMap.get 0 v.regs k)

/-- R151, R155, R158, R163: a commit on a slot whose drafts are verified and whose watch entries are all disabled applies the
drafts in order and, for sq.commit, the final token: POS and the total counter go up by their number, the history takes them
with the last one first, the drafts are gone, and the status gives their number in NCOMMIT; with unverified drafts it changes
nothing and answers 6. -/
def Obligations.Commits : Prop :=
  let word (s : State) (n w : Nat) : Nat := (SMap.get 0 s.vesper (512 * n + w)).toNat
  ∀ i d a x0, (i = .sqCommit d a ∧ x0 = true) ∨ (i = .sqCommitD d a ∧ x0 = false) → ∀ s b x v l, Passes i s b x v [l] →
    v.isHelper l = false →
    let n := (v.reg a l).toNat
    let c := word s n 0 / 2 ^ 9 % 2 ^ 4
    n < 16384 → s.hubGet 0x081 x.part ≤ n → n < s.hubGet 0x081 x.part + s.hubGet 0x082 x.part → word s n 0 % 4 = 1 →
    word s n 46 = x.ptag → x.ptag < 2 ^ 16 → word s n 47 = x.fname 0 → c ≤ 8 →
    let answers (t : State) (y : Nat) : Prop := exec i s = .next t ∧ t.mem = s.mem ∧ t.hub = s.hub ∧
      t.op? s.nextId = some ⟨b.ctx, b.wave, [l], .reply [(32 * d + l, BitVec.ofNat 32 y)]⟩
    (0 < c → (word s n 0).testBit 18 = false → ∃ t, answers t 6 ∧ t.vesper = s.vesper) ∧
    ((c = 0 ∨ (word s n 0).testBit 18 = true) → (∀ e, e < 8 → word s n (128 + 32 * e) % 2 = 0) →
      let tokens := (List.range c).map (fun j => word s n (22 + j)) ++ if x0 then [(v.reg (a + 1) l).toNat] else []
      ∃ t, answers t (2 ^ 8 * tokens.length) ∧ word t n 1 = (word s n 1 + tokens.length) % 2 ^ 32 ∧
        word t n 2 = min (2 ^ 32 - 1) (word s n 2 + tokens.length) ∧ word t n 0 % 4 = 1 ∧ word t n 0 / 2 ^ 9 % 2 ^ 4 = 0 ∧
        (∀ j, j < 16 → word t n (6 + j) = (tokens.reverse ++ (List.range 16).map fun j => word s n (6 + j)).getD j 0) ∧
        ∀ m w, m ≠ n → w < 512 → word t m w = word s m w)

/-- R165, R358 to R360: ntf.read brings the value and the pending bit of each lane's notify register; ntf.write sets value and
pending bit, of lanes ascending, and wakes the lanes parked on it; ntf.wait brings value and 1 and clears the pending bit for
a lane whose register is pending, and parks the lane at the instruction otherwise; a register outside the partition's range
reads as zero and takes no write. -/
def Obligations.Notify : Prop :=
  let reg (v : Wave) (a l : Nat) : Nat := (v.reg a l).toNat % 256
  let inRange (s : State) (x : Ctx) (r : Nat) : Prop := s.hubGet 0x083 x.part ≤ r ∧ r < s.hubGet 0x083 x.part + s.hubGet 0x084 x.part
  let value (s : State) (r : Nat) : Nat := SMap.get 0 s.notify r % 2 ^ 64
  let pending (s : State) (r : Nat) : Bool := (SMap.get 0 s.notify r).testBit 64
  let triple (d l y p : Nat) : List (Nat × Word) := [(32 * d + l, BitVec.ofNat 32 y),
    (32 * (d + 1) + l, BitVec.ofNat 32 (y / 2 ^ 32)), (32 * (d + 2) + l, BitVec.ofNat 32 p)]
  (∀ d a q s b x v l, Passes (.ntfRead d a q) s b x v [l] → v.isHelper l = false → ∃ t, exec (.ntfRead d a q) s = .next t ∧
    t.mem = s.mem ∧ t.notify = s.notify ∧ ∃ y p, t.op? s.nextId = some ⟨b.ctx, b.wave, [l], .reply (triple d l y p)⟩ ∧
      (inRange s x (reg v a l) → y = value s (reg v a l) ∧ p = if pending s (reg v a l) then 1 else 0) ∧
      (¬ inRange s x (reg v a l) → y = 0 ∧ p = 0)) ∧
  (∀ d a q s b x v act, Passes (.ntfWrite d a q) s b x v act → ∃ t, exec (.ntfWrite d a q) s = .next t ∧ t.mem = s.mem ∧
    t.hub = s.hub ∧ t.ops = s.ops ∧ ∀ r,
      ((∀ l ∈ act, v.isHelper l = true ∨ reg v a l ≠ r ∨ ¬ inRange s x r) → SMap.get 0 t.notify r = SMap.get 0 s.notify r) ∧
      ∀ l ls ks, act = ks ++ l :: ls → v.isHelper l = false → reg v a l = r → inRange s x r →
        (∀ k ∈ ls, v.isHelper k = true ∨ reg v a k ≠ r) → value t r = v.pair d l ∧ pending t r = true ∧
        ∀ c w u k m, t.wave? c w = some u → u.lane? k = some m → m.park ≠ .ntf r) ∧
  ∀ d a s b x v l m, Passes (.ntfWait d a) s b x v [l] → v.isHelper l = false → v.lane? l = some m →
    let r := reg v a l
    (inRange s x r → pending s r = true → ∃ t, exec (.ntfWait d a) s = .next t ∧ t.mem = s.mem ∧
      t.op? s.nextId = some ⟨b.ctx, b.wave, [l], .reply (triple d l (value s r) 1)⟩ ∧ pending t r = false ∧
      value t r = value s r ∧ ∀ k, k ≠ r → SMap.get 0 t.notify k = SMap.get 0 s.notify k) ∧
    (¬ inRange s x r → ∃ t, exec (.ntfWait d a) s = .next t ∧ t.mem = s.mem ∧ t.notify = s.notify ∧
      t.op? s.nextId = some ⟨b.ctx, b.wave, [l], .reply (triple d l 0 0)⟩) ∧
    (inRange s x r → pending s r = false → ∃ t u, exec (.ntfWait d a) s = .next t ∧ t.mem = s.mem ∧ t.notify = s.notify ∧
      t.ops = s.ops ∧ t.wave? b.ctx b.wave = some u ∧ u.regs = v.regs ∧
      u.lane? l = some { m with park := .ntf r, deferred := false })

/-- R351 to R354, R409, R413, R501: qput hands the images its lanes read to their queues, those from the own scratchpad or commons
window for one; QUEUE_INSERTION inserts a packet that keeps the rules of R354 to R356 into an enabled queue of the program's
partition that takes device insertions and has room: its entry comes last with INDEX QTAIL, in the ring entry QTAIL mod the
size where that is free, its image is written there, QTAIL goes up by one, and the status is 0 with INDEX[15:0] above it; the
first of BADQ, REFUSED, BADPKT and FULL that applies is the status else, and nothing is inserted. QPUT_REGISTER does the same
for the staged packet, without the partition and device tests. That a ring whose entry QTAIL mod the size is still occupied gives
another free one is the model's choice (log 44), and that a packet whose line cannot be recalled is written once it can (log 15). -/
def Obligations.QueueInsertion : Prop :=
  let size (s : State) (q : Nat) : Nat := 2 ^ (s.hubGet 0x401 q / 2 ^ 12 % 16 + 4)
  let code (s : State) (device : Bool) (part q m : Nat) : Nat :=
    if 4096 ≤ q then 1
    else if (device = true ∧ (s.hubGet 0x401 q % 16 ≠ part ∨ (s.hubGet 0x401 q).testBit 8 = false)) ∨ (s.hubGet 0x401 q).testBit 7 = false then 2
    else if packetOk m = false then 3
    else if size s q ≤ (s.queue q).entries.length then 4
    else 0
  let inserted (s t : State) (q m : Nat) : Prop :=
    (∃ slot, slot < size s q ∧ (t.queue q).entries = (s.queue q).entries ++ [⟨s.hubGet 0x407 q, slot, m, false⟩] ∧
      (∀ e ∈ (s.queue q).entries, e.slot ≠ slot) ∧
      ((∀ e ∈ (s.queue q).entries, e.slot ≠ s.hubGet 0x407 q % size s q) → slot = s.hubGet 0x407 q % size s q) ∧
      let off := s.homeBase + (s.hubGet64 0x402 q + 64 * slot) % 2 ^ 36
      if s.lineState 2 0 (off / 128) = .serves then readMem t.mem (ctlKey off) 64 = m % 2 ^ 512 else t.mem = s.mem) ∧
    t.hubGet 0x407 q = (s.hubGet 0x407 q + 1) % 2 ^ 32 ∧ ∀ p, p ≠ q → t.queue p = s.queue p
  (∀ d a k s b x v act, Passes (.qput d a k) s b x v act →
    let ls := act.filter fun l => !v.isHelper l
    let hands (ms : List (Nat × Nat)) (t : State) : Prop := exec (.qput d a k) s = .next t ∧
      t.op? s.nextId = some ⟨b.ctx, b.wave, ls, .insertion d (ms.map fun e => (e.1, (v.reg d e.1).toNat, e.2))⟩ ∧
      (.queueInsertion, [s.nextId]) ∈ t.agenda
    (ls = [] → ∃ t, Passed (.qput d a k) s b x v act t ∧ exec (.qput d a k) s = .next t) ∧
    (∀ ms u y z, ls ≠ [] → (pass (.qput d a k) b act s).ctx? b.ctx = some y →
      (pass (.qput d a k) b act s).wave? b.ctx b.wave = some z →
      readImages s (pass (.qput d a k) b act s) b y z act 64 (ls.map fun l => (l, v.pair a l)) = .ok ms u →
      u.nextId = s.nextId + 1 → ∃ t, hands ms t ∧ t.mem = u.mem) ∧
    (∀ ks : List (Nat × Nat), Quiet s b x 64 → ks.map (·.1) = ls → ks ≠ [] → (∀ p ∈ ks, Plain s b x 64 (v.pair a p.1) p.2) →
      ∃ t, hands (ks.map fun p => (p.1, readMem s.mem p.2 64)) t ∧ t.mem = s.mem)) ∧
  (∀ s id o d l q m x v, s.args = [id] → s.op? id = some o → o.kind = .insertion d [(l, q, m)] → s.ctx? o.ctx = some x →
    SMap.find? x.waves o.wave = some v → l < 32 →
    let c := code s true x.part q m
    ∃ t u, exec .queueInsertion s = .next t ∧ t.op? id = none ∧ t.wave? o.ctx o.wave = some u ∧ u.lanes = v.lanes ∧
      (∀ r k, k < 32 → (r, k) ≠ (d, l) → u.reg r k = v.reg r k) ∧
      (c ≠ 0 → u.reg d l = BitVec.ofNat 32 c ∧ t.queues = s.queues ∧ t.mem = s.mem ∧ t.hub = s.hub) ∧
      (c = 0 → u.reg d l = BitVec.ofNat 32 (2 ^ 16 * (s.hubGet 0x407 q % 2 ^ 16)) ∧ inserted s t q m)) ∧
  ∀ s, let q := s.hubGet 0x400 0 % 4096
    let m := ((List.range 16).map fun k => s.hubGet (0x410 + k) q * 2 ^ (32 * k)).sum
    let c := code s false 0 q m
    ∃ t, exec .qputRegister s = .next t ∧ t.ctxs = s.ctxs ∧
      (c ≠ 0 → t.hubGet 0x421 0 = c ∧ t.queues = s.queues ∧ t.mem = s.mem) ∧
      (c = 0 → t.hubGet 0x421 0 = 2 ^ 16 * (s.hubGet 0x407 q % 2 ^ 16) ∧ inserted s t q m)

/-- R355 to R357, R424, R426, R502: the first packet of an enabled queue that runs, with none begun before it, begins. NOP, FENCE and
MARKER complete at once, a MARKER with an address having written the clock there; a SIGNAL writes or adds its value at the home and
completes; a WAIT reads its word, and completes when the condition holds and reads again later when it does not. Where the word of a
MARKER, SIGNAL or WAIT cannot be reached, an event of type 6 names it, the packet completes without it and the queue pauses. Completion
frees the entry and counts one in QDONE, and no other queue changes. Where Matins' accesses are made, and as whom, is log 21 (DESIGN
CHOICE). -/
def Obligations.QueuePackets : Prop :=
  let runs (s : State) (q type : Nat) (e : Entry) (es : List Entry) (begun : Bool) : Prop :=
    (s.queue q).entries = e :: es ∧ e.begun = begun ∧ e.image % 2 ^ 8 = type ∧ (∀ d ∈ es, d.begun = false ∧ d.index ≠ e.index) ∧
      (s.hubGet 0x401 q).testBit 7 = true ∧ (s.queue q).paused = false ∧ (s.queue q).suspended = false ∧ q < 4096
  let done (s t : State) (q : Nat) (es : List Entry) : Prop :=
    (t.queue q).entries = es ∧ t.hubGet 0x408 q = (s.hubGet 0x408 q + 1) % 2 ^ 32 ∧ ∀ p, p ≠ q → t.queue p = s.queue p
  /- no request that waits is on its way again -/
  let free (s : State) : Prop := ∀ w ∈ s.waiting, w.posted = false ∧ w.turn = false
  let fails (s u t : State) (q : Nat) (es : List Entry) (c a : Nat) : Prop := ∃ v, EventWritten 6 q 0 c a u v ∧ done s t q es ∧
    (t.queue q).paused = true ∧ t.mem = v.mem ∧ t.hubGet 0x433 0 = v.hubGet 0x433 0 ∧ t.hubGet 0x435 0 = v.hubGet 0x435 0
  (∀ i type, (i = .nopPacket ∧ type = 0) ∨ (i = .fencePacket ∧ type = 5) → ∀ s q e es, s.args = [q, e.index] →
    runs s q type e es false → ∃ t, exec i s = .next t ∧ done s t q es ∧ t.mem = s.mem ∧ t.ctxs = s.ctxs) ∧
  (∀ s q e es, s.args = [q, e.index] → runs s q 6 e es false → free s →
    let part := s.hubGet 0x401 q % 16
    let record : Nat := 1 + 32 * 2 ^ 16 + s.clock.toNat * 2 ^ 64 + (pktTag e.image + q * 2 ^ 32) * 2 ^ 128
    let begun : State := s.setQueue q { s.queue q with entries := { e with begun := true } :: es }
    let b : State := if (s.hubGet 0x720 part).testBit 0 && (s.hubGet 0x720 part).testBit 4 then
      begun.post .traceRecord [part, 32, record] else begun
    (pktWord e.image 0 = 0 → ∃ t, exec .markerPacket s = .next t ∧ done s t q es ∧ t.mem = s.mem ∧ t.ctxs = s.ctxs ∧
      ((s.hubGet 0x720 part).testBit 0 = true → (s.hubGet 0x720 part).testBit 4 = true →
        (.traceRecord, [part, 32, record]) ∈ t.agenda)) ∧
    ∀ r u, pktWord e.image 0 ≠ 0 → b.matinsPlace part (pktWord e.image 0) 8 permW = (r, u) → u.queues = b.queues → u.hub = s.hub →
      (∀ pa, r = .ok (false, pa) → pa % 8 = 0 → poisoned u (ctlKey pa) 8 = false →
        ∃ t, exec .markerPacket s = .next t ∧ done s t q es ∧ readMem t.mem (ctlKey pa) 8 = s.clock.toNat) ∧
      ∀ c, r = .error (.inl c) ∨ (∃ pa, r = .ok (false, pa) ∧ poisoned u (ctlKey pa) 8 = true ∧ c = 4) →
        ∃ t, exec .markerPacket s = .next t ∧ fails s u t q es c (pktWord e.image 0)) ∧
  (∀ s q e es, s.args = [q, e.index] → runs s q 4 e es false → ∃ t, exec .signalBegin s = .next t ∧ t.mem = s.mem ∧
    (t.queue q).entries = { e with begun := true } :: es ∧ t.agenda = s.agenda ++ [(.signalComplete, [q, e.index])]) ∧
  (∀ s q e es r u, s.args = [q, e.index] → runs s q 4 e es true → free s →
    let add := decide (pktWord e.image 2 = 1)
    s.matinsPlace (s.hubGet 0x401 q % 16) (pktWord e.image 0) 8 (if add then permR + permW else permW) = (r, u) →
    u.queues = s.queues → u.hub = s.hub →
    (∀ pa, r = .ok (false, pa) → poisoned u (ctlKey pa) 8 = false → pa % 8 = 0 →
      ∃ t, exec .signalComplete s = .next t ∧ done s t q es ∧ t.ctxs = u.ctxs ∧ readMem t.mem (ctlKey pa) 8 =
        if add then (readMem (u.recall (pa / 128)).mem (ctlKey pa) 8 + pktWord e.image 1) % 2 ^ 64 else pktWord e.image 1) ∧
    ∀ c, r = .error (.inl c) ∨ (∃ pa, r = .ok (false, pa) ∧ poisoned u (ctlKey pa) 8 = true ∧ c = 4) →
      ∃ t, exec .signalComplete s = .next t ∧ fails s u t q es c (pktWord e.image 0)) ∧
  (∀ s q e es, s.args = [q, e.index] → runs s q 3 e es false → ∃ t, exec .waitBegin s = .next t ∧ t.mem = s.mem ∧
    (t.queue q).entries = { e with begun := true } :: es ∧ t.agenda = s.agenda ++ [(.waitPoll, [q, e.index, s.clock.toNat])]) ∧
  ∀ s q e es at', s.args = [q, e.index, at'] → runs s q 3 e es true → free s →
    (s.clock.toNat < at' → exec .waitPoll s = .next { s with
      agenda := s.agenda ++ [(.waitPoll, [q, e.index, at'])], clock := s.clock + 1 }) ∧
    (∀ c u, at' ≤ s.clock.toNat → s.matinsRead (s.hubGet 0x401 q % 16) (pktWord e.image 0) 8 = .fail c u → u.queues = s.queues →
      u.hub = s.hub → ∃ t, exec .waitPoll s = .next t ∧ fails s u t q es c (pktWord e.image 0)) ∧
    ∀ x u, at' ≤ s.clock.toNat → s.matinsRead (s.hubGet 0x401 q % 16) (pktWord e.image 0) 8 = .ok x u → u.queues = s.queues →
      u.hub = s.hub → u.waiting = s.waiting →
      let y := pktWord e.image 1
      let met : Prop := match pktWord e.image 2 with
        | 0 => x = y
        | 1 => x ≠ y
        | 2 => y ≤ x
        | _ => x < y
      (met → ∃ t, exec .waitPoll s = .next t ∧ done s t q es ∧ t.mem = u.mem) ∧
      (¬ met → ∃ t gap, exec .waitPoll s = .next t ∧ t.queues = s.queues ∧ t.mem = u.mem ∧
        t.agenda = u.agenda ++ [(.waitPoll, [q, e.index, s.clock.toNat + gap])] ∧
        s.nanos 250 ≤ gap ∧ gap ≤ s.nanos 2000)

/-- R57, R58, R357, R415, R425, R426: LAUNCH_BEGIN reads the descriptor; one that passes every check becomes a begun launch with its
spans to place, or, with none, completes at once. One that cannot be read (code 1), or whose code is the first of R415 that applies, is
rejected: an event of type 1 holds the code and the descriptor's address, nothing is placed, and the launch completes at once.
LAUNCH_COMPLETE of a launch all of whose spans are placed and retired ends it and its packet. A nonzero W2 then receives W3, or of a
rejected launch 2^63 with its code. -/
def Obligations.Launches : Prop :=
  let runs (s : State) (q type : Nat) (e : Entry) (es : List Entry) (begun : Bool) : Prop :=
    (s.queue q).entries = e :: es ∧ e.begun = begun ∧ e.image % 2 ^ 8 = type ∧ (∀ d ∈ es, d.begun = false ∧ d.index ≠ e.index) ∧
      (s.hubGet 0x401 q).testBit 7 = true ∧ (s.queue q).paused = false ∧ (s.queue q).suspended = false ∧ q < 4096
  /- no request that waits is on its way again -/
  let free (s : State) : Prop := ∀ w ∈ s.waiting, w.posted = false ∧ w.turn = false
  let code (u : State) (part d : Nat) : Nat :=
    let f (hi lo : Nat) : Nat := bits d hi lo
    let threads := f 137 128 * f 147 138 * f 157 148
    let span := f 165 160 * f 171 166 * f 177 172
    let missing (flag feature : Nat) : Prop := d.testBit flag = true ∧ (u.hubGet 0x80C 0).testBit feature = false
    if f 511 256 ≠ 0 ∨ f 191 178 ≠ 0 ∨ f 159 158 ≠ 0 ∨ f 127 103 ≠ 0 ∨ f 71 71 ≠ 0 then 2
    else if 32 < f 99 94 ∨ 32 < f 93 88 ∨ 16 < f 87 83 ∨ 1024 < f 82 72 ∨ threads = 0 ∨ 512 < threads ∨ span = 0 ∨ 48 < span ∨
      ¬ (f 165 160 ∣ f 223 192 ∧ f 171 166 ∣ f 239 224 ∧ f 177 172 ∣ f 255 240) then 3
    else if f 70 68 = 7 ∨ 0x10000 + 0x8000 * f 70 68 < 256 * f 82 72 then 4
    else if d.testBit 0 = true ∨ ¬ (f 63 60 = 1 ∨ (f 63 60 = 2 ∧ f 59 40 = u.pkg)) then 5
    else if missing 102 0 ∨ missing 101 4 ∨ missing 100 5 then 6
    else if 1024 < (threads + 31) / 32 * (8 * (f 67 64 + 1)) then 7
    else if u.hubGet 0x423 part = 0 ∧ u.hubGet 0x424 part = 0 then 8
    else 0
  /- packet of queue q, begun, is over in t, with its word W2, if any, written y: u is the machine in which that is done -/
  let closes (u t : State) (q part : Nat) (e : Entry) (es : List Entry) (y : Nat) : Prop :=
    let gone (z : State) : Prop := (t.queue q).entries = es ∧ t.hubGet 0x408 q = (z.hubGet 0x408 q + 1) % 2 ^ 32
    (pktWord e.image 2 = 0 → gone u ∧ t.mem = u.mem) ∧
    ∀ pa z, pktWord e.image 2 ≠ 0 → u.matinsPlace part (pktWord e.image 2) 8 permW = (.ok (false, pa), z) → z.queues = u.queues →
      z.hub = u.hub → poisoned z (ctlKey pa) 8 = false → pa % 8 = 0 → gone u ∧ readMem t.mem (ctlKey pa) 8 = y
  (∀ s q e es, s.args = [q, e.index] → runs s q 1 e es false → free s →
    let begun : State := s.setQueue q { s.queue q with entries := { e with begun := true } :: es }
    let part := s.hubGet 0x401 q % 16
    let enters (u v : State) (n d c : Nat) : Prop := v.mem = u.mem ∧ v.hub = u.hub ∧ v.ctxs = u.ctxs ∧ v.tlb = u.tlb ∧
      SMap.find? v.launches n = some ⟨q, e.index, e.image, d, 0, if c = 0 then descSpans d else 0, c, part, false⟩
    (∀ d u, pktWord e.image 0 % 64 = 0 → begun.matinsRead part (pktWord e.image 0) 64 = .ok d u → u.queues = begun.queues →
      u.hub = s.hub → code u part d = 0 → ∃ t, exec .launchBegin s = .next t ∧
        (descSpans d ≠ 0 → enters u t (u.nextId + 1) d 0 ∧ (t.queue q).entries = { e with begun := true } :: es ∧
          (.placementOpportunity, []) ∈ t.agenda) ∧
        (descSpans d = 0 → ∃ v, enters u v (u.nextId + 1) d 0 ∧ closes v t q part e es (pktWord e.image 3))) ∧
    ∀ u c, (pktWord e.image 0 % 64 ≠ 0 ∧ u = begun ∧ c = 1) ∨ (pktWord e.image 0 % 64 = 0 ∧
        ((∃ k, begun.matinsRead part (pktWord e.image 0) 64 = .fail k u ∧ c = 1) ∨
          ∃ d, begun.matinsRead part (pktWord e.image 0) 64 = .ok d u ∧ c = code u part d ∧ c ≠ 0)) →
      u.queues = begun.queues → u.hub = s.hub → ∃ t w v, exec .launchBegin s = .next t ∧ t.ctxs = u.ctxs ∧
        EventWritten 1 q 0 c (pktWord e.image 0) { u with queues := w.queues } w ∧
        enters w v (w.nextId + 1) 0 c ∧ closes v t q part e es (2 ^ 63 + c)) ∧
  ∀ s n l e es, s.args = [n] → free s → SMap.find? s.launches n = some l → l.spans ≤ l.next ∨ l.code ≠ 0 →
    (∀ c x, (c, x) ∈ s.ctxs → x.launch ≠ n) → l.index = e.index → l.image = e.image → l.done = false → l.queue < 4096 →
    (s.queue l.queue).entries = e :: es → (∀ d ∈ es, d.index ≠ e.index) →
    let y := if l.code = 0 then pktWord e.image 3 else 2 ^ 63 + l.code
    (pktWord e.image 2 = 0 ∨ ∃ pa z, s.matinsPlace l.part (pktWord e.image 2) 8 permW = (.ok (false, pa), z) ∧
      z.launches = s.launches ∧ z.ctxs = s.ctxs) →
    ∃ t, exec .launchComplete s = .next t ∧ t.ctxs = s.ctxs ∧ SMap.find? t.launches n = none ∧ closes s t l.queue l.part e es y

/-- R410 to R412, R466: a write of QCTL is refused with QSTATE[3] when it asks for a ring that does not exist, changes PART or SZ of an
enabled queue, or disables one that is not empty; an enable makes QTAIL, QDONE and QDEF zero; PRIV changes at machine level
alone. PAUSE and EVICT pause a queue that is enabled, UNPAUSE lets a paused one go on, and RESET discards every packet of a
paused one that has not begun; a command in another state is refused and changes nothing else. An enable for a partition that is not
Sealed is refused too (R466). RESET is stated for a queue with no LAUNCH packet, no begun launch and no collective. -/
def Obligations.QueueCommands : Prop :=
  let sel (s : State) : Nat := s.hubGet 0x400 0 % 4096
  let field (v : Nat) : Nat × Nat := (v % 16, v / 2 ^ 12 % 16)
  let enabled (s : State) : Prop := (s.hubGet 0x401 (sel s)).testBit 7 = true
  let refused (s t : State) : Prop := t = s.hubSet 0x40A (sel s) 8
  (∀ s v m, s.args = [v, m] → v < 2 ^ 16 → v.testBit 11 = false → (s.hubGet 0x401 (sel s)) < 2 ^ 16 →
    let q := sel s
    let old := s.hubGet 0x401 q
    let bad : Prop := 12 < v / 2 ^ 12 ∨ (old.testBit 7 = true ∧ field old ≠ field v) ∨
      (old.testBit 7 = true ∧ v.testBit 7 = false ∧ (s.queue q).entries ≠ []) ∨
      (old.testBit 7 = false ∧ v.testBit 7 = true ∧ s.partState (v % 16) ≠ 1)
    ∃ t, exec .qctlWrite s = .next t ∧ (bad → refused s t) ∧ (¬ bad →
      t.hubGet 0x40A q = 0 ∧ (∀ k, k ≠ 9 → (t.hubGet 0x401 q).testBit k = v.testBit k) ∧
      (t.hubGet 0x401 q).testBit 9 = (if m = 1 then v else old).testBit 9 ∧ t.mem = s.mem ∧ t.ctxs = s.ctxs ∧
      (old.testBit 7 = false → v.testBit 7 = true → t.hubGet 0x407 q = 0 ∧ t.hubGet 0x408 q = 0 ∧ (t.queue q).deficit = 0 ∧
        (t.queue q).paused = false ∧ (t.queue q).entries = (s.queue q).entries))) ∧
  (∀ i, i = .queuePause ∨ i = .queueEvict → ∀ s,
    (¬ enabled s → ∃ t, exec i s = .next t ∧ refused s t) ∧
    (enabled s → ∃ t, exec i s = .next t ∧ t.mem = s.mem ∧ t.ctxs = s.ctxs ∧ t.hubGet 0x40A (sel s) = 0 ∧
      (t.queue (sel s)).paused = true ∧ (t.queue (sel s)).entries = (s.queue (sel s)).entries ∧
      (∀ p, p ≠ sel s → t.queue p = s.queue p) ∧
      (i = .queueEvict → ∀ c x, s.ctx? c = some x → x.queue = sel s → x.state = .resident → x.goal = .none →
        (.matinsPreempt, [c]) ∈ t.agenda))) ∧
  (∀ s, ¬ (enabled s ∧ ((s.queue (sel s)).paused = true ∨ (s.queue (sel s)).suspended = true)) →
    ∃ t, exec .queueUnpause s = .next t ∧ refused s t) ∧
  (∀ s, enabled s → (s.queue (sel s)).paused = true ∨ (s.queue (sel s)).suspended = true →
    ∃ t, exec .queueUnpause s = .next t ∧ t.mem = s.mem ∧ t.ctxs = s.ctxs ∧ t.hubGet 0x40A (sel s) = 0 ∧
      (t.queue (sel s)).paused = false ∧ (t.queue (sel s)).suspended = false ∧ (.placementOpportunity, []) ∈ t.agenda ∧
      (t.queue (sel s)).entries = (s.queue (sel s)).entries) ∧
  (∀ s, ¬ (enabled s ∧ (s.queue (sel s)).paused = true ∧ (s.queue (sel s)).suspended = false) →
    ∃ t, exec .queueReset s = .next t ∧ refused s t) ∧
  ∀ s, enabled s → (s.queue (sel s)).paused = true → (s.queue (sel s)).suspended = false → s.colls = [] → s.launches = [] →
    (∀ e ∈ (s.queue (sel s)).entries, e.begun = false ∧ e.image % 2 ^ 8 ≠ 1) →
    ((s.queue (sel s)).entries.map fun e => e.index).Nodup → ∃ t, exec .queueReset s = .next t ∧ t.mem = s.mem ∧ t.ctxs = s.ctxs ∧
      t.hubGet 0x40A (sel s) = 0 ∧ (t.queue (sel s)).entries = [] ∧
      t.hubGet 0x408 (sel s) = (s.hubGet 0x408 (sel s) + (s.queue (sel s)).entries.length) % 2 ^ 32

/-! ### Contexts, issue and placement -/

/-- R398: a command of CTXCMD on the context that CTXSEL selects. PREEMPT, HALT and STOP on an issuing span start its drain to
Saved, Halted and Stopped, STOP outside confidential partitions, and PREEMPT unless the save pool is full, when its blocks are not
pre-emptable until the pool grows; RELEASE makes a halted span resident again or, where its image
is saved, Saved; KILL makes a saved, halted or stopped one Retiring, and BLOCK_RETIRE ends it; CONTINUE makes a stopped one resident; SIGNAL sets event bits or
releases the lanes parked at wfe; SETDBG changes DBGEN. A command that the state does not allow is refused: CTXSTAT[5] is 1
and nothing else changes. -/
def Obligations.ContextCommands : Prop :=
  let sel (s : State) : Nat := s.hubGet 0x040 0 % 2 ^ 16
  let refused (i : Instr) (s : State) : Prop := exec i s = .next ((s.hubSet 0x042 0 0).hubSet 0x042 0 0x20)
  let conf (s : State) (x : Ctx) : Bool := (s.hubGet 0x701 x.part).testBit 16
  let issuing (x : Ctx) : Prop := x.state = .resident ∧ x.goal = .none
  let drains (s t : State) (g : Goal) (st : CState) (e : Instr) : Prop := t.mem = s.mem ∧ t.hubGet 0x042 0 = 0 ∧
    (∀ b y, b ∈ s.spanOf (sel s) → s.ctx? b = some y → issuing y → (e, [b]) ∈ t.agenda ∧
      ∃ z, t.ctx? b = some z ∧ z.state = st ∧ z.goal = g ∧ z.busy = true ∧
        ∀ w v, SMap.find? y.waves w = some v → SMap.find? z.waves w = some { v with rend := none }) ∧
    ∀ b, b ∉ s.spanOf (sel s) → t.ctx? b = s.ctx? b
  (∀ i s, (i = .ctxPreempt ∨ i = .ctxHalt ∨ i = .ctxRelease ∨ i = .ctxKill ∨ i = .ctxStop ∨ i = .ctxContinue ∨ i = .ctxSignal ∨
    i = .ctxSetdbg0 ∨ i = .ctxSetdbg1) → s.ctx? (sel s) = none → refused i s) ∧
  ∀ s x, s.ctx? (sel s) = some x →
    (¬ issuing x → refused .ctxPreempt s ∧ refused .ctxHalt s ∧ refused .ctxStop s) ∧
    (x.state ≠ .halted → refused .ctxRelease s) ∧ (x.state ≠ .stopped → refused .ctxContinue s) ∧
    (x.state ≠ .saved → x.state ≠ .halted → x.state ≠ .stopped → refused .ctxKill s) ∧
    (conf s x = true → refused .ctxStop s ∧ refused .ctxSetdbg1 s) ∧
    (issuing x → (∀ b ∈ s.spanOf (sel s), (SMap.find? s.saves b).isSome = true) → s.colls = [] →
      ∃ t, exec .ctxPreempt s = .next t ∧ drains s t .saved .saving .saveComplete) ∧
    (issuing x → (s.hubSet 0x042 0 0).takeAreas (sel s) = none → ∃ t, exec .ctxPreempt s = .next t ∧ t.hubGet 0x042 0 = 0x20 ∧
      t.ctxs = s.ctxs ∧ ∀ b ∈ s.spanOf (sel s), b ∈ t.unsaved) ∧
    (issuing x → ∃ t, exec .ctxHalt s = .next t ∧ drains s t .halted .saving .saveComplete) ∧
    (issuing x → conf s x = false → ∃ t, exec .ctxStop s = .next t ∧ drains s t .stopped .resident .stopComplete ∧
      ∀ b z, b ∈ s.spanOf (sel s) → t.ctx? b = some z → z.stop = ⟨if b = sel s then 1 else 5, 0, 0, 0, 0⟩) ∧
    (x.state = .halted → x.onCore = false → s.spanOf (sel s) = [sel s] → ∃ t, exec .ctxRelease s = .next t ∧ t.mem = s.mem ∧
      t.ctx? (sel s) = some { x with state := .saved } ∧ (.placementOpportunity, []) ∈ t.agenda ∧
      ∀ b, b ≠ sel s → t.ctx? b = s.ctx? b) ∧
    (x.state = .halted → x.onCore = true → s.spanOf (sel s) = [sel s] → (∀ w v, (w, v) ∈ x.waves → v.sqtrap = false) →
      ∃ t, exec .ctxRelease s = .next t ∧ t.mem = s.mem ∧ t.ctx? (sel s) = some { x with state := .resident, onCore := false } ∧
        ∀ b, b ≠ sel s → t.ctx? b = s.ctx? b) ∧
    (x.state = .saved ∨ x.state = .halted ∨ x.state = .stopped → ∃ t, exec .ctxKill s = .next t ∧ t.hubGet 0x042 0 = 0 ∧ t.mem = s.mem ∧
      (∀ b y, b ∈ s.spanOf (sel s) → s.ctx? b = some y → (.blockRetire, [b]) ∈ t.agenda ∧
        t.ctx? b = some { y with state := .retiring, goal := .none, onCore := y.placed, busy := true }) ∧
      ∀ b, b ∉ s.spanOf (sel s) → t.ctx? b = s.ctx? b) ∧
    (x.state = .stopped → s.spanOf (sel s) = [sel s] → SMap.find? s.saves (sel s) = none →
      (∀ w v, (w, v) ∈ x.waves → v.sqtrap = false) → ∃ t, exec .ctxContinue s = .next t ∧ t.mem = s.mem ∧
        t.ctx? (sel s) = some { x with state := .resident } ∧ ∀ b, b ≠ sel s → t.ctx? b = s.ctx? b) ∧
    (x.placed = true → ∃ t, exec .ctxSignal s = .next t ∧ t.mem = s.mem ∧ ∀ w v, SMap.find? x.waves w = some v →
      ∃ u, t.wave? (sel s) w = some u ∧ u.regs = v.regs ∧
        ((∃ l n, (l, n) ∈ v.lanes ∧ n.exited = false ∧ n.park = .wfe) → u.event = false ∧ ∀ l n, (l, n) ∈ u.lanes → n.park ≠ .wfe) ∧
        ((∀ l n, (l, n) ∈ v.lanes → n.exited = false → n.park ≠ .wfe) → u = { v with event := true })) ∧
    (∃ t, exec .ctxSetdbg0 s = .next t ∧ t.ctx? (sel s) = some { x with dbgen := false } ∧ t.mem = s.mem) ∧
    (conf s x = false → ∃ t, exec .ctxSetdbg1 s = .next t ∧ t.ctx? (sel s) = some { x with dbgen := true } ∧ t.mem = s.mem)

/-- R49, R290, R398, R405, R406, R469: with its lanes exited and nothing in flight a wave retires; with its waves retired and
nothing that it issued in flight a block is Retiring; BLOCK_RETIRE of such a one ends it, and its scratchpad is cleared. MATINS_PREEMPT starts the drain of a resident span. A drained
span of one block is written to its save area, in tensor memory alone, and is Saved or Halted, or Stopped on its core; a
block halted on its core is written when the pool has an area; with no area, the end of a halt leaves it on its core and
an event of type 5 is written (R426).
R54, R398, R405 to R407: CONTEXT_RESUME of a saved span of one block for which there is room places it and brings registers,
lanes and pending bits from the save area into its waves; of a span that is being restored it discards the L1 lines of its cores,
and RESTORE_COMPLETE comes next, which makes all its blocks resident at once: a parked lane stays parked, and windows, aging
counts and deferred lanes start empty. A poisoned image is not resumed (log 53), and a lane record with a reserved bit set is not read
(log 58): the model's choices. -/
def Obligations.LeavingAndResuming : Prop :=
  (let tensorOnly (s t : State) : Prop := ∀ k, k < 0x2000000000000000 ∨ 0x2000020000000000 ≤ k → readByte t.mem k = readByte s.mem k
  let drained (s : State) (c : Nat) (x : Ctx) : Prop := s.ctx? c = some x ∧ s.spanOf c = [c] ∧ s.ctxBusy c = false ∧
    ∀ w v, (w, v) ∈ x.waves → v.trap = none ∧ v.walk = false
  let leaves (s t : State) (c : Nat) (st : CState) (core : Bool) : Prop := (∀ b, b ≠ c → t.ctx? b = s.ctx? b) ∧
    ∃ y, t.ctx? c = some y ∧ y.state = st ∧ y.goal = .none ∧ y.onCore = core ∧ y.busy = false ∧
      ∀ w v, s.wave? c w = some v → SMap.find? y.waves w = some { v with
        windows := [], walk := false, lanes := SMap.mapVals v.lanes fun _ n => { n with age := 0, deferred := false } }
  (∀ s c w x v, s.args = [c, w] → s.ctx? c = some x → SMap.find? x.waves w = some v → v.retired = false → v.trap = none →
    s.waveBusy c w = false → (∀ l n, (l, n) ∈ v.lanes → n.exited = true) → (∀ k u, (k, u) ∈ x.waves → u.rend = none) →
    ∃ t, exec .waveRetire s = .next t ∧ t.mem = s.mem ∧ t.hub = s.hub ∧ t.wave? c w = some { v with retired := true } ∧
      ∀ d k, (d, k) ≠ (c, w) → t.wave? d k = s.wave? d k) ∧
  (∀ s c x, s.args = [c] → s.ctx? c = some x → x.state = .resident → x.goal = .none → s.ctxWorks c = false →
    (∀ w v, (w, v) ∈ x.waves → v.retired = true) → exec .blockRetire s = .next
      ((s.modCtx c fun y => { y with state := .retiring, goal := .none, onCore := true }).post .blockRetire [c])) ∧
  (∀ s c x, s.args = [c] → s.ctx? c = some x → x.state = .retiring → ∃ t, exec .blockRetire s = .next t ∧ t.ctx? c = none ∧
      (∀ b, b ≠ c → t.ctx? b = s.ctx? b) ∧ ∀ k, readByte t.mem k =
        if scratchKey c 0 ≤ k ∧ k < scratchKey c 0 + 0x40000 then 0 else readByte s.mem k) ∧
  (∀ s c x, s.args = [c] → s.ctx? c = some x → x.state = .resident → x.goal = .none → c ∉ s.unsaved →
    (∀ b ∈ s.spanOf c, (SMap.find? s.saves b).isSome = true) → s.colls = [] → c ∈ s.spanOf c →
    ∃ t y, exec .matinsPreempt s = .next t ∧ t.mem = s.mem ∧ t.hub = s.hub ∧ t.ctx? c = some y ∧ y.state = .saving ∧
      y.goal = .saved ∧ (.saveComplete, [c]) ∈ t.agenda) ∧
  (∀ s c x g, s.args = [c] → drained s c x → x.goal = g → (SMap.find? s.saves c).isSome = true →
    (g = .saved → ∃ t, exec .saveComplete s = .next t ∧ leaves s t c .saved false ∧ tensorOnly s t) ∧
    (g = .halted → ∃ t, exec .saveComplete s = .next t ∧ leaves s t c .halted false ∧ tensorOnly s t) ∧
    (g = .stopped → ∃ t, exec .stopComplete s = .next t ∧ leaves s t c .stopped x.onCore ∧ tensorOnly s t)) ∧
  (∀ s c x, s.args = [c] → drained s c x → x.goal = .halted → s.takeAreas c = none → ∃ u t, exec .saveComplete s = .next t ∧
    EventWritten 5 x.queue c 0 0 u t ∧ leaves s u c .halted true ∧ u.mem = s.mem ∧ u.hub = s.hub ∧ u.lines = s.lines ∧
    u.waiting = s.waiting ∧ u.clock = s.clock) ∧
  ∀ s c x, s.args = [c] → s.ctx? c = some x → s.spanOf c = [c] → x.state = .halted → x.onCore = true →
    (SMap.find? s.saves c).isSome = true → ∃ t, exec .deferredHaltSave s = .next t ∧ leaves s t c .halted false ∧ tensorOnly s t) ∧
  ((∀ s c x k n, s.args = [c] → s.ctx? c = some x → s.spanOf c = [c] → x.state = .saved → s.savedSpot c x = some (k, n) →
    s.imagePoisoned x true = false → (∀ w v l n, (w, v) ∈ x.waves → (l, n) ∈ v.lanes → l < 32) → ∃ t y, exec .contextResume s = .next t ∧ t.hub = s.hub ∧
      t.ctx? c = some y ∧ y.state = .restoring ∧ y.place = 48 * k + n + x.index ∧ (.restoreComplete, [c]) ∈ t.agenda ∧
      (∀ b, b ≠ c → t.ctx? b = s.ctx? b) ∧ (∀ e ∈ t.l1, e ∈ s.l1 ∧ e.1 / 0x200000000 ≠ y.place) ∧
      ∀ w v, SMap.find? x.waves w = some v → ∃ u, SMap.find? y.waves w = some u ∧
        (∀ r l n, r < x.declared → l < 32 → v.lane? l = some n →
          u.reg r l = BitVec.ofNat 32 (s.getSave x (x.saveAt 3 + 128 * (w * x.declared + r) + 4 * l) 4)) ∧
        (∀ r l, r < 128 → l < 32 → u.pending r l = (s.getSave x (x.saveAt 2 + 512 * w + 4 * r) 4).testBit l) ∧
        ∀ l n, v.lane? l = some n → ∃ m, u.lane? l = some m ∧ m.kind = n.kind ∧
          let r := s.getSave x (x.saveAt 1 + 1024 * w + 32 * l) 32
          r / 2 ^ 176 % 2 ^ 16 = 0 → r / 2 ^ 108 % 2 ^ 20 = 0 → m.pc = BitVec.ofNat 64 r ∧ m.exited = r.testBit 100) ∧
  (∀ s c x, s.args = [c] → s.ctx? c = some x → x.state = .restoring → ∃ t, exec .contextResume s = .next t ∧ t.ctxs = s.ctxs ∧
    t.mem = s.mem ∧ t.hub = s.hub ∧ t.agenda = s.agenda ++ [(.restoreComplete, [c])] ∧
    ∀ b y, b ∈ s.spanOf c → s.ctx? b = some y → ∀ e ∈ t.l1, e ∈ s.l1 ∧ e.1 / 0x200000000 ≠ y.place) ∧
  ∀ s c x, s.args = [c] → s.ctx? c = some x → (∀ b y, b ∈ s.spanOf c → s.ctx? b = some y → y.state = .restoring ∧
      ∀ w v, (w, v) ∈ y.waves → v.sqtrap = false ∧ v.event = false) → x.state = .restoring →
    ∃ t, exec .restoreComplete s = .next t ∧ t.mem = s.mem ∧ t.hub = s.hub ∧ (∀ b, b ∉ s.spanOf c → t.ctx? b = s.ctx? b) ∧
      ∀ b y, b ∈ s.spanOf c → s.ctx? b = some y → ∃ z, t.ctx? b = some z ∧ z.state = .resident ∧
        ∀ w v, SMap.find? y.waves w = some v → ∃ u, SMap.find? z.waves w = some u ∧ u.regs = v.regs ∧ u.pend = v.pend ∧
          u.windows = [] ∧ ∀ l n, v.lane? l = some n → u.lane? l = some { n with age := 0, deferred := false })

/-- R41, R42, R48, R207, R472: BUNDLE_ISSUE of an issue slot selects, of its eligible waves that have not been found unable to issue
since it last issued, the first after the one it last issued, with wrap; when no window is closed and no breakpoint matches, it
fetches the word at the wave's lowest program counter, and the instruction it decodes to stands issued for the run, with the
wave as it was. When the bundle has issued, the slot goes on after its wave, every wave may be selected again, and breakpoint
units match its address again. A unit that matches stops the span with cause 3 instead, as BREAKPOINT_PC_STOP does, and does
not match that bundle until it has issued; with no wave to select the cycle passes. A wave whose access waits for a walk issues again in
a drain, which waits for the walk (R445). -/
def Obligations.BundleIssue : Prop :=
  let last (s : State) (k j : Nat) : Nat := SMap.get 0 (s.core k).last j
  (∀ s p slot c w x v pc run raw i u, s.args = [p] → s.withheld = false → s.selectWave (p / 4) (p % 4) = some (slot, c, w) →
    s.ctx? c = some x → SMap.find? x.waves w = some v → v.nextRun = some (pc, run) →
    v.walk = false → (∀ k ∈ v.windows, k.pos < k.span ∨ s.inFlight k.id = false) → v.active run = [] ∨ pcMatch s x v pc = none →
    fetch (s.hold (p / 4) slot) x pc.toNat = .ok raw u → decode raw = .ok i →
    exec .bundleIssue s = .next { u with
      cur := some ⟨c, w, pc, run, i, if raw % 2 = 0 then raw % 2 ^ 16 else raw % 2 ^ 32⟩, free := u.free + 1 }) ∧
  (∀ s p, s.args = [p] → s.withheld = false → s.selectWave (p / 4) (p % 4) = none →
    ∃ t, exec .bundleIssue s = .next t ∧ t.cur = none ∧ t.clock = s.clock + 1 ∧ t.mem = s.mem ∧ t.ctxs = s.ctxs ∧ t.ops = s.ops ∧
      t.hub = s.hub ∧ ∀ k ∈ (t.core (p / 4)).held, k % 4 ≠ p % 4) ∧
  (∀ (s : State) p j slot c w, s.selectWave p j = some (slot, c, w) →
    let ready (k : Nat) : Prop := ∃ d y q z, (d, y) ∈ s.ctxs ∧ (q, z) ∈ y.waves ∧ 
      ((y.state = .resident ∧ y.goal = .none) ∨ (y.goal ≠ .none ∧ z.walk = true)) ∧ y.place = p ∧ z.slot = k ∧ k % 4 = j ∧ z.eligible = true ∧ k ∉ (s.core p).held
    ready slot ∧ (∃ x v, (c, x) ∈ s.ctxs ∧ (w, v) ∈ x.waves ∧ x.place = p ∧ v.slot = slot ∧ v.trap = none ∧ v.rend = none) ∧
      (last s p j ≤ slot ∨ ∀ k, ready k → k < last s p j) ∧ ∀ k, ready k → (last s p j ≤ k ↔ last s p j ≤ slot) → slot ≤ k) ∧
  (∀ (s : State) b x v, s.ctx? b.ctx = some x → SMap.find? x.waves b.wave = some v →
    last (s.noteIssue b) x.place (v.slot % 4) = v.slot + 1 ∧
      (∀ k, k ∈ ((s.noteIssue b).core x.place).held ↔ k ∈ (s.core x.place).held ∧ k % 4 ≠ v.slot % 4) ∧
      ∃ u, (s.noteIssue b).wave? b.ctx b.wave = some u ∧ ∀ e, e ∈ u.skip ↔ e ∈ v.skip ∧ e.2 ≠ b.pc) ∧
  (∀ s c w x v pc run u, s.args = [c, w] → s.ctx? c = some x → SMap.find? x.waves w = some v → x.state = .resident → x.goal = .none →
    v.eligible = true → v.nextRun = some (pc, run) → v.active run ≠ [] → pcMatch s x v pc = some u → c ∈ s.spanOf c →
    ∃ t y z, exec .breakpointPcStop s = .next t ∧ t.mem = s.mem ∧ t.ctx? c = some y ∧ y.goal = .stopped ∧
      y.stop = ⟨3, u, 0, w, 0⟩ ∧ (.stopComplete, [c]) ∈ t.agenda ∧ SMap.find? y.waves w = some z ∧ z.skip = (u, pc) :: v.skip) ∧
  ∀ s x v pc u, pcMatch s x v pc = some u → x.dbgen = true ∧ u < 4 ∧ (u, pc) ∉ v.skip ∧
    (s.hubGet 0x731 (4 * x.part + u)) % 8 = 1 ∧ s.hubGet64 0x732 (4 * x.part + u) ≤ pc.toNat ∧
    pc.toNat ≤ s.hubGet64 0x734 (4 * x.part + u)

/-- R431, R434: a page walk for a core and partition that ends at a leaf with every permission asked for leaves its translation cached
for the core and for its cluster; one that does not leaves nothing cached for the page in either. A walk begins at the root, or,
by free choice, at the table of a pointer entry that the walkers hold (log 2). -/
def Obligations.PageWalks : Prop :=
  ∀ s c p te va need, s.args = [c, p, te, va, need] → c < 3072 → p < 16 → need < 64 →
    let tensor := te == 1
    let covered (y : Xlat) : Bool := y.covers (coreCache c) p tensor va || y.covers (clusterCache c) p tensor va
    let s0 : State := { s with tlb := s.tlb.filter fun y => !covered y }
    let start := s.heldPointer (s.walkDie c) p tensor va (some 130)
    let r := walkAt (s.dieAgent (s.walkDie c)) tensor (s.root tensor p) va start s0
    ∃ t, exec .pageWalkComplete s = .next t ∧ t.ctxs = s.ctxs ∧ t.hub = s.hub ∧
      (∀ leaf lvl u, r = (.ok (leaf, lvl), u) → leaf &&& need = need → t.mem = u.mem ∧
        t.tlb.head? = some ⟨coreCache c, p, tensor, va / 2 ^ pageBits lvl, lvl, leaf⟩ ∧
        ⟨clusterCache c, p, tensor, va / 2 ^ pageBits lvl, lvl, leaf⟩ ∈ t.tlb) ∧
      (∀ leaf lvl u, r = (.ok (leaf, lvl), u) → leaf &&& need ≠ need → ∀ y ∈ t.tlb, covered y = false) ∧
      (∀ m u, r = (.error m, u) → ∀ y ∈ t.tlb, covered y = false) ∧
      ((∀ y ∈ s.walkers, y.covers (s.walkDie c) p tensor va = false) → start = none)

/-- R38, R39, R51, R128, R397, R419: the block of a launch of one-block spans that is placed takes the least free context number,
resident on its core with the position of its span, TVEC and TSCR of its queue, PRIV of its queue and the features accepted;
each thread's lane stands at ENTRY with the kernel argument in v0 and v1, the rest of its quad are helpers, and its other
registers are zero; the next span of the launch is the one after it, and no other context changes. -/
def Obligations.Placement : Prop :=
  ∀ s n l k base, SMap.find? s.launches n = some l → descSpanBlocks l.desc = 1 →
    let d := l.desc
    let q := l.queue
    let threads := bits d 137 128 * bits d 147 138 * bits d 157 148
    threads ≤ 512 → (threads + 31) / 32 ≤ (s.freeSlots (48 * k + base) ((threads + 31) / 32)).length →
    let t := s.placeFresh n k base
    let c := freeCtxNum s
    s.ctx? c = none ∧ (∀ b, b ≠ c → t.ctx? b = s.ctx? b) ∧ SMap.find? t.launches n = some { l with next := l.next + 1 } ∧
      t.mem = s.mem ∧ ∃ x, t.ctx? c = some x ∧ x.state = .resident ∧ x.goal = .none ∧ x.die = (48 * k + base) / 768 ∧
        x.core = (48 * k + base) % 768 ∧ x.fdie = x.die ∧ x.fcore = x.core ∧ x.fgen = (s.core (48 * k + base)).gen ∧
        x.desc = d ∧ x.queue = q ∧ x.part = s.hubGet 0x401 q % 16 ∧ x.launch = n ∧ x.span = l.next ∧ x.index = 0 ∧
        x.tvec = BitVec.ofNat 64 (s.hubGet64 0x40C q) ∧ x.tscr = BitVec.ofNat 64 (s.hubGet64 0x40E q) ∧
        x.priv = (s.hubGet 0x401 q).testBit 9 ∧ x.feat = s.hubGet 0x80C 0 ∧ x.regions = [] ∧ x.mat.loaded = false ∧
        x.lx = l.next % (bits d 223 192 / bits d 165 160) * bits d 165 160 ∧
        (∀ w, (SMap.find? x.waves w).isSome = decide (w < (threads + 31) / 32)) ∧
        ∀ w v, SMap.find? x.waves w = some v → v.part = 5 ∧ v.gang = 0 ∧ v.hmode = false ∧
          (∀ j, j < 32 → v.lane? j = if 32 * w + j < threads then some (Lane.start .present (BitVec.ofNat 64 (bits d 63 0)))
            else if 32 * w + j / 4 * 4 < threads then some (Lane.start .helper (BitVec.ofNat 64 (bits d 63 0))) else none) ∧
          ∀ r j, j < 32 → v.reg r j = if (v.lane? j).isSome = true then
            (if r = 0 then BitVec.ofNat 32 (pktWord l.image 1) else if r = 1 then BitVec.ofNat 32 (pktWord l.image 1 / 2 ^ 32) else 0)
            else 0

/-- R397, R417, R418, R422, R423, R426: PLACEMENT_OPPORTUNITY places what the chosen queue has ready until no queue has anything ready,
and then writes an event of type 4 for a queue whose span finds no room in the context table; the placement of one choice is said where
it leaves no queue ready. Outside lottery mode the choice is the first queue from the pointer of the highest priority on whose deficit is
positive, each having received k quanta, k the least that makes one positive, when none was; by lottery the generator steps once and the
queue whose range of tickets holds the draw wins, with no tickets the lowest: from the seed of R423's example the winners are 9, 7 and 3.
EPOCH_BOUNDARY starts the accruals of a new epoch, and waits until it begins, and writes nothing while no queue has a cap; CAP_REACHED
writes an event of type 3 with the accrual the first time in an epoch that a capped queue's accrual reaches its cap. -/
def Obligations.Scheduling : Prop :=
  let ends (s t : State) : Prop := t.candidates = [] → ∃ u, exec .placementOpportunity s = .next u ∧ u.ctxs = t.ctxs ∧
    u.launches = t.launches ∧ u.queues = t.queues
  let tickets (s : State) (es : List (Nat × Ready)) : Nat := (es.map fun e => s.hubGet 0x405 e.1 % 2 ^ 16).sum
  let lottery (g : Nat) : Nat := if g % 2 = 1 then (g / 2) ^^^ 0xD800000000000000 else g / 2
  (∀ s, s.candidates = [] → (∀ q k n l, (q, k) ∈ s.queues → s.freshOf q = some (n, l) → s.tableRoom (descSpanBlocks l.desc) = true) →
    exec .placementOpportunity s = .next s) ∧
  (∀ s q k n l, s.candidates = [] → s.queues = [(q, k)] → s.freshOf q = some (n, l) → 65536 < s.ctxs.length + descSpanBlocks l.desc →
    ∃ t, exec .placementOpportunity s = .next t ∧ EventWritten 4 q 0 0 0 s t) ∧
  (∀ s q r k, s.hubGet 0x425 0 % 2 = 0 → (q, r) ∈ s.candidates → (s.candidates.map (·.1)).Nodup →
    let level (p : Nat) : Nat := s.hubGet 0x401 p / 2 ^ 4 % 2 ^ 3
    let among (p : Nat) : Prop := (∃ r', (p, r') ∈ s.candidates) ∧ level p = level q
    let quantum (p : Nat) : Nat := max 1 (s.hubGet 0x404 p) * 1024
    let given (j p : Nat) : Int := (s.queue p).deficit + j * quantum p
    let deficit (p : Nat) : Int := if k = 0 then (s.queue p).deficit else min (given k p) (4 * quantum p)
    let pointer := SMap.get 0 s.ptrs (level q)
    (∀ e ∈ s.candidates, level e.1 ≤ level q) → (∃ p, among p ∧ 0 < given k p) → (∀ j p, j < k → among p → given j p ≤ 0) →
    0 < deficit q → (∀ p, among p → 0 < deficit p → p ≠ q → if pointer ≤ q then p < pointer ∨ q < p else p < pointer ∧ q < p) →
    ∃ u : State, u = { s with queues := u.queues, ptrs := u.ptrs } ∧ SMap.get 0 u.ptrs (level q) = q ∧
      (∀ p, among p → u.queue p = { s.queue p with deficit := deficit p }) ∧ (∀ p, ¬ among p → u.queue p = s.queue p) ∧
      ends s (u.place q r)) ∧
  (∀ s q r ds es, s.hubGet 0x425 0 % 2 = 1 → s.candidates = ds ++ (q, r) :: es → (∀ e ∈ ds, e.1 ≠ q) →
    let g := lottery (s.hubGet64 0x426 0)
    let total := tickets s s.candidates
    let draw := g % 2 ^ 32 * total / 2 ^ 32
    (total = 0 ∧ ds = []) ∨ (tickets s ds ≤ draw ∧ draw < tickets s ds + s.hubGet 0x405 q % 2 ^ 16) →
    ∃ u : State, u = { s with hub := u.hub } ∧ u.hubGet64 0x426 0 = g ∧
      (∀ n k, (n, k) ≠ (0x426, 0) → (n, k) ≠ (0x427, 0) → k < 2 ^ 16 → u.hubGet n k = s.hubGet n k) ∧ ends s (u.place q r)) ∧
  (∀ s : State, s.hubGet 0x405 3 = 20 → s.hubGet 0x405 7 = 50 → s.hubGet 0x405 9 = 30 → s.hubGet 0x426 0 = 0x80000000 →
    s.hubGet 0x427 0 = 1 → (s.chooseLottery [3, 7, 9]).1 = 9 ∧ ((s.chooseLottery [3, 7, 9]).2.chooseLottery [3, 7, 9]).1 = 7 ∧
      (((s.chooseLottery [3, 7, 9]).2.chooseLottery [3, 7, 9]).2.chooseLottery [3, 7, 9]).1 = 3) ∧
  (∀ s e, s.args = [e] →
    (s.clock.toNat < e * 2 ^ 20 → exec .epochBoundary s = .next { s with
      agenda := s.agenda ++ [(.epochBoundary, [e])], clock := s.clock + 1 }) ∧
    (e * 2 ^ 20 ≤ s.clock.toNat → ∃ t, exec .epochBoundary s = .next t ∧ t.ctxs = s.ctxs ∧
      ((∀ q k, (q, k) ∈ s.queues → s.hubGet 0x406 q = 0) → t.mem = s.mem ∧ t.hub = s.hub) ∧
      ∀ q k, SMap.find? s.queues q = some k → (t.queue q).entries = k.entries ∧ (t.queue q).deficit = k.deficit ∧
        (k.epoch ≠ s.clock.toNat / 2 ^ 20 → (t.queue q).accrual = 0 ∧ (t.queue q).capped = false) ∧
        (k.epoch = s.clock.toNat / 2 ^ 20 → t.queue q = k))) ∧
  ∀ s q, s.args = [q, s.clock.toNat / 2 ^ 20] →
    (s.hubGet 0x406 q = 0 → exec .capReached s = .next s) ∧
    (s.hubGet 0x406 q ≠ 0 → (s.queue q).capped = false → s.hubGet 0x406 q * 1024 * 16 ≤ s.accrual q →
      ∃ t u, exec .capReached s = .next t ∧ u = { s with queues := u.queues } ∧ (u.queue q).capped = true ∧
        (u.queue q).epoch = s.clock.toNat / 2 ^ 20 ∧ (u.queue q).entries = (s.queue q).entries ∧
        (∀ p, p ≠ q → u.queue p = s.queue p) ∧ EventWritten 3 q 0 0 (s.accrual q / 16) u t)

/-! ### Collectives and control lines -/

/-- R120, R168, R170 to R172, R175, R176, R178 to R180, R491, R492: COLLECTIVE_BEGIN of a well-formed block gives its rank's queue one
begun collective, the next of its group for that rank, with a slot held or awaited on each link it sends through. COLLECTIVE_STEP stages
a chunk of the rank's own input, read in its SRC, or one that comes from another package; sends what is staged of the own input, a flit
at a time; or, of an expansion, takes a step's chunk to the rank of this package that awaits it, or receives the one that comes from
another package. Each step's receiver awaits the rank that sends to it. COLLECTIVE_COMPLETE writes the results and reports, frees its
slots and completes its packet; so does a failed one with its code. A rank that counts TIMEOUT without a byte of what it waits for fails
the group with code 7. A suspended collective gives its slots back after 200 µs, and acquires them again when no rank is suspended. Which
expansion is followed, its Nths and tree, and that partials are kept as the contributions they are made of, are the model's choices
(log 46, DESIGN CHOICE, and log 29, DEDUCED), as are chunks of free size of the own input and one timer for each awaited rank. -/
def Obligations.Collectives : Prop :=
  let runs (s : State) (q type : Nat) (e : Entry) (es : List Entry) : Prop :=
    (s.queue q).entries = e :: es ∧ e.begun = false ∧ e.image % 2 ^ 8 = type ∧ (∀ d ∈ es, d.begun = false ∧ d.index ≠ e.index) ∧
      (s.hubGet 0x401 q).testBit 7 = true ∧ (s.queue q).paused = false ∧ (s.queue q).suspended = false
  let ended (t u : State) (n : Nat) (c : Coll) (es : List Entry) : Prop := t.mem = u.mem ∧ SMap.find? t.colls n = none ∧
    (t.queue c.queue).entries = es ∧ t.hubGet 0x408 c.queue = (u.hubGet 0x408 c.queue + 1) % 2 ^ 32
  let packet (u : State) (c : Coll) (e : Entry) (es : List Entry) : Prop :=
    (u.queue c.queue).entries = e :: es ∧ e.index = c.index ∧ ∀ d ∈ es, d.index ≠ c.index
  let free (s : State) : Prop := ∀ w ∈ s.waiting, w.posted = false ∧ w.turn = false
  let goes (c : Coll) : Prop := c.code = 0 ∧ c.done = false
  let put (c : Coll) (vs : List (Nat × Nat × Nat)) : List (Nat × Byte) :=
    vs.foldl (fun m e => writeMem m (2 ^ 48 * e.1 + (c.nth e.2.1).1) (c.nth e.2.1).2 e.2.2) c.staged
  (∀ s q e es b u w i m, s.args = [q, e.index] → runs s q 2 e es → free s → pktWord e.image 0 % 128 = 0 →
    (s.setQueue q { s.queue q with entries := { e with begun := true } :: es }).matinsRead (s.hubGet 0x401 q % 16)
      (pktWord e.image 0) 128 = .ok b u → u.rankLines b = [] → u.colCheck q b = some ⟨0, some i, m, w⟩ → w.colls = [] → w.colfail = [] →
    let g := colGroup b
    ∃ t c, exec .collectiveBegin s = .next t ∧ t.mem = w.mem ∧ SMap.find? t.colls w.nextId = some c ∧ c.queue = q ∧
      c.index = e.index ∧ c.group = g ∧ c.rank = i ∧ c.nranks = groupRanks (w.group g) ∧ c.block = b ∧ goes c ∧
      c.experts = m ∧ c.alg = expansion b c.nranks ((List.range c.nranks).map (w.rankPkg c)) ∧ c.got = [] ∧ c.suspended = [] ∧
      c.inst = SMap.get 0 w.colseq (2 ^ 20 * g + i) + 1 ∧ SMap.get 0 t.colseq (2 ^ 20 * g + i) = c.inst ∧
      (∀ l, l ∈ c.slots ∨ l ∈ c.want ↔ l ∈ t.colLinks c) ∧ (.collectiveStep, [w.nextId, i, 0]) ∈ t.agenda ∧
      (c.alg = 0 → ∀ k ∈ t.outRanks c, (.collectiveStep, [w.nextId, c.nranks + k, 0]) ∈ t.agenda)) ∧
  (∀ s n c total y w, s.args = [n, c.rank, 0] → s.colls = [(n, c)] → goes c → c.rank < c.nranks → SMap.get 0 c.got c.rank = 0 →
    c.suspended = [] → c.total c.rank = some total → 0 < total → (s.chunk c 0 total).2 = .ok y w →
    let len := (s.chunk c 0 total).1
    ∃ t d, exec .collectiveStep s = .next t ∧ t.mem = w.mem ∧ SMap.find? t.colls n = some d ∧
      d.staged = writeMem c.staged (2 ^ 48 * c.rank) len y ∧ d.got = SMap.set 0 c.got c.rank len ∧
      (.collectiveStep, [n, c.rank, len]) ∈ t.agenda) ∧
  (∀ s n c k off b len y, s.args = [n, k, off, b, len, y, 0] → s.colls = [(n, c)] → goes c → c.alg = 0 → colOp c.block ≠ 0 →
    colOp b ≠ 0 → k < c.nranks → k ≠ c.rank → SMap.get 0 c.got k = off → s.rankPkg c k ≠ s.pkg →
    SMap.get false s.dead (s.rankPkg c k) = false → b < 2 ^ 1024 →
    (∀ e ∈ c.blocks, colSame e.2 b = true) → ∃ t d, exec .collectiveStep s = .next t ∧ t.mem = s.mem ∧ SMap.find? t.colls n = some d ∧
      d.code = 0 ∧ SMap.find? d.blocks k = some b ∧ d.staged = writeMem c.staged (2 ^ 48 * k + off) len y ∧
      d.got = SMap.set 0 c.got k (off + len)) ∧
  (∀ s n c i l, s.args = [n, c.nranks + i, SMap.get 0 c.got (c.nranks + i)] → s.colls = [(n, c)] → goes c → c.alg = 0 →
    i ∈ s.outRanks c → s.chosenLink (s.rankPkg c i) 4 = some l → s.linkUp l = true → l ∈ c.slots → c.suspended = [] →
    let sent := min (SMap.get 0 c.got c.rank) (SMap.get 0 c.got (c.nranks + i) + 256)
    SMap.get 0 c.got (c.nranks + i) < SMap.get 0 c.got c.rank → ∃ t d, exec .collectiveStep s = .next t ∧ t.mem = s.mem ∧
      SMap.find? t.colls n = some d ∧ d.got = SMap.set 0 c.got (c.nranks + i) sent ∧ d.staged = c.staged ∧
      (sent < (c.total c.rank).getD 0 → (.collectiveStep, [n, c.nranks + i, sent]) ∈ t.agenda)) ∧
  (∀ s n c m d js off, s.args = [n, c.nranks + c.step, off] →
    (n < m ∧ s.colls = [(n, c), (m, d)]) ∨ (m < n ∧ s.colls = [(m, d), (n, c)]) → goes c → c.alg ≠ 0 → d.group = c.group →
    d.inst = c.inst → d.rank ≠ c.rank → colSend c.alg c.nranks c.rank c.step = some (d.rank, js) → c.suspended = [] → c.parts ≠ [] →
    c.left = false → c.inbox = none → (colFrom c.alg c.nranks c.rank c.step).isSome = true → d.parts ≠ [] → d.step = c.step →
    d.left = false → (colSend d.alg d.nranks d.rank d.step).isSome = true →
    ∃ t d', exec .collectiveStep s = .next t ∧ t.mem = s.mem ∧ SMap.find? t.colls n = some { c with left := true } ∧
      SMap.find? t.colls m = some d' ∧ d'.inbox.isSome = true ∧ d' = { d with inbox := d'.inbox, staged := put d (c.contributions js) }) ∧
  (∀ s n c k b vs, s.args = [n, k, c.step, b, 0, 0, 0] ++ vs.flatMap (fun e => [e.1, e.2.1, e.2.2]) → s.colls = [(n, c)] → goes c →
    c.alg ≠ 0 → s.colAlg c = c.alg → SMap.find? c.blocks k = some b → b < 2 ^ 1024 → (∀ e ∈ c.blocks, colSame e.2 b = true) →
    k < c.nranks → k ≠ c.rank → s.rankPkg c k ≠ s.pkg → SMap.get false s.dead (s.rankPkg c k) = false → vs ≠ [] → c.parts ≠ [] →
    c.inbox = none → colFrom c.alg c.nranks c.rank c.step = some k → c.left = false →
    (colSend c.alg c.nranks c.rank c.step).isSome = true →
    ∃ t d, exec .collectiveStep s = .next t ∧ t.mem = s.mem ∧ SMap.find? t.colls n = some d ∧ d.inbox.isSome = true ∧
      d.step = c.step ∧ d.parts = c.parts ∧ d.staged = put c vs) ∧
  (∀ alg n r t i js, 2 ≤ n → r < n → t < colSteps alg n → (alg = 3 → 2 ^ Nat.log2 n = n) → colSend alg n r t = some (i, js) →
    i < n ∧ i ≠ r ∧ colFrom alg n i t = some r) ∧
  (∀ s n c e es x w y v u, s.args = [n] → s.colls = [(n, c)] → free s → goes c → s.colReady c = true → c.suspended = [] →
    s.colResult c true = .ok x w → w.colResult c false = .ok y v →
    (v.setColl n { c with done := true }).colReport { c with done := true } 0 = .ok u → packet u c e es →
    ∃ t, exec .collectiveComplete s = .next t ∧ ended t u n c es) ∧
  (∀ s n c e es u, s.args = [n] → SMap.find? s.colls n = some c → free s → c.code ≠ 0 →
    (if (SMap.find? c.blocks c.rank).isSome = true ∧ c.done = false then s.scramble c else s).colReport { c with done := true } c.code =
      .ok u → packet u c e es → ∃ t, exec .collectiveComplete s = .next t ∧ ended t u n c es) ∧
  (∀ s n c m waited at' come, s.args = [n, m, waited, at', come] → s.colls = [(n, c)] → goes c → s.colfail = [] →
    let bytes := if c.alg = 0 then SMap.get 0 c.got m else 0
    let look (a b : Nat) : Instr × List Nat := (.collectiveStepTimeout, [n, m, a, s.counted c, b])
    (c.alg = 0 ∧ c.has m = false) ∨ (c.alg ≠ 0 ∧ m = 0 ∧ ∃ k, k < c.nranks ∧ SMap.find? c.blocks k = none) ∨
      (c.alg ≠ 0 ∧ m = c.step + 1 ∧ c.inbox = none) →
    (come = bytes → s.nanos (1000 * colTimeout c.block) ≤ waited + (s.counted c - at') →
      ∃ t, exec .collectiveStepTimeout s = .next t ∧ t.mem = s.mem ∧ SMap.find? t.colls n = some { c with code := 7 } ∧
        t.agenda = s.agenda ++ [(.collectiveComplete, [n])]) ∧
    (come = bytes → waited + (s.counted c - at') < s.nanos (1000 * colTimeout c.block) →
      exec .collectiveStepTimeout s = .next { s with
        agenda := s.agenda ++ [look (waited + (s.counted c - at')) come], clock := s.clock + 1 }) ∧
    (come ≠ bytes → exec .collectiveStepTimeout s = .next { s with
        agenda := s.agenda ++ [look 0 bytes], clock := s.clock + 1 })) ∧
  (∀ s n c v, s.args = [n, v] → s.colls = [(n, c)] →
    (∃ t d, exec .suspendNotice s = .next t ∧ t.mem = s.mem ∧ SMap.find? t.colls n = some d ∧ v ∈ d.suspended ∧
      (∀ x ∈ c.suspended, x ∈ d.suspended) ∧ d.slots = c.slots ∧
      (c.suspended = [] → (.suspensionSlotRelease, [n, s.clock.toNat]) ∈ t.agenda)) ∧
    ∃ t d, exec .resumeNotice s = .next t ∧ t.mem = s.mem ∧ SMap.find? t.colls n = some d ∧
      d.suspended = c.suspended.filter (· ≠ v) ∧ (d.suspended ≠ [] → d.slots = c.slots) ∧
      (c.suspended ≠ [] → d.suspended = [] → ∀ l ∈ s.colLinks c, l ∈ d.slots)) ∧
  (∀ s n c, s.args = [n, c.since] → s.colls = [(n, c)] → c.suspended ≠ [] →
    (c.since + s.nanos 200000 ≤ s.clock.toNat → ∃ t, exec .suspensionSlotRelease s = .next t ∧
      SMap.find? t.colls n = some { c with slots := [] } ∧ t.mem = s.mem) ∧
    (s.clock.toNat < c.since + s.nanos 200000 → exec .suspensionSlotRelease s = .next { s with
      agenda := s.agenda ++ [(.suspensionSlotRelease, [n, c.since])], clock := s.clock + 1 })) ∧
  ∀ s n c l, s.args = [n, l] → SMap.find? s.colls n = some c → c.suspended = [] → l ∈ c.want →
    (s.colls.filter fun e => e.2.slots.contains l).length < 64 →
    ∃ t d, exec .linkSlotGrant s = .next t ∧ t.mem = s.mem ∧ t.agenda = s.agenda ∧ SMap.find? t.colls n = some d ∧
      d.slots = l :: c.slots ∧ d.want = c.want.filter (· ≠ l) ∧ d.got = c.got ∧ d.staged = c.staged ∧ d.suspended = []

/-- R113, R124, R451, R453, R454, R457, R459 to R461, R500: a request that can be served at once, with no earlier one of its line waiting. A read gives
the agent a copy with the data that the line has and leaves memory alone; a write leaves, at whichever agent reads next, the
data written over the data the line had, and no synchronisation record; a recall and a rollout leave the line's data in memory,
and an atomic at the home its new value over them. A line's data are those of its head copy, or memory's when it has none; a list
of partials is gathered into memory first. A copy that holds the only data is on its way before its rollout reaches the home. Each
request is applied once; one that cannot be served waits and keeps its line busy. -/
def Obligations.ControlLines : Prop :=
  let members (s : State) (n : Nat) : List Copy := (SMap.get CLine.empty s.lines n).members
  let memory (s : State) (n : Nat) : Nat := readMem s.mem (ctlKey (128 * n)) 128
  let data (s : State) (n : Nat) : Nat := match members s n with
    | [] => memory s n
    | c :: _ => c.data
  let copy (s : State) (a n : Nat) : Option Copy := (members s n).find? fun c => c.agent == a
  let number (q : Nat) : Nat := if q = 0 then 0 else (q - 1) % 2 ^ 16 + 1
  /- the copies agree; those of a list whose head is in E or S agree with memory; none holds partials (R450) -/
  let coherent (s : State) (n : Nat) : Prop := (∀ c ∈ members s n, c.state ≠ .c ∧ c.data = data s n ∧ c.data < 2 ^ 1024) ∧
    ((members s n).map fun c => c.agent).Nodup ∧
    ((∀ c ∈ members s n, c.state ≠ .m ∧ c.state ≠ .o) → data s n = memory s n)
  /- no request of the line waits, nor is the present one a request that waited -/
  let first (s : State) (n : Nat) : Prop := ∀ w ∈ s.waiting, w.line ≠ n + 1 ∧ w.turn = false ∧ w.posted = false
  let served (s : State) (kind a n q : Nat) : Prop :=
    first s n ∧ s.deadAgent a = false ∧ s.seen (lineHome n) a (number q) = false ∧ s.lineServes kind a n = .serves ∧ coherent s n
  let alone (s t : State) (a n q : Nat) : Prop := (∀ m, m ≠ n → members t m = members s m) ∧
    (q ≠ 0 → t.seen (lineHome n) a (number q) = true)
  (∀ s a n q, s.args = [a, n, q] → served s 0 a n q →
    ∃ t c, exec .cohRead s = .next t ∧ t.mem = s.mem ∧ copy t a n = some c ∧ c.data = data s n ∧ data t n = data s n ∧
      coherent t n ∧ alone s t a n q) ∧
  (∀ s a n q o k y, s.args = [a, n, q, o, k, y] → served s 1 a n q → 0 < k → o + k ≤ 128 →
    ∃ t c, exec .cohWrite s = .next t ∧ t.mem = s.mem ∧ copy t a n = some c ∧
      data t n = c.data ∧ (∀ j, j < 128 → c.data / 2 ^ (8 * j) % 2 ^ 8 =
        if o ≤ j ∧ j < o + k then y / 2 ^ (8 * (j - o)) % 2 ^ 8 else data s n / 2 ^ (8 * j) % 2 ^ 8) ∧
      (c.state = .m ∨ c.state = .o) ∧ SMap.find? t.recs (ctlKey (128 * n) / 128) = none ∧ coherent t n ∧ alone s t a n q) ∧
  (∀ s a n q c, s.args = [a, n, q] → served s 3 a n q → copy s a n = some c →
    ((c.state ≠ .m ∧ c.state ≠ .o) ∨ (a, n) ∈ s.leaving →
      ∃ t, exec .cohRollout s = .next t ∧ copy t a n = none ∧ (members t n = (members s n).filter fun d => d.agent != a) ∧
        (a, n) ∉ t.leaving ∧
        (c.state = .m ∨ c.state = .o → memory t n = data s n) ∧ (c.state ≠ .m → c.state ≠ .o → t.mem = s.mem)) ∧
    (c.state = .m ∨ c.state = .o → (a, n) ∉ s.leaving → exec .cohRollout s = .next { s with
      leaving := (a, n) :: s.leaving, agenda := s.agenda ++ [(.cohRollout, [a, n, q])] })) ∧
  (∀ s n, s.args = [n] → served s 2 (s.dieAgent 0) n 0 →
    ∃ t, exec .homeAtomicRecall s = .next t ∧ members t n = [] ∧ memory t n = data s n ∧ ∀ m, m ≠ n → members t m = members s m) ∧
  (∀ s a n q o k op f x c use kind ps fenced, s.args = [n, a, q, o, k, op, f, x, c, use, kind] ++ ps ++ [fenced] →
    ps.length = 9 → served s 2 a n q →
    k = 4 ∨ k = 8 → o % k = 0 → o < 128 → op < 8 → f < 3 → x < 2 ^ (8 * k) → c < 2 ^ (8 * k) → kind < 4 →
    poisoned s (ctlKey (128 * n + o)) k = false → use ≠ 0 ∨ s.passes n (partyOf s.args 11) = true →
    let old := data s n / 2 ^ (8 * o) % 2 ^ (8 * k)
    ∃ t, exec .homeAtomicRecall s = .next t ∧ members t n = [] ∧
      readMem t.mem (ctlKey (128 * n + o)) k = atomicNew op f k old x c % 2 ^ (8 * k) ∧
      (∀ j, j < 128 → j < o ∨ o + k ≤ j → memory t n / 2 ^ (8 * j) % 2 ^ 8 = data s n / 2 ^ (8 * j) % 2 ^ 8) ∧
      SMap.find? t.recs (ctlKey (128 * n) / 128) = atomicRecord (s.lineRec n) (partyOf s.args 11) kind use fenced ∧ alone s t a n q) ∧
  (∀ i, i = .cohRead ∨ i = .cohWrite ∨ i = .cohRollout ∨ i = .commAddRequest → ∀ s a n q as, s.args = a :: n :: q :: as →
    first s n → (a, n) ∉ s.leaving → s.seen (lineHome n) a (number q) = true → exec i s = .next s) ∧
  (∀ i kind, (i = .cohRead ∧ kind = 0) ∨ (i = .cohWrite ∧ kind = 1) ∨ (i = .cohRollout ∧ kind = 3) →
    ∀ s a n q as, s.args = a :: n :: q :: as → first s n → s.deadAgent a = false → s.seen (lineHome n) a (number q) = false →
      (kind = 3 → (a, n) ∈ s.leaving ∨ ∀ c, copy s a n = some c → c.state ≠ .m ∧ c.state ≠ .o) →
      s.lineServes kind a n = .waits → exec i s = .next { s with waiting := s.waiting ++ [⟨lineHome n, n + 1, false, i, s.args, false⟩] }) ∧
  ∀ s a n q e f x, s.args = [a, n, q, e, f, x] → f < 3 → e < (if f = 1 then 16 else 32) → first s n → s.deadAgent a = false →
    s.seen (lineHome n) a (number q) = false → s.lineServes (4 + f + 3 * e) a n = .waits →
    exec .commAddRequest s = .next { s with waiting := s.waiting ++ [⟨lineHome n, n + 1, false, .commAddRequest, s.args, false⟩] }

/-- R455, R456, R458, R461, R462: a commutative add on a line of no copy makes its agent's C copy with one add merged, and changes no
memory; GATHER of a list of integer partials adds each agent's sum to the element in memory and empties the list.
MIRROR_UPDATE copies a line of memory, of which nothing is poisoned, its directory entry and its record to the mirror, or waits with
its line while the mirror cannot be reached; for a new mirror it copies the whole slice, after which that mirror takes effect. AGENT_REPORT hands an agent's copies of a lost slice to the rebuild, the data of a valid
copy as the data of record and C copies with their partials, or waits for the loss to be declared, and SLICE_REBUILD_COMPLETE with every report in makes each line the mirror's, or the reported data, with no copy. -/
def Obligations.CommutativeAndMirrors : Prop :=
  let members (s : State) (n : Nat) : List Copy := (SMap.get CLine.empty s.lines n).members
  let element (s : State) (n e k : Nat) : Nat := readMem s.mem (ctlKey (128 * n + k * e)) k
  let free (s : State) : Prop := ∀ w ∈ s.waiting, w.posted = false ∧ w.turn = false
  let first (s : State) (n : Nat) : Prop := free s ∧ ∀ w ∈ s.waiting, w.line ≠ n + 1
  let copy (s : State) (a n : Nat) : Option Copy := (members s n).find? fun c => c.agent == a
  (∀ s a n e f x, s.args = [a, n, 0, e, f, x] → first s n → s.deadAgent a = false →
    s.lineServes (4 + f + 3 * e) a n = .serves → members s n = [] →
    f < 3 → e < (if f = 1 then 16 else 32) → x < 2 ^ (if f = 1 then 64 else 32) → ∃ t c, exec .commAddRequest s = .next t ∧
      t.mem = s.mem ∧ members t n = [c] ∧ c.agent = a ∧ c.state = .c ∧ c.cfmt = f ∧
      (SMap.get Partial.zero c.parts e).count = 1 ∧ (f ≠ 2 → (SMap.get Partial.zero c.parts e).sum = x) ∧
      ∀ j, j ≠ e → SMap.get Partial.zero c.parts j = Partial.zero) ∧
  (∀ s n cs f, s.args = [n] → first s n → s.deadAgent (s.dieAgent 0) = false → s.lineServes 2 0 n = .serves → members s n = cs → cs ≠ [] → f < 2 →
    (∀ c ∈ cs, c.state = .c ∧ c.cfmt = f ∧ ∀ e, 0 ≤ (SMap.get Partial.zero c.parts e).sum) →
    ∃ t, exec .gather s = .next t ∧ members t n = [] ∧ ∀ e, e < (if f = 1 then 16 else 32) →
      let k := if f = 1 then 8 else 4
      element t n e k = (element s n e k + (cs.map fun c => (SMap.get Partial.zero c.parts e).sum.toNat).sum) % 2 ^ (8 * k)) ∧
  (∀ s n, s.args = [n] → n < 2 ^ 39 → free s → (∀ j, j < 4 → poisoned s (ctlKey (128 * n + 32 * j)) 32 = false) →
    let mirror := s.hubGet 0x602 (lineHome n)
    (mirror.testBit 31 = true → s.agentReachable (64 * (mirror % 1024)) = false → exec .mirrorUpdate s = .next { s with
      waiting := s.waiting ++ [⟨mirror % 1024, n + 1, false, .mirrorUpdate, [n], false⟩] }) ∧
    (mirror.testBit 31 = false ∨ s.agentReachable (64 * (mirror % 1024)) = true → ∃ t, exec .mirrorUpdate s = .next t ∧ t.lines = s.lines ∧ t.hub = s.hub ∧
      readMem t.mem (mirrorKey (128 * n)) 128 = readMem s.mem (ctlKey (128 * n)) 128 ∧
      (∀ k, k < mirrorKey (128 * n) ∨ mirrorKey (128 * n) + 128 ≤ k → readByte t.mem k = readByte s.mem k) ∧
      SMap.find? t.recs (mirrorKey (128 * n) / 128) = SMap.find? s.recs (ctlKey (128 * n) / 128) ∧
      SMap.get 0 t.mdir n = match members s n with
        | [] => 0
        | c :: _ => 2 ^ 18 + c.agent % 2 ^ 16 * 4 + (SMap.get CLine.empty s.lines n).pcc % 4)) ∧
  (∀ s h m, s.args = [h, m, 1] → free s →
    (s.agentReachable (64 * m) = false → exec .mirrorUpdate s = .next { s with
      waiting := s.waiting ++ [⟨m, 0, false, .mirrorUpdate, s.args, false⟩] }) ∧
    (s.agentReachable (64 * m) = true → ∃ t, exec .mirrorUpdate s = .next t ∧ t.hubGet 0x602 h = m % 1024 + 2 ^ 31 ∧ t.lines = s.lines ∧
      t.ctxs = s.ctxs ∧ (Memory.wf s.mem = true → ∀ j, j / 2 ^ 36 = h → readByte t.mem (mirrorKey j) = readByte s.mem (ctlKey j)))) ∧
  (∀ s a h r, s.args = [a, h] → SMap.find? s.rebuilds h = some r → a ∈ r.left → (s.lines.map (·.1)).Nodup → ∃ t r', exec .agentReport s = .next t ∧
    t.mem = s.mem ∧ SMap.find? t.rebuilds h = some r' ∧ r'.left = r.left.filter (· ≠ a) ∧
    (∀ n, lineHome n ≠ h → members t n = members s n) ∧
    (∀ n, lineHome n = h → members t n = (members s n).filter fun c => c.agent != a) ∧
    (∀ n c, lineHome n = h → copy s a n = some c → (c.state ≠ .c → SMap.find? r'.data n = some c.data) ∧
      (c.state = .c → SMap.get [] r'.parts n = c :: SMap.get [] r.parts n)) ∧
    (∀ n, (∀ c, lineHome n = h → copy s a n = some c → c.state = .c) → SMap.find? r'.data n = SMap.find? r.data n) ∧
    (∀ n, (∀ c, lineHome n = h → copy s a n = some c → c.state ≠ .c) → SMap.get [] r'.parts n = SMap.get [] r.parts n) ∧
    (r'.left = [] → (.sliceRebuildComplete, [h]) ∈ t.agenda)) ∧
  (∀ s a h, s.args = [a, h] → free s → SMap.find? s.rebuilds h = none → SMap.find? s.lost h ≠ some 0 → s.deadAgent a = false →
    exec .agentReport s = .next { s with waiting := s.waiting ++ [⟨h, 0, false, .agentReport, s.args, false⟩] }) ∧
  ∀ s h r, s.args = [h] → SMap.find? s.rebuilds h = some r → r.left = [] → r.parts = [] → (r.data.map (·.1)).Nodup →
    Memory.wf s.mem = true → (∀ e ∈ r.data, lineHome e.1 = h ∧ e.2 < 2 ^ 1024) → h < 1024 →
    ∃ t, exec .sliceRebuildComplete s = .next t ∧ SMap.find? t.rebuilds h = none ∧
      (∀ n, lineHome n = h → members t n = []) ∧ (∀ e ∈ r.data, readMem t.mem (ctlKey (128 * e.1)) 128 = e.2) ∧
      ∀ n, lineHome n = h → n ∉ r.data.map (·.1) → readMem t.mem (ctlKey (128 * n)) 128 = readMem s.mem (mirrorKey (128 * n)) 128

/-! ### Links, bring-up, hub registers, partitions -/

/-- R95, R138, R145, R482, R485, R491, R493 to R496, R498: a receive timeout, and an exhausted retry, take a link that is UP down, with
DOWNEV set and an interrupt, and what was sent on it completes as lost; LINK_TRAINED sets TRAINED, and UP with the peer's link
and package when the peer answers. A flit on a link that is down, or from a package declared lost, changes nothing; one for
another package is sent on under the own route table with one hop more, or, after 64 hops and where no link takes it, its
sender is answered, and a request of the own package so answered ends as one to a lost peer; one for this package carries its request,
its write or atomics of the tensor memory that the partition's tag can reach. An acknowledgement ends the step it answers; a retry changes
nothing here, and requests that wait are examined anew. DECLARE and ADMIT mark and unmark a lost package; the repair that follows
DECLARE drops what agents of lost packages still ask for. Which link a request holds and loses, that what such an agent had asked for is
dropped, and that keep-alive lets go the flits that its link had to take, are the model's choices (logs 28 and 57). -/
def Obligations.Links : Prop :=
  let up (s : State) (l : Nat) : Bool := (s.hubGet 0x811 l).testBit 0
  let lost (s : State) (p : Nat) : Bool := SMap.get false s.dead p
  let same (t u : State) (k n : Nat) : Prop := ∀ j, j < k ∨ k + n ≤ j → readByte t.mem j = readByte u.mem j
  /- a request of the own package, of this kind and operands, is answered as one to a lost peer -/
  let answered (s t : State) (kind : Nat) (as : List Nat) : Prop := t.mem = s.mem ∧ t.ctxs = s.ctxs ∧
    (∀ id o op f n tb st todo j k, kind = 3 → (id, o) ∈ s.ops → o.kind = .ratom op f n tb st todo → (j, k) ∈ todo → k ≠ 0 →
      (SMap.get (0, 0) st j).1 = as.getD 1 0 → (.ratomAcknowledged, [id, j, 5]) ∈ t.agenda) ∧
    ∀ id o cap j m v tag sl nm rel k, kind = 5 → (id, o) ∈ s.ops → o.kind = .laneWrite cap j m v tag sl nm rel 0 k → k ≠ 0 →
      cap = as.getD 0 0 → (.sendOutcomeReturn, [id, 3]) ∈ t.agenda
  (∀ i, i = .linkReceiveTimeout ∨ i = .linkRetryExhausted → ∀ s l, s.args = [l] → l < 32 →
    (up s l = false → exec i s = .next s) ∧
    (up s l = true → s.colls = [] → ∃ t, exec i s = .next t ∧ t.mem = s.mem ∧ t.ctxs = s.ctxs ∧
      up t l = false ∧ (t.hubGet 0x811 l).testBit 2 = true ∧
      (∀ k, k ≠ 0 → k ≠ 2 → (t.hubGet 0x811 l).testBit k = (s.hubGet 0x811 l).testBit k) ∧ t.interrupts = s.interrupts + 1 ∧
      (∀ m, m < 32 → m ≠ l → t.hubGet 0x811 m = s.hubGet 0x811 m) ∧
      (∀ id o cap k m v tag sl nm rel, (id, o) ∈ s.ops → o.kind = .laneWrite cap k m v tag sl nm rel 0 (l + 1) →
        cap / 2 ^ 44 % 2 ^ 20 ≠ s.pkg → (.sendOutcomeReturn, [id, 3]) ∈ t.agenda) ∧
      ∀ id o n out drop d og dn ts ld, (id, o) ∈ s.ops → o.kind = .copy n out drop d og dn ts ld (l + 1) → dn.length < boxSectors d →
        (.copyFail, [id, 5]) ∈ t.agenda)) ∧
  (∀ s l, s.args = [l] → l < 32 → exec .keepAlive s = .next { s with egress := s.egress.filter fun f => f.headD 0 != l }) ∧
  (∀ s l, s.args = [l] → exec .flitRetry s = .next s) ∧
  (∀ s, let again (w : Waiting) : Bool := decide (w.home < 2 ^ 32)
    exec .controlFlitReissue s = .next { s with
      waiting := (s.waiting.filter fun w => !(again w && w.line == 0)).map fun w => { w with posted := w.posted || again w }
      agenda := s.agenda ++ (s.waiting.filter fun w => again w && !w.posted).map fun w => (w.event, w.args) }) ∧
  (∀ s l ans pl pp, s.args = [l, ans, pl, pp] → l < 32 → pl < 32 → pp < 2 ^ 20 → s.svcState ≠ 3 →
    s.training.testBit 4 = true ∨ (s.hubGet 0x811 l).testBit 1 = true → ∃ t, exec .linkTrained s = .next t ∧ t.mem = s.mem ∧
      (t.hubGet 0x811 l).testBit 1 = true ∧
      (ans = 1 → up t l = true ∧ t.hubGet 0x811 l / 2 ^ 3 % 2 ^ 5 = pl ∧ t.hubGet 0x811 l / 2 ^ 8 % 2 ^ 20 = pp ∧
        (.controlFlitReissue, []) ∈ t.agenda) ∧
      (ans ≠ 1 → up t l = up s l)) ∧
  (∀ s l src dst hops kind as, s.args = l :: src :: dst :: hops :: kind :: as → l < 32 →
    (up s l = false ∨ lost s src = true → exec .flitArrive s = .next s) ∧
    (up s l = true → lost s src = false → dst ≠ s.pkg →
      (∀ m, hops < 64 → s.linkFor src dst (flitChannel kind) = some m → up s m = true →
        exec .flitArrive s = .next { s with egress := s.egress ++ [m :: src :: dst :: (hops + 1) :: kind :: as] }) ∧
      (64 ≤ hops ∨ (∀ m, s.linkFor src dst (flitChannel kind) = some m → up s m = false) →
        (kind = 6 ∨ kind = 12 → exec .flitArrive s = .next s) ∧
        (kind ≠ 6 → kind ≠ 7 → kind ≠ 12 → src = s.pkg → ∃ t, exec .flitArrive s = .next t ∧ answered s t kind as) ∧
        ∀ m, kind ≠ 6 → kind ≠ 12 → src ≠ s.pkg → s.linkFor s.pkg src 1 = some m → up s m = true →
          exec .flitArrive s = .next { s with egress := s.egress ++ [m :: s.pkg :: src :: 1 :: 12 :: kind :: as] })) ∧
    (up s l = true → lost s src = false → dst = s.pkg →
      (∀ bs e, kind = 1 → (as = 0 :: bs ∧ e = .cohRead) ∨ (as = 1 :: bs ∧ e = .cohWrite) ∨ (as = 2 :: bs ∧ e = .cohRollout) ∨
          (as = 3 :: bs ∧ e = .commAddRequest) ∨ (as = 4 :: bs ∧ e = .agentReport) ∨ (as = 5 :: bs ∧ e = .homeAtomicRecall) →
        exec .flitArrive s = .next (s.post e bs)) ∧
      (∀ e, (kind = 7 ∧ e = .collectiveStep) ∨ (kind = 8 ∧ e = .suspendNotice) ∨ (kind = 9 ∧ e = .resumeNotice) →
        exec .flitArrive s = .next (s.post e as)) ∧
      (∀ tag a n v k u, kind = 2 → as = [tag, a, n, v] → n ≤ 32 → s.remoteAddr tag a n permW = (.ok k, u) →
        ∃ t, exec .flitArrive s = .next t ∧ readMem t.mem k n = v % 256 ^ n ∧ same t u k n) ∧
      (∀ req bs, kind = 12 → as = req :: bs → req ≠ 7 → ∃ t, exec .flitArrive s = .next t ∧ answered s t req bs) ∧
      (∀ tag a op z ys k u, kind = 3 → as = [tag, a, op, z] ++ ys → let n := if z % 2 = 1 then 8 else 4
        s.remoteAddr tag (a / n * n) n (permR + permW) = (.ok k, u) → poisoned u k n = false →
        ∃ t, exec .flitArrive s = .next t ∧ same t u k n ∧ readMem t.mem k n =
          ys.foldl (fun x y => atomicNew (op % 8) (z / 2 % 4) n x y 0) (readMem u.mem k n) % 256 ^ n) ∧
      (∀ tag a n v c u, kind = 2 → as = [tag, a, n, v] → n ≤ 32 → s.remoteAddr tag a n permW = (.error c, u) →
        exec .flitArrive s = .next u))) ∧
  (∀ s l id o k code data, s.args = [l, id, k, code, data] → l < 32 → s.op? id = some o →
    (up s l = false → exec .remoteAckArrive s = .next s) ∧
    (up s l = true →
      (∀ op f n tb st todo, o.kind = .ratom op f n tb st todo → exec .remoteAckArrive s = .next
        (if SMap.get 0 todo k = 0 ∨ lost s ((SMap.get (0, 0) st k).1 / 2 ^ 40 % 2 ^ 20) = true then s
        else s.post .ratomAcknowledged [id, k, code])) ∧
      (∀ n out drop d og dn ts ld link, o.kind = .copy n out drop d og dn ts ld link → exec .remoteAckArrive s = .next
        (if link = 0 ∨ lost s (boxBase d / 2 ^ 40 % 2 ^ 20) = true then s
        else if code ≠ 0 then s.post .copyFail [id, code]
        else s.post (if out = true then .outboundSectorAck else .inboundSectorWritten) [id, k, data])) ∧
      (∀ cap j m v tag sl nm rel out lk, o.kind = .laneWrite cap j m v tag sl nm rel out lk → exec .remoteAckArrive s = .next
        (if cap / 2 ^ 44 % 2 ^ 20 = s.pkg ∨ lost s (cap / 2 ^ 44 % 2 ^ 20) = true then s
        else s.post .sendOutcomeReturn [id, code + 1])))) ∧
  (∀ s, let p := s.hubGet 0x818 0 % 2 ^ 20
    (s.args = [] → ∃ t, exec .peerDeclare s = .next t ∧ lost t p = true ∧ (∀ q, q ≠ p → lost t q = lost s q) ∧
      t.ctxs = s.ctxs ∧ (t.hubGet 0x802 0).testBit 0 = false) ∧
    (s.args = [p + 1] → ∃ t, exec .peerDeclare s = .next t ∧ t.dead = s.dead ∧ t.ctxs = s.ctxs ∧ ∀ w ∈ t.waiting,
      w.event = .cohRead ∨ w.event = .cohWrite ∨ w.event = .cohRollout ∨ w.event = .commAddRequest ∨ w.event = .agentReport →
      s.deadAgent (w.args.headD 0) = false) ∧
    (s.rebuilds = [] → (.peerDeclare, [p + 1]) ∉ s.agenda → ∃ t, exec .peerAdmit s = .next t ∧ lost t p = false ∧ (s.lost = [] → t.mem = s.mem) ∧
      (∀ i, i < 1024 → s.domPkg? i = some p → SMap.find? s.lost i = some 0 → SMap.find? t.lost i = none) ∧
      (∀ q, q ≠ p → lost t q = lost s q) ∧ (t.hubGet 0x802 0).testBit 0 = false))

/-- R29, R482 to R490, R499: PACKAGE_RESET leaves the state after reset; VERIFY of a genuine image sets IMGOK, of another IMGBAD; TRAIN
starts the training of the units that TRAINMASK selects and that are not yet trained, in normal service of the links alone, and
TRAIN_COMPLETE makes those dies that pass part of DIES; LEAVEDAWN, refused unless the image is verified and everything trained, ends
Dawn service and the lottery; PKGNUM is written in Dawn service alone while no block is resident and nothing remote in flight, FEATACC in
Dawn service alone, and PWRCAP within 300 to 4,200. At 100 °C issue on a die is withheld until it cools; a trip stops the package; power
over PWRCAP sets the issue cycles withheld. That VERIFY recalls the lines of the image, that TRAIN with nothing to train ends at
once, and which dies pass, are the model's choices (log 33, DESIGN CHOICE), as is that LEAVEDAWN outside STATE 1, and TRAIN outside
STATE 1 and 2, are refused (log 36, DEDUCED). -/
def Obligations.BringUp : Prop :=
  let stat (t : State) : Bool := (t.hubGet 0x802 0).testBit 0
  let svc (s : State) (hi lo : Nat) : Nat := s.hubGet 0x800 0 / 2 ^ lo % 2 ^ (hi + 1 - lo)
  let same (s t : State) : Prop := t.mem = s.mem ∧ t.ctxs = s.ctxs ∧ t.ops = s.ops
  let refuses (i : Instr) (s : State) : Prop := ∃ t, exec i s = .next t ∧ stat t = true ∧ same s t ∧ t.hubGet 0x800 0 = s.hubGet 0x800 0
  (∀ s, ∃ t, exec .packageReset s = .next t ∧ { t with free := 0 } = State.reset) ∧
  (∀ s, svc s 3 3 = 1 → refuses .verify s) ∧
  (∀ s : State, svc s 3 3 = 0 → (∀ w ∈ s.waiting, w.posted = false ∧ w.turn = false) →
    let a := s.homeBase + s.hubGet64 0x803 0 % 2 ^ 36
    let ls := s.heldLines a (256 + 2 ^ 30)
    (∀ l ∈ ls, s.lineState 2 0 l = .serves) → ∃ t, exec .verify s = .next t ∧ stat t = false ∧ t.ctxs = s.ctxs ∧
      t.mem = (ls.foldl State.recall s).mem ∧ svc t 9 5 = svc s 9 5 ∧ svc t 2 0 = svc s 2 0 ∧
      (imageGenuine (ls.foldl State.recall s) a = true → svc t 3 3 = 1 ∧ svc t 4 4 = 0) ∧
      (imageGenuine (ls.foldl State.recall s) a = false → svc t 3 3 = 0 ∧ svc t 4 4 = 1)) ∧
  (∀ s, (svc s 2 0 ≠ 1 ∨ svc s 3 3 ≠ 1 ∨ svc s 5 5 ≠ 1 ∨ svc s 9 6 ≠ 15 → refuses .leavedawn s) ∧
    (svc s 2 0 = 1 → svc s 3 3 = 1 → svc s 5 5 = 1 → svc s 9 6 = 15 → ∃ t, exec .leavedawn s = .next t ∧ stat t = false ∧
      same s t ∧ svc t 2 0 = 2 ∧ svc t 9 3 = svc s 9 3 ∧ t.hubGet 0x425 0 = 0)) ∧
  (∀ s : State, let m := s.hubGet 0x805 0
    let may : Prop := svc s 3 3 = 1 ∧ s.training = 0 ∧ (svc s 2 0 = 1 ∨ (svc s 2 0 = 2 ∧ m % 16 = 0))
    let units := (m % 16 &&& (15 - svc s 9 6)) +
      if m.testBit 4 && !(List.range 32).all (fun l => (s.hubGet 0x811 l).testBit 1) then 16 else 0
    (¬ may → refuses .train s) ∧
    (may → ∃ t, exec .train s = .next t ∧ stat t = false ∧ same s t ∧ t.hubGet 0x800 0 = s.hubGet 0x800 0 ∧ t.training = units ∧
      (units ≠ 0 → ∃ pass, t.agenda = s.agenda ++ [(.trainComplete, [pass])]))) ∧
  (∀ s m, s.args = [m] → s.training ≠ 0 → svc s 2 0 ≠ 3 → ∃ t, exec .trainComplete s = .next t ∧ same s t ∧ t.training = 0 ∧
    svc t 9 6 = svc s 9 6 ||| (m % 16 &&& s.training) ∧ t.interrupts = s.interrupts + 1) ∧
  (∀ s v, s.args = [v] →
    let busy : Prop := (∃ c x, (c, x) ∈ s.ctxs ∧ x.placed = true) ∨ s.colls ≠ [] ∨ ∃ id o, (id, o) ∈ s.ops ∧ match o.kind with
      | .ratom .. | .laneWrite .. => True
      | .copy _ _ _ _ _ _ _ _ link => link ≠ 0
      | _ => False
    (svc s 2 0 ≠ 1 ∨ busy → refuses .pkgnumWrite s) ∧
    (svc s 2 0 = 1 → ¬ busy → ∃ t, exec .pkgnumWrite s = .next t ∧ stat t = false ∧ same s t ∧
      t.hubGet 0x806 0 = v % 2 ^ 20)) ∧
  (∀ s k v, s.args = [k, v] → k < 4 → v < 2 ^ 32 → (svc s 2 0 ≠ 1 ∨ (v ||| s.hubGet (0x808 + k) 0) ≠ s.hubGet (0x808 + k) 0 →
      refuses .feataccWrite s) ∧
    (svc s 2 0 = 1 → (v ||| s.hubGet (0x808 + k) 0) = s.hubGet (0x808 + k) 0 → ∃ t, exec .feataccWrite s = .next t ∧ stat t = false ∧
      same s t ∧ t.hubGet (0x80C + k) 0 = v)) ∧
  (∀ s v, s.args = [v] → v < 2 ^ 32 → ∃ t, exec .pwrcapWrite s = .next t ∧ same s t ∧ t.hubGet 0x828 0 = max 300 (min 4200 v)) ∧
  (∀ s d c, s.args = [d, c] → d < 4 → 100 ≤ c → ∃ t, exec .thermalThrottle s = .next t ∧ same s t ∧ t.hot.testBit d = true ∧
    t.hubGet 0x829 0 % 2 ^ 8 = min 255 c) ∧
  (∀ s d c, s.args = [d, c] → d < 4 → svc s 2 0 ≠ 3 → ∃ t, exec .dieCoolsBelow100c s = .next t ∧ same s t ∧ t.hot.testBit d = false ∧
    ∀ k, k ≠ d → t.hot.testBit k = s.hot.testBit k) ∧
  (∀ s c, s.args = [c] → s.colls = [] → ∃ t, exec .thermalTrip s = .next t ∧ t.mem = s.mem ∧ t.ctxs = s.ctxs ∧ svc t 2 0 = 3 ∧
    t.hot = 15 ∧ ∀ l, l < 32 → (t.hubGet 0x811 l).testBit 0 = false) ∧
  ∀ s n, s.args = [n] → ∃ t, exec .packagePowerOverPwrcap s = .next t ∧ same s t ∧ t.hubGet 0x829 0 / 2 ^ 8 % 2 ^ 8 = min 255 n

/-- R394, R396, R410, R433, R447, R482: writes of hub registers. REGISTER_WRITE of a plain register of a selector takes its value
under the selection; VNOTIFYHI, VNPEND, CMREGION and CMWINDOW, LSEED, EVSIZE, the roots, the domain registers and the group command
have the effect of their rule or are refused whole with their status bit; the PCIe port writes and reads control memory at
its home. A new mirror takes effect once MIRROR_UPDATE has copied the slice to it. That the lo half of a pair that was not written since
it was loaded stays (log 26), that a package writes its group table if it is a member as written or as held and that MIRROR is checked
whatever MVALID is (log 27), that a window of size 0 always fits (log 36), and that an access of BAR2 has at most 128 bytes (log 35), are
the model's choices. -/
def Obligations.HubRegisters : Prop :=
  /- the lo half that a write of the hi register of the pair at n loads (log 26) -/
  let low (s : State) (n sel : Nat) : Nat := if s.hubGet (0x3000 + n) sel = 1 then s.hubGet (0x1000 + n) sel else s.hubGet n sel
  let bit0 (t : State) (n : Nat) : Bool := (t.hubGet n 0).testBit 0
  let same (s t : State) : Prop := t.mem = s.mem ∧ t.ctxs = s.ctxs ∧ t.ops = s.ops
  (∀ s v m, s.args = [0x404, v, m] → v < 2 ^ 32 → ∃ t, exec .registerWrite s = .next t ∧ same s t ∧
    t.hubGet 0x404 (s.hubGet 0x400 0 % 4096) = v ∧ ∀ q, q < 4096 → q ≠ s.hubGet 0x400 0 % 4096 → t.hubGet 0x404 q = s.hubGet 0x404 q) ∧
  (∀ s v m, s.args = [0x08C, v, m] → v < 2 ^ 32 → let r := s.hubGet 0x08A 0 % 256
    ∃ t, exec .vnhiWrite s = .next t ∧ t.mem = s.mem ∧ SMap.get 0 t.notify r = 2 ^ 64 + v * 2 ^ 32 +
      if s.hubGet 0x308B r = 1 then s.hubGet 0x108B r else SMap.get 0 s.notify r % 2 ^ 32) ∧
  (∀ s v m, s.args = [0x08D, v, m] → v % 2 = 1 → ∃ t, exec .vnpendClear s = .next t ∧ same s t ∧ t.hub = s.hub ∧
    SMap.get 0 t.notify (s.hubGet 0x08A 0 % 256) = SMap.get 0 s.notify (s.hubGet 0x08A 0 % 256) % 2 ^ 64) ∧
  (∀ s m, s.args = [0x0E5, 1, m] → m = 1 →
    let e := s.hubGet 0x0E1 0 + 2 ^ 32 * s.hubGet 0x0E2 0 + 2 ^ 64 * s.hubGet 0x0E3 0 + 2 ^ 96 * s.hubGet 0x0E4 0
    ∃ t, exec .gcmdWrite s = .next t ∧ same s t ∧ t.hub = s.hub ∧
      ((∃ k, k < e / 2 ^ 22 % 2 ^ 21 ∧ (s.rankAt e k).1 = s.pkg) → ∀ j, (SMap.get 0 t.groups (s.hubGet 0x0E0 0 % 2 ^ 16)).testBit j =
        (e.testBit j && !decide (1 ≤ j ∧ j ≤ 21) && !decide (43 ≤ j ∧ j ≤ 47)))) ∧
  (∀ s v m, s.args = [0x0C1, v, m] → v < 7 → (∀ p, p < 16 → (s.cmWindow (s.hubGet 0x0C0 0 % 4) p).2 = 0) →
    ∃ t, exec .cmregionWrite s = .next t ∧ same s t ∧ t.hubGet 0x0C1 (s.hubGet 0x0C0 0 % 4) = v ∧ bit0 t 0x0C5 = false) ∧
  (∀ s v m, s.args = [0x0C4, v, m] → v < 128 → let die := s.hubGet 0x0C0 0 % 4
    let p := s.hubGet 0x0C2 0 % 16
    let base := (s.cmWindow die p).1
    let n := v * 2 ^ 20
    let fits : Prop := n = 0 ∨ (base + n ≤ s.hubGet 0x0C1 die * 2 ^ 24 ∧ ∀ q, q < 16 → q ≠ p → (s.cmWindow die q).2 = 0 ∨
      base + n ≤ (s.cmWindow die q).1 ∨ (s.cmWindow die q).1 + (s.cmWindow die q).2 ≤ base)
    ∃ t, exec .cmwindowWrite s = .next t ∧ same s t ∧ (fits → (s.cmWindow die p).1 = (t.cmWindow die p).1 ∧ (t.cmWindow die p).2 = n ∧
      bit0 t 0x0C5 = false) ∧ (¬ fits → t.cmWindow die p = s.cmWindow die p ∧ bit0 t 0x0C5 = true)) ∧
  (∀ s v m, s.args = [0x427, v, m] → v < 2 ^ 32 → let lo := low s 0x426 0
    ∃ t, exec .lseedWrite s = .next t ∧ same s t ∧
    (v ≠ 0 ∨ lo ≠ 0 → t.hubGet 0x426 0 = lo ∧ t.hubGet 0x427 0 = v ∧ bit0 t 0x428 = false) ∧
    (v = 0 → lo = 0 → t.hubGet 0x426 0 = s.hubGet 0x426 0 ∧ t.hubGet 0x427 0 = s.hubGet 0x427 0 ∧ bit0 t 0x428 = true)) ∧
  (∀ s v m, s.args = [0x432, v, m] → v < 16 → ∃ t, exec .evsizeWrite s = .next t ∧ same s t ∧
    (v = 0 ∨ 4 ≤ v → t.hubGet 0x432 0 = v ∧ bit0 t 0x428 = false) ∧
    (0 < v → v < 4 → t.hubGet 0x432 0 = s.hubGet 0x432 0 ∧ bit0 t 0x428 = true)) ∧
  (∀ s v m, s.args = [0x502, v, m] → v < 2 ^ 32 → let p := s.hubGet 0x500 0 % 16
    ∃ t, exec .rootWrite s = .next t ∧ same s t ∧
      (low s 0x501 p % 4096 = 0 → t.hubGet64 0x501 p = low s 0x501 p + 2 ^ 32 * v ∧ bit0 t 0x505 = false) ∧
      (low s 0x501 p % 4096 ≠ 0 → t.hubGet64 0x501 p = s.hubGet64 0x501 p ∧ bit0 t 0x505 = true)) ∧
  (∀ s v, s.args = [0x600, v, 1] → v < 2 ^ 32 → s.lines = [] → v % 2 ^ 10 = s.hubGet 0x600 0 % 2 ^ 10 → ∃ t, exec .domselfWrite s = .next t ∧
    same s t ∧ t.hubGet 0x600 0 = v % 2 ^ 10 + v / 2 ^ 16 % 2 ^ 10 * 2 ^ 16 ∧ bit0 t 0x603 = false) ∧
  (∀ s v, s.args = [0x602, v, 1] → v < 2 ^ 32 → let h := s.hubGet 0x601 0 % 1024
    let refused : Prop := v % 1024 = h ∨ s.domSize ≤ v % 1024 ∨ s.lostIndex (v % 1024) = true
    ∃ t, exec .chmapWrite s = .next t ∧ t.ctxs = s.ctxs ∧ t.ops = s.ops ∧
      (refused → t.mem = s.mem ∧ t.hubGet 0x602 h = s.hubGet 0x602 h ∧ bit0 t 0x603 = true) ∧
      (¬ refused → t.mem = s.mem ∧ bit0 t 0x603 = false ∧ (v < 2 ^ 31 → t.hubGet 0x602 h = v % 1024) ∧
        (2 ^ 31 ≤ v → t.hubGet 0x602 h = s.hubGet 0x602 h ∧ t.agenda = s.agenda ++ [(.mirrorUpdate, [h, v % 1024, 1])]))) ∧
  (∀ s v, s.args = [0x605, v, 1] → v < 2 ^ 31 → s.lines = [] → ∃ t, exec .dmpkgWrite s = .next t ∧ same s t ∧
    t.hubGet 0x605 (s.hubGet 0x604 0 % 1024) = v % 2 ^ 20 ∧ bit0 t 0x603 = false) ∧
  (∀ s v m, s.args = [0x423, v, m] → v < 2 ^ 32 → let p := s.hubGet 0x422 0 % 16
    ∃ t, exec .pmaskWrite s = .next t ∧ same s t ∧
      ((∀ k, v.testBit k = true → (s.hubGet 0x702 p).testBit k = true) → t.hubGet 0x423 p = v ∧ bit0 t 0x428 = false) ∧
      ((∃ k, v.testBit k = true ∧ (s.hubGet 0x702 p).testBit k = false) → t.hubGet 0x423 p = s.hubGet 0x423 p ∧ bit0 t 0x428 = true)) ∧
  ∀ s w off n v, s.args = [w, off, n, v] → n ≤ 128 → off + n ≤ 2 ^ 36 → s.lines = [] →
    (∀ w ∈ s.waiting, w.line = 0 ∧ w.posted = false ∧ w.turn = false) → ∃ t,
    exec .pcieControlMemoryAccess s = .next t ∧ t.ctxs = s.ctxs ∧ t.hub = s.hub ∧ (w ≠ 1 → t.mem = s.mem) ∧
    (w = 1 → readMem t.mem (ctlKey (s.homeBase + off)) n = v % 256 ^ n ∧
      ∀ k, k < ctlKey (s.homeBase + off) ∨ ctlKey (s.homeBase + off) + n ≤ k → readByte t.mem k = readByte s.mem k)

/-- R152 to R154, R396: VOP acts on the slot that VSLOT names for system software, whoever owns it, with the operation's code, and
VSTAT takes its status: OPEN, CLOSE, RESUME, SETCLASS, SETMASK, SETCNT, CLRDRAFT, CLRFQ and INSTALL; a write of VDATA sets
the counter word that VWORD names. -/
def Obligations.SystemSequences : Prop :=
  let word (s : State) (n w : Nat) : Nat := (SMap.get 0 s.vesper (512 * n + w)).toNat
  let stage (s : State) (k : Nat) : Nat := s.hubGet (0x090 + k) 0
  let only (s t : State) (n : Nat) (ws : List Nat) : Prop :=
    ∀ k, (∀ w ∈ 385 :: ws, k ≠ 512 * n + w) → SMap.get 0 t.vesper k = SMap.get 0 s.vesper k
  let does (i : Instr) (pre : State → Nat → Prop) (post : State → Nat → State → Prop) : Prop :=
    ∀ s, s.hubGet 0x085 0 < 16384 → word s (s.hubGet 0x085 0) 0 % 4 ≠ 0 → pre s (s.hubGet 0x085 0) →
      ∃ t, exec i s = .next t ∧ t.mem = s.mem ∧ t.ctxs = s.ctxs ∧ t.hubGet 0x089 0 = 0 ∧ post s (s.hubGet 0x085 0) t
  (∀ s n, let p := s.hubGet 0x080 0 % 16
    let fits (m : Nat) : Prop := m < 16384 ∧ s.hubGet 0x081 p ≤ m ∧ m < s.hubGet 0x081 p + s.hubGet 0x082 p
    fits n → word s n 0 % 4 = 0 → (∀ m, fits m → word s m 0 % 4 = 0 → n ≤ m) → ∃ t, exec .vopOpen s = .next t ∧ t.mem = s.mem ∧
      t.hubGet 0x085 0 = n ∧ t.hubGet 0x089 0 = 0 ∧ word t n 0 = 1 ∧ word t n 46 = 2 ^ 16 + s.hubGet 0x701 p % 2 ^ 16) ∧
  does .vopClose (fun _ _ => True) (fun s n t => (∀ w, w < 512 → word t n w = 0) ∧ only s t n (List.range 512)) ∧
  does .vopResume (fun s n => 2 ≤ word s n 0 % 4) (fun s n t => word t n 0 % 4 = 1 ∧ (word t n 0).testBit 5 = false ∧
    word t n 0 / 2 ^ 9 % 2 ^ 4 = 0 ∧ only s t n [0]) ∧
  does .vopSetclass (fun _ _ => True) (fun s n t => let k := stage s 0 % 16
    word t n (48 + k) = stage s 1 ∧ word t n (64 + k) = stage s 2 ∧ only s t n [48 + k, 64 + k]) ∧
  does .vopSetmask (fun s _ => stage s 0 % 4 ≠ 0) (fun s n t => let k := stage s 0 % 4
    word t n (79 + k) = stage s 1 % 2 ^ 16 ∧ only s t n [79 + k]) ∧
  does .vopSetcnt (fun _ _ => True) (fun s n t => word t n (2 + stage s 0 % 4) = stage s 1 ∧ only s t n [2 + stage s 0 % 4]) ∧
  does .vopClrdraft (fun _ _ => True) (fun s n t => word t n 0 / 2 ^ 9 % 2 ^ 4 = 0 ∧ (word t n 0).testBit 18 = false ∧ only s t n [0]) ∧
  does .vopClrfq (fun _ _ => True) (fun s n t => word t n 0 / 2 ^ 13 % 2 ^ 5 = 0 ∧ only s t n [0]) ∧
  does .vopInstall (fun s n => s.entryOk (s.slotPart n) (((List.range 32).map fun k => stage s k * 2 ^ (32 * k)).sum) = true)
    (fun s n t => ∀ w, w < 32 → word t n (128 + 32 * (s.hubGet 0x086 0 % 8) + w) = stage s w) ∧
  ∀ s v m, s.args = [0x087, v, m] → v < 2 ^ 32 → s.hubGet 0x085 0 < 16384 → word s (s.hubGet 0x085 0) 0 % 4 ≠ 0 →
    2 ≤ s.hubGet 0x086 0 → s.hubGet 0x086 0 ≤ 5 → ∃ t, exec .vdataWrite s = .next t ∧ t.mem = s.mem ∧ t.hub = s.hub ∧
      word t (s.hubGet 0x085 0) (s.hubGet 0x086 0) = v ∧ only s t (s.hubGet 0x085 0) [s.hubGet 0x086 0]

/-- R464 to R467: SEAL of an Unused partition that keeps R465 and R466 makes it Sealed, and else is refused: while its tag is that of
another partition in use, its clusters meet those of a Sealed one, or it is confidential without a key or with a window that overlaps
another partition's; DISSOLVE, refused while it has a context or an enabled queue, makes it Dissolving, and DISSOLUTION_END then clears
its translations, its windows of the commons regions with their bytes, its tag, cluster set, firewall windows and key, and leaves it
Unused; the firewall windows are written while it is Unused alone. That DISSOLVE is allowed from Unused is the model's choice (log 27,
DEDUCED), and that SEAL and dissolution close an open trace page, which may then change its buffer (log 40, DESIGN CHOICE). -/
def Obligations.Partitions : Prop :=
  let state (s : State) (p : Nat) : Nat := s.hubGet 0x701 p / 2 ^ 30 % 4
  let stat (t : State) (p : Nat) : Bool := (t.hubGet 0x705 p).testBit 0
  let same (s t : State) : Prop := t.mem = s.mem ∧ t.ctxs = s.ctxs ∧ t.ops = s.ops
  let untraced (s : State) (p : Nat) : Prop := SMap.find? s.pages p = none ∧ ∀ as, (.traceRecord, as) ∈ s.agenda → as.headD 16 ≠ p
  let window (s : State) (p w sp a : Nat) : Prop := w < 16 ∧ (s.hubGet 0x709 (16 * p + w)).testBit 0 = true ∧
    s.hubGet 0x709 (16 * p + w) / 2 % 2 = sp ∧ s.hubGet64 0x70A (16 * p + w) ≤ a ∧ a ≤ s.hubGet64 0x70C (16 * p + w)
  let other (p : Nat) (f : Nat → Prop) : Prop := ∃ q, q < 16 ∧ q ≠ p ∧ f q
  let sealRefused (s : State) (p : Nat) : Prop := state s p ≠ 0 ∨
    other p (fun q => state s q ≠ 0 ∧ s.hubGet 0x701 q % 2 ^ 16 = s.hubGet 0x701 p % 2 ^ 16) ∨
    other p (fun q => state s q = 1 ∧ s.hubGet64 0x702 q &&& s.hubGet64 0x702 p ≠ 0) ∨
    ((s.hubGet 0x701 p).testBit 16 = true ∧ (s.keyed.testBit p = false ∨
      other p (fun q => ∃ v w sp a, window s p v sp a ∧ window s q w sp a)))
  let used (s : State) (p : Nat) : Prop := state s p = 2 ∨ (∃ c x, (c, x) ∈ s.ctxs ∧ x.part = p) ∨
    ∃ q, q < 4096 ∧ (s.hubGet 0x401 q).testBit 7 = true ∧ s.hubGet 0x401 q % 16 = p
  (∀ s p, s.args = [p] → p < 16 →
    (sealRefused s p → ∃ t, exec .partitionSeal s = .next t ∧ same s t ∧ stat t p = true ∧ t.agenda = s.agenda ∧
      t.hubGet 0x701 p = s.hubGet 0x701 p) ∧
    (¬ sealRefused s p → ∃ t, exec .partitionSeal s = .next t ∧ t.ctxs = s.ctxs ∧ t.ops = s.ops ∧ (untraced s p → t.mem = s.mem) ∧
      stat t p = false ∧ state t p = 1 ∧ t.hubGet 0x701 p % 2 ^ 30 = s.hubGet 0x701 p % 2 ^ 30 ∧
      ∀ q, q < 16 → q ≠ p → t.hubGet 0x701 q = s.hubGet 0x701 q)) ∧
  (∀ s p, s.args = [p] → p < 16 →
    (used s p → ∃ t, exec .partitionDissolve s = .next t ∧ same s t ∧ stat t p = true ∧ t.agenda = s.agenda ∧
      t.hubGet 0x701 p = s.hubGet 0x701 p) ∧
    (¬ used s p → ∃ t, exec .partitionDissolve s = .next t ∧ same s t ∧ stat t p = false ∧ state t p = 2 ∧
      t.agenda = s.agenda ++ [(.dissolutionEnd, [p])])) ∧
  (∀ s p, s.args = [p] → p < 16 → state s p = 2 → ∃ t, exec .dissolutionEnd s = .next t ∧ t.ctxs = s.ctxs ∧
    t.hubGet 0x701 p = 0 ∧ t.hubGet64 0x702 p = 0 ∧ (∀ w, w < 16 → (t.hubGet 0x709 (16 * p + w)).testBit 0 = false) ∧
    (∀ k, k < 8 → t.hubGet (0x710 + k) p = 0) ∧ (∀ die, die < 4 → (t.cmWindow die p).2 = 0) ∧
    (∀ y ∈ t.tlb, y ∈ s.tlb ∧ y.part ≠ if y.cache = hubCache then s.hubGet 0x701 p % 2 ^ 16 else p) ∧
    (∀ y ∈ t.walkers, y ∈ s.walkers ∧ y.part ≠ if y.die = 4 then s.hubGet 0x701 p % 2 ^ 16 else p) ∧
    (∀ die o, die < 4 → (s.cmWindow die p).1 ≤ o → o < (s.cmWindow die p).1 + (s.cmWindow die p).2 → readByte t.mem (commonsKey die o) = 0) ∧
    (untraced s p → ∀ k, k < 0x4000000000000000 → readByte t.mem k = readByte s.mem k)) ∧
  ∀ s v, s.args = [0x709, v, 1] → v < 2 ^ 32 → let p := s.hubGet 0x700 0 % 16
    let w := 16 * p + s.hubGet 0x708 p % 16
    ∃ t, exec .firewallWindowWrite s = .next t ∧ same s t ∧
      (state s p = 0 → t.hubGet 0x709 w = v % 8 ∧ stat t p = false) ∧
      (state s p ≠ 0 → t.hubGet 0x709 w = s.hubGet 0x709 w ∧ stat t p = true)
end

