-- ==== Sys2Proof/Laws/Access.lean ====
section
/-! SUPPORT. Laws/Access.lean: what the coherence requests, translations and checks of an access leave alone. -/
namespace Sys2Proof.Machine

/-- The machine but for memory, control lines with their tags, the requests made and applied, cached translations and pointer entries,
synchronisation records and the agenda: all that the checks of an access may change. -/
def State.outer (s : State) : State :=
  { s with mem := [], lines := [], purged := [], seqs := [], applied := [], tlb := [], walkers := [], recs := [], agenda := [] }

theorem hub_of_outer {s t : State} (h : t.outer = s.outer) : t.hub = s.hub := (congrArg State.hub h :)
theorem ctxs_of_outer {s t : State} (h : t.outer = s.outer) : t.ctxs = s.ctxs := (congrArg State.ctxs h :)
theorem cores_of_outer {s t : State} (h : t.outer = s.outer) : t.cores = s.cores := (congrArg State.cores h :)
theorem ops_of_outer {s t : State} (h : t.outer = s.outer) : t.ops = s.ops := (congrArg State.ops h :)
theorem l1_of_outer {s t : State} (h : t.outer = s.outer) : t.l1 = s.l1 := (congrArg State.l1 h :)
theorem free_of_outer {s t : State} (h : t.outer = s.outer) : t.free = s.free := (congrArg State.free h :)

/-! ### Coherence -/

@[simp] theorem outer_setLine (s : State) (n : Nat) (x : CLine) : (s.setLine n x).outer = s.outer := by
  unfold State.setLine; dsimp only; split <;> rfl

theorem outer_mem (s : State) (m : List Host.Cell) : ({ s with mem := m } : State).outer = s.outer := rfl
theorem outer_setHomeData (s : State) (n d : Nat) : (s.setHomeData n d).outer = s.outer := outer_mem s _
theorem outer_purged (s : State) (p : List (Nat × List (Nat × Nat))) : ({ s with purged := p } : State).outer = s.outer := rfl
theorem outer_keepTag (s : State) (a n w : Nat) : (s.keepTag a n w).outer = s.outer := outer_purged s _
@[simp] theorem outer_dropTag (s : State) (a n : Nat) : (s.dropTag a n).outer = s.outer := rfl

@[simp] theorem outer_recall (s : State) (n : Nat) : (s.recall n).outer = s.outer := by
  unfold State.recall; dsimp only; split
  · rfl
  · exact (outer_setLine ..).trans (outer_setHomeData ..)

@[simp] theorem outer_gatherC (s : State) (n : Nat) : (s.gatherC n).outer = s.outer := by
  unfold State.gatherC; split <;> simp

theorem outer_foldl_keepTag (cs : List Copy) (n w : Nat) (s : State) :
    (cs.foldl (fun t c => t.keepTag c.agent n w) s).outer = s.outer := by
  induction cs generalizing s with
  | nil => rfl
  | cons c cs ih => rw [List.foldl_cons, ih, outer_keepTag]

@[simp] theorem outer_writeAtHead (s : State) (n : Nat) (w : Copy) (later : List Copy) (pcc : Nat) :
    (s.writeAtHead n w later pcc).outer = s.outer := by
  unfold State.writeAtHead
  split
  · simp
  · split
    · simp
    · simp [outer_foldl_keepTag]

@[simp] theorem outer_cohRead (s : State) (a n : Nat) : (s.cohRead a n).outer = s.outer := by
  unfold State.cohRead; dsimp only
  split
  · simp
  · split <;> simp

@[simp] theorem outer_cohWrite (s : State) (a n : Nat) (f : Nat → Nat) : (s.cohWrite a n f).outer = s.outer := by
  unfold State.cohWrite; dsimp only
  split
  · split <;> simp
  · simp

theorem outer_applied (s : State) (q : List (Nat × List (Nat × Nat × Nat))) : ({ s with applied := q } : State).outer = s.outer := rfl
theorem mem_applied (s : State) (q : List (Nat × List (Nat × Nat × Nat))) : ({ s with applied := q } : State).mem = s.mem := rfl

@[simp] theorem outer_record (s : State) (home a seq r : Nat) : (s.record home a seq r).outer = s.outer := by
  unfold State.record; split
  · rfl
  · exact outer_applied s _

theorem outer_seqs (s : State) (q : List (Nat × Nat)) : ({ s with seqs := q } : State).outer = s.outer := rfl

@[simp] theorem outer_ownRequest (s u : State) (kind a n : Nat) : (s.ownRequest u kind a n).outer = s.outer := by
  unfold State.ownRequest; split
  · exact (outer_record _ _ _ _ _).trans (outer_seqs s _)
  · rfl

@[simp] theorem mem_record (s : State) (home a seq r : Nat) : (s.record home a seq r).mem = s.mem := by
  unfold State.record; split
  · rfl
  · exact mem_applied s _

@[simp] theorem mem_ownRequest (s u : State) (kind a n : Nat) : (s.ownRequest u kind a n).mem = s.mem := by
  unfold State.ownRequest; split
  · exact mem_record ..
  · rfl

@[simp] theorem outer_ctlRead (s : State) (a off n : Nat) : (s.ctlRead a off n).2.outer = s.outer := by
  simp [State.ctlRead]

@[simp] theorem outer_ctlWrite (s : State) (a off n v : Nat) : (s.ctlWrite a off n v).outer = s.outer := by
  simp [State.ctlWrite]

/-! ### Translation -/

theorem outer_readEntry (s : State) (a : Nat) (tensor : Bool) (t : Nat) : (s.readEntry a tensor t).2.outer = s.outer := by
  unfold State.readEntry; dsimp only
  split
  · split <;> rfl
  · split
    · rfl
    · rfl
    · split <;> simp

theorem mem_readEntry (s : State) (a t : Nat) : (s.readEntry a true t).2 = s := by
  unfold State.readEntry; dsimp only
  simp only [if_true]; split <;> rfl

theorem outer_walkFrom (a : Nat) (tensor : Bool) (va : Nat) (lvl : Nat) :
    ∀ (t : Nat) (s : State), (walkFrom a tensor va lvl t s).2.outer = s.outer := by
  induction lvl with
  | zero =>
    intro t s
    have h := outer_readEntry s a tensor (t + 8 * tableIndex va 0)
    unfold walkFrom
    revert h
    rcases s.readEntry a tensor (t + 8 * tableIndex va 0) with ⟨m | e, u⟩ <;> intro h
    · exact h
    · dsimp only; split <;> (try split) <;> (try split) <;> exact h
  | succ k ih =>
    intro t s
    have h := outer_readEntry s a tensor (t + 8 * tableIndex va (k + 1))
    unfold walkFrom
    revert h
    rcases s.readEntry a tensor (t + 8 * tableIndex va (k + 1)) with ⟨m | e, u⟩ <;> intro h
    · exact h
    · dsimp only
      split
      · exact h
      · split
        · exact h
        · split
          · exact h
          · exact (ih _ _).trans h

theorem walkFrom_tensor (a va : Nat) (lvl : Nat) : ∀ (t : Nat) (s : State), (walkFrom a true va lvl t s).2 = s := by
  induction lvl with
  | zero =>
    intro t s
    have h := mem_readEntry s a (t + 8 * tableIndex va 0)
    unfold walkFrom
    revert h
    rcases s.readEntry a true (t + 8 * tableIndex va 0) with ⟨m | e, u⟩ <;> intro h
    · exact h
    · dsimp only; split <;> (try split) <;> (try split) <;> exact h
  | succ k ih =>
    intro t s
    have h := mem_readEntry s a (t + 8 * tableIndex va (k + 1))
    unfold walkFrom
    revert h
    rcases s.readEntry a true (t + 8 * tableIndex va (k + 1)) with ⟨m | e, u⟩ <;> intro h
    · exact h
    · dsimp only
      split
      · exact h
      · split
        · exact h
        · split
          · exact h
          · exact (ih _ _).trans h

theorem outer_walk (a : Nat) (tensor : Bool) (root va : Nat) (s : State) : (walk a tensor root va s).2.outer = s.outer := by
  unfold walk; split
  · rfl
  · exact outer_walkFrom ..

theorem walk_tensor (a root va : Nat) (s : State) : (walk a true root va s).2 = s := by
  unfold walk; split
  · rfl
  · exact walkFrom_tensor ..

theorem outer_walkAt (a : Nat) (tensor : Bool) (root va : Nat) (start : Option Pointer) (s : State) :
    (walkAt a tensor root va start s).2.outer = s.outer := by
  unfold walkAt; split
  · exact outer_walkFrom ..
  · exact outer_walk ..

theorem walkAt_tensor (a root va : Nat) (start : Option Pointer) (s : State) : (walkAt a true root va start s).2 = s := by
  unfold walkAt; split
  · exact walkFrom_tensor ..
  · exact walk_tensor ..

theorem outer_walkTables (s : State) (die agent part : Nat) (tensor : Bool) (root va : Nat) (k : Option Nat) :
    (s.walkTables die agent part tensor root va k).2.outer = s.outer := by
  unfold State.walkTables; dsimp only
  have h := outer_walkAt agent tensor root va (s.heldPointer die part tensor va k) s
  revert h
  rcases walkAt agent tensor root va (s.heldPointer die part tensor va k) s with ⟨m | x, w⟩ <;> exact id

/-- A walk of tensor tables changes no byte of memory. -/
theorem mem_walkTables_tensor (s : State) (die agent part root va : Nat) (k : Option Nat) :
    (s.walkTables die agent part true root va k).2.mem = s.mem := by
  unfold State.walkTables; dsimp only
  have h := walkAt_tensor agent root va (s.heldPointer die part true va k) s
  revert h
  rcases walkAt agent true root va (s.heldPointer die part true va k) s with ⟨m | x, w⟩ <;> (intro h; subst h; rfl)

theorem outer_cacheXlat (s : State) (x : Xlat) : (s.cacheXlat x).outer = s.outer := rfl
theorem outer_discardTlb (s : State) (p : Xlat → Bool) : (s.discardTlb p).outer = s.outer := rfl

/-- A translation is made by the caches, or by one walk whose translation is then cached: what both leave stands. P relates the state
before to the state after. -/
theorem translate_keeps {P : State → Prop} {s : State} {place part : Nat} {tensor : Bool} {va need : Nat} {k : Option Nat}
    (hs : P s) (hd : ∀ u p, P u → P (u.discardTlb p)) (hc : ∀ u x, P u → P (u.cacheXlat x)) (hp : ∀ (u : State) ps, P u → P { u with walkers := ps })
    (hw : ∀ u die agent root j, P u → P (u.walkTables die agent part tensor root va j).2) :
    P (s.translate place part tensor va need k).2 := by
  unfold State.translate; dsimp only
  have miss (u : State) (hu : P u) := hw u (s.walkDie place) (s.dieAgent (s.walkDie place)) (u.root tensor part) (k.map (· + 2)) hu
  have miss' (u : State) (hu : P u) : P (match u.walkTables (s.walkDie place) (s.dieAgent (s.walkDie place)) part tensor
      (u.root tensor part) va (k.map (· + 2)) with
    | (.error m, w) => ((.error m, w) : Except Miss (Nat × Nat) × State)
    | (.ok (leaf, lvl), w) =>
      if leaf &&& need = need then
        (.ok (leafAddr tensor leaf lvl va, leaf),
          (w.cacheXlat ⟨clusterCache place, part, tensor, va / 2 ^ pageBits lvl, lvl, leaf⟩).cacheXlat
            ⟨coreCache place, part, tensor, va / 2 ^ pageBits lvl, lvl, leaf⟩)
      else (.error (.walk 1 lvl), { w with walkers := u.walkers })).2 := by
    have h2 := miss u hu
    revert h2
    rcases u.walkTables (s.walkDie place) (s.dieAgent (s.walkDie place)) part tensor (u.root tensor part) va (k.map (· + 2))
      with ⟨m | ⟨leaf, lvl⟩, w⟩ <;> intro h2
    · exact h2
    · dsimp only; split
      · exact hc _ _ (hc _ _ h2)
      · exact hp _ _ h2
  split
  · split
    · exact hs
    · exact miss' _ (hd _ _ hs)
  · split
    · split
      · exact hc _ _ (hd _ _ hs)
      · exact miss' _ (hd _ _ hs)
    · exact miss' _ (hd _ _ hs)

/-- A translation changes nothing outside the control lines and what is cached of the tables. -/
theorem outer_translate (s : State) (place part : Nat) (tensor : Bool) (va need : Nat) (k : Option Nat) :
    (s.translate place part tensor va need k).2.outer = s.outer :=
  translate_keeps (P := fun u => u.outer = s.outer) rfl (fun _ _ h => h) (fun _ _ h => h) (fun _ _ h => h)
    fun _ _ _ _ _ h => (outer_walkTables ..).trans h

/-- A translation of a tensor address changes no byte of memory. -/
theorem mem_translate_tensor (s : State) (place part va need : Nat) (k : Option Nat) :
    (s.translate place part true va need k).2.mem = s.mem :=
  translate_keeps (P := fun u => u.mem = s.mem) rfl (fun _ _ h => h) (fun _ _ h => h) (fun _ _ h => h)
    fun u die agent root j h => (mem_walkTables_tensor u die agent part root va j).trans h

/-! ### The checks of a lane and of all lanes -/

@[simp] theorem outer_setRecord (s : State) (p : Place) (r : Option Rec) : (s.setRecord p r).outer = s.outer := by
  unfold State.setRecord; split
  · rfl
  · split <;> rfl

@[simp] theorem mem_setRecord (s : State) (p : Place) (r : Option Rec) : (s.setRecord p r).mem = s.mem := by
  unfold State.setRecord; split
  · rfl
  · split <;> rfl

@[simp] theorem outer_loseRecord (s : State) (p : Place) (l : Nat) : (s.loseRecord p l).outer = s.outer := by
  unfold State.loseRecord; split <;> simp

@[simp] theorem mem_loseRecord (s : State) (p : Place) (l : Nat) : (s.loseRecord p l).mem = s.mem := by
  unfold State.loseRecord; split <;> simp

theorem outer_placeOf (s : State) (x : Ctx) (q : Req) (l a : Nat) (r : Nat × Nat) : (placeOf s x q l a r).2.outer = s.outer := by
  unfold placeOf
  split
  · rfl
  · rfl
  · dsimp only
    have h := outer_translate s x.place x.part (addrSpace a == 2) r.2 q.need (some (128 + 4 * l))
    revert h
    rcases s.translate x.place x.part (addrSpace a == 2) r.2 q.need (some (128 + 4 * l)) with ⟨m | ⟨pa, leaf⟩, u⟩ <;> intro h
    · exact h
    · dsimp only
      split
      · exact h
      · split
        · exact h
        · split <;> exact h

/-- The place of an access outside control space is found without a change of memory. -/
theorem mem_placeOf (s : State) (x : Ctx) (q : Req) (l a : Nat) (r : Nat × Nat) (ha : addrSpace a = 2 ∨ addrSpace a = 3 ∨ addrSpace a = 4) :
    (placeOf s x q l a r).2.mem = s.mem := by
  unfold placeOf
  split
  · rfl
  · rfl
  · rename_i h3 h4
    have e : (addrSpace a == 2) = true := by
      rcases ha with ha | ha | ha
      · simp [ha]
      · exact absurd ha h3
      · exact absurd ha h4
    dsimp only
    rw [e]
    have h := mem_translate_tensor s x.place x.part r.2 q.need (some (128 + 4 * l))
    revert h
    rcases s.translate x.place x.part true r.2 q.need (some (128 + 4 * l)) with ⟨m | ⟨pa, leaf⟩, u⟩ <;> intro h
    · exact h
    · dsimp only
      split
      · exact h
      · simpa using h

theorem outer_laneCheck (s : State) (b : Bundle) (x : Ctx) (act : List Nat) (q : Req) (l a : Nat) :
    (laneCheck s b x act q l a).2.outer = s.outer := by
  unfold laneCheck
  split
  · rfl
  · rename_i r _
    have h := outer_placeOf s x q l a r
    revert h
    rcases placeOf s x q l a r with ⟨p | t | _, u⟩ <;> intro h
    · dsimp only
      split
      · exact h
      · split
        · exact h
        have h' : (if q.sync.isSome then u.loseRecord p l else u).outer = s.outer := by split <;> simpa using h
        generalize (if q.sync.isSome then u.loseRecord p l else u) = u' at h'
        split
        · exact h'
        · split <;> exact h'
    · exact h
    · exact h

/-- An address that passes checks 1 to 4 lies in one of the four spaces. -/
theorem earlyCheck_space {s : State} {c : Nat} {x : Ctx} {act : List Nat} {q : Req} {l a : Nat} {r : Nat × Nat}
    (h : earlyCheck s c x act q l a = .ok r) : addrSpace a = 1 ∨ addrSpace a = 2 ∨ addrSpace a = 3 ∨ addrSpace a = 4 := by
  by_contra hn
  have hc : ∀ c, (formFault s l a).isSome = true ∨ (classFault s c l a).isSome = true := by
    intro c
    unfold formFault classFault
    generalize addrSpace a = z at hn
    rcases z with _ | _ | _ | _ | _ | _ | z
    · simp
    · omega
    · omega
    · omega
    · omega
    · cases c <;> simp
    · simp
  unfold earlyCheck at h
  split at h
  · cases h
  · split at h
    · cases h
    · rename_i h5 _ h6
      have := hc q.cls
      simp [h5, h6] at this

theorem mem_laneCheck (s : State) (b : Bundle) (x : Ctx) (act : List Nat) (q : Req) (l a : Nat) (ha : addrSpace a ≠ 1) :
    (laneCheck s b x act q l a).2.mem = s.mem := by
  unfold laneCheck
  split
  · rfl
  · rename_i r hr
    have h : (placeOf s x q l a r).2.mem = s.mem :=
      mem_placeOf _ _ _ _ _ _ ((earlyCheck_space hr).resolve_left ha)
    revert h
    rcases placeOf s x q l a r with ⟨p | t | _, u⟩ <;> intro h
    · dsimp only
      split
      · exact h
      · split
        · exact h
        have h' : (if q.sync.isSome then u.loseRecord p l else u).mem = s.mem := by split <;> simpa using h
        generalize (if q.sync.isSome then u.loseRecord p l else u) = u' at h'
        split
        · exact h'
        · split <;> exact h'
    · exact h
    · exact h

/-- The checks of all lanes, when they let the instruction go on, change nothing but what State.outer leaves out, and no
byte of memory when no address lies in control space. -/
theorem planFrom_go {b : Bundle} {x : Ctx} {v : Wave} {act : List Nat} {q : Req} (as : List (Nat × Nat)) :
    ∀ {ps qs : List (Nat × Nat × Option Place)} {s u : State}, planFrom b x v act q as ps s = .go qs u →
      u.outer = s.outer ∧ ((∀ e ∈ as, addrSpace e.2 ≠ 1) → u.mem = s.mem) := by
  induction as with
  | nil => intro ps qs s u h; injection h with _ h; subst h; exact ⟨rfl, fun _ => rfl⟩
  | cons e as ih =>
    intro ps qs s u h
    obtain ⟨l, a⟩ := e
    unfold planFrom at h
    have h1 := outer_laneCheck s b x act q l a
    have h2 := mem_laneCheck s b x act q l a
    revert h h1 h2
    rcases laneCheck s b x act q l a with ⟨p | t | _, w⟩ <;> intro h h1 h2 <;> dsimp only at h
    · split at h
      · cases h
      · obtain ⟨h3, h4⟩ := ih h
        exact ⟨h3.trans h1, fun ha => (h4 fun e he => ha e (List.mem_cons_of_mem _ he)).trans
          (h2 (ha (l, a) (List.mem_cons_self ..)))⟩
    · split at h
      · obtain ⟨h3, h4⟩ := ih h
        exact ⟨h3.trans h1, fun ha => (h4 fun e he => ha e (List.mem_cons_of_mem _ he)).trans
          (h2 (ha (l, a) (List.mem_cons_self ..)))⟩
      · cases h
    · cases h

theorem plan_go {s u : State} {b : Bundle} {x : Ctx} {v : Wave} {act : List Nat} {q : Req} {as : List (Nat × Nat)}
    {ps : List (Nat × Nat × Option Place)} (h : plan s b x v act q as = .go ps u) :
    u.outer = s.outer ∧ ((∀ e ∈ as, addrSpace e.2 ≠ 1) → u.mem = s.mem) := planFrom_go as h

end Sys2Proof.Machine
end

