-- ==== Sys2Proof/Laws/Canonical.lean ====
section
/-! SUPPORT. Laws/Canonical.lean: the operations through which the machine changes memory keep its canonical form: stores of units
and engines, control lines, barriers, event records, landings, restores and the slices of the domain. -/
namespace Sys2Proof.Machine

theorem wf_foldl {α : Type} {g : List Host.Cell → α → List Host.Cell}
    (hg : ∀ m a, Memory.wf m = true → Memory.wf (g m a) = true) (as : List α) :
    ∀ {m : List Host.Cell}, Memory.wf m = true → Memory.wf (as.foldl g m) = true := by
  induction as with
  | nil => intro m h; exact h
  | cons a as ih => intro m h; exact ih (hg m a h)

/-- Moving nonzero bytes to other keys keeps the form. -/
theorem wf_foldl_insert (f : Nat → Nat) : ∀ (es : List Host.Cell) {m : List Host.Cell}, (∀ e ∈ es, e.2 ≠ emptyByte) →
    Memory.wf m = true → Memory.wf (es.foldl (fun m e => SMap.insert m (f e.1) e.2) m) = true
  | [], _, _, h => h
  | (k, b) :: es, _, he, h => wf_foldl_insert f es (fun e h' => he e (.tail _ h')) (SMap.wf_insert h (he (k, b) (.head _)))

theorem nonzero_of_wf {m : List Host.Cell} (h : Memory.wf m = true) : ∀ e ∈ m, e.2 ≠ emptyByte := by
  simp only [Memory.wf, SMap.wf, Bool.and_eq_true, List.all_eq_true, decide_eq_true_eq] at h
  exact fun e he => h.2 e he

theorem wf_fold_state {α : Type} {g : State → α → State}
    (hg : ∀ s a, Memory.wf s.mem = true → Memory.wf (g s a).mem = true) (as : List α) :
    ∀ {s : State}, Memory.wf s.mem = true → Memory.wf (as.foldl g s).mem = true := by
  induction as with
  | nil => intro s h; exact h
  | cons a as ih => intro s h; exact ih (hg s a h)

theorem mem_fold_state {α : Type} {g : State → α → State} (hg : ∀ s a, (g s a).mem = s.mem) (as : List α) :
    ∀ (s : State), (as.foldl g s).mem = s.mem := by
  induction as with
  | nil => intro s; rfl
  | cons a as ih => intro s; exact (ih _).trans (hg s a)

@[simp] theorem mem_clearPoison (s : State) (k n : Nat) : (clearPoison s k n).mem = s.mem := by
  unfold clearPoison; split <;> rfl

theorem wf_engineStore {s : State} (k n v : Nat) (h : Memory.wf s.mem = true) : Memory.wf (s.engineStore k n v).mem = true := by
  rw [State.engineStore, mem_clearPoison]; exact wf_writeMem _ _ _ h

/-! ### Control lines -/

@[simp] theorem mem_setLine (s : State) (n : Nat) (x : CLine) : (s.setLine n x).mem = s.mem := by
  unfold State.setLine; dsimp only; split <;> rfl

theorem mem_purged (s : State) (p : List (Nat × List (Nat × Nat))) : ({ s with purged := p } : State).mem = s.mem := rfl
theorem mem_keepTag (s : State) (a n w : Nat) : (s.keepTag a n w).mem = s.mem := mem_purged s _
theorem mem_dropTag (s : State) (a n : Nat) : (s.dropTag a n).mem = s.mem := mem_purged s _

theorem wf_setHomeData {s : State} (n d : Nat) (h : Memory.wf s.mem = true) : Memory.wf (s.setHomeData n d).mem = true :=
  wf_writeMem _ _ _ h

theorem wf_recall {s : State} (n : Nat) (h : Memory.wf s.mem = true) : Memory.wf (s.recall n).mem = true := by
  unfold State.recall; dsimp only
  split
  · exact h
  · rw [mem_setLine]; exact wf_setHomeData _ _ h

theorem wf_gatherC {s : State} (n : Nat) (h : Memory.wf s.mem = true) : Memory.wf (s.gatherC n).mem = true := by
  unfold State.gatherC; split
  · exact wf_recall n h
  · exact h

theorem wf_rollout {s : State} (a n : Nat) (h : Memory.wf s.mem = true) : Memory.wf (s.rollout a n).mem = true := by
  unfold State.rollout; dsimp only
  split
  · exact h
  · rw [mem_setLine]; split <;> first | exact wf_setHomeData _ _ h | exact h

theorem wf_cohRead {s : State} (a n : Nat) (h : Memory.wf s.mem = true) : Memory.wf (s.cohRead a n).mem = true := by
  unfold State.cohRead; dsimp only
  split
  · rw [mem_setLine]; exact wf_gatherC n h
  · split <;> (rw [mem_setLine]; exact wf_gatherC n h)

@[simp] theorem mem_writeAtHead (s : State) (n : Nat) (w : Copy) (later : List Copy) (pcc : Nat) :
    (s.writeAtHead n w later pcc).mem = s.mem := by
  unfold State.writeAtHead; dsimp only
  split
  · rw [mem_setLine]
  · split
    · rw [mem_setLine]
    · rw [mem_setLine]; exact mem_fold_state (g := fun (t : State) (c : Copy) => t.keepTag c.agent n w.agent) (fun t c => mem_keepTag t c.agent n w.agent) later s

theorem wf_cohWrite {s : State} (a n : Nat) (f : Nat → Nat) (h : Memory.wf s.mem = true) : Memory.wf (s.cohWrite a n f).mem = true := by
  unfold State.cohWrite; dsimp only
  split
  · split
    · rw [mem_setLine]; exact wf_gatherC n h
    · rw [mem_writeAtHead]; exact wf_gatherC n h
  · rw [mem_writeAtHead]; exact wf_gatherC n h

theorem wf_commAdd {s : State} (a n e f x : Nat) (h : Memory.wf s.mem = true) : Memory.wf (s.commAdd a n e f x).mem = true := by
  unfold State.commAdd; dsimp only
  generalize hs : (if ((s.line n).members.all fun c => c.state == .c && c.cfmt == f) = true then s else s.recall n) = u
  have hu : Memory.wf u.mem = true := by
    subst hs; split
    · exact h
    · exact wf_recall n h
  split
  · split
    · rw [mem_setLine]; exact wf_rollout a n hu
    · rw [mem_setLine]; exact hu
  · rw [mem_setLine]; exact hu

theorem wf_ctlRead {s : State} (a off n : Nat) (h : Memory.wf s.mem = true) : Memory.wf (s.ctlRead a off n).2.mem = true := by
  simpa [State.ctlRead] using wf_cohRead _ _ h

theorem wf_ctlWrite {s : State} (a off n v : Nat) (h : Memory.wf s.mem = true) : Memory.wf (s.ctlWrite a off n v).mem = true := by
  simpa [State.ctlWrite] using wf_cohWrite _ _ _ h

theorem wf_homeUpdate {s : State} (off n v : Nat) (h : Memory.wf s.mem = true) : Memory.wf (s.homeUpdate off n v).mem = true := by
  unfold State.homeUpdate
  rw [mem_setLine, State.put, mem_clearPoison]; exact wf_writeMem _ _ _ (wf_recall _ h)

theorem wf_homeStore {s : State} (off n v : Nat) (h : Memory.wf s.mem = true) : Memory.wf (s.homeStore off n v).mem = true :=
  wf_homeUpdate off n v h

theorem wf_homeAtomic {s : State} (off n : Nat) (f : Nat → Nat) (h : Memory.wf s.mem = true) :
    Memory.wf (s.homeAtomic off n f).2.mem = true := wf_homeUpdate off n _ h

theorem wf_pageAdd {s : State} (a n e f x : Nat) (h : Memory.wf s.mem = true) : Memory.wf (s.pageAdd a n e f x).mem = true := by
  unfold State.pageAdd; dsimp only
  split
  · split
    · exact h
    · exact wf_homeAtomic _ _ _ h
  · exact wf_commAdd _ _ _ _ _ h

theorem wf_put {s : State} (k n v : Nat) (h : Memory.wf s.mem = true) : Memory.wf (s.put k n v).mem = true := by
  rw [State.put, mem_clearPoison]; exact wf_writeMem _ _ _ h

/-! ### Barriers, event records, landings and save areas -/

theorem wf_stepBarrier {s : State} (c i : Nat) (r : Nat × Bool) (h : Memory.wf s.mem = true) :
    Memory.wf (s.stepBarrier c i r).mem = true := by
  unfold State.stepBarrier; dsimp only
  split <;> exact wf_writeMem _ _ _ h

@[simp] theorem mem_waitLine (s : State) (home line : Nat) (e : Instr) (args : List Nat) : (s.waitLine home line e args).mem = s.mem := by
  unfold State.waitLine; split <;> rfl

theorem wf_eventRecord {s : State} (type queue ctx code data : Nat) (h : Memory.wf s.mem = true) :
    Memory.wf (s.eventRecord type queue ctx code data).mem = true := by
  unfold State.eventRecord State.eventRecordAt; dsimp only
  split
  · exact h
  · split
    · exact h
    · split
      · exact wf_homeStore _ _ _ h
      · rw [mem_waitLine]; exact h

/-- The bytes of a landed window. -/
theorem wf_landing {m src : List Host.Cell} (to' src' n : Nat) (h : Memory.wf m = true) :
    Memory.wf ((List.range n).foldl (fun m k => writeByte m (to' + k) (readByte src (src' + k))) m) = true :=
  wf_foldl (fun _ _ h => wf_writeByte h ..) _ h

/-- A scratchpad restored from its image, unit by unit. -/
theorem wf_restore {m : List Host.Cell} (k v : Nat → Nat) (n : Nat) (h : Memory.wf m = true) :
    Memory.wf ((List.range n).foldl (fun m j => writeMem m (k j) 32 (v j)) m) = true :=
  wf_foldl (fun _ _ h => wf_writeMem _ _ _ h) _ h

/-! ### The slices of the domain, and partitions -/

theorem wf_swapSlices {s : State} (a b : Nat) (h : Memory.wf s.mem = true) : Memory.wf (s.swapSlices a b).mem = true := by
  unfold State.swapSlices; dsimp only
  split
  · exact h
  · exact wf_foldl_insert (fun k => if 1 * k < ctlKey 0 ∨ 1024 ≤ (1 * k - ctlKey 0) / 0x1000000000 then k
      else if (1 * k - ctlKey 0) / 0x1000000000 = a then k + b * 0x1000000000 / 1 - a * 0x1000000000 / 1
      else if (1 * k - ctlKey 0) / 0x1000000000 = b then k + a * 0x1000000000 / 1 - b * 0x1000000000 / 1
      else k) s.mem (nonzero_of_wf h) wf_empty

theorem wf_mirrorSlice {s : State} (i : Nat) (h : Memory.wf s.mem = true) : Memory.wf (s.mirrorSlice i).mem = true :=
  wf_foldl_insert (· + 0x4000000000000000) _ (fun _ he => nonzero_of_wf h _ (List.mem_of_mem_filter he)) (wf_filter_mem _ h)

theorem wf_freshSlice {s : State} (i : Nat) (h : Memory.wf s.mem = true) : Memory.wf (s.freshSlice i).mem = true := by
  unfold State.freshSlice
  split
  · exact wf_filter_mem _ h
  · exact h

theorem wf_clearWindow {s : State} (die p : Nat) (h : Memory.wf s.mem = true) : Memory.wf (s.clearWindow die p).mem = true := by
  unfold State.clearWindow; dsimp only
  rw [mem_hubSet]; exact wf_filter_mem _ h

@[simp] theorem mem_repost (s : State) (p : Waiting → Bool) : (s.repost p).mem = s.mem := by
  unfold State.repost
  exact mem_fold_state (g := fun (t : State) (w : Waiting) => t.post w.event w.args) (fun _ _ => rfl) _ _

@[simp] theorem mem_retryWaiting (s : State) : s.retryWaiting.mem = s.mem := mem_repost ..

theorem wf_rebuildSlice {s : State} (i : Nat) (r : Rebuild) (h : Memory.wf s.mem = true) : Memory.wf (s.rebuildSlice i r).mem = true := by
  unfold State.rebuildSlice; dsimp only
  rw [mem_retryWaiting]
  refine wf_fold_state (fun _ _ h => wf_setHomeData _ _ h) _ (wf_fold_state (fun _ _ h => wf_put _ _ _ h) _ ?_)
  exact wf_foldl (g := fun m (e : Host.Cell) => SMap.set emptyByte m (e.1 - 0x4000000000000000) e.2) (fun _ _ h => SMap.wf_set h) _
    (wf_filter_mem _ h)

end Sys2Proof.Machine
end

