-- ==== Sys2Proof/Laws/Issue.lean ====
section
/-! SUPPORT. Laws/Issue.lean: what issuing an instruction and writing its registers do, once for all instructions. -/
namespace Sys2Proof.Machine

/-! ### Contexts and waves -/

theorem ctx?_modCtx (s : State) (c : Nat) (f : Ctx → Ctx) (d : Nat) :
    (s.modCtx c f).ctx? d = if c = d then (s.ctx? d).map f else s.ctx? d := SMap.find?_modify ..

@[simp] theorem ctx?_modCtx_self (s : State) (c : Nat) (f : Ctx → Ctx) :
    (s.modCtx c f).ctx? c = (s.ctx? c).map f := SMap.find?_modify_self ..

@[simp] theorem ctx?_modCtx_ne (s : State) {c d : Nat} (f : Ctx → Ctx) (h : c ≠ d) :
    (s.modCtx c f).ctx? d = s.ctx? d := SMap.find?_modify_ne h

theorem wave?_of {s : State} {c w : Nat} {x : Ctx} (h : s.ctx? c = some x) :
    s.wave? c w = SMap.find? x.waves w := by simp [State.wave?, h]

@[simp] theorem rest_modCtx (s : State) (c : Nat) (f : Ctx → Ctx) : (s.modCtx c f).rest = s.rest := rfl

/-- What stands when of the contexts of s only one wave has changed, and it only to u, with its block's latch perhaps
emptied, and outside the contexts all stands as in o. -/
structure OneWave (s o : State) (c w : Nat) (x : Ctx) (u : Wave) (t : State) : Prop where
  mem : t.mem = o.mem
  rest : t.rest = o.rest
  l1 : ∀ e ∈ t.l1, e ∈ s.l1
  cores : ∀ k, (t.core k).rest = (s.core k).rest
  others : ∀ d, d ≠ c → t.ctx? d = s.ctx? d
  own : ∃ y, t.ctx? c = some y ∧ y.rest = x.rest ∧ (∀ k, k ≠ w → SMap.find? y.waves k = SMap.find? x.waves k) ∧
    SMap.find? y.waves w = some u

theorem Ctx.rest_unlatch (x : Ctx) (p : Latch → Bool) : (x.unlatch p).rest = x.rest := by
  unfold Ctx.unlatch Ctx.rest; split <;> (try split) <;> rfl

theorem Ctx.waves_unlatch (x : Ctx) (p : Latch → Bool) : (x.unlatch p).waves = x.waves := by
  unfold Ctx.unlatch; split <;> (try split) <;> rfl

/-- A change of one wave of one block. -/
theorem OneWave.modWave {s o t : State} {c w : Nat} {x : Ctx} {u : Wave} (h : OneWave s o c w x u t) (f : Wave → Wave) :
    OneWave s o c w x (f u) (t.modWave c w f) := by
  obtain ⟨hm, hr, hl, hc, ho, y, hy, hyr, hyw, hyu⟩ := h
  refine ⟨hm, hr, hl, hc, fun d hd => ?_, { y with waves := SMap.modify y.waves w f }, ?_, ?_, fun k hk => ?_, ?_⟩
  · rw [State.modWave, ctx?_modCtx_ne _ _ hd.symm, ho d hd]
  · simp [State.modWave, hy]
  · exact hyr
  · rw [SMap.find?_modify_ne hk.symm, hyw k hk]
  · simp [hyu]

theorem OneWave.unlatch {s o t : State} {c w : Nat} {x : Ctx} {u : Wave} (h : OneWave s o c w x u t) (p : Latch → Bool) :
    OneWave s o c w x u (t.modCtx c fun y => y.unlatch p) := by
  obtain ⟨hm, hr, hl, hc, ho, y, hy, hyr, hyw, hyu⟩ := h
  refine ⟨hm, hr, hl, hc, fun d hd => ?_, y.unlatch p, ?_, ?_, fun k hk => ?_, ?_⟩
  · rw [ctx?_modCtx_ne _ _ hd.symm, ho d hd]
  · simp [hy]
  · rw [Ctx.rest_unlatch, hyr]
  · rw [Ctx.waves_unlatch, hyw k hk]
  · rw [Ctx.waves_unlatch, hyu]

theorem OneWave.refl {s : State} {c w : Nat} {x : Ctx} {v : Wave} (hx : s.ctx? c = some x)
    (hv : SMap.find? x.waves w = some v) : OneWave s s c w x v s :=
  ⟨rfl, rfl, fun _ h => h, fun _ => rfl, fun _ _ => rfl, x, hx, rfl, fun _ _ => rfl, hv⟩

theorem OneWave.acquire {s o t : State} {c w : Nat} {x : Ctx} {u : Wave} (h : OneWave s o c w x u t) (k sc : Nat) :
    OneWave s o c w x u (t.acquire k sc) := by
  obtain ⟨hm, hr, hl, hc, ho, own⟩ := h
  unfold State.acquire
  split
  · exact ⟨hm, hr, fun e he => hl e (List.mem_filter.1 he).1, hc, ho, own⟩
  · exact ⟨hm, hr, hl, hc, ho, own⟩

/-- A change outside the contexts, memory and caches. -/
theorem OneWave.outside {s o t : State} {c w : Nat} {x : Ctx} {u : Wave} (h : OneWave s o c w x u t) (g : State → State)
    (hr : ∀ r, (g r).rest = g r.rest) (hm : ∀ r, (g r).mem = r.mem) (hl : ∀ r, (g r).l1 = r.l1)
    (hc : ∀ r, (g r).cores = r.cores) (hx : ∀ r, (g r).ctxs = r.ctxs) : OneWave s (g o) c w x u (g t) := by
  obtain ⟨hm', hr', hl', hc', ho', own⟩ := h
  refine ⟨by rw [hm, hm, hm'], by rw [hr, hr, hr'], by rw [hl]; exact hl', fun k => ?_, fun d hd => ?_, ?_⟩
  · simp only [State.core, hc]; exact hc' k
  · rw [← ho' d hd]; simp only [State.ctx?, hx]
  · simp only [State.ctx?, hx]; exact own

theorem OneWave.post {s o t : State} {c w : Nat} {x : Ctx} {u : Wave} (h : OneWave s o c w x u t) (e : Instr)
    (as : List Nat) : OneWave s (o.post e as) c w x u (t.post e as) :=
  h.outside (fun r => r.post e as) (fun _ => rfl) (fun _ => rfl) (fun _ => rfl) (fun _ => rfl) fun _ => rfl

theorem OneWave.launchAt {s o t : State} {c w : Nat} {x : Ctx} {u : Wave} (h : OneWave s o c w x u t) (id : Nat)
    (b : Bundle) (ls : List Nat) (k : OpKind) : OneWave s (o.launchAt id b ls k) c w x u (t.launchAt id b ls k) :=
  h.outside (fun r => r.launchAt id b ls k) (fun _ => rfl) (fun _ => rfl) (fun _ => rfl) (fun _ => rfl) fun _ => rfl

/-- A change of one core that issue makes. -/
theorem OneWave.setCore {s o t : State} {c w : Nat} {x : Ctx} {u : Wave} (h : OneWave s o c w x u t) (k : Nat) (y : Core)
    (hy : y.rest = (t.core k).rest) : OneWave s o c w x u (t.setCore k y) := by
  obtain ⟨hm, hr, hl, hc, ho, own⟩ := h
  refine ⟨hm, hr, hl, fun j => ?_, ho, own⟩
  simp only [State.core, State.setCore, SMap.get_set] at *
  split
  · rename_i e; subst e; rw [hy]; exact hc k
  · exact hc j

/-- What the breakpoint units have stopped at may be forgotten. -/
theorem OneWave.issuedAt {s o t : State} {c w : Nat} {x : Ctx} {u : Wave} (h : OneWave s o c w x u t) (p : Dword) :
    ∃ sk, OneWave s o c w x { u with skip := sk } (t.issuedAt c w p) := by
  unfold State.issuedAt
  split
  · rename_i y v _ _
    have h1 : OneWave s o c w x u (t.slotIssued y.place v.slot) := h.setCore _ _ rfl
    exact ⟨_, h1.modWave fun u => { u with skip := u.skip.filter fun k => k.2 != p }⟩
  · exact ⟨u.skip, h⟩

/-! ### Registers -/

/-- Wave v with registers written at keys 32 r + l, in order. -/
def Wave.setKeys (v : Wave) (ws : List (Nat × Word)) : Wave :=
  { v with regs := ws.foldl (fun m e => SMap.set 0 m e.1 e.2) v.regs }

theorem OneWave.setReg {s o t : State} {c w : Nat} {x : Ctx} {u : Wave} (h : OneWave s o c w x u t) (r l : Nat) (z : Word) :
    OneWave s o c w x (u.setKeys [(32 * r + l, z)]) (t.setReg c w r l z) := by
  obtain ⟨hm, hr, hl, hc, ho, y, hy, hyr, hyw, hyu⟩ := h
  refine ⟨hm, hr, hl, hc, fun d hd => ?_, _, by simp [State.setReg, hy]; rfl, ?_, fun k hk => ?_, ?_⟩
  · rw [State.setReg, ctx?_modCtx_ne _ _ hd.symm, ho d hd]
  · rw [Ctx.rest_unlatch]; exact hyr
  · rw [Ctx.waves_unlatch]; simp only []; rw [SMap.find?_modify_ne hk.symm, hyw k hk]
  · rw [Ctx.waves_unlatch]; simp [hyu, Wave.setKeys]

theorem OneWave.setRegs {s o t : State} {c w : Nat} {x : Ctx} {u : Wave} (h : OneWave s o c w x u t)
    (ws : List (Nat × Word)) : OneWave s o c w x (u.setKeys ws) (t.setRegs c w ws) := by
  induction ws generalizing t u with
  | nil => exact h
  | cons e ws ih =>
    have := ih (h.setReg (e.1 / 32) (e.1 % 32) e.2)
    simpa [State.setRegs, Wave.setKeys, Nat.div_add_mod] using this

theorem get_foldl_set_of_notMem (ws : List (Nat × Word)) (m : List (Nat × Word)) (k : Nat)
    (h : ∀ e ∈ ws, e.1 ≠ k) : SMap.get 0 (ws.foldl (fun m e => SMap.set 0 m e.1 e.2) m) k = SMap.get 0 m k := by
  induction ws generalizing m with
  | nil => rfl
  | cons e ws ih =>
    rw [List.foldl_cons, ih _ fun f hf => h f (List.mem_cons_of_mem _ hf),
      SMap.get_set_ne (h e (List.mem_cons_self ..))]

theorem get_foldl_set_of_mem (ws : List (Nat × Word)) (m : List (Nat × Word)) (k : Nat) (y : Word)
    (hm : (k, y) ∈ ws) (h : ∀ e ∈ ws, e.1 = k → e.2 = y) :
    SMap.get 0 (ws.foldl (fun m e => SMap.set 0 m e.1 e.2) m) k = y := by
  induction ws generalizing m with
  | nil => simp at hm
  | cons e ws ih =>
    rw [List.foldl_cons]
    by_cases hin : (k, y) ∈ ws
    · exact ih _ hin fun f hf => h f (List.mem_cons_of_mem _ hf)
    · have he : e = (k, y) := by simpa [hin, eq_comm] using hm
      subst he
      rw [get_foldl_set_of_notMem, SMap.get_set_self]
      intro f hf hk
      have := h f (List.mem_cons_of_mem _ hf) hk
      exact hin (by cases f; simp_all)

/-- What lanes of a list write, lane by lane. -/
def laneWrites (act : List Nat) (f : Nat → List (Nat × Word)) : List (Nat × Word) :=
  act.flatMap fun l => (f l).map fun p => (32 * p.1 + l, p.2)

theorem mem_laneWrites {act : List Nat} {f : Nat → List (Nat × Word)} {e : Nat × Word} :
    e ∈ laneWrites act f ↔ ∃ l ∈ act, ∃ p ∈ f l, e = (32 * p.1 + l, p.2) := by
  simp only [laneWrites, List.mem_flatMap, List.mem_map, eq_comm]

theorem key_inj {r r' l l' : Nat} (hl : l < 32) (hl' : l' < 32) (h : 32 * r + l = 32 * r' + l') : r = r' ∧ l = l' := by
  omega

/-- Each lane's registers after the writes, when no lane writes one register twice. -/
theorem reg_setKeys_laneWrites {v : Wave} {act : List Nat} {f : Nat → List (Nat × Word)} (hact : ∀ l ∈ act, l < 32)
    (hf : ∀ l, ∀ p ∈ f l, ∀ q ∈ f l, p.1 = q.1 → p.2 = q.2) {l : Nat} (hl : l ∈ act) {p : Nat × Word} (hp : p ∈ f l) :
    (v.setKeys (laneWrites act f)).reg p.1 l = p.2 := by
  refine get_foldl_set_of_mem _ _ _ _ (mem_laneWrites.2 ⟨l, hl, p, hp, rfl⟩) fun e he hk => ?_
  obtain ⟨l', hl', q, hq, rfl⟩ := mem_laneWrites.1 he
  obtain ⟨h1, rfl⟩ := key_inj (hact _ hl') (hact _ hl) hk
  exact hf _ q hq p hp h1

theorem reg_setKeys_other {v : Wave} {act : List Nat} {f : Nat → List (Nat × Word)} (hact : ∀ l ∈ act, l < 32)
    {r l : Nat} (hl : l < 32) (h : l ∉ act ∨ ∀ p ∈ f l, p.1 ≠ r) :
    (v.setKeys (laneWrites act f)).reg r l = v.reg r l := by
  refine get_foldl_set_of_notMem _ _ _ fun e he hk => ?_
  obtain ⟨l', hl', q, hq, rfl⟩ := mem_laneWrites.1 he
  obtain ⟨h1, rfl⟩ := key_inj (hact _ hl') hl hk
  exact h.elim (· hl') fun h => h q hq h1

/-! ### The checks -/

theorem Wave.active_lt {v : Wave} {run : List Nat} {l : Nat} (h : l ∈ v.active run) : l < 32 := by
  simp only [Wave.active, List.mem_filter, Bool.and_eq_true, decide_eq_true_eq] at h; exact h.2.1

/-- The active set of an instruction that passes its checks. -/
theorem issueCheck_act {i : Instr} {b : Bundle} {s : State} {act : List Nat} {x : Ctx} {v : Wave}
    (hx : s.ctx? b.ctx = some x) (hv : SMap.find? x.waves b.wave = some v) (h : issueCheck i b s = .go act)
    (ha : act ≠ []) : act = v.active b.run := by
  unfold issueCheck at h
  rw [wave?_of hx, hx, hv] at h
  simp only [] at h
  split at h
  · rename_i he
    split at h
    · cases h
    · cases h; exact absurd rfl ha
  · repeat' split at h
    all_goals first | (cases h; done) | (injection h with h; first | exact absurd h.symm ha | exact h.symm)

theorem Passes.act_eq {i : Instr} {s : State} {b : Bundle} {x : Ctx} {v : Wave} {act : List Nat}
    (h : Passes i s b x v act) : act = v.active b.run := issueCheck_act h.ctx h.wave h.go h.active

theorem Passes.lt {i : Instr} {s : State} {b : Bundle} {x : Ctx} {v : Wave} {act : List Nat}
    (h : Passes i s b x v act) : ∀ l ∈ act, l < 32 := by rw [h.act_eq]; exact fun _ => Wave.active_lt

theorem Passes.wave' {i : Instr} {s : State} {b : Bundle} {x : Ctx} {v : Wave} {act : List Nat}
    (h : Passes i s b x v act) : s.wave? b.ctx b.wave = some v := by rw [wave?_of h.ctx]; exact h.wave

/-- An instruction that passes its checks goes on to its own effect. -/
theorem issue_go {i : Instr} {s : State} {b : Bundle} {x : Ctx} {v : Wave} {act : List Nat} (h : Passes i s b x v act)
    (body : Bundle → List Nat → State → Result) :
    issue i s body = .next (settle b s (body b act (pass i b act s))) := by
  unfold issue; rw [h.cur]; simp only []; rw [h.go]

/-! ### Passing -/

/-- A sample that is produced changes the agenda, and that the core owes it. -/
theorem oneWave_noteSample {s : State} {b : Bundle} {x : Ctx} {v : Wave} (hx : s.ctx? b.ctx = some x)
    (hv : SMap.find? x.waves b.wave = some v) (act : List Nat) :
    OneWave s (s.noteSample b act) b.ctx b.wave x v (s.noteSample b act) := by
  have h := OneWave.refl hx hv
  unfold State.noteSample State.bundleSample
  repeat' split
  · exact ⟨rfl, rfl, fun _ h => h, (h.setCore _ { s.core _ with want := none } rfl).cores, fun _ _ => rfl, h.own⟩
  all_goals exact h

theorem oneWave_countBundle {s o t : State} {b : Bundle} {x : Ctx} {u : Wave} (h : OneWave s o b.ctx b.wave x u t) (n : Nat) :
    OneWave s o b.ctx b.wave x u (countBundle b n t) := by
  unfold countBundle
  repeat' split
  · exact h.setCore _ _ rfl
  all_goals exact h

/-- Passing changes the wave alone, and what its issue slot holds. -/
theorem oneWave_pass {i : Instr} {s : State} {b : Bundle} {x : Ctx} {v : Wave} {act : List Nat}
    (hx : s.ctx? b.ctx = some x) (hv : SMap.find? x.waves b.wave = some v) :
    ∃ aq sk, OneWave s (s.noteSample b act) b.ctx b.wave x
      { v.pass i b.run act s.nextId s.inFlight with acq := aq, skip := sk } (pass i b act s) := by
  obtain ⟨sk, h0⟩ := (oneWave_countBundle (oneWave_noteSample hx hv act) (issueRate i)).issuedAt b.pc
  have h1 := h0.modWave fun u => u.pass i b.run act s.nextId s.inFlight
  generalize hu : ({ v with skip := sk } : Wave).pass i b.run act s.nextId s.inFlight = u at h1
  obtain ⟨aq, h2⟩ : ∃ aq, OneWave s (s.noteSample b act) b.ctx b.wave x { u with acq := aq } (acquireArrivals i b act
      (((countBundle b (issueRate i) (s.noteSample b act)).noteIssue b).modWave b.ctx b.wave
        fun u => u.pass i b.run act s.nextId s.inFlight)) := by
    unfold State.noteIssue
    generalize State.modWave _ b.ctx b.wave (fun u => u.pass i b.run act s.nextId s.inFlight) = t at h1 ⊢
    unfold acquireArrivals
    split
    · rename_i y w hy hw
      dsimp only
      split
      · exact ⟨u.acq, h1⟩
      · rename_i hk
        obtain ⟨y', hy', -, -, hu'⟩ := h1.own
        have : w = u := by
          rw [wave?_of hy'] at hw; exact Option.some.inj (hw.symm.trans hu')
        subst this
        have h2 (ks : List Nat) := h1.modWave fun v => { v with acq := List.foldl (fun m k => SMap.set 0 m k 0) v.acq ks }
        exact ⟨_, (h2 _).acquire _ _⟩
    · exact ⟨u.acq, h1⟩
  refine ⟨aq, sk, ?_⟩
  subst hu
  obtain ⟨hm, hr, hl, hc, ho, own⟩ := h2
  exact ⟨hm, hr, hl, hc, ho, own⟩

theorem pass_cur (i : Instr) (b : Bundle) (act : List Nat) (s : State) : (pass i b act s).cur = none := rfl
theorem pass_nextId (i : Instr) (b : Bundle) (act : List Nat) (s : State) : (pass i b act s).nextId = s.nextId + 1 := rfl

theorem clock_acquire (s : State) (k sc : Nat) : (s.acquire k sc).clock = s.clock := by
  unfold State.acquire; split <;> rfl

@[simp] theorem clock_countBundle (b : Bundle) (n : Nat) (s : State) : (countBundle b n s).clock = s.clock := by
  unfold countBundle; repeat' split
  all_goals rfl

@[simp] theorem clock_noteIssue (s : State) (b : Bundle) : (s.noteIssue b).clock = s.clock := by
  unfold State.noteIssue State.issuedAt; split <;> rfl

@[simp] theorem clock_noteSample (s : State) (b : Bundle) (act : List Nat) : (s.noteSample b act).clock = s.clock := by
  unfold State.noteSample State.bundleSample; repeat' split
  all_goals rfl

theorem pass_clock (i : Instr) (b : Bundle) (act : List Nat) (s : State) :
    (pass i b act s).clock = s.clock + BitVec.ofNat 64 (issueRate i) := by
  have h (t : State) : (acquireArrivals i b act t).clock = t.clock := by
    unfold acquireArrivals; split
    · dsimp only
      split
      · rfl
      · rw [clock_acquire, State.modWave, clock_modCtx]
    · rfl
  simp [pass, h]

end Sys2Proof.Machine
end

