-- ==== Sys2Proof/Laws/Drain.lean ====
section
/-! SUPPORT. Laws/Drain.lean: what starting a drain, marking a stop and a memory watch leave alone. -/
namespace Sys2Proof.Machine

/-- A wave but for its stay at the rendezvous latch. -/
def Wave.still (v : Wave) : Wave := { v with rend := none }

/-- From s to t only contexts have changed, none of their waves but at the rendezvous latch, and events have come. -/
structure Stilled (s t : State) : Prop where
  outside : { t with ctxs := [], agenda := [] } = { s with ctxs := [], agenda := [] }
  waves : ∀ c k, (t.wave? c k).map Wave.still = (s.wave? c k).map Wave.still
  agenda : ∃ es, t.agenda = s.agenda ++ es

theorem Stilled.refl (s : State) : Stilled s s := ⟨rfl, fun _ _ => rfl, [], by simp⟩

theorem Stilled.trans {s t u : State} (h : Stilled s t) (h' : Stilled t u) : Stilled s u := by
  obtain ⟨a, b, es, e⟩ := h
  obtain ⟨a', b', es', e'⟩ := h'
  exact ⟨a'.trans a, fun c k => (b' c k).trans (b c k), es ++ es', by rw [e', e, List.append_assoc]⟩

theorem Stilled.post (s : State) (e : Instr) (as : List Nat) : Stilled s (s.post e as) := ⟨rfl, fun _ _ => rfl, _, rfl⟩

/-- A change of a context that leaves its waves alone but at the rendezvous latch. -/
theorem Stilled.modCtx (s : State) (c : Nat) (f : Ctx → Ctx)
    (hf : ∀ x k, (SMap.find? (f x).waves k).map Wave.still = (SMap.find? x.waves k).map Wave.still) :
    Stilled s (s.modCtx c f) := by
  refine ⟨rfl, fun d k => ?_, [], by simp⟩
  simp only [State.wave?, ctx?_modCtx]
  by_cases h : c = d
  · subst h; cases hx : s.ctx? c with
    | none => simp
    | some x => simpa using hf x k
  · simp [h]

theorem Stilled.foldl {α : Type} (g : State → α → State) (hg : ∀ t a, Stilled t (g t a)) (as : List α) (s : State) :
    Stilled s (as.foldl g s) := by
  induction as generalizing s with
  | nil => exact Stilled.refl s
  | cons a as ih => exact (hg s a).trans (ih _)

theorem stilled_startDrain (s : State) (c : Nat) (g : Goal) (e : Instr) : Stilled s (s.startDrain c g e) := by
  unfold State.startDrain
  refine Stilled.foldl _ (fun t b => ?_) _ _
  dsimp only
  split
  · split
    · refine (Stilled.modCtx t b _ fun x k => ?_).trans (Stilled.post ..)
      rw [SMap.find?_mapVals]; cases SMap.find? x.waves k <;> rfl
    · exact Stilled.refl t
  · exact Stilled.refl t

theorem stilled_markStop (s : State) (c : Nat) (k : StopRec) : Stilled s (s.markStop c k) := by
  unfold State.markStop
  refine Stilled.foldl _ (fun t b => ?_) _ _
  exact Stilled.modCtx t b _ fun x k => rfl

theorem stilled_watchStop (s : State) (b : Bundle) (v : Wave) (kinds n : Nat) (as : List (Nat × Nat)) :
    Stilled s (watchStop s b v kinds n as) := by
  unfold watchStop
  split
  · split
    · dsimp only; split
      · exact (stilled_startDrain ..).trans (stilled_markStop ..)
      · exact Stilled.refl s
    · exact Stilled.refl s
  · exact Stilled.refl s

theorem Stilled.mem {s t : State} (h : Stilled s t) : t.mem = s.mem := (congrArg State.mem h.outside :)
theorem Stilled.hub {s t : State} (h : Stilled s t) : t.hub = s.hub := (congrArg State.hub h.outside :)
theorem Stilled.cores {s t : State} (h : Stilled s t) : t.cores = s.cores := (congrArg State.cores h.outside :)
theorem Stilled.ops {s t : State} (h : Stilled s t) : t.ops = s.ops := (congrArg State.ops h.outside :)

end Sys2Proof.Machine
end

