-- ==== Sys2Proof/Laws/Effect.lean ====
section
/-! SUPPORT. Laws/Effect.lean: the shared shapes of register instructions do what they compute and nothing else. -/
namespace Sys2Proof.Machine

@[simp] theorem cur_setRegs (s : State) (c w : Nat) (ws : List (Nat × Word)) : (s.setRegs c w ws).cur = s.cur := by
  induction ws generalizing s with
  | nil => rfl
  | cons e ws ih => exact ih _

@[simp] theorem clock_setRegs (s : State) (c w : Nat) (ws : List (Nat × Word)) : (s.setRegs c w ws).clock = s.clock := by
  induction ws generalizing s with
  | nil => rfl
  | cons e ws ih => exact ih _


/-- Lane l after a map over the lanes of a wave. -/
@[simp] theorem Wave.lane?_mapVals (v : Wave) (f : Nat → Lane → Lane) (l : Nat) :
    ({ v with lanes := SMap.mapVals v.lanes f } : Wave).lane? l = (v.lane? l).map (f l) := SMap.find?_mapVals ..

@[simp] theorem Wave.lane?_setKeys (v : Wave) (ws : List (Nat × Word)) (l : Nat) : (v.setKeys ws).lane? l = v.lane? l := rfl
@[simp] theorem Wave.rest_setKeys (v : Wave) (ws : List (Nat × Word)) : (v.setKeys ws).rest = v.rest := rfl

theorem Wave.lane?_pass (v : Wave) (i : Instr) (run act : List Nat) (id : Nat) (fl : Nat → Bool) (l : Nat) :
    (v.pass i run act id fl).lane? l = (v.lane? l).map (Lane.passed i run act l) :=
  SMap.find?_mapVals v.lanes (Lane.passed i run act) l

/-- An instruction whose effect is a change of lanes by g and register writes ws of its wave. -/
theorem Effect.of {i : Instr} {s : State} {b : Bundle} {x : Ctx} {v : Wave} {act : List Nat}
    (h : Passes i s b x v act) {t out : State} {u : Wave} {aq : List (Nat × Nat)} {sk : List (Nat × Dword)} {wr : Nat → List (Nat × Word)}
    {fl : Nat → Lane → Lane}
    (hu : u.rest = v.rest) (hr : u.regs = (v.setKeys (laneWrites act wr)).regs)
    (hl : ∀ l, u.lane? l = (v.lane? l).map fun n => fl l (n.passed i b.run act l))
    (ho : OneWave s out b.ctx b.wave x { u with acq := aq, skip := sk } t) (hc : t.cur = none)
    (hk : t.clock = s.clock + BitVec.ofNat 64 (issueRate i))
    (hf : ∀ l, ∀ p ∈ wr l, ∀ q ∈ wr l, p.1 = q.1 → p.2 = q.2) : Effect i s out b x v act wr fl t := by
  obtain ⟨hm, hrs, h1, hco, hot, y, hy, hyr, hyw, hyu⟩ := ho
  refine ⟨fun k => by rw [hm], hrs, hc, hk, hco, h1, hot, y, _, hy, hyr, hyw, hyu, hu, hl, fun l hl' p hp => ?_,
    fun r l hl' hn => ?_⟩
  · have := reg_setKeys_laneWrites (v := v) h.lt hf hl' hp
    simpa [Wave.reg, hr] using this
  · have := reg_setKeys_other (v := v) h.lt hl' hn
    simpa [Wave.reg, hr] using this

/-- perLane computes what its function gives. -/
theorem perLane_does {i : Instr} {s : State} {b : Bundle} {x : Ctx} {v : Wave} {act : List Nat}
    (h : Passes i s b x v act) (f : Ctx → Wave → Nat → List (Nat × Word))
    (hf : ∀ l, ∀ p ∈ f x v l, ∀ q ∈ f x v l, p.1 = q.1 → p.2 = q.2) :
    ∃ t, perLane i s f = .next t ∧ Effect i s (s.noteSample b act) b x v act (f x v) (fun _ n => n) t := by
  refine ⟨_, issue_go h _, ?_⟩
  rw [h.ctx, h.wave']
  obtain ⟨aq, sk, ho⟩ := oneWave_pass (act := act) (i := i) h.ctx h.wave
  refine Effect.of h (u := (v.pass i b.run act s.nextId s.inFlight).setKeys (laneWrites act (f x v))) (aq := aq) (sk := sk) rfl rfl
    (fun l => ?_) (ho.setRegs _) ?_ ?_ hf
  · exact Wave.lane?_pass v i b.run act s.nextId s.inFlight l
  · exact cur_setRegs ..
  · exact (clock_setRegs ..).trans (pass_clock ..)

/-- An instruction given by perLane. -/
theorem does_perLane {i : Instr} {f : Ctx → Wave → Nat → List (Nat × Word)} (he : ∀ s, exec i s = perLane i s f)
    (hf : ∀ x v l, ∀ p ∈ f x v l, ∀ q ∈ f x v l, p.1 = q.1 → p.2 = q.2) :
    Does i (fun _ _ x v _ l => f x v l) fun _ _ _ _ n => n := fun s b x v act h => by
  rw [he]; exact perLane_does h f (hf x v)

/-- An instruction given by perLane, with its results in another form. -/
theorem computes_of {i : Instr} {f : Ctx → Wave → Nat → List (Nat × Word)} {g : Wave → Nat → List (Nat × Word)}
    (he : ∀ s, exec i s = perLane i s f) (hg : ∀ x v l, f x v l = g v l)
    (hf : ∀ v l, ∀ p ∈ g v l, ∀ q ∈ g v l, p.1 = q.1 → p.2 = q.2) : Computes i g := by
  have : f = fun _ v l => g v l := by funext x v l; exact hg x v l
  subst this
  exact does_perLane he fun _ v l => hf v l

/-- One result register. -/
theorem computes_one {i : Instr} {d : Nat} {f g : Wave → Nat → Word}
    (he : ∀ s, exec i s = perLane i s fun _ v l => [(d, f v l)]) (hg : ∀ v l, f v l = g v l) :
    Computes i fun v l => [(d, g v l)] := by
  refine computes_of he (fun _ v l => by rw [hg]) ?_
  rintro v l p hp q hq -
  simp only [List.mem_singleton] at hp hq
  rw [hp, hq]

/-! ### Flags -/

/-- The lanes of a wave after flags are ORed into their status words. -/
def orLanes (fs : List (Nat × Nat)) (ls : List (Nat × Lane)) : List (Nat × Lane) :=
  fs.foldl (fun m e => SMap.mapVals m fun l n =>
    if [e.1].contains l then { n with lsw := n.lsw ||| word (e.2 % 32) } else n) ls

theorem OneWave.orFlags {s o t : State} {c w : Nat} {x : Ctx} {u : Wave} (h : OneWave s o c w x u t) (fs : List (Nat × Nat)) :
    OneWave s o c w x { u with lanes := orLanes fs u.lanes } (t.orFlags c w fs) := by
  induction fs generalizing t u with
  | nil => exact h
  | cons e fs ih =>
    have h2 := h.modWave fun v => { v with lanes := orLanes [e] v.lanes }
    exact ih h2

@[simp] theorem cur_orFlags (s : State) (c w : Nat) (fs : List (Nat × Nat)) : (s.orFlags c w fs).cur = s.cur := by
  induction fs generalizing s with
  | nil => rfl
  | cons e fs ih => exact ih _

@[simp] theorem clock_orFlags (s : State) (c w : Nat) (fs : List (Nat × Nat)) : (s.orFlags c w fs).clock = s.clock := by
  induction fs generalizing s with
  | nil => rfl
  | cons e fs ih => exact ih _

/-- A lane after flags are ORed into the lanes of a list, each lane with its own flags. -/
theorem find?_orFlags (act : List Nat) (f : Nat → Nat) (ls : List (Nat × Lane)) (l : Nat) :
    SMap.find? (orLanes (act.map fun k => (k, f k)) ls) l =
    (SMap.find? ls l).map fun n => if l ∈ act then { n with lsw := n.lsw ||| word (f l % 32) } else n := by
  unfold orLanes
  induction act generalizing ls with
  | nil => simp
  | cons k act ih =>
    rw [List.map_cons, List.foldl_cons, ih, SMap.find?_mapVals, Option.map_map]
    congr 1
    funext n
    simp only [Function.comp, List.contains_cons, List.mem_cons]
    by_cases h : l = k
    · subst h
      by_cases h' : l ∈ act <;> simp [h', BitVec.or_assoc]
    · by_cases h' : l ∈ act <;> simp [h, h']

/-- perLaneFlags computes its results and ORs its flags into the lane status words, unless the quiet bit is set. -/
theorem perLaneFlags_does {i : Instr} {s : State} {b : Bundle} {x : Ctx} {v : Wave} {act : List Nat}
    (h : Passes i s b x v act) (q : Nat) (f : Wave → Nat → List (Nat × Word) × Nat)
    (hf : ∀ l, ∀ p ∈ (f v l).1, ∀ q ∈ (f v l).1, p.1 = q.1 → p.2 = q.2) :
    ∃ t, perLaneFlags i s q f = .next t ∧ Effect i s (s.noteSample b act) b x v act (fun l => (f v l).1)
      (fun l n => if q = 0 ∧ l ∈ act then { n with lsw := n.lsw ||| word ((f v l).2 % 32) } else n) t := by
  refine ⟨_, issue_go h _, ?_⟩
  rw [h.wave']
  obtain ⟨aq, sk, ho⟩ := oneWave_pass (act := act) (i := i) h.ctx h.wave
  have e1 : ((act.map fun l => (l, f v l)).flatMap fun (l, ws, _) => ws.map fun (r, y) => (32 * r + l, y)) =
      laneWrites act fun l => (f v l).1 := by simp [laneWrites, List.flatMap_map]
  have e2 : ((act.map fun l => (l, f v l)).map fun (l, _, fl) => (l, fl)) = act.map fun l => (l, (f v l).2) := by
    simp
  simp only [settle, e1, e2]
  have h1 := ho.setRegs (laneWrites act fun l => (f v l).1)
  by_cases hq : q = 0
  · subst hq
    simp only [if_true, true_and]
    have h2 := h1.orFlags (act.map fun l => (l, (f v l).2))
    generalize hp : v.pass i b.run act s.nextId s.inFlight = u at h2
    refine Effect.of h (aq := aq) (sk := sk) (u := { u with
      regs := (u.setKeys (laneWrites act fun l => (f v l).1)).regs
      lanes := orLanes (act.map fun l => (l, (f v l).2)) u.lanes }) ?_ ?_ (fun l => ?_) h2 ?_ ?_ hf
    · subst hp; rfl
    · subst hp; rfl
    · subst hp
      refine (find?_orFlags act (fun l => (f v l).2) _ l).trans ?_
      refine (congrArg _ (Wave.lane?_pass v i b.run act s.nextId s.inFlight l)).trans ?_
      exact Option.map_map ..
    · rw [cur_orFlags, cur_setRegs, pass_cur]
    · rw [clock_orFlags, clock_setRegs, pass_clock]
  · simp only [hq, if_false, false_and]
    refine Effect.of h (u := (v.pass i b.run act s.nextId s.inFlight).setKeys (laneWrites act fun l => (f v l).1)) (aq := aq) (sk := sk)
      rfl rfl (fun l => ?_) h1 ?_ ?_ hf
    · exact Wave.lane?_pass v i b.run act s.nextId s.inFlight l
    · rw [cur_setRegs, pass_cur]
    · rw [clock_setRegs, pass_clock]

/-- perTile writes a value formed over the participants. -/
theorem perTile_does {i : Instr} {s : State} {b : Bundle} {x : Ctx} {v : Wave} {act : List Nat}
    (h : Passes i s b x v act) (d : Nat) (f : Wave → List Nat → Nat → Word) :
    ∃ t, perTile i s d f = .next t ∧
      Effect i s (s.noteSample b act) b x v act (fun l => [(d, f v (participants v act l) l)]) (fun _ n => n) t := by
  refine ⟨_, issue_go h _, ?_⟩
  rw [h.wave']
  obtain ⟨aq, sk, ho⟩ := oneWave_pass (act := act) (i := i) h.ctx h.wave
  have e1 : (act.map fun l => (32 * d + l, f v (participants v act l) l)) =
      laneWrites act fun l => [(d, f v (participants v act l) l)] := by
    simp [laneWrites, ← List.map_eq_flatMap]
  simp only [settle, e1]
  refine Effect.of h (u := (v.pass i b.run act s.nextId s.inFlight).setKeys _) (aq := aq) (sk := sk) rfl rfl
    (fun l => ?_) (ho.setRegs _) ?_ ?_ ?_
  · exact Wave.lane?_pass v i b.run act s.nextId s.inFlight l
  · exact cur_setRegs ..
  · exact (clock_setRegs ..).trans (pass_clock ..)
  · rintro l p hp q hq -
    simp only [List.mem_singleton] at hp hq
    rw [hp, hq]

end Sys2Proof.Machine
end

