-- ==== Sys2Proof/Laws/PerInstr.lean ====
section
/-! SUPPORT. PerInstr.lean: statements made per instruction. Layout: a well-formed instruction fills the bytes of its length, its
first bits tell that length, and an event of the machine is no instruction of the stream (R207, R208, R210, R211). -/
set_option Elab.async false
set_option linter.unusedSimpArgs false
namespace Sys2Proof.Laws

/-- A well-formed instruction is not an event, its word fits the bits of its length, and the word tells the length. -/
def Layout.Statement (i : Instr) : Prop :=
  (i.wellFormed = true → i.isEvent = false ∧ encode i < 2 ^ (8 * i.length) ∧ lengthOf (encode i) = i.length) ∧
    (i.isEvent = true → i.wellFormed = false)

/-- The length that a word tells by its low byte. -/
theorem lengthOf_low {w : Nat} (k : Nat) (h : w % 256 = k) : lengthOf w = lengthOf k := by
  have h1 : k % 2 = w % 2 := by omega
  have h2 : bits k 7 1 = bits w 7 1 := by simp only [bits]; omega
  simp only [lengthOf, h1, h2]

/-- A halfword whose bit 0 is clear is an instruction of its own. -/
theorem lengthOf_even {w : Nat} (h : w % 2 = 0) : lengthOf w = 2 := by simp only [lengthOf, h, if_true]

/-- The statement from its parts. -/
theorem Layout.of {i : Instr} {p : Bool} {w n : Nat} (hp : i.fits = p) (hw : encode i = w) (hn : i.length = n)
    (he : i.isEvent = false) (hb : p = true → w < 2 ^ (8 * n)) (hl : lengthOf w = n) : Layout.Statement i := by
  subst hp hw hn
  refine ⟨fun h => ⟨he, hb (Bool.and_eq_true_iff.1 h).1, hl⟩, fun h => by rw [he] at h; cases h⟩

/-- The statement of an event. -/
theorem Layout.ofEvent {i : Instr} (h : i.wellFormed = false) : Layout.Statement i :=
  ⟨fun g => absurd g (by simp [h]), fun _ => h⟩

theorem Layout.movS (d b : Nat) : Layout.Statement (.movS d b) :=
  Layout.of (p := fit d 5 && fit b 5)
    (w := 0 + d * 0x20 + b * 0x400) (n := 2) rfl rfl rfl rfl
    (fun h => by simp only [fit, Bool.and_eq_true, decide_eq_true_eq] at h; omega) (lengthOf_even (by omega))
theorem Layout.addS (d b : Nat) : Layout.Statement (.addS d b) :=
  Layout.of (p := fit d 5 && fit b 5)
    (w := 2 + d * 0x20 + b * 0x400) (n := 2) rfl rfl rfl rfl
    (fun h => by simp only [fit, Bool.and_eq_true, decide_eq_true_eq] at h; omega) (lengthOf_even (by omega))
theorem Layout.subS (d b : Nat) : Layout.Statement (.subS d b) :=
  Layout.of (p := fit d 5 && fit b 5)
    (w := 4 + d * 0x20 + b * 0x400) (n := 2) rfl rfl rfl rfl
    (fun h => by simp only [fit, Bool.and_eq_true, decide_eq_true_eq] at h; omega) (lengthOf_even (by omega))
theorem Layout.andS (d b : Nat) : Layout.Statement (.andS d b) :=
  Layout.of (p := fit d 5 && fit b 5)
    (w := 6 + d * 0x20 + b * 0x400) (n := 2) rfl rfl rfl rfl
    (fun h => by simp only [fit, Bool.and_eq_true, decide_eq_true_eq] at h; omega) (lengthOf_even (by omega))
theorem Layout.orS (d b : Nat) : Layout.Statement (.orS d b) :=
  Layout.of (p := fit d 5 && fit b 5)
    (w := 8 + d * 0x20 + b * 0x400) (n := 2) rfl rfl rfl rfl
    (fun h => by simp only [fit, Bool.and_eq_true, decide_eq_true_eq] at h; omega) (lengthOf_even (by omega))
theorem Layout.xorS (d b : Nat) : Layout.Statement (.xorS d b) :=
  Layout.of (p := fit d 5 && fit b 5)
    (w := 0xA + d * 0x20 + b * 0x400) (n := 2) rfl rfl rfl rfl
    (fun h => by simp only [fit, Bool.and_eq_true, decide_eq_true_eq] at h; omega) (lengthOf_even (by omega))
theorem Layout.shlS (d b : Nat) : Layout.Statement (.shlS d b) :=
  Layout.of (p := fit d 5 && fit b 5)
    (w := 0xC + d * 0x20 + b * 0x400) (n := 2) rfl rfl rfl rfl
    (fun h => by simp only [fit, Bool.and_eq_true, decide_eq_true_eq] at h; omega) (lengthOf_even (by omega))
theorem Layout.shrS (d b : Nat) : Layout.Statement (.shrS d b) :=
  Layout.of (p := fit d 5 && fit b 5)
    (w := 0xE + d * 0x20 + b * 0x400) (n := 2) rfl rfl rfl rfl
    (fun h => by simp only [fit, Bool.and_eq_true, decide_eq_true_eq] at h; omega) (lengthOf_even (by omega))
theorem Layout.sarS (d b : Nat) : Layout.Statement (.sarS d b) :=
  Layout.of (p := fit d 5 && fit b 5)
    (w := 0x10 + d * 0x20 + b * 0x400) (n := 2) rfl rfl rfl rfl
    (fun h => by simp only [fit, Bool.and_eq_true, decide_eq_true_eq] at h; omega) (lengthOf_even (by omega))
theorem Layout.mul24S (d b : Nat) : Layout.Statement (.mul24S d b) :=
  Layout.of (p := fit d 5 && fit b 5)
    (w := 0x12 + d * 0x20 + b * 0x400) (n := 2) rfl rfl rfl rfl
    (fun h => by simp only [fit, Bool.and_eq_true, decide_eq_true_eq] at h; omega) (lengthOf_even (by omega))
theorem Layout.faddS (d b q : Nat) : Layout.Statement (.faddS d b q) :=
  Layout.of (p := fit d 5 && fit b 5 && fit q 1)
    (w := 0x14 + d * 0x20 + b * 0x400 + q * 0x8000) (n := 2) rfl rfl rfl rfl
    (fun h => by simp only [fit, Bool.and_eq_true, decide_eq_true_eq] at h; omega) (lengthOf_even (by omega))
theorem Layout.fsubS (d b q : Nat) : Layout.Statement (.fsubS d b q) :=
  Layout.of (p := fit d 5 && fit b 5 && fit q 1)
    (w := 0x16 + d * 0x20 + b * 0x400 + q * 0x8000) (n := 2) rfl rfl rfl rfl
    (fun h => by simp only [fit, Bool.and_eq_true, decide_eq_true_eq] at h; omega) (lengthOf_even (by omega))
theorem Layout.fmulS (d b q : Nat) : Layout.Statement (.fmulS d b q) :=
  Layout.of (p := fit d 5 && fit b 5 && fit q 1)
    (w := 0x18 + d * 0x20 + b * 0x400 + q * 0x8000) (n := 2) rfl rfl rfl rfl
    (fun h => by simp only [fit, Bool.and_eq_true, decide_eq_true_eq] at h; omega) (lengthOf_even (by omega))
theorem Layout.fminS (d b q : Nat) : Layout.Statement (.fminS d b q) :=
  Layout.of (p := fit d 5 && fit b 5 && fit q 1)
    (w := 0x1A + d * 0x20 + b * 0x400 + q * 0x8000) (n := 2) rfl rfl rfl rfl
    (fun h => by simp only [fit, Bool.and_eq_true, decide_eq_true_eq] at h; omega) (lengthOf_even (by omega))
theorem Layout.fmaxS (d b q : Nat) : Layout.Statement (.fmaxS d b q) :=
  Layout.of (p := fit d 5 && fit b 5 && fit q 1)
    (w := 0x1C + d * 0x20 + b * 0x400 + q * 0x8000) (n := 2) rfl rfl rfl rfl
    (fun h => by simp only [fit, Bool.and_eq_true, decide_eq_true_eq] at h; omega) (lengthOf_even (by omega))
theorem Layout.setlt (d b : Nat) : Layout.Statement (.setlt d b) :=
  Layout.of (p := fit d 5 && fit b 5)
    (w := 0x1E + d * 0x20 + b * 0x400) (n := 2) rfl rfl rfl rfl
    (fun h => by simp only [fit, Bool.and_eq_true, decide_eq_true_eq] at h; omega) (lengthOf_even (by omega))
theorem Layout.nop : Layout.Statement .nop := ⟨fun _ => by decide, fun h => by cases h⟩
theorem Layout.guard (c n s : Nat) : Layout.Statement (.guard c n s) :=
  Layout.of (p := fit c 7 && fit n 2 && fit s 1)
    (w := 5 + c * 0x100 + n * 0x400000 + s * 0x1000000) (n := 4) rfl rfl rfl rfl
    (fun h => by simp only [fit, Bool.and_eq_true, decide_eq_true_eq] at h; omega) ((lengthOf_low 5 (by omega)).trans rfl)
theorem Layout.mov (d b : Nat) : Layout.Statement (.mov d b) :=
  Layout.of (p := fit d 7 && fit b 7)
    (w := 7 + d * 0x100 + b * 0x400000) (n := 4) rfl rfl rfl rfl
    (fun h => by simp only [fit, Bool.and_eq_true, decide_eq_true_eq] at h; omega) ((lengthOf_low 7 (by omega)).trans rfl)
theorem Layout.movi (d imm : Nat) : Layout.Statement (.movi d imm) :=
  Layout.of (p := fit d 7 && fit imm 32)
    (w := 0x09 + d * 0x100 + imm * 0x100000000) (n := 8) rfl rfl rfl rfl
    (fun h => by simp only [fit, Bool.and_eq_true, decide_eq_true_eq] at h; omega) ((lengthOf_low 9 (by omega)).trans rfl)
theorem Layout.addImm (d a i : Nat) : Layout.Statement (.addImm d a i) :=
  Layout.of (p := fit d 7 && fit a 7 && fit i 10)
    (w := 0xB + d * 0x100 + a * 0x8000 + i * 0x400000) (n := 4) rfl rfl rfl rfl
    (fun h => by simp only [fit, Bool.and_eq_true, decide_eq_true_eq] at h; omega) ((lengthOf_low 11 (by omega)).trans rfl)
theorem Layout.part (p : Nat) : Layout.Statement (.part p) :=
  Layout.of (p := fit p 3)
    (w := 0xD + p * 0x400000) (n := 4) rfl rfl rfl rfl
    (fun h => by simp only [fit, Bool.and_eq_true, decide_eq_true_eq] at h; omega) ((lengthOf_low 13 (by omega)).trans rfl)
theorem Layout.yield : Layout.Statement .yield := ⟨fun _ => by decide, fun h => by cases h⟩
theorem Layout.exit : Layout.Statement .exit := ⟨fun _ => by decide, fun h => by cases h⟩
theorem Layout.trap (n : Nat) : Layout.Statement (.trap n) :=
  Layout.of (p := fit n 10)
    (w := 0x13 + n * 0x400000) (n := 4) rfl rfl rfl rfl
    (fun h => by simp only [fit, Bool.and_eq_true, decide_eq_true_eq] at h; omega) ((lengthOf_low 19 (by omega)).trans rfl)
theorem Layout.brk (n : Nat) : Layout.Statement (.brk n) :=
  Layout.of (p := fit n 10)
    (w := 0x15 + n * 0x400000) (n := 4) rfl rfl rfl rfl
    (fun h => by simp only [fit, Bool.and_eq_true, decide_eq_true_eq] at h; omega) ((lengthOf_low 21 (by omega)).trans rfl)
theorem Layout.barSync (n : Nat) : Layout.Statement (.barSync n) :=
  Layout.of (p := fit n 4)
    (w := 0x17 + n * 0x400000) (n := 4) rfl rfl rfl rfl
    (fun h => by simp only [fit, Bool.and_eq_true, decide_eq_true_eq] at h; omega) ((lengthOf_low 23 (by omega)).trans rfl)
theorem Layout.barArrive (n : Nat) : Layout.Statement (.barArrive n) :=
  Layout.of (p := fit n 4)
    (w := 0x4000017 + n * 0x400000) (n := 4) rfl rfl rfl rfl
    (fun h => by simp only [fit, Bool.and_eq_true, decide_eq_true_eq] at h; omega) ((lengthOf_low 23 (by omega)).trans rfl)
theorem Layout.bra (c o : Nat) : Layout.Statement (.bra c o) :=
  Layout.of (p := fit c 7 && fit o 17)
    (w := 0x19 + c * 0x100 + o * 0x8000) (n := 4) rfl rfl rfl rfl
    (fun h => by simp only [fit, Bool.and_eq_true, decide_eq_true_eq] at h; omega) ((lengthOf_low 25 (by omega)).trans rfl)
theorem Layout.braZ (c o : Nat) : Layout.Statement (.braZ c o) :=
  Layout.of (p := fit c 7 && fit o 17)
    (w := 0x1B + c * 0x100 + o * 0x8000) (n := 4) rfl rfl rfl rfl
    (fun h => by simp only [fit, Bool.and_eq_true, decide_eq_true_eq] at h; omega) ((lengthOf_low 27 (by omega)).trans rfl)
theorem Layout.jmp (c off : Nat) : Layout.Statement (.jmp c off) :=
  Layout.of (p := fit c 7 && fit off 32)
    (w := 0x1D + c * 0x100 + off * 0x100000000) (n := 8) rfl rfl rfl rfl
    (fun h => by simp only [fit, Bool.and_eq_true, decide_eq_true_eq] at h; omega) ((lengthOf_low 29 (by omega)).trans rfl)
theorem Layout.call (c o : Nat) : Layout.Statement (.call c o) :=
  Layout.of (p := fit c 7 && fit o 17)
    (w := 0x1F + c * 0x100 + o * 0x8000) (n := 4) rfl rfl rfl rfl
    (fun h => by simp only [fit, Bool.and_eq_true, decide_eq_true_eq] at h; omega) ((lengthOf_low 31 (by omega)).trans rfl)
theorem Layout.jmpr (a : Nat) : Layout.Statement (.jmpr a) :=
  Layout.of (p := fit a 7)
    (w := 0x21 + a * 0x8000) (n := 4) rfl rfl rfl rfl
    (fun h => by simp only [fit, Bool.and_eq_true, decide_eq_true_eq] at h; omega) ((lengthOf_low 33 (by omega)).trans rfl)
theorem Layout.callr (d a : Nat) : Layout.Statement (.callr d a) :=
  Layout.of (p := fit d 7 && fit a 7)
    (w := 0x23 + d * 0x100 + a * 0x8000) (n := 4) rfl rfl rfl rfl
    (fun h => by simp only [fit, Bool.and_eq_true, decide_eq_true_eq] at h; omega) ((lengthOf_low 35 (by omega)).trans rfl)
theorem Layout.ret (a : Nat) : Layout.Statement (.ret a) :=
  Layout.of (p := fit a 7)
    (w := 0x25 + a * 0x8000) (n := 4) rfl rfl rfl rfl
    (fun h => by simp only [fit, Bool.and_eq_true, decide_eq_true_eq] at h; omega) ((lengthOf_low 37 (by omega)).trans rfl)
theorem Layout.sreg (d i : Nat) : Layout.Statement (.sreg d i) :=
  Layout.of (p := fit d 7 && fit i 10)
    (w := 0x27 + d * 0x100 + i * 0x400000) (n := 4) rfl rfl rfl rfl
    (fun h => by simp only [fit, Bool.and_eq_true, decide_eq_true_eq] at h; omega) ((lengthOf_low 39 (by omega)).trans rfl)
theorem Layout.add (d a b : Nat) : Layout.Statement (.add d a b) :=
  Layout.of (p := fit d 7 && fit a 7 && fit b 7)
    (w := 0x29 + d * 0x100 + a * 0x8000 + b * 0x400000) (n := 4) rfl rfl rfl rfl
    (fun h => by simp only [fit, Bool.and_eq_true, decide_eq_true_eq] at h; omega) ((lengthOf_low 41 (by omega)).trans rfl)
theorem Layout.sub (d a b : Nat) : Layout.Statement (.sub d a b) :=
  Layout.of (p := fit d 7 && fit a 7 && fit b 7)
    (w := 0x20000029 + d * 0x100 + a * 0x8000 + b * 0x400000) (n := 4) rfl rfl rfl rfl
    (fun h => by simp only [fit, Bool.and_eq_true, decide_eq_true_eq] at h; omega) ((lengthOf_low 41 (by omega)).trans rfl)
theorem Layout.addc (d a b : Nat) : Layout.Statement (.addc d a b) :=
  Layout.of (p := fit d 7 && fit a 7 && fit b 7)
    (w := 0x40000029 + d * 0x100 + a * 0x8000 + b * 0x400000) (n := 4) rfl rfl rfl rfl
    (fun h => by simp only [fit, Bool.and_eq_true, decide_eq_true_eq] at h; omega) ((lengthOf_low 41 (by omega)).trans rfl)
theorem Layout.subb (d a b : Nat) : Layout.Statement (.subb d a b) :=
  Layout.of (p := fit d 7 && fit a 7 && fit b 7)
    (w := 0x60000029 + d * 0x100 + a * 0x8000 + b * 0x400000) (n := 4) rfl rfl rfl rfl
    (fun h => by simp only [fit, Bool.and_eq_true, decide_eq_true_eq] at h; omega) ((lengthOf_low 41 (by omega)).trans rfl)
theorem Layout.neg (d a : Nat) : Layout.Statement (.neg d a) :=
  Layout.of (p := fit d 7 && fit a 7)
    (w := 0x80000029 + d * 0x100 + a * 0x8000) (n := 4) rfl rfl rfl rfl
    (fun h => by simp only [fit, Bool.and_eq_true, decide_eq_true_eq] at h; omega) ((lengthOf_low 41 (by omega)).trans rfl)
theorem Layout.abs (d a : Nat) : Layout.Statement (.abs d a) :=
  Layout.of (p := fit d 7 && fit a 7)
    (w := 0xA0000029 + d * 0x100 + a * 0x8000) (n := 4) rfl rfl rfl rfl
    (fun h => by simp only [fit, Bool.and_eq_true, decide_eq_true_eq] at h; omega) ((lengthOf_low 41 (by omega)).trans rfl)
theorem Layout.min (d a b t : Nat) : Layout.Statement (.min d a b t) :=
  Layout.of (p := fit d 7 && fit a 7 && fit b 7 && fit t 1)
    (w := 0x2B + d * 0x100 + a * 0x8000 + b * 0x400000 + t * 0x20000000) (n := 4) rfl rfl rfl rfl
    (fun h => by simp only [fit, Bool.and_eq_true, decide_eq_true_eq] at h; omega) ((lengthOf_low 43 (by omega)).trans rfl)
theorem Layout.max (d a b t : Nat) : Layout.Statement (.max d a b t) :=
  Layout.of (p := fit d 7 && fit a 7 && fit b 7 && fit t 1)
    (w := 0x4000002B + d * 0x100 + a * 0x8000 + b * 0x400000 + t * 0x20000000) (n := 4) rfl rfl rfl rfl
    (fun h => by simp only [fit, Bool.and_eq_true, decide_eq_true_eq] at h; omega) ((lengthOf_low 43 (by omega)).trans rfl)
theorem Layout.and (d a b : Nat) : Layout.Statement (.and d a b) :=
  Layout.of (p := fit d 7 && fit a 7 && fit b 7)
    (w := 0x2D + d * 0x100 + a * 0x8000 + b * 0x400000) (n := 4) rfl rfl rfl rfl
    (fun h => by simp only [fit, Bool.and_eq_true, decide_eq_true_eq] at h; omega) ((lengthOf_low 45 (by omega)).trans rfl)
theorem Layout.or (d a b : Nat) : Layout.Statement (.or d a b) :=
  Layout.of (p := fit d 7 && fit a 7 && fit b 7)
    (w := 0x2000002D + d * 0x100 + a * 0x8000 + b * 0x400000) (n := 4) rfl rfl rfl rfl
    (fun h => by simp only [fit, Bool.and_eq_true, decide_eq_true_eq] at h; omega) ((lengthOf_low 45 (by omega)).trans rfl)
theorem Layout.xor (d a b : Nat) : Layout.Statement (.xor d a b) :=
  Layout.of (p := fit d 7 && fit a 7 && fit b 7)
    (w := 0x4000002D + d * 0x100 + a * 0x8000 + b * 0x400000) (n := 4) rfl rfl rfl rfl
    (fun h => by simp only [fit, Bool.and_eq_true, decide_eq_true_eq] at h; omega) ((lengthOf_low 45 (by omega)).trans rfl)
theorem Layout.andn (d a b : Nat) : Layout.Statement (.andn d a b) :=
  Layout.of (p := fit d 7 && fit a 7 && fit b 7)
    (w := 0x6000002D + d * 0x100 + a * 0x8000 + b * 0x400000) (n := 4) rfl rfl rfl rfl
    (fun h => by simp only [fit, Bool.and_eq_true, decide_eq_true_eq] at h; omega) ((lengthOf_low 45 (by omega)).trans rfl)
theorem Layout.not (d a : Nat) : Layout.Statement (.not d a) :=
  Layout.of (p := fit d 7 && fit a 7)
    (w := 0x8000002D + d * 0x100 + a * 0x8000) (n := 4) rfl rfl rfl rfl
    (fun h => by simp only [fit, Bool.and_eq_true, decide_eq_true_eq] at h; omega) ((lengthOf_low 45 (by omega)).trans rfl)
theorem Layout.shl (d a b : Nat) : Layout.Statement (.shl d a b) :=
  Layout.of (p := fit d 7 && fit a 7 && fit b 7)
    (w := 0x2F + d * 0x100 + a * 0x8000 + b * 0x400000) (n := 4) rfl rfl rfl rfl
    (fun h => by simp only [fit, Bool.and_eq_true, decide_eq_true_eq] at h; omega) ((lengthOf_low 47 (by omega)).trans rfl)
theorem Layout.shr (d a b : Nat) : Layout.Statement (.shr d a b) :=
  Layout.of (p := fit d 7 && fit a 7 && fit b 7)
    (w := 0x2000002F + d * 0x100 + a * 0x8000 + b * 0x400000) (n := 4) rfl rfl rfl rfl
    (fun h => by simp only [fit, Bool.and_eq_true, decide_eq_true_eq] at h; omega) ((lengthOf_low 47 (by omega)).trans rfl)
theorem Layout.sar (d a b : Nat) : Layout.Statement (.sar d a b) :=
  Layout.of (p := fit d 7 && fit a 7 && fit b 7)
    (w := 0x4000002F + d * 0x100 + a * 0x8000 + b * 0x400000) (n := 4) rfl rfl rfl rfl
    (fun h => by simp only [fit, Bool.and_eq_true, decide_eq_true_eq] at h; omega) ((lengthOf_low 47 (by omega)).trans rfl)
theorem Layout.rol (d a b : Nat) : Layout.Statement (.rol d a b) :=
  Layout.of (p := fit d 7 && fit a 7 && fit b 7)
    (w := 0x6000002F + d * 0x100 + a * 0x8000 + b * 0x400000) (n := 4) rfl rfl rfl rfl
    (fun h => by simp only [fit, Bool.and_eq_true, decide_eq_true_eq] at h; omega) ((lengthOf_low 47 (by omega)).trans rfl)
theorem Layout.ror (d a b : Nat) : Layout.Statement (.ror d a b) :=
  Layout.of (p := fit d 7 && fit a 7 && fit b 7)
    (w := 0x8000002F + d * 0x100 + a * 0x8000 + b * 0x400000) (n := 4) rfl rfl rfl rfl
    (fun h => by simp only [fit, Bool.and_eq_true, decide_eq_true_eq] at h; omega) ((lengthOf_low 47 (by omega)).trans rfl)
theorem Layout.shlImm (d a c : Nat) : Layout.Statement (.shlImm d a c) :=
  Layout.of (p := fit d 7 && fit a 7 && fit c 5)
    (w := 0x31 + d * 0x100 + a * 0x8000 + c * 0x400000) (n := 4) rfl rfl rfl rfl
    (fun h => by simp only [fit, Bool.and_eq_true, decide_eq_true_eq] at h; omega) ((lengthOf_low 49 (by omega)).trans rfl)
theorem Layout.shrImm (d a c : Nat) : Layout.Statement (.shrImm d a c) :=
  Layout.of (p := fit d 7 && fit a 7 && fit c 5)
    (w := 0x8000031 + d * 0x100 + a * 0x8000 + c * 0x400000) (n := 4) rfl rfl rfl rfl
    (fun h => by simp only [fit, Bool.and_eq_true, decide_eq_true_eq] at h; omega) ((lengthOf_low 49 (by omega)).trans rfl)
theorem Layout.sarImm (d a c : Nat) : Layout.Statement (.sarImm d a c) :=
  Layout.of (p := fit d 7 && fit a 7 && fit c 5)
    (w := 0x10000031 + d * 0x100 + a * 0x8000 + c * 0x400000) (n := 4) rfl rfl rfl rfl
    (fun h => by simp only [fit, Bool.and_eq_true, decide_eq_true_eq] at h; omega) ((lengthOf_low 49 (by omega)).trans rfl)
theorem Layout.rolImm (d a c : Nat) : Layout.Statement (.rolImm d a c) :=
  Layout.of (p := fit d 7 && fit a 7 && fit c 5)
    (w := 0x18000031 + d * 0x100 + a * 0x8000 + c * 0x400000) (n := 4) rfl rfl rfl rfl
    (fun h => by simp only [fit, Bool.and_eq_true, decide_eq_true_eq] at h; omega) ((lengthOf_low 49 (by omega)).trans rfl)
theorem Layout.rorImm (d a c : Nat) : Layout.Statement (.rorImm d a c) :=
  Layout.of (p := fit d 7 && fit a 7 && fit c 5)
    (w := 0x20000031 + d * 0x100 + a * 0x8000 + c * 0x400000) (n := 4) rfl rfl rfl rfl
    (fun h => by simp only [fit, Bool.and_eq_true, decide_eq_true_eq] at h; omega) ((lengthOf_low 49 (by omega)).trans rfl)
theorem Layout.mul24 (d a b t h : Nat) : Layout.Statement (.mul24 d a b t h) :=
  Layout.of (p := fit d 7 && fit a 7 && fit b 7 && fit t 1 && fit h 1)
    (w := 0x33 + d * 0x100 + a * 0x8000 + b * 0x400000 + t * 0x20000000 + h * 0x40000000) (n := 4) rfl rfl rfl rfl
    (fun h => by simp only [fit, Bool.and_eq_true, decide_eq_true_eq] at h; omega) ((lengthOf_low 51 (by omega)).trans rfl)
theorem Layout.mad24 (d a b t h : Nat) : Layout.Statement (.mad24 d a b t h) :=
  Layout.of (p := fit d 7 && fit a 7 && fit b 7 && fit t 1 && fit h 1)
    (w := 0x35 + d * 0x100 + a * 0x8000 + b * 0x400000 + t * 0x20000000 + h * 0x40000000) (n := 4) rfl rfl rfl rfl
    (fun h => by simp only [fit, Bool.and_eq_true, decide_eq_true_eq] at h; omega) ((lengthOf_low 53 (by omega)).trans rfl)
theorem Layout.mul32 (d a b t h : Nat) : Layout.Statement (.mul32 d a b t h) :=
  Layout.of (p := fit d 7 && fit a 7 && fit b 7 && fit t 1 && fit h 1)
    (w := 0x37 + d * 0x100 + a * 0x8000 + b * 0x400000 + t * 0x20000000 + h * 0x40000000) (n := 4) rfl rfl rfl rfl
    (fun h => by simp only [fit, Bool.and_eq_true, decide_eq_true_eq] at h; omega) ((lengthOf_low 55 (by omega)).trans rfl)
theorem Layout.mad32 (d a b t h : Nat) : Layout.Statement (.mad32 d a b t h) :=
  Layout.of (p := fit d 7 && fit a 7 && fit b 7 && fit t 1 && fit h 1)
    (w := 0x39 + d * 0x100 + a * 0x8000 + b * 0x400000 + t * 0x20000000 + h * 0x40000000) (n := 4) rfl rfl rfl rfl
    (fun h => by simp only [fit, Bool.and_eq_true, decide_eq_true_eq] at h; omega) ((lengthOf_low 57 (by omega)).trans rfl)
theorem Layout.div (d a b t : Nat) : Layout.Statement (.div d a b t) :=
  Layout.of (p := fit d 7 && fit a 7 && fit b 7 && fit t 1)
    (w := 0x3B + d * 0x100 + a * 0x8000 + b * 0x400000 + t * 0x20000000) (n := 4) rfl rfl rfl rfl
    (fun h => by simp only [fit, Bool.and_eq_true, decide_eq_true_eq] at h; omega) ((lengthOf_low 59 (by omega)).trans rfl)
theorem Layout.rem (d a b t : Nat) : Layout.Statement (.rem d a b t) :=
  Layout.of (p := fit d 7 && fit a 7 && fit b 7 && fit t 1)
    (w := 0x4000003B + d * 0x100 + a * 0x8000 + b * 0x400000 + t * 0x20000000) (n := 4) rfl rfl rfl rfl
    (fun h => by simp only [fit, Bool.and_eq_true, decide_eq_true_eq] at h; omega) ((lengthOf_low 59 (by omega)).trans rfl)
theorem Layout.popc (d a : Nat) : Layout.Statement (.popc d a) :=
  Layout.of (p := fit d 7 && fit a 7)
    (w := 0x3D + d * 0x100 + a * 0x8000) (n := 4) rfl rfl rfl rfl
    (fun h => by simp only [fit, Bool.and_eq_true, decide_eq_true_eq] at h; omega) ((lengthOf_low 61 (by omega)).trans rfl)
theorem Layout.clz (d a : Nat) : Layout.Statement (.clz d a) :=
  Layout.of (p := fit d 7 && fit a 7)
    (w := 0x2000003D + d * 0x100 + a * 0x8000) (n := 4) rfl rfl rfl rfl
    (fun h => by simp only [fit, Bool.and_eq_true, decide_eq_true_eq] at h; omega) ((lengthOf_low 61 (by omega)).trans rfl)
theorem Layout.ctz (d a : Nat) : Layout.Statement (.ctz d a) :=
  Layout.of (p := fit d 7 && fit a 7)
    (w := 0x4000003D + d * 0x100 + a * 0x8000) (n := 4) rfl rfl rfl rfl
    (fun h => by simp only [fit, Bool.and_eq_true, decide_eq_true_eq] at h; omega) ((lengthOf_low 61 (by omega)).trans rfl)
theorem Layout.brev (d a : Nat) : Layout.Statement (.brev d a) :=
  Layout.of (p := fit d 7 && fit a 7)
    (w := 0x6000003D + d * 0x100 + a * 0x8000) (n := 4) rfl rfl rfl rfl
    (fun h => by simp only [fit, Bool.and_eq_true, decide_eq_true_eq] at h; omega) ((lengthOf_low 61 (by omega)).trans rfl)
theorem Layout.bfeN32 (d a n p : Nat) : Layout.Statement (.bfeN32 d a n p) :=
  Layout.of (p := fit d 7 && fit a 7 && fit n 5 && fit p 5)
    (w := 0x3F + d * 0x100 + a * 0x8000 + p * 0x400000 + n * 0x8000000) (n := 4) rfl rfl rfl rfl
    (fun h => by simp only [fit, Bool.and_eq_true, decide_eq_true_eq] at h; omega) ((lengthOf_low 63 (by omega)).trans rfl)
theorem Layout.bfeS32 (d a n p : Nat) : Layout.Statement (.bfeS32 d a n p) :=
  Layout.of (p := fit d 7 && fit a 7 && fit n 5 && fit p 5)
    (w := 0x41 + d * 0x100 + a * 0x8000 + p * 0x400000 + n * 0x8000000) (n := 4) rfl rfl rfl rfl
    (fun h => by simp only [fit, Bool.and_eq_true, decide_eq_true_eq] at h; omega) ((lengthOf_low 65 (by omega)).trans rfl)
theorem Layout.bfi (d a n p : Nat) : Layout.Statement (.bfi d a n p) :=
  Layout.of (p := fit d 7 && fit a 7 && fit n 5 && fit p 5)
    (w := 0x43 + d * 0x100 + a * 0x8000 + p * 0x400000 + n * 0x8000000) (n := 4) rfl rfl rfl rfl
    (fun h => by simp only [fit, Bool.and_eq_true, decide_eq_true_eq] at h; omega) ((lengthOf_low 67 (by omega)).trans rfl)
theorem Layout.bsel (d a b : Nat) : Layout.Statement (.bsel d a b) :=
  Layout.of (p := fit d 7 && fit a 7 && fit b 7)
    (w := 0x45 + d * 0x100 + a * 0x8000 + b * 0x400000) (n := 4) rfl rfl rfl rfl
    (fun h => by simp only [fit, Bool.and_eq_true, decide_eq_true_eq] at h; omega) ((lengthOf_low 69 (by omega)).trans rfl)
theorem Layout.bgath (d a b : Nat) : Layout.Statement (.bgath d a b) :=
  Layout.of (p := fit d 7 && fit a 7 && fit b 7)
    (w := 0x47 + d * 0x100 + a * 0x8000 + b * 0x400000) (n := 4) rfl rfl rfl rfl
    (fun h => by simp only [fit, Bool.and_eq_true, decide_eq_true_eq] at h; omega) ((lengthOf_low 71 (by omega)).trans rfl)
theorem Layout.lea (d a b s : Nat) : Layout.Statement (.lea d a b s) :=
  Layout.of (p := fit d 7 && fit a 7 && fit b 7 && fit s 3)
    (w := 0x49 + d * 0x100 + a * 0x8000 + b * 0x400000 + s * 0x20000000) (n := 4) rfl rfl rfl rfl
    (fun h => by simp only [fit, Bool.and_eq_true, decide_eq_true_eq] at h; omega) ((lengthOf_low 73 (by omega)).trans rfl)
theorem Layout.add64 (d a b : Nat) : Layout.Statement (.add64 d a b) :=
  Layout.of (p := fit d 7 && fit a 7 && fit b 7)
    (w := 0x4B + d * 0x100 + a * 0x8000 + b * 0x400000) (n := 4) rfl rfl rfl rfl
    (fun h => by simp only [fit, Bool.and_eq_true, decide_eq_true_eq] at h; omega) ((lengthOf_low 75 (by omega)).trans rfl)
theorem Layout.sub64 (d a b : Nat) : Layout.Statement (.sub64 d a b) :=
  Layout.of (p := fit d 7 && fit a 7 && fit b 7)
    (w := 0x2000004B + d * 0x100 + a * 0x8000 + b * 0x400000) (n := 4) rfl rfl rfl rfl
    (fun h => by simp only [fit, Bool.and_eq_true, decide_eq_true_eq] at h; omega) ((lengthOf_low 75 (by omega)).trans rfl)
theorem Layout.shl64 (d a b : Nat) : Layout.Statement (.shl64 d a b) :=
  Layout.of (p := fit d 7 && fit a 7 && fit b 7)
    (w := 0x4D + d * 0x100 + a * 0x8000 + b * 0x400000) (n := 4) rfl rfl rfl rfl
    (fun h => by simp only [fit, Bool.and_eq_true, decide_eq_true_eq] at h; omega) ((lengthOf_low 77 (by omega)).trans rfl)
theorem Layout.shr64 (d a b : Nat) : Layout.Statement (.shr64 d a b) :=
  Layout.of (p := fit d 7 && fit a 7 && fit b 7)
    (w := 0x2000004D + d * 0x100 + a * 0x8000 + b * 0x400000) (n := 4) rfl rfl rfl rfl
    (fun h => by simp only [fit, Bool.and_eq_true, decide_eq_true_eq] at h; omega) ((lengthOf_low 77 (by omega)).trans rfl)
theorem Layout.cmpS32 (d a b c : Nat) : Layout.Statement (.cmpS32 d a b c) :=
  Layout.of (p := fit d 7 && fit a 7 && fit b 7 && fit c 3)
    (w := 0x4F + d * 0x100 + a * 0x8000 + b * 0x400000 + c * 0x20000000) (n := 4) rfl rfl rfl rfl
    (fun h => by simp only [fit, Bool.and_eq_true, decide_eq_true_eq] at h; omega) ((lengthOf_low 79 (by omega)).trans rfl)
theorem Layout.cmpN32 (d a b c : Nat) : Layout.Statement (.cmpN32 d a b c) :=
  Layout.of (p := fit d 7 && fit a 7 && fit b 7 && fit c 3)
    (w := 0x51 + d * 0x100 + a * 0x8000 + b * 0x400000 + c * 0x20000000) (n := 4) rfl rfl rfl rfl
    (fun h => by simp only [fit, Bool.and_eq_true, decide_eq_true_eq] at h; omega) ((lengthOf_low 81 (by omega)).trans rfl)
theorem Layout.sel (d a b : Nat) : Layout.Statement (.sel d a b) :=
  Layout.of (p := fit d 7 && fit a 7 && fit b 7)
    (w := 0x53 + d * 0x100 + a * 0x8000 + b * 0x400000) (n := 4) rfl rfl rfl rfl
    (fun h => by simp only [fit, Bool.and_eq_true, decide_eq_true_eq] at h; omega) ((lengthOf_low 83 (by omega)).trans rfl)
theorem Layout.fadd (d a b m q : Nat) : Layout.Statement (.fadd d a b m q) :=
  Layout.of (p := fit d 7 && fit a 7 && fit b 7 && fit m 2 && fit q 1)
    (w := 0x61 + d * 0x100 + a * 0x8000 + b * 0x400000 + m * 0x20000000 + q * 0x80000000) (n := 4) rfl rfl rfl rfl
    (fun h => by simp only [fit, Bool.and_eq_true, decide_eq_true_eq] at h; omega) ((lengthOf_low 97 (by omega)).trans rfl)
theorem Layout.fsub (d a b m q : Nat) : Layout.Statement (.fsub d a b m q) :=
  Layout.of (p := fit d 7 && fit a 7 && fit b 7 && fit m 2 && fit q 1)
    (w := 0x63 + d * 0x100 + a * 0x8000 + b * 0x400000 + m * 0x20000000 + q * 0x80000000) (n := 4) rfl rfl rfl rfl
    (fun h => by simp only [fit, Bool.and_eq_true, decide_eq_true_eq] at h; omega) ((lengthOf_low 99 (by omega)).trans rfl)
theorem Layout.fmul (d a b m q : Nat) : Layout.Statement (.fmul d a b m q) :=
  Layout.of (p := fit d 7 && fit a 7 && fit b 7 && fit m 2 && fit q 1)
    (w := 0x65 + d * 0x100 + a * 0x8000 + b * 0x400000 + m * 0x20000000 + q * 0x80000000) (n := 4) rfl rfl rfl rfl
    (fun h => by simp only [fit, Bool.and_eq_true, decide_eq_true_eq] at h; omega) ((lengthOf_low 101 (by omega)).trans rfl)
theorem Layout.ffma (d a b m q : Nat) : Layout.Statement (.ffma d a b m q) :=
  Layout.of (p := fit d 7 && fit a 7 && fit b 7 && fit m 2 && fit q 1)
    (w := 0x67 + d * 0x100 + a * 0x8000 + b * 0x400000 + m * 0x20000000 + q * 0x80000000) (n := 4) rfl rfl rfl rfl
    (fun h => by simp only [fit, Bool.and_eq_true, decide_eq_true_eq] at h; omega) ((lengthOf_low 103 (by omega)).trans rfl)
theorem Layout.ffma3 (d a b c m q : Nat) : Layout.Statement (.ffma3 d a b c m q) :=
  Layout.of (p := fit d 7 && fit a 7 && fit b 7 && fit c 7 && fit m 2 && fit q 1)
    (w := 0x69 + d * 0x100 + a * 0x8000 + b * 0x400000 + m * 0x20000000 + q * 0x80000000 + c * 0x100000000) (n := 8) rfl rfl rfl rfl
    (fun h => by simp only [fit, Bool.and_eq_true, decide_eq_true_eq] at h; omega) ((lengthOf_low 105 (by omega)).trans rfl)
theorem Layout.fmin (d a b q : Nat) : Layout.Statement (.fmin d a b q) :=
  Layout.of (p := fit d 7 && fit a 7 && fit b 7 && fit q 1)
    (w := 0x6B + d * 0x100 + a * 0x8000 + b * 0x400000 + q * 0x80000000) (n := 4) rfl rfl rfl rfl
    (fun h => by simp only [fit, Bool.and_eq_true, decide_eq_true_eq] at h; omega) ((lengthOf_low 107 (by omega)).trans rfl)
theorem Layout.fmax (d a b q : Nat) : Layout.Statement (.fmax d a b q) :=
  Layout.of (p := fit d 7 && fit a 7 && fit b 7 && fit q 1)
    (w := 0x2000006B + d * 0x100 + a * 0x8000 + b * 0x400000 + q * 0x80000000) (n := 4) rfl rfl rfl rfl
    (fun h => by simp only [fit, Bool.and_eq_true, decide_eq_true_eq] at h; omega) ((lengthOf_low 107 (by omega)).trans rfl)
theorem Layout.fminn (d a b q : Nat) : Layout.Statement (.fminn d a b q) :=
  Layout.of (p := fit d 7 && fit a 7 && fit b 7 && fit q 1)
    (w := 0x4000006B + d * 0x100 + a * 0x8000 + b * 0x400000 + q * 0x80000000) (n := 4) rfl rfl rfl rfl
    (fun h => by simp only [fit, Bool.and_eq_true, decide_eq_true_eq] at h; omega) ((lengthOf_low 107 (by omega)).trans rfl)
theorem Layout.fmaxn (d a b q : Nat) : Layout.Statement (.fmaxn d a b q) :=
  Layout.of (p := fit d 7 && fit a 7 && fit b 7 && fit q 1)
    (w := 0x6000006B + d * 0x100 + a * 0x8000 + b * 0x400000 + q * 0x80000000) (n := 4) rfl rfl rfl rfl
    (fun h => by simp only [fit, Bool.and_eq_true, decide_eq_true_eq] at h; omega) ((lengthOf_low 107 (by omega)).trans rfl)
theorem Layout.fabs (d a q : Nat) : Layout.Statement (.fabs d a q) :=
  Layout.of (p := fit d 7 && fit a 7 && fit q 1)
    (w := 0x6D + d * 0x100 + a * 0x8000 + q * 0x80000000) (n := 4) rfl rfl rfl rfl
    (fun h => by simp only [fit, Bool.and_eq_true, decide_eq_true_eq] at h; omega) ((lengthOf_low 109 (by omega)).trans rfl)
theorem Layout.fneg (d a q : Nat) : Layout.Statement (.fneg d a q) :=
  Layout.of (p := fit d 7 && fit a 7 && fit q 1)
    (w := 0x2000006D + d * 0x100 + a * 0x8000 + q * 0x80000000) (n := 4) rfl rfl rfl rfl
    (fun h => by simp only [fit, Bool.and_eq_true, decide_eq_true_eq] at h; omega) ((lengthOf_low 109 (by omega)).trans rfl)
theorem Layout.fcmpEq (d a b q : Nat) : Layout.Statement (.fcmpEq d a b q) :=
  Layout.of (p := fit d 7 && fit a 7 && fit b 7 && fit q 1)
    (w := 0x6F + d * 0x100 + a * 0x8000 + b * 0x400000 + q * 0x80000000) (n := 4) rfl rfl rfl rfl
    (fun h => by simp only [fit, Bool.and_eq_true, decide_eq_true_eq] at h; omega) ((lengthOf_low 111 (by omega)).trans rfl)
theorem Layout.fcmpLt (d a b q : Nat) : Layout.Statement (.fcmpLt d a b q) :=
  Layout.of (p := fit d 7 && fit a 7 && fit b 7 && fit q 1)
    (w := 0x2000006F + d * 0x100 + a * 0x8000 + b * 0x400000 + q * 0x80000000) (n := 4) rfl rfl rfl rfl
    (fun h => by simp only [fit, Bool.and_eq_true, decide_eq_true_eq] at h; omega) ((lengthOf_low 111 (by omega)).trans rfl)
theorem Layout.fcmpLe (d a b q : Nat) : Layout.Statement (.fcmpLe d a b q) :=
  Layout.of (p := fit d 7 && fit a 7 && fit b 7 && fit q 1)
    (w := 0x4000006F + d * 0x100 + a * 0x8000 + b * 0x400000 + q * 0x80000000) (n := 4) rfl rfl rfl rfl
    (fun h => by simp only [fit, Bool.and_eq_true, decide_eq_true_eq] at h; omega) ((lengthOf_low 111 (by omega)).trans rfl)
theorem Layout.fcmpUn (d a b q : Nat) : Layout.Statement (.fcmpUn d a b q) :=
  Layout.of (p := fit d 7 && fit a 7 && fit b 7 && fit q 1)
    (w := 0x6000006F + d * 0x100 + a * 0x8000 + b * 0x400000 + q * 0x80000000) (n := 4) rfl rfl rfl rfl
    (fun h => by simp only [fit, Bool.and_eq_true, decide_eq_true_eq] at h; omega) ((lengthOf_low 111 (by omega)).trans rfl)
theorem Layout.fcmpNe (d a b q : Nat) : Layout.Statement (.fcmpNe d a b q) :=
  Layout.of (p := fit d 7 && fit a 7 && fit b 7 && fit q 1)
    (w := 0x71 + d * 0x100 + a * 0x8000 + b * 0x400000 + q * 0x80000000) (n := 4) rfl rfl rfl rfl
    (fun h => by simp only [fit, Bool.and_eq_true, decide_eq_true_eq] at h; omega) ((lengthOf_low 113 (by omega)).trans rfl)
theorem Layout.fcmpGt (d a b q : Nat) : Layout.Statement (.fcmpGt d a b q) :=
  Layout.of (p := fit d 7 && fit a 7 && fit b 7 && fit q 1)
    (w := 0x20000071 + d * 0x100 + a * 0x8000 + b * 0x400000 + q * 0x80000000) (n := 4) rfl rfl rfl rfl
    (fun h => by simp only [fit, Bool.and_eq_true, decide_eq_true_eq] at h; omega) ((lengthOf_low 113 (by omega)).trans rfl)
theorem Layout.fcmpGe (d a b q : Nat) : Layout.Statement (.fcmpGe d a b q) :=
  Layout.of (p := fit d 7 && fit a 7 && fit b 7 && fit q 1)
    (w := 0x40000071 + d * 0x100 + a * 0x8000 + b * 0x400000 + q * 0x80000000) (n := 4) rfl rfl rfl rfl
    (fun h => by simp only [fit, Bool.and_eq_true, decide_eq_true_eq] at h; omega) ((lengthOf_low 113 (by omega)).trans rfl)
theorem Layout.fcmpOrd (d a b q : Nat) : Layout.Statement (.fcmpOrd d a b q) :=
  Layout.of (p := fit d 7 && fit a 7 && fit b 7 && fit q 1)
    (w := 0x60000071 + d * 0x100 + a * 0x8000 + b * 0x400000 + q * 0x80000000) (n := 4) rfl rfl rfl rfl
    (fun h => by simp only [fit, Bool.and_eq_true, decide_eq_true_eq] at h; omega) ((lengthOf_low 113 (by omega)).trans rfl)
theorem Layout.fclass (d a q : Nat) : Layout.Statement (.fclass d a q) :=
  Layout.of (p := fit d 7 && fit a 7 && fit q 1)
    (w := 0x73 + d * 0x100 + a * 0x8000 + q * 0x80000000) (n := 4) rfl rfl rfl rfl
    (fun h => by simp only [fit, Bool.and_eq_true, decide_eq_true_eq] at h; omega) ((lengthOf_low 115 (by omega)).trans rfl)
theorem Layout.fdiv (d a b m q : Nat) : Layout.Statement (.fdiv d a b m q) :=
  Layout.of (p := fit d 7 && fit a 7 && fit b 7 && fit m 2 && fit q 1)
    (w := 0x75 + d * 0x100 + a * 0x8000 + b * 0x400000 + m * 0x20000000 + q * 0x80000000) (n := 4) rfl rfl rfl rfl
    (fun h => by simp only [fit, Bool.and_eq_true, decide_eq_true_eq] at h; omega) ((lengthOf_low 117 (by omega)).trans rfl)
theorem Layout.fsqrt (d a m q : Nat) : Layout.Statement (.fsqrt d a m q) :=
  Layout.of (p := fit d 7 && fit a 7 && fit m 2 && fit q 1)
    (w := 0x77 + d * 0x100 + a * 0x8000 + m * 0x20000000 + q * 0x80000000) (n := 4) rfl rfl rfl rfl
    (fun h => by simp only [fit, Bool.and_eq_true, decide_eq_true_eq] at h; omega) ((lengthOf_low 119 (by omega)).trans rfl)
theorem Layout.frcp (d a l q : Nat) : Layout.Statement (.frcp d a l q) :=
  Layout.of (p := fit d 7 && fit a 7 && fit l 4 && fit q 1)
    (w := 0x79 + d * 0x100 + a * 0x8000 + l * 0x400000 + q * 0x80000000) (n := 4) rfl rfl rfl rfl
    (fun h => by simp only [fit, Bool.and_eq_true, decide_eq_true_eq] at h; omega) ((lengthOf_low 121 (by omega)).trans rfl)
theorem Layout.frsq (d a l q : Nat) : Layout.Statement (.frsq d a l q) :=
  Layout.of (p := fit d 7 && fit a 7 && fit l 4 && fit q 1)
    (w := 0x4000079 + d * 0x100 + a * 0x8000 + l * 0x400000 + q * 0x80000000) (n := 4) rfl rfl rfl rfl
    (fun h => by simp only [fit, Bool.and_eq_true, decide_eq_true_eq] at h; omega) ((lengthOf_low 121 (by omega)).trans rfl)
theorem Layout.fexp2 (d a l q : Nat) : Layout.Statement (.fexp2 d a l q) :=
  Layout.of (p := fit d 7 && fit a 7 && fit l 4 && fit q 1)
    (w := 0x8000079 + d * 0x100 + a * 0x8000 + l * 0x400000 + q * 0x80000000) (n := 4) rfl rfl rfl rfl
    (fun h => by simp only [fit, Bool.and_eq_true, decide_eq_true_eq] at h; omega) ((lengthOf_low 121 (by omega)).trans rfl)
theorem Layout.flog2 (d a l q : Nat) : Layout.Statement (.flog2 d a l q) :=
  Layout.of (p := fit d 7 && fit a 7 && fit l 4 && fit q 1)
    (w := 0xC000079 + d * 0x100 + a * 0x8000 + l * 0x400000 + q * 0x80000000) (n := 4) rfl rfl rfl rfl
    (fun h => by simp only [fit, Bool.and_eq_true, decide_eq_true_eq] at h; omega) ((lengthOf_low 121 (by omega)).trans rfl)
theorem Layout.fsin (d a l q : Nat) : Layout.Statement (.fsin d a l q) :=
  Layout.of (p := fit d 7 && fit a 7 && fit l 4 && fit q 1)
    (w := 0x10000079 + d * 0x100 + a * 0x8000 + l * 0x400000 + q * 0x80000000) (n := 4) rfl rfl rfl rfl
    (fun h => by simp only [fit, Bool.and_eq_true, decide_eq_true_eq] at h; omega) ((lengthOf_low 121 (by omega)).trans rfl)
theorem Layout.fcos (d a l q : Nat) : Layout.Statement (.fcos d a l q) :=
  Layout.of (p := fit d 7 && fit a 7 && fit l 4 && fit q 1)
    (w := 0x14000079 + d * 0x100 + a * 0x8000 + l * 0x400000 + q * 0x80000000) (n := 4) rfl rfl rfl rfl
    (fun h => by simp only [fit, Bool.and_eq_true, decide_eq_true_eq] at h; omega) ((lengthOf_low 121 (by omega)).trans rfl)
theorem Layout.frnd (d a m q : Nat) : Layout.Statement (.frnd d a m q) :=
  Layout.of (p := fit d 7 && fit a 7 && fit m 2 && fit q 1)
    (w := 0x7B + d * 0x100 + a * 0x8000 + m * 0x20000000 + q * 0x80000000) (n := 4) rfl rfl rfl rfl
    (fun h => by simp only [fit, Bool.and_eq_true, decide_eq_true_eq] at h; omega) ((lengthOf_low 123 (by omega)).trans rfl)
theorem Layout.fldexp (d a b m q : Nat) : Layout.Statement (.fldexp d a b m q) :=
  Layout.of (p := fit d 7 && fit a 7 && fit b 7 && fit m 2 && fit q 1)
    (w := 0x7D + d * 0x100 + a * 0x8000 + b * 0x400000 + m * 0x20000000 + q * 0x80000000) (n := 4) rfl rfl rfl rfl
    (fun h => by simp only [fit, Bool.and_eq_true, decide_eq_true_eq] at h; omega) ((lengthOf_low 125 (by omega)).trans rfl)
theorem Layout.cvt (d a b sf df m sat q : Nat) : Layout.Statement (.cvt d a b sf df m sat q) :=
  Layout.of (p := fit d 7 && fit a 7 && fit b 7 && fit sf 4 && fit df 4 && fit m 3 && fit sat 1 && fit q 1)
    (w := 0x7F + d * 0x100 + a * 0x8000 + b * 0x400000 + q * 0x80000000 + sf * 0x100000000 + df * 0x1000000000 + m * 0x10000000000 + sat * 0x80000000000) (n := 8) rfl rfl rfl rfl
    (fun h => by simp only [fit, Bool.and_eq_true, decide_eq_true_eq] at h; omega) ((lengthOf_low 127 (by omega)).trans rfl)
theorem Layout.hadd2F16 (d a b q : Nat) : Layout.Statement (.hadd2F16 d a b q) :=
  Layout.of (p := fit d 7 && fit a 7 && fit b 7 && fit q 1)
    (w := 0x81 + d * 0x100 + a * 0x8000 + b * 0x400000 + q * 0x80000000) (n := 4) rfl rfl rfl rfl
    (fun h => by simp only [fit, Bool.and_eq_true, decide_eq_true_eq] at h; omega) ((lengthOf_low 129 (by omega)).trans rfl)
theorem Layout.hsub2F16 (d a b q : Nat) : Layout.Statement (.hsub2F16 d a b q) :=
  Layout.of (p := fit d 7 && fit a 7 && fit b 7 && fit q 1)
    (w := 0x20000081 + d * 0x100 + a * 0x8000 + b * 0x400000 + q * 0x80000000) (n := 4) rfl rfl rfl rfl
    (fun h => by simp only [fit, Bool.and_eq_true, decide_eq_true_eq] at h; omega) ((lengthOf_low 129 (by omega)).trans rfl)
theorem Layout.hmul2F16 (d a b q : Nat) : Layout.Statement (.hmul2F16 d a b q) :=
  Layout.of (p := fit d 7 && fit a 7 && fit b 7 && fit q 1)
    (w := 0x40000081 + d * 0x100 + a * 0x8000 + b * 0x400000 + q * 0x80000000) (n := 4) rfl rfl rfl rfl
    (fun h => by simp only [fit, Bool.and_eq_true, decide_eq_true_eq] at h; omega) ((lengthOf_low 129 (by omega)).trans rfl)
theorem Layout.hfma2F16 (d a b q : Nat) : Layout.Statement (.hfma2F16 d a b q) :=
  Layout.of (p := fit d 7 && fit a 7 && fit b 7 && fit q 1)
    (w := 0x60000081 + d * 0x100 + a * 0x8000 + b * 0x400000 + q * 0x80000000) (n := 4) rfl rfl rfl rfl
    (fun h => by simp only [fit, Bool.and_eq_true, decide_eq_true_eq] at h; omega) ((lengthOf_low 129 (by omega)).trans rfl)
theorem Layout.hadd2Bf16 (d a b q : Nat) : Layout.Statement (.hadd2Bf16 d a b q) :=
  Layout.of (p := fit d 7 && fit a 7 && fit b 7 && fit q 1)
    (w := 0x83 + d * 0x100 + a * 0x8000 + b * 0x400000 + q * 0x80000000) (n := 4) rfl rfl rfl rfl
    (fun h => by simp only [fit, Bool.and_eq_true, decide_eq_true_eq] at h; omega) ((lengthOf_low 131 (by omega)).trans rfl)
theorem Layout.hsub2Bf16 (d a b q : Nat) : Layout.Statement (.hsub2Bf16 d a b q) :=
  Layout.of (p := fit d 7 && fit a 7 && fit b 7 && fit q 1)
    (w := 0x20000083 + d * 0x100 + a * 0x8000 + b * 0x400000 + q * 0x80000000) (n := 4) rfl rfl rfl rfl
    (fun h => by simp only [fit, Bool.and_eq_true, decide_eq_true_eq] at h; omega) ((lengthOf_low 131 (by omega)).trans rfl)
theorem Layout.hmul2Bf16 (d a b q : Nat) : Layout.Statement (.hmul2Bf16 d a b q) :=
  Layout.of (p := fit d 7 && fit a 7 && fit b 7 && fit q 1)
    (w := 0x40000083 + d * 0x100 + a * 0x8000 + b * 0x400000 + q * 0x80000000) (n := 4) rfl rfl rfl rfl
    (fun h => by simp only [fit, Bool.and_eq_true, decide_eq_true_eq] at h; omega) ((lengthOf_low 131 (by omega)).trans rfl)
theorem Layout.hfma2Bf16 (d a b q : Nat) : Layout.Statement (.hfma2Bf16 d a b q) :=
  Layout.of (p := fit d 7 && fit a 7 && fit b 7 && fit q 1)
    (w := 0x60000083 + d * 0x100 + a * 0x8000 + b * 0x400000 + q * 0x80000000) (n := 4) rfl rfl rfl rfl
    (fun h => by simp only [fit, Bool.and_eq_true, decide_eq_true_eq] at h; omega) ((lengthOf_low 131 (by omega)).trans rfl)
theorem Layout.hmin2 (d a b t q : Nat) : Layout.Statement (.hmin2 d a b t q) :=
  Layout.of (p := fit d 7 && fit a 7 && fit b 7 && fit t 1 && fit q 1)
    (w := 0x85 + d * 0x100 + a * 0x8000 + b * 0x400000 + t * 0x40000000 + q * 0x80000000) (n := 4) rfl rfl rfl rfl
    (fun h => by simp only [fit, Bool.and_eq_true, decide_eq_true_eq] at h; omega) ((lengthOf_low 133 (by omega)).trans rfl)
theorem Layout.hmax2 (d a b t q : Nat) : Layout.Statement (.hmax2 d a b t q) :=
  Layout.of (p := fit d 7 && fit a 7 && fit b 7 && fit t 1 && fit q 1)
    (w := 0x20000085 + d * 0x100 + a * 0x8000 + b * 0x400000 + t * 0x40000000 + q * 0x80000000) (n := 4) rfl rfl rfl rfl
    (fun h => by simp only [fit, Bool.and_eq_true, decide_eq_true_eq] at h; omega) ((lengthOf_low 133 (by omega)).trans rfl)
theorem Layout.packH2 (d a b : Nat) : Layout.Statement (.packH2 d a b) :=
  Layout.of (p := fit d 7 && fit a 7 && fit b 7)
    (w := 0x87 + d * 0x100 + a * 0x8000 + b * 0x400000) (n := 4) rfl rfl rfl rfl
    (fun h => by simp only [fit, Bool.and_eq_true, decide_eq_true_eq] at h; omega) ((lengthOf_low 135 (by omega)).trans rfl)
theorem Layout.packB4 (d a : Nat) : Layout.Statement (.packB4 d a) :=
  Layout.of (p := fit d 7 && fit a 7)
    (w := 0x20000087 + d * 0x100 + a * 0x8000) (n := 4) rfl rfl rfl rfl
    (fun h => by simp only [fit, Bool.and_eq_true, decide_eq_true_eq] at h; omega) ((lengthOf_low 135 (by omega)).trans rfl)
theorem Layout.packE2m1x8 (d a : Nat) : Layout.Statement (.packE2m1x8 d a) :=
  Layout.of (p := fit d 7 && fit a 7)
    (w := 0x40000087 + d * 0x100 + a * 0x8000) (n := 4) rfl rfl rfl rfl
    (fun h => by simp only [fit, Bool.and_eq_true, decide_eq_true_eq] at h; omega) ((lengthOf_low 135 (by omega)).trans rfl)
theorem Layout.unpackH2 (d a : Nat) : Layout.Statement (.unpackH2 d a) :=
  Layout.of (p := fit d 7 && fit a 7)
    (w := 0x89 + d * 0x100 + a * 0x8000) (n := 4) rfl rfl rfl rfl
    (fun h => by simp only [fit, Bool.and_eq_true, decide_eq_true_eq] at h; omega) ((lengthOf_low 137 (by omega)).trans rfl)
theorem Layout.unpackB4 (d a : Nat) : Layout.Statement (.unpackB4 d a) :=
  Layout.of (p := fit d 7 && fit a 7)
    (w := 0x20000089 + d * 0x100 + a * 0x8000) (n := 4) rfl rfl rfl rfl
    (fun h => by simp only [fit, Bool.and_eq_true, decide_eq_true_eq] at h; omega) ((lengthOf_low 137 (by omega)).trans rfl)
theorem Layout.unpackE2m1x8 (d a : Nat) : Layout.Statement (.unpackE2m1x8 d a) :=
  Layout.of (p := fit d 7 && fit a 7)
    (w := 0x40000089 + d * 0x100 + a * 0x8000) (n := 4) rfl rfl rfl rfl
    (fun h => by simp only [fit, Bool.and_eq_true, decide_eq_true_eq] at h; omega) ((lengthOf_low 137 (by omega)).trans rfl)
theorem Layout.flagr (d : Nat) : Layout.Statement (.flagr d) :=
  Layout.of (p := fit d 7)
    (w := 0x8B + d * 0x100) (n := 4) rfl rfl rfl rfl
    (fun h => by simp only [fit, Bool.and_eq_true, decide_eq_true_eq] at h; omega) ((lengthOf_low 139 (by omega)).trans rfl)
theorem Layout.flagrWave (d : Nat) : Layout.Statement (.flagrWave d) :=
  Layout.of (p := fit d 7)
    (w := 0x2000008B + d * 0x100) (n := 4) rfl rfl rfl rfl
    (fun h => by simp only [fit, Bool.and_eq_true, decide_eq_true_eq] at h; omega) ((lengthOf_low 139 (by omega)).trans rfl)
theorem Layout.flagc : Layout.Statement .flagc := ⟨fun _ => by decide, fun h => by cases h⟩
theorem Layout.vote (d a : Nat) : Layout.Statement (.vote d a) :=
  Layout.of (p := fit d 7 && fit a 7)
    (w := 0x91 + d * 0x100 + a * 0x8000) (n := 4) rfl rfl rfl rfl
    (fun h => by simp only [fit, Bool.and_eq_true, decide_eq_true_eq] at h; omega) ((lengthOf_low 145 (by omega)).trans rfl)
theorem Layout.ballot (d a : Nat) : Layout.Statement (.ballot d a) :=
  Layout.of (p := fit d 7 && fit a 7)
    (w := 0x93 + d * 0x100 + a * 0x8000) (n := 4) rfl rfl rfl rfl
    (fun h => by simp only [fit, Bool.and_eq_true, decide_eq_true_eq] at h; omega) ((lengthOf_low 147 (by omega)).trans rfl)
theorem Layout.shflAt (d a b : Nat) : Layout.Statement (.shflAt d a b) :=
  Layout.of (p := fit d 7 && fit a 7 && fit b 7)
    (w := 0x95 + d * 0x100 + a * 0x8000 + b * 0x400000) (n := 4) rfl rfl rfl rfl
    (fun h => by simp only [fit, Bool.and_eq_true, decide_eq_true_eq] at h; omega) ((lengthOf_low 149 (by omega)).trans rfl)
theorem Layout.shflRot (d a b : Nat) : Layout.Statement (.shflRot d a b) :=
  Layout.of (p := fit d 7 && fit a 7 && fit b 7)
    (w := 0x20000095 + d * 0x100 + a * 0x8000 + b * 0x400000) (n := 4) rfl rfl rfl rfl
    (fun h => by simp only [fit, Bool.and_eq_true, decide_eq_true_eq] at h; omega) ((lengthOf_low 149 (by omega)).trans rfl)
theorem Layout.shflXor (d a b : Nat) : Layout.Statement (.shflXor d a b) :=
  Layout.of (p := fit d 7 && fit a 7 && fit b 7)
    (w := 0x40000095 + d * 0x100 + a * 0x8000 + b * 0x400000) (n := 4) rfl rfl rfl rfl
    (fun h => by simp only [fit, Bool.and_eq_true, decide_eq_true_eq] at h; omega) ((lengthOf_low 149 (by omega)).trans rfl)
theorem Layout.shflAtImm (d a x : Nat) : Layout.Statement (.shflAtImm d a x) :=
  Layout.of (p := fit d 7 && fit a 7 && fit x 5)
    (w := 0x97 + d * 0x100 + a * 0x8000 + x * 0x400000) (n := 4) rfl rfl rfl rfl
    (fun h => by simp only [fit, Bool.and_eq_true, decide_eq_true_eq] at h; omega) ((lengthOf_low 151 (by omega)).trans rfl)
theorem Layout.shflRotImm (d a x : Nat) : Layout.Statement (.shflRotImm d a x) :=
  Layout.of (p := fit d 7 && fit a 7 && fit x 5)
    (w := 0x8000097 + d * 0x100 + a * 0x8000 + x * 0x400000) (n := 4) rfl rfl rfl rfl
    (fun h => by simp only [fit, Bool.and_eq_true, decide_eq_true_eq] at h; omega) ((lengthOf_low 151 (by omega)).trans rfl)
theorem Layout.shflXorImm (d a x : Nat) : Layout.Statement (.shflXorImm d a x) :=
  Layout.of (p := fit d 7 && fit a 7 && fit x 5)
    (w := 0x10000097 + d * 0x100 + a * 0x8000 + x * 0x400000) (n := 4) rfl rfl rfl rfl
    (fun h => by simp only [fit, Bool.and_eq_true, decide_eq_true_eq] at h; omega) ((lengthOf_low 151 (by omega)).trans rfl)
theorem Layout.shflRev (d a : Nat) : Layout.Statement (.shflRev d a) :=
  Layout.of (p := fit d 7 && fit a 7)
    (w := 0x18000097 + d * 0x100 + a * 0x8000) (n := 4) rfl rfl rfl rfl
    (fun h => by simp only [fit, Bool.and_eq_true, decide_eq_true_eq] at h; omega) ((lengthOf_low 151 (by omega)).trans rfl)
theorem Layout.quad (d a s : Nat) : Layout.Statement (.quad d a s) :=
  Layout.of (p := fit d 7 && fit a 7 && fit s 8)
    (w := 0x99 + d * 0x100 + a * 0x8000 + s * 0x400000) (n := 4) rfl rfl rfl rfl
    (fun h => by simp only [fit, Bool.and_eq_true, decide_eq_true_eq] at h; omega) ((lengthOf_low 153 (by omega)).trans rfl)
theorem Layout.red (d a o : Nat) : Layout.Statement (.red d a o) :=
  Layout.of (p := fit d 7 && fit a 7 && fit o 3)
    (w := 0x9B + d * 0x100 + a * 0x8000 + o * 0x20000000) (n := 4) rfl rfl rfl rfl
    (fun h => by simp only [fit, Bool.and_eq_true, decide_eq_true_eq] at h; omega) ((lengthOf_low 155 (by omega)).trans rfl)
theorem Layout.redF32 (d a o q : Nat) : Layout.Statement (.redF32 d a o q) :=
  Layout.of (p := fit d 7 && fit a 7 && fit o 2 && fit q 1)
    (w := 0x9D + d * 0x100 + a * 0x8000 + o * 0x20000000 + q * 0x80000000) (n := 4) rfl rfl rfl rfl
    (fun h => by simp only [fit, Bool.and_eq_true, decide_eq_true_eq] at h; omega) ((lengthOf_low 157 (by omega)).trans rfl)
theorem Layout.scanInc (d a o : Nat) : Layout.Statement (.scanInc d a o) :=
  Layout.of (p := fit d 7 && fit a 7 && fit o 3)
    (w := 0x9F + d * 0x100 + a * 0x8000 + o * 0x20000000) (n := 4) rfl rfl rfl rfl
    (fun h => by simp only [fit, Bool.and_eq_true, decide_eq_true_eq] at h; omega) ((lengthOf_low 159 (by omega)).trans rfl)
theorem Layout.scanExc (d a o : Nat) : Layout.Statement (.scanExc d a o) :=
  Layout.of (p := fit d 7 && fit a 7 && fit o 3)
    (w := 0xA1 + d * 0x100 + a * 0x8000 + o * 0x20000000) (n := 4) rfl rfl rfl rfl
    (fun h => by simp only [fit, Bool.and_eq_true, decide_eq_true_eq] at h; omega) ((lengthOf_low 161 (by omega)).trans rfl)
theorem Layout.matchB32 (d a : Nat) : Layout.Statement (.matchB32 d a) :=
  Layout.of (p := fit d 7 && fit a 7)
    (w := 0xA3 + d * 0x100 + a * 0x8000) (n := 4) rfl rfl rfl rfl
    (fun h => by simp only [fit, Bool.and_eq_true, decide_eq_true_eq] at h; omega) ((lengthOf_low 163 (by omega)).trans rfl)
theorem Layout.matchB64 (d a : Nat) : Layout.Statement (.matchB64 d a) :=
  Layout.of (p := fit d 7 && fit a 7)
    (w := 0x200000A3 + d * 0x100 + a * 0x8000) (n := 4) rfl rfl rfl rfl
    (fun h => by simp only [fit, Bool.and_eq_true, decide_eq_true_eq] at h; omega) ((lengthOf_low 163 (by omega)).trans rfl)
theorem Layout.elect (d : Nat) : Layout.Statement (.elect d) :=
  Layout.of (p := fit d 7)
    (w := 0xA5 + d * 0x100) (n := 4) rfl rfl rfl rfl
    (fun h => by simp only [fit, Bool.and_eq_true, decide_eq_true_eq] at h; omega) ((lengthOf_low 165 (by omega)).trans rfl)
theorem Layout.ld (d a x w l : Nat) : Layout.Statement (.ld d a x w l) :=
  Layout.of (p := fit d 7 && fit a 7 && fit x 1 && fit w 3 && fit l 4)
    (w := 0xB1 + d * 0x100 + a * 0x8000 + l * 0x400000 + w * 0x4000000 + x * 0x20000000) (n := 4) rfl rfl rfl rfl
    (fun h => by simp only [fit, Bool.and_eq_true, decide_eq_true_eq] at h; omega) ((lengthOf_low 177 (by omega)).trans rfl)
theorem Layout.ldAcq (d a s w l : Nat) : Layout.Statement (.ldAcq d a s w l) :=
  Layout.of (p := fit d 7 && fit a 7 && fit s 3 && fit w 3 && fit l 4)
    (w := 0xB3 + d * 0x100 + a * 0x8000 + l * 0x400000 + w * 0x4000000 + s * 0x20000000) (n := 4) rfl rfl rfl rfl
    (fun h => by simp only [fit, Bool.and_eq_true, decide_eq_true_eq] at h; omega) ((lengthOf_low 179 (by omega)).trans rfl)
theorem Layout.st (d a w l : Nat) : Layout.Statement (.st d a w l) :=
  Layout.of (p := fit d 7 && fit a 7 && fit w 3 && fit l 4)
    (w := 0xB5 + d * 0x100 + a * 0x8000 + l * 0x400000 + w * 0x4000000) (n := 4) rfl rfl rfl rfl
    (fun h => by simp only [fit, Bool.and_eq_true, decide_eq_true_eq] at h; omega) ((lengthOf_low 181 (by omega)).trans rfl)
theorem Layout.stRel (d a s w l : Nat) : Layout.Statement (.stRel d a s w l) :=
  Layout.of (p := fit d 7 && fit a 7 && fit s 3 && fit w 3 && fit l 4)
    (w := 0xB7 + d * 0x100 + a * 0x8000 + l * 0x400000 + w * 0x4000000 + s * 0x20000000) (n := 4) rfl rfl rfl rfl
    (fun h => by simp only [fit, Bool.and_eq_true, decide_eq_true_eq] at h; omega) ((lengthOf_low 183 (by omega)).trans rfl)
theorem Layout.lds (d a x w l : Nat) : Layout.Statement (.lds d a x w l) :=
  Layout.of (p := fit d 7 && fit a 7 && fit x 1 && fit w 3 && fit l 4)
    (w := 0xB9 + d * 0x100 + a * 0x8000 + l * 0x400000 + w * 0x4000000 + x * 0x20000000) (n := 4) rfl rfl rfl rfl
    (fun h => by simp only [fit, Bool.and_eq_true, decide_eq_true_eq] at h; omega) ((lengthOf_low 185 (by omega)).trans rfl)
theorem Layout.ldsAcq (d a s w l : Nat) : Layout.Statement (.ldsAcq d a s w l) :=
  Layout.of (p := fit d 7 && fit a 7 && fit s 3 && fit w 3 && fit l 4)
    (w := 0xBB + d * 0x100 + a * 0x8000 + l * 0x400000 + w * 0x4000000 + s * 0x20000000) (n := 4) rfl rfl rfl rfl
    (fun h => by simp only [fit, Bool.and_eq_true, decide_eq_true_eq] at h; omega) ((lengthOf_low 187 (by omega)).trans rfl)
theorem Layout.sts (d a w l : Nat) : Layout.Statement (.sts d a w l) :=
  Layout.of (p := fit d 7 && fit a 7 && fit w 3 && fit l 4)
    (w := 0xBD + d * 0x100 + a * 0x8000 + l * 0x400000 + w * 0x4000000) (n := 4) rfl rfl rfl rfl
    (fun h => by simp only [fit, Bool.and_eq_true, decide_eq_true_eq] at h; omega) ((lengthOf_low 189 (by omega)).trans rfl)
theorem Layout.stsRel (d a s w l : Nat) : Layout.Statement (.stsRel d a s w l) :=
  Layout.of (p := fit d 7 && fit a 7 && fit s 3 && fit w 3 && fit l 4)
    (w := 0xBF + d * 0x100 + a * 0x8000 + l * 0x400000 + w * 0x4000000 + s * 0x20000000) (n := 4) rfl rfl rfl rfl
    (fun h => by simp only [fit, Bool.and_eq_true, decide_eq_true_eq] at h; omega) ((lengthOf_low 191 (by omega)).trans rfl)
theorem Layout.atom (d a b c op kind scope use f w l : Nat) : Layout.Statement (.atom d a b c op kind scope use f w l) :=
  Layout.of (p := fit d 7 && fit a 7 && fit b 7 && fit c 7 && fit op 4 && fit kind 3 && fit scope 3 && fit use 2 && fit f 3 && fit w 3 && fit l 4)
    (w := 0xC1 + d * 0x100 + a * 0x8000 + l * 0x400000 + w * 0x4000000 + f * 0x20000000 + op * 0x100000000 + kind * 0x1000000000 + scope * 0x8000000000 + use * 0x40000000000 + b * 0x100000000000 + c * 0x8000000000000) (n := 8) rfl rfl rfl rfl
    (fun h => by simp only [fit, Bool.and_eq_true, decide_eq_true_eq] at h; omega) ((lengthOf_low 193 (by omega)).trans rfl)
theorem Layout.atoms (d a b c op kind scope use f w l : Nat) : Layout.Statement (.atoms d a b c op kind scope use f w l) :=
  Layout.of (p := fit d 7 && fit a 7 && fit b 7 && fit c 7 && fit op 4 && fit kind 3 && fit scope 3 && fit use 2 && fit f 3 && fit w 3 && fit l 4)
    (w := 0xC3 + d * 0x100 + a * 0x8000 + l * 0x400000 + w * 0x4000000 + f * 0x20000000 + op * 0x100000000 + kind * 0x1000000000 + scope * 0x8000000000 + use * 0x40000000000 + b * 0x100000000000 + c * 0x8000000000000) (n := 8) rfl rfl rfl rfl
    (fun h => by simp only [fit, Bool.and_eq_true, decide_eq_true_eq] at h; omega) ((lengthOf_low 195 (by omega)).trans rfl)
theorem Layout.ratom (a b op tb f w l : Nat) : Layout.Statement (.ratom a b op tb f w l) :=
  Layout.of (p := fit a 7 && fit b 7 && fit op 4 && fit tb 14 && fit f 3 && fit w 3 && fit l 4)
    (w := 0xC5 + a * 0x8000 + l * 0x400000 + w * 0x4000000 + f * 0x20000000 + op * 0x100000000 + b * 0x1000000000 + tb * 0x80000000000) (n := 8) rfl rfl rfl rfl
    (fun h => by simp only [fit, Bool.and_eq_true, decide_eq_true_eq] at h; omega) ((lengthOf_low 197 (by omega)).trans rfl)
theorem Layout.prefetchL1 (a l : Nat) : Layout.Statement (.prefetchL1 a l) :=
  Layout.of (p := fit a 7 && fit l 4)
    (w := 0xC7 + a * 0x8000 + l * 0x400000) (n := 4) rfl rfl rfl rfl
    (fun h => by simp only [fit, Bool.and_eq_true, decide_eq_true_eq] at h; omega) ((lengthOf_low 199 (by omega)).trans rfl)
theorem Layout.prefetchCm (a l : Nat) : Layout.Statement (.prefetchCm a l) :=
  Layout.of (p := fit a 7 && fit l 4)
    (w := 0x200000C7 + a * 0x8000 + l * 0x400000) (n := 4) rfl rfl rfl rfl
    (fun h => by simp only [fit, Bool.and_eq_true, decide_eq_true_eq] at h; omega) ((lengthOf_low 199 (by omega)).trans rfl)
theorem Layout.fenceAcq (s : Nat) : Layout.Statement (.fenceAcq s) :=
  Layout.of (p := fit s 3)
    (w := 0xC9 + s * 0x400000) (n := 4) rfl rfl rfl rfl
    (fun h => by simp only [fit, Bool.and_eq_true, decide_eq_true_eq] at h; omega) ((lengthOf_low 201 (by omega)).trans rfl)
theorem Layout.fenceRel (s : Nat) : Layout.Statement (.fenceRel s) :=
  Layout.of (p := fit s 3)
    (w := 0x20000C9 + s * 0x400000) (n := 4) rfl rfl rfl rfl
    (fun h => by simp only [fit, Bool.and_eq_true, decide_eq_true_eq] at h; omega) ((lengthOf_low 201 (by omega)).trans rfl)
theorem Layout.fenceFull (s : Nat) : Layout.Statement (.fenceFull s) :=
  Layout.of (p := fit s 3)
    (w := 0x40000C9 + s * 0x400000) (n := 4) rfl rfl rfl rfl
    (fun h => by simp only [fit, Bool.and_eq_true, decide_eq_true_eq] at h; omega) ((lengthOf_low 201 (by omega)).trans rfl)
theorem Layout.tfence : Layout.Statement .tfence := ⟨fun _ => by decide, fun h => by cases h⟩
theorem Layout.inval : Layout.Statement .inval := ⟨fun _ => by decide, fun h => by cases h⟩
theorem Layout.mcfg (a l : Nat) : Layout.Statement (.mcfg a l) :=
  Layout.of (p := fit a 7 && fit l 4)
    (w := 0xD1 + a * 0x8000 + l * 0x400000) (n := 4) rfl rfl rfl rfl
    (fun h => by simp only [fit, Bool.and_eq_true, decide_eq_true_eq] at h; omega) ((lengthOf_low 209 (by omega)).trans rfl)
theorem Layout.gang (a : Nat) : Layout.Statement (.gang a) :=
  Layout.of (p := fit a 7)
    (w := 0xD3 + a * 0x8000) (n := 4) rfl rfl rfl rfl
    (fun h => by simp only [fit, Bool.and_eq_true, decide_eq_true_eq] at h; omega) ((lengthOf_low 211 (by omega)).trans rfl)
theorem Layout.mmaE2m1 (d a t r l : Nat) : Layout.Statement (.mmaE2m1 d a t r l) :=
  Layout.of (p := fit d 7 && fit a 7 && fit t 2 && fit r 1 && fit l 4)
    (w := 0xD5 + d * 0x100 + a * 0x8000 + l * 0x400000 + t * 0x4000000 + r * 0x10000000) (n := 4) rfl rfl rfl rfl
    (fun h => by simp only [fit, Bool.and_eq_true, decide_eq_true_eq] at h; omega) ((lengthOf_low 213 (by omega)).trans rfl)
theorem Layout.mmaE4m3 (d a s t r l : Nat) : Layout.Statement (.mmaE4m3 d a s t r l) :=
  Layout.of (p := fit d 7 && fit a 7 && fit s 1 && fit t 2 && fit r 1 && fit l 4)
    (w := 0xD7 + d * 0x100 + a * 0x8000 + l * 0x400000 + t * 0x4000000 + r * 0x10000000 + s * 0x20000000) (n := 4) rfl rfl rfl rfl
    (fun h => by simp only [fit, Bool.and_eq_true, decide_eq_true_eq] at h; omega) ((lengthOf_low 215 (by omega)).trans rfl)
theorem Layout.mmaE5m2 (d a s t r l : Nat) : Layout.Statement (.mmaE5m2 d a s t r l) :=
  Layout.of (p := fit d 7 && fit a 7 && fit s 1 && fit t 2 && fit r 1 && fit l 4)
    (w := 0xD9 + d * 0x100 + a * 0x8000 + l * 0x400000 + t * 0x4000000 + r * 0x10000000 + s * 0x20000000) (n := 4) rfl rfl rfl rfl
    (fun h => by simp only [fit, Bool.and_eq_true, decide_eq_true_eq] at h; omega) ((lengthOf_low 217 (by omega)).trans rfl)
theorem Layout.mmaS8 (d t r l : Nat) : Layout.Statement (.mmaS8 d t r l) :=
  Layout.of (p := fit d 7 && fit t 2 && fit r 1 && fit l 4)
    (w := 0xDB + d * 0x100 + l * 0x400000 + t * 0x4000000 + r * 0x10000000) (n := 4) rfl rfl rfl rfl
    (fun h => by simp only [fit, Bool.and_eq_true, decide_eq_true_eq] at h; omega) ((lengthOf_low 219 (by omega)).trans rfl)
theorem Layout.mmaBf16 (d t r l : Nat) : Layout.Statement (.mmaBf16 d t r l) :=
  Layout.of (p := fit d 7 && fit t 2 && fit r 1 && fit l 4)
    (w := 0xDD + d * 0x100 + l * 0x400000 + t * 0x4000000 + r * 0x10000000) (n := 4) rfl rfl rfl rfl
    (fun h => by simp only [fit, Bool.and_eq_true, decide_eq_true_eq] at h; omega) ((lengthOf_low 221 (by omega)).trans rfl)
theorem Layout.mmaF16 (d t r l : Nat) : Layout.Statement (.mmaF16 d t r l) :=
  Layout.of (p := fit d 7 && fit t 2 && fit r 1 && fit l 4)
    (w := 0xDF + d * 0x100 + l * 0x400000 + t * 0x4000000 + r * 0x10000000) (n := 4) rfl rfl rfl rfl
    (fun h => by simp only [fit, Bool.and_eq_true, decide_eq_true_eq] at h; omega) ((lengthOf_low 223 (by omega)).trans rfl)
theorem Layout.mzero (t l : Nat) : Layout.Statement (.mzero t l) :=
  Layout.of (p := fit t 2 && fit l 4)
    (w := 0xE1 + l * 0x400000 + t * 0x4000000) (n := 4) rfl rfl rfl rfl
    (fun h => by simp only [fit, Bool.and_eq_true, decide_eq_true_eq] at h; omega) ((lengthOf_low 225 (by omega)).trans rfl)
theorem Layout.mrd (d a t l : Nat) : Layout.Statement (.mrd d a t l) :=
  Layout.of (p := fit d 7 && fit a 7 && fit t 2 && fit l 4)
    (w := 0x100000E1 + d * 0x100 + a * 0x8000 + l * 0x400000 + t * 0x4000000) (n := 4) rfl rfl rfl rfl
    (fun h => by simp only [fit, Bool.and_eq_true, decide_eq_true_eq] at h; omega) ((lengthOf_low 225 (by omega)).trans rfl)
theorem Layout.mwr (d a t l : Nat) : Layout.Statement (.mwr d a t l) :=
  Layout.of (p := fit d 7 && fit a 7 && fit t 2 && fit l 4)
    (w := 0x200000E1 + d * 0x100 + a * 0x8000 + l * 0x400000 + t * 0x4000000) (n := 4) rfl rfl rfl rfl
    (fun h => by simp only [fit, Bool.and_eq_true, decide_eq_true_eq] at h; omega) ((lengthOf_low 225 (by omega)).trans rfl)
theorem Layout.mscale (a t l : Nat) : Layout.Statement (.mscale a t l) :=
  Layout.of (p := fit a 7 && fit t 2 && fit l 4)
    (w := 0x300000E1 + a * 0x8000 + l * 0x400000 + t * 0x4000000) (n := 4) rfl rfl rfl rfl
    (fun h => by simp only [fit, Bool.and_eq_true, decide_eq_true_eq] at h; omega) ((lengthOf_low 225 (by omega)).trans rfl)
theorem Layout.rgnSet (d a l : Nat) : Layout.Statement (.rgnSet d a l) :=
  Layout.of (p := fit d 7 && fit a 7 && fit l 4)
    (w := 0xE3 + d * 0x100 + a * 0x8000 + l * 0x400000) (n := 4) rfl rfl rfl rfl
    (fun h => by simp only [fit, Bool.and_eq_true, decide_eq_true_eq] at h; omega) ((lengthOf_low 227 (by omega)).trans rfl)
theorem Layout.rgnPre (a l : Nat) : Layout.Statement (.rgnPre a l) :=
  Layout.of (p := fit a 7 && fit l 4)
    (w := 0x40000E3 + a * 0x8000 + l * 0x400000) (n := 4) rfl rfl rfl rfl
    (fun h => by simp only [fit, Bool.and_eq_true, decide_eq_true_eq] at h; omega) ((lengthOf_low 227 (by omega)).trans rfl)
theorem Layout.rgnFlush (a l : Nat) : Layout.Statement (.rgnFlush a l) :=
  Layout.of (p := fit a 7 && fit l 4)
    (w := 0x80000E3 + a * 0x8000 + l * 0x400000) (n := 4) rfl rfl rfl rfl
    (fun h => by simp only [fit, Bool.and_eq_true, decide_eq_true_eq] at h; omega) ((lengthOf_low 227 (by omega)).trans rfl)
theorem Layout.rgnDrop (a l : Nat) : Layout.Statement (.rgnDrop a l) :=
  Layout.of (p := fit a 7 && fit l 4)
    (w := 0xC0000E3 + a * 0x8000 + l * 0x400000) (n := 4) rfl rfl rfl rfl
    (fun h => by simp only [fit, Bool.and_eq_true, decide_eq_true_eq] at h; omega) ((lengthOf_low 227 (by omega)).trans rfl)
theorem Layout.rgnStat (d a l : Nat) : Layout.Statement (.rgnStat d a l) :=
  Layout.of (p := fit d 7 && fit a 7 && fit l 4)
    (w := 0x100000E3 + d * 0x100 + a * 0x8000 + l * 0x400000) (n := 4) rfl rfl rfl rfl
    (fun h => by simp only [fit, Bool.and_eq_true, decide_eq_true_eq] at h; omega) ((lengthOf_low 227 (by omega)).trans rfl)
theorem Layout.tbarInit (a l : Nat) : Layout.Statement (.tbarInit a l) :=
  Layout.of (p := fit a 7 && fit l 4)
    (w := 0xE5 + a * 0x8000 + l * 0x400000) (n := 4) rfl rfl rfl rfl
    (fun h => by simp only [fit, Bool.and_eq_true, decide_eq_true_eq] at h; omega) ((lengthOf_low 229 (by omega)).trans rfl)
theorem Layout.tbarArrive (a l : Nat) : Layout.Statement (.tbarArrive a l) :=
  Layout.of (p := fit a 7 && fit l 4)
    (w := 0x40000E5 + a * 0x8000 + l * 0x400000) (n := 4) rfl rfl rfl rfl
    (fun h => by simp only [fit, Bool.and_eq_true, decide_eq_true_eq] at h; omega) ((lengthOf_low 229 (by omega)).trans rfl)
theorem Layout.tbarWait (a l : Nat) : Layout.Statement (.tbarWait a l) :=
  Layout.of (p := fit a 7 && fit l 4)
    (w := 0x80000E5 + a * 0x8000 + l * 0x400000) (n := 4) rfl rfl rfl rfl
    (fun h => by simp only [fit, Bool.and_eq_true, decide_eq_true_eq] at h; omega) ((lengthOf_low 229 (by omega)).trans rfl)
theorem Layout.tbarTest (d a l : Nat) : Layout.Statement (.tbarTest d a l) :=
  Layout.of (p := fit d 7 && fit a 7 && fit l 4)
    (w := 0xC0000E5 + d * 0x100 + a * 0x8000 + l * 0x400000) (n := 4) rfl rfl rfl rfl
    (fun h => by simp only [fit, Bool.and_eq_true, decide_eq_true_eq] at h; omega) ((lengthOf_low 229 (by omega)).trans rfl)
theorem Layout.tbarRead (d a l : Nat) : Layout.Statement (.tbarRead d a l) :=
  Layout.of (p := fit d 7 && fit a 7 && fit l 4)
    (w := 0x100000E5 + d * 0x100 + a * 0x8000 + l * 0x400000) (n := 4) rfl rfl rfl rfl
    (fun h => by simp only [fit, Bool.and_eq_true, decide_eq_true_eq] at h; omega) ((lengthOf_low 229 (by omega)).trans rfl)
theorem Layout.chain (a l : Nat) : Layout.Statement (.chain a l) :=
  Layout.of (p := fit a 7 && fit l 4)
    (w := 0xE7 + a * 0x8000 + l * 0x400000) (n := 4) rfl rfl rfl rfl
    (fun h => by simp only [fit, Bool.and_eq_true, decide_eq_true_eq] at h; omega) ((lengthOf_low 231 (by omega)).trans rfl)
theorem Layout.rcap (d b n l : Nat) : Layout.Statement (.rcap d b n l) :=
  Layout.of (p := fit d 7 && fit b 7 && fit n 3 && fit l 4)
    (w := 0xE9 + d * 0x100 + b * 0x8000 + l * 0x400000 + n * 0x10000000) (n := 4) rfl rfl rfl rfl
    (fun h => by simp only [fit, Bool.and_eq_true, decide_eq_true_eq] at h; omega) ((lengthOf_low 233 (by omega)).trans rfl)
theorem Layout.rcapL (d b n l : Nat) : Layout.Statement (.rcapL d b n l) :=
  Layout.of (p := fit d 7 && fit b 7 && fit n 3 && fit l 4)
    (w := 0x40000E9 + d * 0x100 + b * 0x8000 + l * 0x400000 + n * 0x10000000) (n := 4) rfl rfl rfl rfl
    (fun h => by simp only [fit, Bool.and_eq_true, decide_eq_true_eq] at h; omega) ((lengthOf_low 233 (by omega)).trans rfl)
theorem Layout.arm (d n l : Nat) : Layout.Statement (.arm d n l) :=
  Layout.of (p := fit d 7 && fit n 3 && fit l 4)
    (w := 0x80000E9 + d * 0x100 + l * 0x400000 + n * 0x10000000) (n := 4) rfl rfl rfl rfl
    (fun h => by simp only [fit, Bool.and_eq_true, decide_eq_true_eq] at h; omega) ((lengthOf_low 233 (by omega)).trans rfl)
theorem Layout.sendstat (d c l : Nat) : Layout.Statement (.sendstat d c l) :=
  Layout.of (p := fit d 7 && fit c 1 && fit l 4)
    (w := 0xC0000E9 + d * 0x100 + l * 0x400000 + c * 0x80000000) (n := 4) rfl rfl rfl rfl
    (fun h => by simp only [fit, Bool.and_eq_true, decide_eq_true_eq] at h; omega) ((lengthOf_low 233 (by omega)).trans rfl)
theorem Layout.sendW (d a k s r l : Nat) : Layout.Statement (.sendW d a k s r l) :=
  Layout.of (p := fit d 7 && fit a 7 && fit k 3 && fit s 3 && fit r 1 && fit l 4)
    (w := 0xEB + d * 0x100 + a * 0x8000 + l * 0x400000 + r * 0x8000000 + k * 0x100000000 + s * 0x800000000) (n := 8) rfl rfl rfl rfl
    (fun h => by simp only [fit, Bool.and_eq_true, decide_eq_true_eq] at h; omega) ((lengthOf_low 235 (by omega)).trans rfl)
theorem Layout.sendL (d a k s r l : Nat) : Layout.Statement (.sendL d a k s r l) :=
  Layout.of (p := fit d 7 && fit a 7 && fit k 3 && fit s 3 && fit r 1 && fit l 4)
    (w := 0x40000EB + d * 0x100 + a * 0x8000 + l * 0x400000 + r * 0x8000000 + k * 0x100000000 + s * 0x800000000) (n := 8) rfl rfl rfl rfl
    (fun h => by simp only [fit, Bool.and_eq_true, decide_eq_true_eq] at h; omega) ((lengthOf_low 235 (by omega)).trans rfl)
theorem Layout.qput (d a l : Nat) : Layout.Statement (.qput d a l) :=
  Layout.of (p := fit d 7 && fit a 7 && fit l 4)
    (w := 0xED + d * 0x100 + a * 0x8000 + l * 0x400000) (n := 4) rfl rfl rfl rfl
    (fun h => by simp only [fit, Bool.and_eq_true, decide_eq_true_eq] at h; omega) ((lengthOf_low 237 (by omega)).trans rfl)
theorem Layout.ntfRead (d a l : Nat) : Layout.Statement (.ntfRead d a l) :=
  Layout.of (p := fit d 7 && fit a 7 && fit l 4)
    (w := 0xEF + d * 0x100 + a * 0x8000 + l * 0x400000) (n := 4) rfl rfl rfl rfl
    (fun h => by simp only [fit, Bool.and_eq_true, decide_eq_true_eq] at h; omega) ((lengthOf_low 239 (by omega)).trans rfl)
theorem Layout.ntfWait (d a : Nat) : Layout.Statement (.ntfWait d a) :=
  Layout.of (p := fit d 7 && fit a 7)
    (w := 0x40000EF + d * 0x100 + a * 0x8000) (n := 4) rfl rfl rfl rfl
    (fun h => by simp only [fit, Bool.and_eq_true, decide_eq_true_eq] at h; omega) ((lengthOf_low 239 (by omega)).trans rfl)
theorem Layout.ntfWrite (d a l : Nat) : Layout.Statement (.ntfWrite d a l) :=
  Layout.of (p := fit d 7 && fit a 7 && fit l 4)
    (w := 0x80000EF + d * 0x100 + a * 0x8000 + l * 0x400000) (n := 4) rfl rfl rfl rfl
    (fun h => by simp only [fit, Bool.and_eq_true, decide_eq_true_eq] at h; omega) ((lengthOf_low 239 (by omega)).trans rfl)
theorem Layout.sqProp (d a l : Nat) : Layout.Statement (.sqProp d a l) :=
  Layout.of (p := fit d 7 && fit a 7 && fit l 4)
    (w := 0xF1 + d * 0x100 + a * 0x8000 + l * 0x400000) (n := 4) rfl rfl rfl rfl
    (fun h => by simp only [fit, Bool.and_eq_true, decide_eq_true_eq] at h; omega) ((lengthOf_low 241 (by omega)).trans rfl)
theorem Layout.sqVerify (d a l : Nat) : Layout.Statement (.sqVerify d a l) :=
  Layout.of (p := fit d 7 && fit a 7 && fit l 4)
    (w := 0x40000F1 + d * 0x100 + a * 0x8000 + l * 0x400000) (n := 4) rfl rfl rfl rfl
    (fun h => by simp only [fit, Bool.and_eq_true, decide_eq_true_eq] at h; omega) ((lengthOf_low 241 (by omega)).trans rfl)
theorem Layout.sqCommit (d a : Nat) : Layout.Statement (.sqCommit d a) :=
  Layout.of (p := fit d 7 && fit a 7)
    (w := 0x80000F1 + d * 0x100 + a * 0x8000) (n := 4) rfl rfl rfl rfl
    (fun h => by simp only [fit, Bool.and_eq_true, decide_eq_true_eq] at h; omega) ((lengthOf_low 241 (by omega)).trans rfl)
theorem Layout.sqCommitD (d a : Nat) : Layout.Statement (.sqCommitD d a) :=
  Layout.of (p := fit d 7 && fit a 7)
    (w := 0xC0000F1 + d * 0x100 + a * 0x8000) (n := 4) rfl rfl rfl rfl
    (fun h => by simp only [fit, Bool.and_eq_true, decide_eq_true_eq] at h; omega) ((lengthOf_low 241 (by omega)).trans rfl)
theorem Layout.sqNext (d a l : Nat) : Layout.Statement (.sqNext d a l) :=
  Layout.of (p := fit d 7 && fit a 7 && fit l 4)
    (w := 0x100000F1 + d * 0x100 + a * 0x8000 + l * 0x400000) (n := 4) rfl rfl rfl rfl
    (fun h => by simp only [fit, Bool.and_eq_true, decide_eq_true_eq] at h; omega) ((lengthOf_low 241 (by omega)).trans rfl)
theorem Layout.sqWatch (d a l : Nat) : Layout.Statement (.sqWatch d a l) :=
  Layout.of (p := fit d 7 && fit a 7 && fit l 4)
    (w := 0x140000F1 + d * 0x100 + a * 0x8000 + l * 0x400000) (n := 4) rfl rfl rfl rfl
    (fun h => by simp only [fit, Bool.and_eq_true, decide_eq_true_eq] at h; omega) ((lengthOf_low 241 (by omega)).trans rfl)
theorem Layout.sqRead (d a l : Nat) : Layout.Statement (.sqRead d a l) :=
  Layout.of (p := fit d 7 && fit a 7 && fit l 4)
    (w := 0x180000F1 + d * 0x100 + a * 0x8000 + l * 0x400000) (n := 4) rfl rfl rfl rfl
    (fun h => by simp only [fit, Bool.and_eq_true, decide_eq_true_eq] at h; omega) ((lengthOf_low 241 (by omega)).trans rfl)
theorem Layout.sqCtlOpen (d l : Nat) : Layout.Statement (.sqCtlOpen d l) :=
  Layout.of (p := fit d 7 && fit l 4)
    (w := 0x1C0000F1 + d * 0x100 + l * 0x400000) (n := 4) rfl rfl rfl rfl
    (fun h => by simp only [fit, Bool.and_eq_true, decide_eq_true_eq] at h; omega) ((lengthOf_low 241 (by omega)).trans rfl)
theorem Layout.sqCtlClose (d a l : Nat) : Layout.Statement (.sqCtlClose d a l) :=
  Layout.of (p := fit d 7 && fit a 7 && fit l 4)
    (w := 0x3C0000F1 + d * 0x100 + a * 0x8000 + l * 0x400000) (n := 4) rfl rfl rfl rfl
    (fun h => by simp only [fit, Bool.and_eq_true, decide_eq_true_eq] at h; omega) ((lengthOf_low 241 (by omega)).trans rfl)
theorem Layout.sqCtlResume (d a l : Nat) : Layout.Statement (.sqCtlResume d a l) :=
  Layout.of (p := fit d 7 && fit a 7 && fit l 4)
    (w := 0x5C0000F1 + d * 0x100 + a * 0x8000 + l * 0x400000) (n := 4) rfl rfl rfl rfl
    (fun h => by simp only [fit, Bool.and_eq_true, decide_eq_true_eq] at h; omega) ((lengthOf_low 241 (by omega)).trans rfl)
theorem Layout.sqCtlSetclass (d a l : Nat) : Layout.Statement (.sqCtlSetclass d a l) :=
  Layout.of (p := fit d 7 && fit a 7 && fit l 4)
    (w := 0x7C0000F1 + d * 0x100 + a * 0x8000 + l * 0x400000) (n := 4) rfl rfl rfl rfl
    (fun h => by simp only [fit, Bool.and_eq_true, decide_eq_true_eq] at h; omega) ((lengthOf_low 241 (by omega)).trans rfl)
theorem Layout.sqCtlSetmask (d a l : Nat) : Layout.Statement (.sqCtlSetmask d a l) :=
  Layout.of (p := fit d 7 && fit a 7 && fit l 4)
    (w := 0x9C0000F1 + d * 0x100 + a * 0x8000 + l * 0x400000) (n := 4) rfl rfl rfl rfl
    (fun h => by simp only [fit, Bool.and_eq_true, decide_eq_true_eq] at h; omega) ((lengthOf_low 241 (by omega)).trans rfl)
theorem Layout.sqCtlSetcnt (d a l : Nat) : Layout.Statement (.sqCtlSetcnt d a l) :=
  Layout.of (p := fit d 7 && fit a 7 && fit l 4)
    (w := 0xBC0000F1 + d * 0x100 + a * 0x8000 + l * 0x400000) (n := 4) rfl rfl rfl rfl
    (fun h => by simp only [fit, Bool.and_eq_true, decide_eq_true_eq] at h; omega) ((lengthOf_low 241 (by omega)).trans rfl)
theorem Layout.sqCtlClrdraft (d a l : Nat) : Layout.Statement (.sqCtlClrdraft d a l) :=
  Layout.of (p := fit d 7 && fit a 7 && fit l 4)
    (w := 0xDC0000F1 + d * 0x100 + a * 0x8000 + l * 0x400000) (n := 4) rfl rfl rfl rfl
    (fun h => by simp only [fit, Bool.and_eq_true, decide_eq_true_eq] at h; omega) ((lengthOf_low 241 (by omega)).trans rfl)
theorem Layout.sqCtlClrfq (d a l : Nat) : Layout.Statement (.sqCtlClrfq d a l) :=
  Layout.of (p := fit d 7 && fit a 7 && fit l 4)
    (w := 0xFC0000F1 + d * 0x100 + a * 0x8000 + l * 0x400000) (n := 4) rfl rfl rfl rfl
    (fun h => by simp only [fit, Bool.and_eq_true, decide_eq_true_eq] at h; omega) ((lengthOf_low 241 (by omega)).trans rfl)
theorem Layout.sysr (d n : Nat) : Layout.Statement (.sysr d n) :=
  Layout.of (p := fit d 7 && fit n 10)
    (w := 0xF3 + d * 0x100 + n * 0x400000) (n := 4) rfl rfl rfl rfl
    (fun h => by simp only [fit, Bool.and_eq_true, decide_eq_true_eq] at h; omega) ((lengthOf_low 243 (by omega)).trans rfl)
theorem Layout.sysw (a n : Nat) : Layout.Statement (.sysw a n) :=
  Layout.of (p := fit a 7 && fit n 10)
    (w := 0xF5 + a * 0x8000 + n * 0x400000) (n := 4) rfl rfl rfl rfl
    (fun h => by simp only [fit, Bool.and_eq_true, decide_eq_true_eq] at h; omega) ((lengthOf_low 245 (by omega)).trans rfl)
theorem Layout.eret : Layout.Statement .eret := ⟨fun _ => by decide, fun h => by cases h⟩
theorem Layout.halt : Layout.Statement .halt := ⟨fun _ => by decide, fun h => by cases h⟩
theorem Layout.wfe : Layout.Statement .wfe := ⟨fun _ => by decide, fun h => by cases h⟩
theorem Layout.tlbinvPage (a : Nat) : Layout.Statement (.tlbinvPage a) :=
  Layout.of (p := fit a 7)
    (w := 0xF9 + a * 0x8000) (n := 4) rfl rfl rfl rfl
    (fun h => by simp only [fit, Bool.and_eq_true, decide_eq_true_eq] at h; omega) ((lengthOf_low 249 (by omega)).trans rfl)
theorem Layout.tlbinvPart (a : Nat) : Layout.Statement (.tlbinvPart a) :=
  Layout.of (p := fit a 7)
    (w := 0x200000F9 + a * 0x8000) (n := 4) rfl rfl rfl rfl
    (fun h => by simp only [fit, Bool.and_eq_true, decide_eq_true_eq] at h; omega) ((lengthOf_low 249 (by omega)).trans rfl)
theorem Layout.tlbinvAll : Layout.Statement .tlbinvAll := ⟨fun _ => by decide, fun h => by cases h⟩
theorem Layout.bundleIssue : Layout.Statement .bundleIssue := Layout.ofEvent rfl
theorem Layout.instructionComplete : Layout.Statement .instructionComplete := Layout.ofEvent rfl
theorem Layout.waveRetire : Layout.Statement .waveRetire := Layout.ofEvent rfl
theorem Layout.blockRetire : Layout.Statement .blockRetire := Layout.ofEvent rfl
theorem Layout.loadDataReturn : Layout.Statement .loadDataReturn := Layout.ofEvent rfl
theorem Layout.storeAcknowledged : Layout.Statement .storeAcknowledged := Layout.ofEvent rfl
theorem Layout.atomicAtHome : Layout.Statement .atomicAtHome := Layout.ofEvent rfl
theorem Layout.inboundSectorWritten : Layout.Statement .inboundSectorWritten := Layout.ofEvent rfl
theorem Layout.outboundSectorAck : Layout.Statement .outboundSectorAck := Layout.ofEvent rfl
theorem Layout.reduceOnStoreCombine : Layout.Statement .reduceOnStoreCombine := Layout.ofEvent rfl
theorem Layout.multicastLanding : Layout.Statement .multicastLanding := Layout.ofEvent rfl
theorem Layout.copyComplete : Layout.Statement .copyComplete := Layout.ofEvent rfl
theorem Layout.copyFail : Layout.Statement .copyFail := Layout.ofEvent rfl
theorem Layout.ratomAtTarget : Layout.Statement .ratomAtTarget := Layout.ofEvent rfl
theorem Layout.ratomAcknowledged : Layout.Statement .ratomAcknowledged := Layout.ofEvent rfl
theorem Layout.chainStart : Layout.Statement .chainStart := Layout.ofEvent rfl
theorem Layout.chainComplete : Layout.Statement .chainComplete := Layout.ofEvent rfl
theorem Layout.mmaRendezvous : Layout.Statement .mmaRendezvous := Layout.ofEvent rfl
theorem Layout.matrixOperationComplete : Layout.Statement .matrixOperationComplete := Layout.ofEvent rfl
theorem Layout.laneWriteDecided : Layout.Statement .laneWriteDecided := Layout.ofEvent rfl
theorem Layout.laneWriteForward : Layout.Statement .laneWriteForward := Layout.ofEvent rfl
theorem Layout.sendOutcomeReturn : Layout.Statement .sendOutcomeReturn := Layout.ofEvent rfl
theorem Layout.vesperReply : Layout.Statement .vesperReply := Layout.ofEvent rfl
theorem Layout.queueInsertion : Layout.Statement .queueInsertion := Layout.ofEvent rfl
theorem Layout.launchBegin : Layout.Statement .launchBegin := Layout.ofEvent rfl
theorem Layout.launchComplete : Layout.Statement .launchComplete := Layout.ofEvent rfl
theorem Layout.collectiveBegin : Layout.Statement .collectiveBegin := Layout.ofEvent rfl
theorem Layout.waitBegin : Layout.Statement .waitBegin := Layout.ofEvent rfl
theorem Layout.waitPoll : Layout.Statement .waitPoll := Layout.ofEvent rfl
theorem Layout.signalBegin : Layout.Statement .signalBegin := Layout.ofEvent rfl
theorem Layout.signalComplete : Layout.Statement .signalComplete := Layout.ofEvent rfl
theorem Layout.fencePacket : Layout.Statement .fencePacket := Layout.ofEvent rfl
theorem Layout.markerPacket : Layout.Statement .markerPacket := Layout.ofEvent rfl
theorem Layout.nopPacket : Layout.Statement .nopPacket := Layout.ofEvent rfl
theorem Layout.placementOpportunity : Layout.Statement .placementOpportunity := Layout.ofEvent rfl
theorem Layout.epochBoundary : Layout.Statement .epochBoundary := Layout.ofEvent rfl
theorem Layout.capReached : Layout.Statement .capReached := Layout.ofEvent rfl
theorem Layout.matinsPreempt : Layout.Statement .matinsPreempt := Layout.ofEvent rfl
theorem Layout.saveComplete : Layout.Statement .saveComplete := Layout.ofEvent rfl
theorem Layout.deferredHaltSave : Layout.Statement .deferredHaltSave := Layout.ofEvent rfl
theorem Layout.contextResume : Layout.Statement .contextResume := Layout.ofEvent rfl
theorem Layout.restoreComplete : Layout.Statement .restoreComplete := Layout.ofEvent rfl
theorem Layout.handlerEntry : Layout.Statement .handlerEntry := Layout.ofEvent rfl
theorem Layout.breakpointPcStop : Layout.Statement .breakpointPcStop := Layout.ofEvent rfl
theorem Layout.stopComplete : Layout.Statement .stopComplete := Layout.ofEvent rfl
theorem Layout.pageWalkComplete : Layout.Statement .pageWalkComplete := Layout.ofEvent rfl
theorem Layout.tlbinvComplete : Layout.Statement .tlbinvComplete := Layout.ofEvent rfl
theorem Layout.uncorrectableError : Layout.Statement .uncorrectableError := Layout.ofEvent rfl
theorem Layout.collectiveStep : Layout.Statement .collectiveStep := Layout.ofEvent rfl
theorem Layout.collectiveComplete : Layout.Statement .collectiveComplete := Layout.ofEvent rfl
theorem Layout.collectiveStepTimeout : Layout.Statement .collectiveStepTimeout := Layout.ofEvent rfl
theorem Layout.suspendNotice : Layout.Statement .suspendNotice := Layout.ofEvent rfl
theorem Layout.resumeNotice : Layout.Statement .resumeNotice := Layout.ofEvent rfl
theorem Layout.suspensionSlotRelease : Layout.Statement .suspensionSlotRelease := Layout.ofEvent rfl
theorem Layout.linkSlotGrant : Layout.Statement .linkSlotGrant := Layout.ofEvent rfl
theorem Layout.cohRead : Layout.Statement .cohRead := Layout.ofEvent rfl
theorem Layout.cohWrite : Layout.Statement .cohWrite := Layout.ofEvent rfl
theorem Layout.cohRollout : Layout.Statement .cohRollout := Layout.ofEvent rfl
theorem Layout.commAddRequest : Layout.Statement .commAddRequest := Layout.ofEvent rfl
theorem Layout.homeAtomicRecall : Layout.Statement .homeAtomicRecall := Layout.ofEvent rfl
theorem Layout.gather : Layout.Statement .gather := Layout.ofEvent rfl
theorem Layout.mirrorUpdate : Layout.Statement .mirrorUpdate := Layout.ofEvent rfl
theorem Layout.agentReport : Layout.Statement .agentReport := Layout.ofEvent rfl
theorem Layout.sliceRebuildComplete : Layout.Statement .sliceRebuildComplete := Layout.ofEvent rfl
theorem Layout.flitArrive : Layout.Statement .flitArrive := Layout.ofEvent rfl
theorem Layout.flitRetry : Layout.Statement .flitRetry := Layout.ofEvent rfl
theorem Layout.remoteAckArrive : Layout.Statement .remoteAckArrive := Layout.ofEvent rfl
theorem Layout.linkReceiveTimeout : Layout.Statement .linkReceiveTimeout := Layout.ofEvent rfl
theorem Layout.linkRetryExhausted : Layout.Statement .linkRetryExhausted := Layout.ofEvent rfl
theorem Layout.keepAlive : Layout.Statement .keepAlive := Layout.ofEvent rfl
theorem Layout.linkTrained : Layout.Statement .linkTrained := Layout.ofEvent rfl
theorem Layout.trainComplete : Layout.Statement .trainComplete := Layout.ofEvent rfl
theorem Layout.controlFlitReissue : Layout.Statement .controlFlitReissue := Layout.ofEvent rfl
theorem Layout.packageReset : Layout.Statement .packageReset := Layout.ofEvent rfl
theorem Layout.thermalThrottle : Layout.Statement .thermalThrottle := Layout.ofEvent rfl
theorem Layout.thermalTrip : Layout.Statement .thermalTrip := Layout.ofEvent rfl
theorem Layout.traceRecord : Layout.Statement .traceRecord := Layout.ofEvent rfl
theorem Layout.tracePageTimeout : Layout.Statement .tracePageTimeout := Layout.ofEvent rfl
theorem Layout.traceSample : Layout.Statement .traceSample := Layout.ofEvent rfl
theorem Layout.laneCycleInterval : Layout.Statement .laneCycleInterval := Layout.ofEvent rfl
theorem Layout.ctxPreempt : Layout.Statement .ctxPreempt := Layout.ofEvent rfl
theorem Layout.ctxHalt : Layout.Statement .ctxHalt := Layout.ofEvent rfl
theorem Layout.ctxRelease : Layout.Statement .ctxRelease := Layout.ofEvent rfl
theorem Layout.ctxKill : Layout.Statement .ctxKill := Layout.ofEvent rfl
theorem Layout.ctxStop : Layout.Statement .ctxStop := Layout.ofEvent rfl
theorem Layout.ctxContinue : Layout.Statement .ctxContinue := Layout.ofEvent rfl
theorem Layout.ctxSignal : Layout.Statement .ctxSignal := Layout.ofEvent rfl
theorem Layout.ctxSetdbg0 : Layout.Statement .ctxSetdbg0 := Layout.ofEvent rfl
theorem Layout.ctxSetdbg1 : Layout.Statement .ctxSetdbg1 := Layout.ofEvent rfl
theorem Layout.vopOpen : Layout.Statement .vopOpen := Layout.ofEvent rfl
theorem Layout.vopClose : Layout.Statement .vopClose := Layout.ofEvent rfl
theorem Layout.vopResume : Layout.Statement .vopResume := Layout.ofEvent rfl
theorem Layout.vopSetclass : Layout.Statement .vopSetclass := Layout.ofEvent rfl
theorem Layout.vopSetmask : Layout.Statement .vopSetmask := Layout.ofEvent rfl
theorem Layout.vopSetcnt : Layout.Statement .vopSetcnt := Layout.ofEvent rfl
theorem Layout.vopClrdraft : Layout.Statement .vopClrdraft := Layout.ofEvent rfl
theorem Layout.vopClrfq : Layout.Statement .vopClrfq := Layout.ofEvent rfl
theorem Layout.vopInstall : Layout.Statement .vopInstall := Layout.ofEvent rfl
theorem Layout.vdataWrite : Layout.Statement .vdataWrite := Layout.ofEvent rfl
theorem Layout.vnhiWrite : Layout.Statement .vnhiWrite := Layout.ofEvent rfl
theorem Layout.vnpendClear : Layout.Statement .vnpendClear := Layout.ofEvent rfl
theorem Layout.gcmdWrite : Layout.Statement .gcmdWrite := Layout.ofEvent rfl
theorem Layout.cmregionWrite : Layout.Statement .cmregionWrite := Layout.ofEvent rfl
theorem Layout.cmwindowWrite : Layout.Statement .cmwindowWrite := Layout.ofEvent rfl
theorem Layout.queuePause : Layout.Statement .queuePause := Layout.ofEvent rfl
theorem Layout.queueUnpause : Layout.Statement .queueUnpause := Layout.ofEvent rfl
theorem Layout.queueEvict : Layout.Statement .queueEvict := Layout.ofEvent rfl
theorem Layout.queueReset : Layout.Statement .queueReset := Layout.ofEvent rfl
theorem Layout.qctlWrite : Layout.Statement .qctlWrite := Layout.ofEvent rfl
theorem Layout.qputRegister : Layout.Statement .qputRegister := Layout.ofEvent rfl
theorem Layout.pmaskWrite : Layout.Statement .pmaskWrite := Layout.ofEvent rfl
theorem Layout.lseedWrite : Layout.Statement .lseedWrite := Layout.ofEvent rfl
theorem Layout.evsizeWrite : Layout.Statement .evsizeWrite := Layout.ofEvent rfl
theorem Layout.rootWrite : Layout.Statement .rootWrite := Layout.ofEvent rfl
theorem Layout.domselfWrite : Layout.Statement .domselfWrite := Layout.ofEvent rfl
theorem Layout.chmapWrite : Layout.Statement .chmapWrite := Layout.ofEvent rfl
theorem Layout.dmpkgWrite : Layout.Statement .dmpkgWrite := Layout.ofEvent rfl
theorem Layout.partitionSeal : Layout.Statement .partitionSeal := Layout.ofEvent rfl
theorem Layout.partitionDissolve : Layout.Statement .partitionDissolve := Layout.ofEvent rfl
theorem Layout.dissolutionEnd : Layout.Statement .dissolutionEnd := Layout.ofEvent rfl
theorem Layout.firewallWindowWrite : Layout.Statement .firewallWindowWrite := Layout.ofEvent rfl
theorem Layout.traceEnable : Layout.Statement .traceEnable := Layout.ofEvent rfl
theorem Layout.traceDisable : Layout.Statement .traceDisable := Layout.ofEvent rfl
theorem Layout.verify : Layout.Statement .verify := Layout.ofEvent rfl
theorem Layout.leavedawn : Layout.Statement .leavedawn := Layout.ofEvent rfl
theorem Layout.train : Layout.Statement .train := Layout.ofEvent rfl
theorem Layout.pkgnumWrite : Layout.Statement .pkgnumWrite := Layout.ofEvent rfl
theorem Layout.feataccWrite : Layout.Statement .feataccWrite := Layout.ofEvent rfl
theorem Layout.peerDeclare : Layout.Statement .peerDeclare := Layout.ofEvent rfl
theorem Layout.peerAdmit : Layout.Statement .peerAdmit := Layout.ofEvent rfl
theorem Layout.pwrcapWrite : Layout.Statement .pwrcapWrite := Layout.ofEvent rfl
theorem Layout.registerWrite : Layout.Statement .registerWrite := Layout.ofEvent rfl
theorem Layout.dieCoolsBelow100c : Layout.Statement .dieCoolsBelow100c := Layout.ofEvent rfl
theorem Layout.packagePowerOverPwrcap : Layout.Statement .packagePowerOverPwrcap := Layout.ofEvent rfl
theorem Layout.pcieControlMemoryAccess : Layout.Statement .pcieControlMemoryAccess := Layout.ofEvent rfl

end Sys2Proof.Laws
end

