-- ==== Sys2Proof/Laws/Shapes.lean ====
section
/-! SUPPORT. Laws/Shapes.lean: from an instruction's arm of exec, by its shape, to what the instruction does. -/
namespace Sys2Proof.Machine

theorem writes1_of {i : Instr} {d a : Nat} {f g : Word → Word} (he : ∀ s, exec i s = lane1 i s d a f)
    (hg : ∀ x, f x = g x) : Writes1 i d a g :=
  computes_one (f := fun v l => f (v.reg a l)) he fun _ _ => hg _

theorem writes2_of {i : Instr} {d a b : Nat} {f g : Word → Word → Word} (he : ∀ s, exec i s = lane2 i s d a b f)
    (hg : ∀ x y, f x y = g x y) : Writes2 i d a b g :=
  computes_one (f := fun v l => f (v.reg a l) (v.reg b l)) he fun _ _ => hg _ _

theorem writes3_of {i : Instr} {d a b : Nat} {f g : Word → Word → Word → Word}
    (he : ∀ s, exec i s = lane3 i s d a b f) (hg : ∀ x y z, f x y z = g x y z) : Writes3 i d a b g :=
  computes_one (f := fun v l => f (v.reg a l) (v.reg b l) (v.reg d l)) he fun _ _ => hg _ _ _

theorem two_regs {d : Nat} {y z : Word} : ∀ p ∈ [(d, y), (d + 1, z)], ∀ q ∈ [(d, y), (d + 1, z)], p.1 = q.1 → p.2 = q.2 := by
  simp

/-- Two result registers. -/
theorem computes_pair {i : Instr} {d : Nat} {f : Wave → Nat → List (Nat × Word)} {g h : Wave → Nat → Word}
    (he : ∀ s, exec i s = perLane i s fun _ => f) (hg : ∀ v l, f v l = [(d, g v l), (d + 1, h v l)]) :
    Computes i fun v l => [(d, g v l), (d + 1, h v l)] :=
  computes_of he (fun _ v l => hg v l) fun _ _ => two_regs

/-- Results with flags. -/
theorem computesFlags_of {i : Instr} {q : Nat} {f g : Wave → Nat → List (Nat × Word) × Nat}
    (he : ∀ s, exec i s = perLaneFlags i s q f) (hg : ∀ v l, f v l = g v l)
    (hf : ∀ v l, ∀ p ∈ (g v l).1, ∀ q ∈ (g v l).1, p.1 = q.1 → p.2 = q.2) : ComputesFlags i q g := by
  have : f = g := by funext v l; exact hg v l
  subst this
  intro s b x v act h
  rw [he]
  exact perLaneFlags_does h q f (hf v)

/-- One result register with flags. -/
theorem computesFlags_one {i : Instr} {q d : Nat} {f g : Wave → Nat → Word × Nat}
    (he : ∀ s, exec i s = perLaneFlags i s q fun v l => ([(d, (f v l).1)], (f v l).2)) (hg : ∀ v l, f v l = g v l) :
    ComputesFlags i q fun v l => ([(d, (g v l).1)], (g v l).2) := by
  refine computesFlags_of he (fun v l => by rw [hg]) ?_
  rintro v l p hp q hq -
  simp only [List.mem_singleton] at hp hq
  rw [hp, hq]

/-- The number of the instruction that has just passed is the number it passed with. -/
theorem thisId_pass (i : Instr) (b : Bundle) (act : List Nat) (s : State) : (pass i b act s).thisId = s.nextId := by
  simp [State.thisId, pass_nextId]

/-- An instruction that only changes lanes. -/
theorem lanes_does {i : Instr} {s : State} {b : Bundle} {x : Ctx} {v : Wave} {act : List Nat} (h : Passes i s b x v act)
    (g : Wave → Nat → Lane → Lane) (f : Nat → Lane → Lane)
    (hg : ∀ u : Wave, u.regs = v.regs → u.part = v.part → g u = f) :
    ∃ t, issue i s (fun b _ t => .done (t.modWave b.ctx b.wave fun u =>
        { u with lanes := SMap.mapVals u.lanes (g u) })) = .next t ∧
      Effect i s (s.noteSample b act) b x v act (fun _ => []) f t := by
  refine ⟨_, issue_go h _, ?_⟩
  obtain ⟨aq, sk, ho⟩ := oneWave_pass (act := act) (i := i) h.ctx h.wave
  have h1 := ho.modWave fun u => { u with lanes := SMap.mapVals u.lanes (g u) }
  refine Effect.of h (aq := aq) (sk := sk) (u := { v.pass i b.run act s.nextId s.inFlight with
    lanes := SMap.mapVals (v.pass i b.run act s.nextId s.inFlight).lanes f }) rfl ?_ (fun l => ?_) ?_ rfl
    (pass_clock ..) (by simp)
  · have : laneWrites act (fun _ => []) = [] := by simp [laneWrites]
    rw [this]; rfl
  · refine (SMap.find?_mapVals ..).trans ?_
    exact (congrArg _ (Wave.lane?_pass v i b.run act s.nextId s.inFlight l)).trans (Option.map_map ..)
  · rw [hg { v.pass i b.run act s.nextId s.inFlight with acq := aq, skip := sk } rfl rfl] at h1
    exact h1

/-- An instruction that only goes in flight. -/
theorem inFlight_does {i : Instr} {s : State} {b : Bundle} {x : Ctx} {v : Wave} {act : List Nat}
    (h : Passes i s b x v act) (k : OpKind) (e : Instr) :
    ∃ t, issue i s (fun b act t => .done ((t.launchOp b act k).post e [t.thisId])) = .next t ∧
      Effect i s (((s.noteSample b act).launchAt s.nextId b act k).post e [s.nextId]) b x v act (fun _ => []) (fun _ n => n) t := by
  refine ⟨_, issue_go h _, ?_⟩
  obtain ⟨aq, sk, ho⟩ := oneWave_pass (act := act) (i := i) h.ctx h.wave
  have h1 := (ho.launchAt s.nextId b act k).post e [s.nextId]
  simp only [settle, State.launchOp, thisId_pass]
  refine Effect.of h (aq := aq) (sk := sk) (u := v.pass i b.run act s.nextId s.inFlight) rfl ?_ (fun l => ?_) h1 rfl
    (pass_clock ..) (by simp)
  · have : laneWrites act (fun _ => []) = [] := by simp [laneWrites]
    rw [this]; rfl
  · exact Wave.lane?_pass v i b.run act s.nextId s.inFlight l

/-- Once the checks are passed, only the body's answer for the bundle counts. -/
theorem issue_congr {i : Instr} {s : State} {b : Bundle} {x : Ctx} {v : Wave} {act : List Nat} (h : Passes i s b x v act)
    {body body' : Bundle → List Nat → State → Result}
    (hb : body b act (pass i b act s) = body' b act (pass i b act s)) : issue i s body = issue i s body' := by
  rw [issue_go h, issue_go h, hb]

theorem Passes.isEmpty {i : Instr} {s : State} {b : Bundle} {x : Ctx} {v : Wave} {act : List Nat}
    (h : Passes i s b x v act) : act.isEmpty = false := by
  have := h.active; cases act <;> simp_all

/-- A special-function instruction goes in flight with its results and flags. -/
theorem goesInFlight_sfu {i : Instr} {d a q : Nat} {f : Nat → Nat × Nat} {g : Word → Word × Nat}
    (he : ∀ s, exec i s = sfu i s d a q f) (hg : ∀ x : Word, (word (f x.toNat).1, (f x.toNat).2) = g x) :
    FlagsInFlight i d a q g := by
  have : g = fun x => (word (f x.toNat).1, (f x.toNat).2) := funext fun x => (hg x).symm
  subst this
  intro s b x v act h
  rw [he]
  obtain ⟨t, h1, h2⟩ := inFlight_does h (.result (act.map fun l => (32 * d + l, word (f (v.reg a l).toNat).1))
    (if q = 0 then act.map fun l => (l, (f (v.reg a l).toNat).2) else [])) .instructionComplete
  refine ⟨t, (issue_congr h ?_).trans h1, h2⟩
  simp only [h.wave', h.isEmpty, if_false, Bool.false_eq_true, List.map_map, Function.comp_def]

/-- A value formed over the participants of each lane. -/
theorem does_perTile {i : Instr} {d : Nat} {f : Wave → List Nat → Nat → Word} (he : ∀ s, exec i s = perTile i s d f) :
    Does i (fun _ _ _ v act l => [(d, f v (participants v act l) l)]) fun _ _ _ _ n => n := fun s b x v act h => by
  rw [he]; exact perTile_does h d f

theorem flags1_of {i : Instr} {d a q : Nat} {f : Nat → Nat × Nat} {g : Word → Word × Nat}
    (he : ∀ s, exec i s = float1 i s d a q f) (hg : ∀ x : Word, (word (f x.toNat).1, (f x.toNat).2) = g x) :
    Flags1 i d a q g := by
  have : g = fun x => (word (f x.toNat).1, (f x.toNat).2) := funext fun x => (hg x).symm
  subst this
  exact computesFlags_of he (fun _ _ => rfl) (by simp)

theorem flags2_of {i : Instr} {d a b q : Nat} {f : Nat → Nat → Nat × Nat} {g : Word → Word → Word × Nat}
    (he : ∀ s, exec i s = float2 i s d a b q f)
    (hg : ∀ x y : Word, (word (f x.toNat y.toNat).1, (f x.toNat y.toNat).2) = g x y) : Flags2 i d a b q g := by
  have : g = fun x y => (word (f x.toNat y.toNat).1, (f x.toNat y.toNat).2) := funext fun x => funext fun y => (hg x y).symm
  subst this
  exact computesFlags_of he (fun _ _ => rfl) (by simp)

theorem flags3_of {i : Instr} {d a b c q : Nat} {f : Nat → Nat → Nat → Nat × Nat} {g : Word → Word → Word → Word × Nat}
    (he : ∀ s, exec i s = float3 i s d a b c q f)
    (hg : ∀ x y z : Word, (word (f x.toNat y.toNat z.toNat).1, (f x.toNat y.toNat z.toNat).2) = g x y z) :
    Flags3 i d a b c q g := by
  have : g = fun x y z => (word (f x.toNat y.toNat z.toNat).1, (f x.toNat y.toNat z.toNat).2) :=
    funext fun x => funext fun y => funext fun z => (hg x y z).symm
  subst this
  exact computesFlags_of he (fun _ _ => rfl) (by simp)

/-- Register writes and a change of every lane, after an instruction has passed. -/
theorem effect_regs_lanes {i : Instr} {s : State} {b : Bundle} {x : Ctx} {v : Wave} {act : List Nat}
    (h : Passes i s b x v act) (wr : Nat → List (Nat × Word)) (f : Nat → Lane → Lane)
    (hf : ∀ l, ∀ p ∈ wr l, ∀ q ∈ wr l, p.1 = q.1 → p.2 = q.2) :
    Effect i s (s.noteSample b act) b x v act wr f
      (((pass i b act s).setRegs b.ctx b.wave (laneWrites act wr)).modLanesBy b.ctx b.wave f) := by
  obtain ⟨aq, sk, ho⟩ := oneWave_pass (act := act) (i := i) h.ctx h.wave
  have h1 := (ho.setRegs (laneWrites act wr)).modWave fun u => { u with lanes := SMap.mapVals u.lanes f }
  refine Effect.of h (aq := aq) (sk := sk) (u := { v.pass i b.run act s.nextId s.inFlight with
    regs := (v.setKeys (laneWrites act wr)).regs
    lanes := SMap.mapVals (v.pass i b.run act s.nextId s.inFlight).lanes f }) rfl rfl (fun l => ?_) h1 ?_ ?_ hf
  · refine (SMap.find?_mapVals ..).trans ?_
    exact (congrArg _ (Wave.lane?_pass v i b.run act s.nextId s.inFlight l)).trans (Option.map_map ..)
  · exact cur_setRegs ..
  · exact (clock_setRegs ..).trans (pass_clock ..)

/-- A change of every lane, after an instruction has passed. -/
theorem effect_lanes {i : Instr} {s : State} {b : Bundle} {x : Ctx} {v : Wave} {act : List Nat}
    (h : Passes i s b x v act) (f : Nat → Lane → Lane) :
    Effect i s (s.noteSample b act) b x v act (fun _ => []) f ((pass i b act s).modLanesBy b.ctx b.wave f) := by
  have := effect_regs_lanes h (fun _ => []) f (by simp)
  have e : laneWrites act (fun _ => []) = [] := by simp [laneWrites]
  rw [e] at this; exact this

/-- An instruction that has passed its checks passes. -/
theorem passed_pass {i : Instr} {s : State} {b : Bundle} {x : Ctx} {v : Wave} {act : List Nat}
    (h : Passes i s b x v act) : Passed i s b x v act (pass i b act s) := by
  refine ⟨?_, rfl⟩
  obtain ⟨aq, sk, ho⟩ := oneWave_pass (act := act) (i := i) h.ctx h.wave
  refine Effect.of h (aq := aq) (sk := sk) (u := v.pass i b.run act s.nextId s.inFlight) rfl ?_ (fun l => ?_) ho rfl
    (pass_clock ..) (by simp)
  · have : laneWrites act (fun _ => []) = [] := by simp [laneWrites]
    rw [this]; rfl
  · exact Wave.lane?_pass v i b.run act s.nextId s.inFlight l

/-- An instruction passes, and then its body settles. -/
theorem passesThen_of {i : Instr} {body : State → Bundle → List Nat → State → Result}
    {g : State → Bundle → Ctx → Wave → List Nat → State → State} (he : ∀ s, exec i s = issue i s (body s))
    (hg : ∀ s b x v act, Passes i s b x v act →
      settle b s (body s b act (pass i b act s)) = g s b x v act (pass i b act s)) : PassesThen i g :=
  fun s b x v act h => ⟨_, passed_pass h, by rw [he, issue_go h, hg s b x v act h]⟩

end Sys2Proof.Machine
end

