-- ==== Sys2Proof/Laws/Work.lean ====
section
/-! SUPPORT. Laws/Work.lean: what the end of an operation in flight leaves alone. -/
namespace Sys2Proof.Machine

/-- Only the agenda has changed, and only by events that have come. -/
structure Posted (s t : State) : Prop where
  outside : { t with agenda := [] } = { s with agenda := [] }
  agenda : ∃ es, t.agenda = s.agenda ++ es

theorem Posted.refl (s : State) : Posted s s := ⟨rfl, [], by simp⟩
theorem Posted.post (s : State) (e : Instr) (as : List Nat) : Posted s (s.post e as) := ⟨rfl, _, rfl⟩
theorem Posted.trans {s t u : State} (h : Posted s t) (h' : Posted t u) : Posted s u := by
  obtain ⟨a, es, e⟩ := h
  obtain ⟨a', es', e'⟩ := h'
  exact ⟨a'.trans a, es ++ es', by rw [e', e, List.append_assoc]⟩

theorem Posted.foldl {α : Type} (g : State → α → State) (hg : ∀ t a, Posted t (g t a)) (as : List α) (s : State) :
    Posted s (as.foldl g s) := by
  induction as generalizing s with
  | nil => exact Posted.refl s
  | cons a as ih => exact (hg s a).trans (ih _)

theorem posted_afterWork (s : State) (c w : Nat) : Posted s (s.afterWork c w) := by
  unfold State.afterWork
  dsimp only
  repeat' split
  all_goals first
    | exact Posted.refl _
    | exact Posted.post ..
    | exact (Posted.post ..).trans (Posted.post ..)
    | exact ((Posted.post ..).trans (Posted.post ..)).trans (Posted.post ..)

/-- The end of an operation: it is in flight no more, nothing waits for it, and events have come. -/
theorem endOp_posted {s : State} {id : Nat} {o : Op} (h : s.op? id = some o) :
    Posted { s with ops := SMap.mapVals (SMap.erase s.ops id) fun _ p => { p with kind := p.kind.without id } } (s.endOp id) := by
  unfold State.endOp
  rw [h]
  refine Posted.trans ?_ ((posted_afterWork _ o.ctx o.wave).trans (Posted.foldl _ (fun t c => posted_afterWork t c 0) _ _))
  have hp := Posted.foldl (fun (t : State) (e : Nat × Op) => t.post e.2.kind.endEvent [e.1]) (fun t a => Posted.post ..)
    (s.ops.filter fun (_, p) => p.kind.waitsFor id) s
  generalize (List.foldl _ s _ : State) = t at hp
  exact ⟨(congrArg (fun r : State => { r with ops := SMap.mapVals (SMap.erase s.ops id) fun _ p =>
    { p with kind := p.kind.without id } }) hp.outside :), hp.agenda⟩

/-- The end of an operation changes the operations in flight and the agenda alone. -/
theorem endOp_outside (s : State) (id : Nat) :
    { s.endOp id with ops := [], agenda := [] } = { s with ops := [], agenda := [] } := by
  cases h : s.op? id with
  | none => unfold State.endOp; rw [h]
  | some o => exact (congrArg (fun r : State => { r with ops := [] }) (endOp_posted h).outside :)

/-- An operation that has ended is in flight no more. -/
theorem op?_endOp_self (s : State) (id : Nat) : (s.endOp id).op? id = none := by
  cases h : s.op? id with
  | none => unfold State.endOp; rw [h]; exact h
  | some o =>
    have h2 : (s.endOp id).ops = _ := (congrArg State.ops (endOp_posted h).outside :)
    unfold State.op?
    rw [h2]
    dsimp only
    rw [SMap.find?_mapVals, SMap.find?_erase, if_pos rfl]
    rfl

theorem ctxs_endOp (s : State) (id : Nat) : (s.endOp id).ctxs = s.ctxs := (congrArg State.ctxs (endOp_outside s id) :)
theorem mem_endOp (s : State) (id : Nat) : (s.endOp id).mem = s.mem := (congrArg State.mem (endOp_outside s id) :)
theorem hub_endOp (s : State) (id : Nat) : (s.endOp id).hub = s.hub := (congrArg State.hub (endOp_outside s id) :)
theorem wave?_endOp (s : State) (id c w : Nat) : (s.endOp id).wave? c w = s.wave? c w := by
  simp only [State.wave?, State.ctx?, ctxs_endOp]

end Sys2Proof.Machine
end

