-- ==== Sys2Proof/Tests/Slice0.lean ====
section
/-! SUPPORT. Slice0.lean: tests. Words written out from the encoding tables of the spec decode to their instructions; ill-formed
terms are refused; every statement's hypotheses are met by a concrete state; small steps give what the spec's text gives. -/
set_option Elab.async false
namespace Sys2Proof.Tests
open Sys2Proof.Machine

/-! ### Words of every instruction, from the opcode table's match values and field positions, and for the instructions with a
literal word from R231 and R233 -/

/-- The decoder reads the word as the instruction, and the encoder gives the word back. -/
def reads (p : Nat × Instr) : Bool := decide (decode p.1 = .ok p.2) && encode p.2 == p.1

def wordsS : List (Nat × Instr) := [
  (0x71E0, .movS 15 28), (0x79C2, .addS 14 30), (0x6864, .subS 3 26), (0x5886, .andS 4 22),
  (0x7828, .orS 1 30), (0x202A, .xorS 1 8), (0x40EC, .shlS 7 16), (0x5EAE, .shrS 21 23),
  (0x1C70, .sarS 3 7), (0x7CF2, .mul24S 7 31), (0x12B4, .faddS 21 4 0), (0xD556, .fsubS 10 21 1),
  (0x11D8, .fmulS 14 4 0), (0x7D9A, .fminS 12 31 0), (0x28DC, .fmaxS 6 10 0), (0x4B9E, .setlt 28 18)]

theorem test_decode_S : wordsS.all reads = true := by decide +kernel

def words00 : List (Nat × Instr) := [
  (0x3, .nop), (0x1C04D05, .guard 77 3 1), (0x5004D07, .mov 77 20), (0x1234567800000509, .movi 5 0x12345678),
  (0x36448C0B, .addImm 12 9 217), (0xC0000D, .part 3), (0xF, .yield), (0x11, .exit),
  (0xEC00013, .trap 59), (0x5C800015, .brk 370), (0x3400017, .barSync 13), (0x7C00017, .barArrive 15),
  (0x7D611419, .bra 20 64194), (0xE5D7101B, .braZ 16 117678), (0xFFFFFFFE0000031D, .jmp 3 0xFFFFFFFE), (0x91A9301F, .call 48 74578)]

theorem test_decode_00 : words00.all reads = true := by decide +kernel

def words10 : List (Nat × Instr) := [
  (0xC0021, .jmpr 24), (0x82823, .callr 40 16), (0x20025, .ret 4), (0x7C02827, .sreg 40 31),
  (0x1441129, .add 17 8 5), (0x2A161829, .sub 24 44 40), (0x42703029, .addc 48 96 9), (0x684A0529, .subb 5 20 33),
  (0x80301429, .neg 20 96), (0xA0306029, .abs 96 96), (0x2418092B, .min 9 48 16 1), (0x6152052B, .max 5 36 5 1),
  (0x70E092D, .and 9 28 28), (0x2618302D, .or 48 48 24), (0x580A042D, .xor 4 20 96), (0x6406182D, .andn 24 12 16),
  (0x80184D2D, .not 77 48), (0x4049C2F, .shl 28 9 16), (0x2104052F, .shr 5 8 4), (0x4410A82F, .sar 40 33 16),
  (0x6450902F, .rol 16 33 17), (0x8530112F, .ror 17 96 20), (0x4CA2431, .shlImm 36 20 19), (0xD268831, .shrImm 8 77 20),
  (0x10D41031, .sarImm 16 40 3), (0x1B90A431, .rolImm 36 33 14), (0x24C81431, .rorImm 20 16 19), (0x460C0533, .mul24 5 24 24 0 1),
  (0x7120435, .mad24 4 36 28 0 0), (0x2C10A037, .mul32 32 33 48 1 0), (0x6B040439, .mad32 4 8 44 1 1), (0x2626983B, .div 24 77 24 1),
  (0x4250B03B, .rem 48 33 9 0), (0xE213D, .popc 33 28), (0x2002113D, .clz 17 4), (0x40020C3D, .ctz 12 4),
  (0x6018143D, .brev 20 48), (0x99C28C3F, .bfeN32 12 5 19 7)]

theorem test_decode_10 : words10.all reads = true := by decide +kernel

def words20 : List (Nat × Instr) := [
  (0x28984D41, .bfeS32 77 48 5 2), (0x59B00443, .bfi 4 96 11 6), (0xC02AC45, .bsel 44 5 48), (0x4104D47, .bgath 77 32 16),
  (0xA226B049, .lea 48 77 8 5), (0x10E114B, .add64 17 28 4), (0x2908104B, .sub64 16 16 36), (0x8420C4D, .shl64 12 4 33),
  (0x2C10044D, .shr64 4 32 48), (0xAA08A14F, .cmpS32 33 17 40 5), (0xA5300851, .cmpN32 8 96 20 5), (0x18080953, .sel 9 16 96)]

theorem test_decode_20 : words20.all reads = true := by decide +kernel

def words30 : List (Nat × Instr) := [
  (0xA3160861, .fadd 8 44 12 1 1), (0x27048963, .fsub 9 9 28 1 0), (0xA5182065, .fmul 32 48 20 1 1), (0x67062067, .ffma 32 12 28 3 0),
  (0x14C4060869, .ffma3 8 12 16 20 2 1), (0x410046B, .fmin 4 32 16 0), (0x280E0C6B, .fmax 12 28 32 0), (0xC448606B, .fminn 96 16 17 1),
  (0xE814096B, .fmaxn 9 40 32 1), (0x18606D, .fabs 96 48 0), (0xA026AC6D, .fneg 44 77 1), (0x848A06F, .fcmpEq 32 17 33 0),
  (0x2C02A06F, .fcmpLt 32 5 48 0), (0xC504856F, .fcmpLe 5 9 20 1), (0x6218216F, .fcmpUn 33 48 8 0), (0x4489C71, .fcmpNe 28 17 17 0),
  (0x38142471, .fcmpGt 36 40 96 0), (0xCC301C71, .fcmpGe 28 96 48 1), (0xE1429071, .fcmpOrd 16 5 5 1), (0x162173, .fclass 33 44 0),
  (0x21142175, .fdiv 33 40 4 1 0), (0x400C0C77, .fsqrt 12 24 2 0), (0x82D24D79, .frcp 77 36 11 1), (0x85D09079, .frsq 16 33 7 1),
  (0x89701C79, .fexp2 28 96 5 1), (0xF921C79, .flog2 28 36 14 0), (0x13860979, .fsin 9 12 14 0), (0x96520579, .fcos 5 36 9 1),
  (0xC004887B, .frnd 8 9 2 1), (0x6106187D, .fldexp 24 12 4 3 0), (0xC308406087F, .cvt 8 12 16 0 3 4 1 1)]

theorem test_decode_30 : words30.all reads = true := by decide +kernel

def words40 : List (Nat × Instr) := [
  (0xB182881, .hadd2F16 40 48 44 0), (0xA602E081, .hsub2F16 96 5 24 1), (0x490A2181, .hmul2F16 33 20 36 0), (0x670C0481, .hfma2F16 4 24 28 0),
  (0xA142C83, .hadd2Bf16 44 40 40 0), (0x38142883, .hsub2Bf16 40 40 96 0), (0xCC040483, .hmul2Bf16 4 8 48 1), (0x68124D83, .hfma2Bf16 77 36 32 0),
  (0xC8561085, .hmin2 16 44 33 1 1), (0xE8668585, .hmax2 5 77 33 1 1), (0x9122C87, .packH2 44 36 36), (0x20048887, .packB4 8 9),
  (0x40048C87, .packE2m1x8 12 9), (0x302189, .unpackH2 33 96), (0x20089189, .unpackB4 17 17), (0x40141489, .unpackE2m1x8 20 40),
  (0x608B, .flagr 96), (0x2000308B, .flagrWave 48), (0x8D, .flagc), (0x180491, .vote 4 48),
  (0x301193, .ballot 17 96), (0x3121C95, .shflAt 28 36 12), (0x24102895, .shflRot 40 32 16), (0x4A04AC95, .shflXor 44 9 40),
  (0x50E4D97, .shflAtImm 77 28 20), (0xED20897, .shflRotImm 8 36 27), (0x16141197, .shflXorImm 17 40 24), (0x18088497, .shflRev 4 17),
  (0x218E2C99, .quad 44 28 134), (0xE026A89B, .red 40 77 7), (0x4008919D, .redF32 17 17 2 0), (0xE00E1C9F, .scanInc 28 28 7)]

theorem test_decode_40 : words40.all reads = true := by decide +kernel

def words50 : List (Nat × Instr) := [
  (0x80061CA1, .scanExc 28 12 4), (0x64DA3, .matchB32 77 12), (0x201405A3, .matchB64 5 40), (0x24A5, .elect 36),
  (0x5704DB1, .ld 77 96 0 1 5), (0x328811B3, .ldAcq 17 16 1 4 10), (0x168289B5, .st 9 5 5 10), (0x57CA11B7, .stRel 17 20 2 5 15),
  (0x139218B9, .lds 24 36 0 4 14), (0x570298BB, .ldsAcq 24 5 2 5 12), (0x64C1CBD, .sts 28 24 1 9), (0x50CE60BF, .stsRel 96 28 2 4 3)]

theorem test_decode_50 : words50.all reads = true := by decide +kernel

def words60 : List (Nat × Instr) := [
  (0xC1423708C608C1, .atom 8 12 20 24 7 3 4 0 0 2 3), (0x14321280608C3, .atoms 8 12 20 0 1 2 6 0 1 2 0), (0xF941494600C5, .ratom 12 20 1 0x1F 2 2 5), (0x21400C7, .prefetchL1 40 8),
  (0x20E680C7, .prefetchCm 77 3), (0x10000C9, .fenceAcq 4), (0x34000C9, .fenceRel 5), (0x4C000C9, .fenceFull 3),
  (0xCB, .tfence), (0xCD, .inval), (0x1C400D1, .mcfg 8 7), (0x280D3, .gang 5),
  (0x1D0220D5, .mmaE2m1 32 4 3 1 4), (0x2A8C2CD7, .mmaE4m3 44 24 1 2 0 10), (0xC8214D9, .mmaE5m2 20 4 0 3 0 2), (0x8400CDB, .mmaS8 12 2 0 1),
  (0x1D0028DD, .mmaBf16 40 3 1 4), (0x184024DF, .mmaF16 36 2 1 1)]

theorem test_decode_60 : words60.all reads = true := by decide +kernel

def words70 : List (Nat × Instr) := [
  (0xA8000E1, .mzero 2 10), (0x149409E1, .mrd 9 40 1 2), (0x2A4494E1, .mwr 20 9 2 9), (0x3FB000E1, .mscale 96 3 14),
  (0x34830E3, .rgnSet 48 16 13), (0x48600E3, .rgnPre 12 2), (0x87000E3, .rgnFlush 96 1), (0xC4280E3, .rgnDrop 5 1),
  (0x106698E3, .rgnStat 24 77 1), (0x20480E5, .tbarInit 9 8), (0x6B000E5, .tbarArrive 96 10), (0x9C200E5, .tbarWait 4 7),
  (0xE4221E5, .tbarTest 33 4 9), (0x135028E5, .tbarRead 40 32 13), (0x11400E7, .chain 40 4), (0x10C210E9, .rcap 16 4 1 3),
  (0x14CE05E9, .rcapL 5 28 1 3), (0x7BC009E9, .arm 9 7 15), (0x8F4020E9, .sendstat 32 1 13), (0x1D080608EB, .sendW 8 12 5 3 1 0),
  (0x5044608EB, .sendL 8 12 5 0 0 1), (0x4404ED, .qput 4 8 1), (0x5805EF, .ntfRead 5 48 1), (0x40409EF, .ntfWait 9 8),
  (0xBC811EF, .ntfWrite 17 16 15), (0xD21CF1, .sqProp 28 36 3), (0x7109CF1, .sqVerify 28 33 12), (0x80208F1, .sqCommit 8 4),
  (0xC1005F1, .sqCommitD 5 32), (0x113024F1, .sqNext 36 96 4), (0x164204F1, .sqWatch 4 4 9), (0x1B9224F1, .sqRead 36 36 14),
  (0x1DC01CF1, .sqCtlOpen 28 7), (0x3CC618F1, .sqCtlClose 24 12 3), (0x5D9014F1, .sqCtlResume 20 32 6), (0x7D1620F1, .sqCtlSetclass 32 44 4),
  (0x9E8488F1, .sqCtlSetmask 8 9 10), (0xBE920CF1, .sqCtlSetcnt 12 36 10), (0xDD10B0F1, .sqCtlClrdraft 48 33 4), (0xFEC49CF1, .sqCtlClrfq 28 9 11),
  (0x224010F3, .sysr 16 0x089), (0x2AE680F5, .sysw 77 171), (0xF7, .eret), (0x200000F7, .halt),
  (0x400000F7, .wfe), (0x200F9, .tlbinvPage 4), (0x203000F9, .tlbinvPart 96), (0x400000F9, .tlbinvAll)]

theorem test_decode_70 : words70.all reads = true := by decide +kernel
/-- Every word above with its instruction. -/
def words : List (Nat × Instr) := wordsS ++ words00 ++ words10 ++ words20 ++ words30 ++ words40 ++ words50 ++ words60 ++ words70

/-- R221, R238: a reserved bit set, a function without a meaning, a major without a meaning, a truncated stream. -/
theorem test_decode_reserved : decode 0x80000003 = .error .unassigned ∧ decode 0x8442 = .error .unassigned ∧
    decode 0x80420329 = .error .unassigned ∧ decode 0xFF = .error .unassigned ∧
    decodeBytes [0x29] = .error .truncated ∧ decodeBytes [0x09, 5, 0, 0] = .error .truncated := by decide +kernel

/-- R207: an 8-byte instruction takes its literal and leaves the rest of the stream. -/
theorem test_decode_stream : decodeBytes [0x42, 0x14, 0x03] = .ok (.addS 2 5, [0x03]) ∧
    decodeBytes [9, 5, 0, 0, 0, 0, 0x80, 0x3F, 0x11] = .ok (.movi 5 0x3F800000, [0x11]) := by decide +kernel

/-! ### Ill-formed terms, one or more for each check -/

/-- A field that does not fit its bits (R2, R208, R211, R233). -/
theorem test_illformed_fields : ([.movS 32 0, .faddS 1 1 2, .guard 128 0 0, .guard 0 4 0, .mov 128 0, .movi 0 0x100000000, .addImm 0 0 1024,
    .part 8, .trap 1024, .brk 1024, .barSync 16, .bra 0 0x20000, .jmp 0 0x100000000, .add 0 0 128, .min 0 0 0 2, .shlImm 0 0 32, .lea 0 0 0 8,
    .cmpS32 0 0 0 8, .fadd 0 0 0 4 0, .frcp 0 0 16 0, .ld 0 0 2 2 0, .ratom 0 0 0 0x4000 0 2 0, .mzero 4 0, .rcap 0 0 8 0,
    .sendstat 0 2 0, .sysr 0 1024, .tlbinvPage 128, .placementOpportunity] : List Instr).all (fun i => !i.wellFormed) = true := by
  decide +kernel

/-- The field checks of R221 item 2 (R216, R234, R235, R280, R282, R248, R215, R303, R396 and each instruction's rule). -/
theorem test_illformed_values : ([.part 0, .part 6, .part 7, .braZ 127 0, .sreg 0 32, .bfeN32 0 0 31 1, .bfeS32 0 0 16 16, .bfi 0 0 0 32,
    .cmpS32 0 0 0 6, .cmpN32 0 0 0 7, .cvt 0 0 0 15 0 0 0 0, .cvt 0 0 0 0 15 0 0 0, .cvt 0 0 0 0 1 5 0 0, .cvt 0 0 0 0 1 4 0 0,
    .cvt 0 0 1 0 1 0 0 0, .redF32 0 0 3 0, .ld 0 0 0 6 0, .ld 0 0 1 2 0, .ldAcq 0 0 7 2 0, .ldAcq 0 0 0 1 0, .lds 0 0 0 7 0, .ldsAcq 0 0 7 2 0,
    .st 0 0 6 0, .stRel 0 0 7 2 0, .sts 0 0 6 0, .stsRel 0 0 7 2 0, .atom 0 0 0 0 8 0 0 0 0 2 0, .atom 0 0 0 0 0 4 0 0 0 2 0,
    .atom 0 0 0 0 0 0 7 0 0 2 0, .atom 0 0 0 0 0 0 0 3 0 2 0, .atom 0 0 0 0 0 1 0 1 0 2 0, .atom 1 0 0 0 0 0 0 2 0 2 0,
    .atom 0 0 0 1 0 0 0 0 0 2 0, .atom 0 0 0 0 3 0 0 0 2 2 0, .atoms 0 0 0 0 0 0 0 0 0 1 0, .atoms 0 0 0 0 0 0 0 0 2 3 0,
    .ratom 0 0 6 0 0 2 0, .fenceAcq 7, .fenceRel 7, .fenceFull 7, .sendW 0 0 0 7 1 0, .sendL 0 0 0 1 0 0, .sysr 0 0x00F, .sysw 0 0x053] :
    List Instr).all (fun i => !i.wellFormed) = true := by decide +kernel

/-- A register group beyond v127 (R212). -/
theorem test_illformed_groups : ([.lea 127 0 0 0, .add64 0 127 0, .addc 127 0 0, .ld 121 0 0 5 0, .st 125 0 4 0, .unpackE2m1x8 121 0, .jmpr 127, .call 127 0,
    .matchB64 0 127, .rcapL 127 0 0 0, .qput 0 127 0] : List Instr).all (fun i => !i.wellFormed) = true := by decide +kernel

/-! ### Instructions that issue -/

/-- Four lanes, at address p. -/
def quad (p : Dword) : List (Nat × Lane) := [0, 1, 2, 3].map fun l => (l, Lane.start .present p)

/-- The address where the placed block's program stands. -/
def origin : Dword := 0x2000000000010000

/-- A privileged block of four threads placed as withFetchWord places one. -/
def block : State := ((State.reset.placeWord 32 3).modWave 0 0 fun v => { v with lanes := quad origin })

/-- The bundle of the four lanes that performs i. -/
def bundle (i : Instr) : Bundle := ⟨0, 0, origin, [0, 1, 2, 3], i, encode i % 0x100000000⟩

/-- The block with i issued for its lanes; in handler mode for eret, which is illegal for a system-level context outside it. -/
def issuing (i : Instr) : State :=
  { block.modWave 0 0 fun v => { v with hmode := decide (i = .eret) } with cur := some (bundle i) }

/-- Instruction i passes every check of R221 there, with the four lanes active. -/
def issues (i : Instr) : Bool :=
  match (issuing i).ctx? 0, (issuing i).wave? 0 0, issueCheck i (bundle i) (issuing i) with
  | some _, some _, .go [0, 1, 2, 3] => true
  | _, _, _ => false

/-- Then Passes has a witness. -/
theorem passes_of_issues {i : Instr} (h : issues i = true) :
    ∃ x v, Passes i (issuing i) (bundle i) x v [0, 1, 2, 3] := by
  unfold issues at h
  split at h
  · rename_i x v hx hv hg
    refine ⟨x, v, rfl, hx, ?_, hg, by decide⟩
    simpa [State.wave?, bundle, hx] using hv
  · cases h

/-- Every instruction of the stream, with the operands of its word above, issues. -/
theorem issues_all : words.all (fun p => issues p.2) = true := by decide +kernel

/-- Then every statement whose hypotheses on the state are that its instruction passes is about some state, for every instruction
of the stream. -/
theorem witness_passes : ∀ p ∈ words, ∃ s b x v act, Passes p.2 s b x v act := fun p hp =>
  (passes_of_issues (List.all_eq_true.1 issues_all p hp)).elim fun x h => h.elim fun v h => ⟨_, _, x, v, _, h⟩

/-! ### Witnesses: states that meet the hypotheses of the statements

Each theorem below shows, for the statement its name says and clause by clause, concrete operands and a state that meet all the
hypotheses of the clause together. -/

/-- A wave of the four lanes with registers at keys 32 r + l. -/
def wave (regs : List (Nat × Word)) : Wave := { Wave.start 0 (quad origin) with regs := regs }

/-- A privileged block of that wave, context 0, as placeWord places one. -/
def ctx (v : Wave) : Ctx := Ctx.start 15 0 0 0 0 0 0 placedDesc 0 0 (0, 0, 0) 0 0 0 [(0, v)] 0xFF true 0 0

/-- The machine with that block alone. -/
def machine (x : Ctx) : State := { State.reset.placeWord 32 3 with ctxs := [(0, x)] }

/-- The machine with i issued for the four lanes. -/
def ready (i : Instr) (x : Ctx) : State := { machine x with cur := some (bundle i) }

/-- Register r of the four lanes. -/
def regs (r : Nat) (f : Nat → Word) : List (Nat × Word) := [0, 1, 2, 3].map fun l => (32 * r + l, f l)

def went (c : Check) : Option (List Nat) := match c with
  | .go act => some act
  | _ => none

theorem passes {i : Instr} {v : Wave} (h : went (issueCheck i (bundle i) (ready i (ctx v))) = some [0, 1, 2, 3]) :
    Passes i (ready i (ctx v)) (bundle i) (ctx v) v [0, 1, 2, 3] := by
  refine ⟨rfl, rfl, rfl, ?_, by decide⟩
  unfold went at h
  split at h <;> simp_all

def fetched (f : Fetched) : Option Nat := match f with
  | .ok v _ => some v
  | _ => none

theorem ok_of {f : Fetched} {v : Nat} (h : fetched f = some v) : ∃ u, f = .ok v u := by
  unfold fetched at h
  split at h
  · cases h; exact ⟨_, rfl⟩
  · cases h

def planned (p : Plan) : Bool := match p with
  | .go _ _ => true
  | _ => false

theorem go_of {p : Plan} (h : planned p = true) : ∃ ps u, p = .go ps u := by
  unfold planned at h
  split at h
  · exact ⟨_, _, rfl⟩
  · cases h

/-- StepRunsIssued: a bundle issued; an event due; none; and a nop fetched from tensor memory with a wave selected. -/
theorem witness_StepRunsIssued : (∃ (s : State) (b : Bundle), s.cur = some b) ∧
    (∃ (s : State) (e : Instr) (as : List Nat) (rest : _), s.cur = none ∧ s.agenda = (e, as) :: rest) ∧
    (∃ s : State, s.cur = none ∧ s.agenda = []) ∧
    let s := machine (ctx (wave []))
    s.cur = none ∧ s.serve.withheld = false ∧ s.serve.selectWave (s.nextPort / 4) (s.nextPort % 4) = some (0, 0, 0) ∧
      s.ctx? 0 = some (ctx (wave [])) ∧ SMap.find? (ctx (wave [])).waves 0 = some (wave []) ∧
      (wave []).nextRun = some (origin, [0, 1, 2, 3]) ∧ (∀ k ∈ (wave []).windows, k.pos < k.span ∨ s.inFlight k.id = false) ∧
      pcMatch s (ctx (wave [])) (wave []) origin = none ∧
      ∃ u, fetch (s.serve.hold (s.nextPort / 4) 0) (ctx (wave [])) origin.toNat = .ok 3 u ∧ decode 3 = .ok .nop := by
  refine ⟨⟨ready .nop (ctx (wave [])), _, rfl⟩, ⟨State.reset.post .keepAlive [], _, _, _, rfl, rfl⟩, ⟨State.reset, rfl, rfl⟩,
    rfl, by decide +kernel, by decide +kernel, rfl, rfl, by decide +kernel, by decide +kernel, by decide +kernel, ?_⟩
  obtain ⟨u, hu⟩ := ok_of (by decide +kernel : fetched (fetch ((machine (ctx (wave []))).serve.hold
    ((machine (ctx (wave []))).nextPort / 4) 0) (ctx (wave [])) origin.toNat) = some 3)
  exact ⟨u, hu, by decide +kernel⟩

/-- A machine with no region bound, no lock held and nothing in flight holds back no access. -/
theorem quiet {s : State} {b : Bundle} {x : Ctx} (n : Nat) (hr : x.regions = []) (ho : s.ops = [])
    (hl : ∀ p c, (p, c) ∈ s.cores → c.locks = []) : Quiet s b x n :=
  ⟨fun o => ⟨by simp [Ctx.touched, hr], by simp [State.unwritten, ho]⟩, hl, by simp [ho]⟩

/-- A plain address when nothing is poisoned, by the clause of its space. -/
theorem plain {s : State} {b : Bundle} {x : Ctx} {n a k : Nat} (hp : s.poison = [])
    (h : a % n = 0 ∧ ((addrSpace a = 3 ∧ a / 2 ^ 24 % 2 ^ 36 = 0 ∧ a / 2 ^ 18 % 64 = 63 ∧ a % 2 ^ 18 < x.scratchBytes ∧
        k = scratchKey b.ctx (a % 2 ^ 18)) ∨
      (addrSpace a = 4 ∧ a / 2 ^ 27 % 2 ^ 33 = 0 ∧ a % 2 ^ 27 < (s.cmWindow x.die x.part).2 ∧
        k = commonsKey x.die ((s.cmWindow x.die x.part).1 + a % 2 ^ 27)))) : Plain s b x n a k :=
  ⟨h.1, fun _ _ => by rw [hp]; rfl, h.2⟩

/-! ### Values worked out in the spec's examples -/

/-- Lane 0 after instruction i: register r, for registers rs (number, value) before; and its flags. -/
def after (i : Instr) (rs : List (Nat × Nat)) (r : Nat) : Option (Nat × Nat) :=
  match exec i (ready i (ctx (wave (rs.map fun (k, x) => (32 * k, BitVec.ofNat 32 x))))) with
  | .next t => (t.wave? 0 0).bind fun v => (v.lane? 0).map fun n => ((v.reg r 0).toNat, n.lsw.toNat % 32)
  | _ => none

/-- Whether an instruction gives, from these registers, this value in a register with these flags. -/
def gives (e : Instr × List (Nat × Nat) × Nat × Nat × Nat) : Bool := after e.1 e.2.1 e.2.2.1 == some (e.2.2.2.1, e.2.2.2.2)

/-- Spec 11, worked examples: carries of a 96-bit sum; shift counts; division; bit fields; bgath; 24-bit products; overlapping pairs. -/
theorem test_integers : ([(.addc 20 10 13, [(10, 0xFFFFFFFF), (13, 1), (20, 0)], 20, 0, 0), (.addc 20 10 13, [(10, 0xFFFFFFFF), (13, 1), (20, 0)], 21, 1, 0),
      (.addc 21 11 14, [(11, 0xFFFFFFFF), (14, 0), (21, 1)], 22, 1, 0), (.addc 22 12 15, [(12, 1), (15, 0), (22, 1)], 22, 2, 0),
      (.shlS 3 4, [(3, 1), (4, 33)], 3, 0, 0), (.rol 3 3 4, [(3, 1), (4, 33)], 3, 2, 0),
      (.sar 5 6 7, [(6, 0x80000000), (7, 0x100)], 5, 0xFFFFFFFF, 0), (.div 5 6 7 0, [(6, 7), (7, 0)], 5, 0xFFFFFFFF, 0),
      (.rem 5 6 7 0, [(6, 0xFFFFFFF9), (7, 2)], 5, 0xFFFFFFFF, 0), (.div 5 6 7 0, [(6, 0x80000000), (7, 0xFFFFFFFF)], 5, 0x80000000, 0),
      (.abs 5 6, [(6, 0x80000000)], 5, 0x80000000, 0), (.clz 5 6, [(6, 0)], 5, 32, 0), (.ctz 5 6, [(6, 0)], 5, 32, 0),
      (.bfeS32 5 6 7 4, [(6, 0xA70)], 5, 0xFFFFFFA7, 0), (.bfeN32 5 6 7 4, [(6, 0xA70)], 5, 0xA7, 0),
      (.bgath 8 9 10, [(8, 0xC0FE0), (9, 0x44332211), (10, 0x88776655)], 8, 0xFF885511, 0),
      (.mul24 5 6 7 1 1, [(6, 0xFFFFFF), (7, 0xFFFFFF)], 5, 0xFFFFFE, 0), (.mul24 5 6 7 1 1, [(6, 0xFFFFFFFF), (7, 0xFFFFFFFF)], 5, 0xFFFFFE, 0),
      (.mul24 5 6 7 0 1, [(6, 0xFFFFFFFF), (7, 0xFFFFFFFF)], 5, 0, 0), (.add64 10 11 11, [(11, 0xFFFFFFFF), (12, 1)], 10, 0xFFFFFFFE, 0),
      (.add64 10 11 11, [(11, 0xFFFFFFFF), (12, 1)], 11, 3, 0), (.add64 10 11 11, [(11, 0xFFFFFFFF), (12, 1)], 12, 1, 0),
      (.lea 20 10 3 3, [(3, 0xFFFFFFFF), (10, 0x40), (11, 0x20000000)], 20, 0x38, 0)] : List (Instr × List (Nat × Nat) × Nat × Nat × Nat)).all gives = true := by
  decide +kernel

/-- Spec 12, examples: zeros, invalid cases, minima, compares, division and roots, scaling, overflow under rz. Flags are invalid 1, divideByZero 2,
overflow 4, underflow 8, inexact 16. -/
theorem test_floats : ([(.fadd 1 2 3 0 0, [(2, 0), (3, 0x80000000)], 1, 0, 0), (.fadd 1 2 3 3 0, [(2, 0), (3, 0x80000000)], 1, 0x80000000, 0),
      (.fadd 1 2 3 3 0, [(2, 0x3F800000), (3, 0xBF800000)], 1, 0x80000000, 0),
      (.ffma 1 2 3 0 0, [(1, 0x7FC00001), (2, 0), (3, 0x7F800000)], 1, 0x7FC00000, 1),
      (.ffma 1 2 3 0 1, [(1, 0x7FC00001), (2, 0), (3, 0x7F800000)], 1, 0x7FC00000, 0),
      (.fmin 1 2 3 0, [(2, 0x80000000), (3, 0)], 1, 0x80000000, 0), (.fminn 1 2 3 0, [(2, 0x40000000), (3, 0x7FC00000)], 1, 0x40000000, 0),
      (.fmin 1 2 3 0, [(2, 0x40000000), (3, 0x7FC00000)], 1, 0x7FC00000, 0),
      (.fmaxn 1 2 3 0, [(2, 0x7F800001), (3, 0x3F800000)], 1, 0x3F800000, 1), (.fcmpLt 1 2 3 0, [(2, 0x7FC00000), (3, 0x3F800000)], 1, 0, 1),
      (.fcmpEq 1 2 3 0, [(2, 0x7FC00000), (3, 0x3F800000)], 1, 0, 0), (.fcmpNe 1 2 3 0, [(2, 0x7FC00000), (3, 0x3F800000)], 1, 1, 0),
      (.fcmpUn 1 2 3 0, [(2, 0x7FC00000), (3, 0x3F800000)], 1, 1, 0), (.fdiv 1 2 3 0 0, [(2, 0xC0400000), (3, 0)], 1, 0xFF800000, 2),
      (.fsqrt 1 2 0 0, [(2, 0x80000000)], 1, 0x80000000, 0), (.fsqrt 1 2 0 0, [(2, 0xC0800000)], 1, 0x7FC00000, 1),
      (.frnd 1 2 1 0, [(2, 0xBF400000)], 1, 0x80000000, 0), (.fabs 1 2 0, [(2, 0xFFC01234)], 1, 0x7FC00000, 0),
      (.fldexp 1 2 3 0 0, [(2, 0x3F800000), (3, 0xFFFFFF6B)], 1, 1, 0), (.fldexp 1 2 3 0 0, [(2, 0x3F800000), (3, 0xFFFFFF6A)], 1, 0, 24),
      (.fmul 1 2 3 1 0, [(2, 0x7F000000), (3, 0x40000000)], 1, 0x7F7FFFFF, 20)] : List (Instr × List (Nat × Nat) × Nat × Nat × Nat)).all gives = true := by
  decide +kernel

/-- Spec 8 and 12, examples: conversions to E4M3 and E2M1, of 300, 460, 500 and -500, under stochastic rounding and saturation; and the packing
of the eight codes. -/
theorem test_conversions : ([(.cvt 6 7 0 0 3 0 0 0, [(7, 0x43960000)], 6, 0x79, 16), (.cvt 6 7 9 0 3 4 1 0, [(7, 0x43960000), (9, 0x5FFFFFFF)], 6, 0x7A, 16),
      (.cvt 6 7 9 0 3 4 1 0, [(7, 0x43960000), (9, 0x60000000)], 6, 0x79, 16), (.cvt 6 7 0 0 3 0 0 0, [(7, 0x43E60000)], 6, 0x7E, 16),
      (.cvt 6 7 0 0 3 0 0 0, [(7, 0x43FA0000)], 6, 0x7F, 20), (.cvt 6 7 0 0 3 0 1 0, [(7, 0x43FA0000)], 6, 0x7E, 20),
      (.cvt 6 7 0 0 3 0 0 0, [(7, 0xC3FA0000)], 6, 0x7F, 20), (.cvt 6 7 0 0 5 0 0 0, [(7, 0x3F000000)], 6, 1, 0),
      (.cvt 6 7 0 0 5 0 0 0, [(7, 0xBF800000)], 6, 10, 0), (.cvt 6 7 0 0 5 0 0 0, [(7, 0x40A00000)], 6, 6, 16),
      (.cvt 6 7 0 0 5 0 0 0, [(7, 0x40E00000)], 6, 7, 20), (.cvt 6 7 0 0 5 0 0 0, [(7, 0x3E800000)], 6, 0, 24),
      (.cvt 6 7 0 0 5 0 0 0, [(7, 0x80000000)], 6, 8, 0), (.cvt 6 7 0 0 5 0 0 0, [(7, 0x3FE00000)], 6, 4, 16),
      (.cvt 6 7 0 0 5 0 0 0, [(7, 0x7FC00000)], 6, 0, 1),
      (.packE2m1x8 30 20, [(20, 1), (21, 10), (22, 6), (23, 7), (24, 0), (25, 8), (26, 4), (27, 0)], 30, 0x048076A1, 0)] : List (Instr × List (Nat × Nat) × Nat × Nat × Nat)).all gives = true := by
  decide +kernel

/-- TrapsAndOddTargets: an odd target in lane 1, after an even one; brk with debug disabled and enabled. -/
theorem witness_TrapsAndOddTargets :
    let v := wave (regs 24 fun l => if l = 1 then 0x101 else 0)
    (∀ i ∈ [.jmpr 24, .callr 40 24, .ret 24], Passes i (ready i (ctx v)) (bundle i) (ctx v) v [0, 1, 2, 3]) ∧
      [0, 1, 2, 3] = [0] ++ 1 :: [2, 3] ∧ (∀ k ∈ [0], (v.reg 24 k).toNat % 2 = 0) ∧ (v.reg 24 1).toNat % 2 = 1 ∧
      Passes (.brk 0) (ready (.brk 0) (ctx v)) (bundle (.brk 0)) (ctx v) v [0, 1, 2, 3] ∧ (ctx v).dbgen = false := by
  refine ⟨fun i hi => ?_, rfl, by decide +kernel, by decide +kernel, passes (by decide +kernel), rfl⟩
  simp only [List.mem_cons, List.not_mem_nil, or_false] at hi
  rcases hi with rfl | rfl | rfl <;> exact passes (by decide +kernel)

/-- ControlFlow: even targets in every lane. -/
theorem witness_ControlFlow :
    let v := wave (regs 24 fun l => 0x100 + 2 * word l)
    ∀ i ∈ [.jmpr 24, .callr 40 24, .ret 24], Passes i (ready i (ctx v)) (bundle i) (ctx v) v [0, 1, 2, 3] ∧
      ∀ l ∈ [0, 1, 2, 3], (v.reg 24 l).toNat % 2 = 0 := by
  refine fun i hi => ⟨?_, by decide +kernel⟩
  simp only [List.mem_cons, List.not_mem_nil, or_false] at hi
  rcases hi with rfl | rfl | rfl <;> exact passes (by decide +kernel)

/-- The block with arrivals of the lanes ls at barrier 3. -/
def arrived (ls : List Nat) : Ctx := { ctx (wave []) with nbar := ls.map fun l => (512 * 3 + l, true) }

/-- BlockBarriers: both instructions of barrier 15 issue; a lane that has arrived; one that has not, the phase going on; and the last
one, with the phase ending, as the next one does not; and the next does where the arrivals that waited are all. -/
theorem witness_BlockBarriers :
    let all (y : Ctx) : Bool := (y.waves.any fun e => e.2.lanes.any fun k => !k.2.exited) &&
      y.waves.all fun e => e.2.lanes.all fun k => k.2.exited || y.arrived 3 e.1 k.1
    let late : Ctx := { arrived [0, 1, 2, 3] with waves := [(0, { wave [] with lanes := (quad origin).map fun e => (e.1, { e.2 with
      park := .bar 3, owed := [⟨3, true, .lane⟩] }) })] }
    (∀ i ∈ [Instr.barSync 15, .barArrive 15], Passes i (ready i (ctx (wave []))) (bundle i) (ctx (wave [])) (wave []) [0, 1, 2, 3]) ∧
    (machine (arrived [0])).ctx? 0 = some (arrived [0]) ∧ (arrived [0]).arrived 3 0 0 = true ∧ (arrived [0]).arrived 3 0 1 = false ∧
      all (arrived [0, 1]) = false ∧ (arrived [0, 1, 2]).arrived 3 0 3 = false ∧ all (arrived [0, 1, 2, 3]) = true ∧
      ((barrierEnd (machine (arrived [0, 1, 2, 3])) 0 3).ctx? 0).any (fun z => !all z) = true ∧
      ((barrierEnd (machine late) 0 3).ctx? 0).any all = true := by
  refine ⟨fun i hi => ?_, by decide +kernel⟩
  simp only [List.mem_cons, List.not_mem_nil, or_false] at hi
  rcases hi with rfl | rfl <;> exact passes (by decide +kernel)

/-- The machine with a domain of this package at index 0 and a commons window of 1 MiB of partition 15 on die C0. -/
def wide : State := ((machine (ctx (wave []))).hubSet 0x605 0 0x80000000).hubSet 0x0C4 15 1

/-- MemoryAndAddresses: an address for each clause, at the ends of the ranges: null space, spaces 6 and 15, must-be-zero bits
and an undeclared home, another package's tensor memory, a class without the space, scratchpad and commons beyond their ends,
and the last of each that is in bounds, aligned and not. -/
theorem witness_MemoryAndAddresses :
    let x := ctx (wave [])
    let sp := addrSpace
    let form (a : Nat) : Bool := decide ((sp a = 1 ∧ (a / 2 ^ 46 % 2 ^ 14 ≠ 0 ∨ wide.domPkg? (a / 2 ^ 36 % 2 ^ 10) = none)) ∨
      (sp a = 3 ∧ a / 2 ^ 24 % 2 ^ 36 ≠ 0) ∨ (sp a = 4 ∧ a / 2 ^ 27 % 2 ^ 33 ≠ 0))
    wide.ctx? 0 = some x ∧ Memory.wf wide.mem = true ∧ sp 0x0FFFFFFFFFFFFFFF = 0 ∧ sp 0x6000000000000000 = 6 ∧
      form 0x1000400000000000 = true ∧ form 0x1000001000000000 = true ∧ form 0x3000000001000000 = true ∧ form 0x4000000008000000 = true ∧
      (sp 0x2000010000000000 = 2 ∧ form 0x2000010000000000 = false ∧ addrPkg 0x2000010000000000 ≠ wide.pkg) ∧
      (sp 0x5000000000000000 = 5 ∧ form 0x5000000000000000 = false) ∧
      (sp 0x3000000000FD0000 = 3 ∧ form 0x3000000000FD0000 = false ∧ 0x3000000000FD0000 / 2 ^ 18 % 64 = 63 ∧
        x.scratchBytes = 0x3000000000FD0000 % 2 ^ 18) ∧
      (sp 0x3000000000FCFFFF = 3 ∧ form 0x3000000000FCFFFF = false ∧ 0x3000000000FCFFFF / 2 ^ 18 % 64 = 63 ∧
        0x3000000000FCFFFF % 2 ^ 18 + 1 = x.scratchBytes) ∧
      (sp 0x4000000000100000 = 4 ∧ form 0x4000000000100000 = false ∧ (wide.cmWindow x.die x.part).2 = 0x4000000000100000 % 2 ^ 27) ∧
      (sp 0x40000000000FFFFC = 4 ∧ form 0x40000000000FFFFC = false ∧ 0x40000000000FFFFC % 2 ^ 27 + 4 = (wide.cmWindow x.die x.part).2) ∧
      (sp 0x1000000FFFFFFFFF = 1 ∧ form 0x1000000FFFFFFFFF = false) ∧
      sp 0x200000FFFFFFFFFE = 2 ∧ form 0x200000FFFFFFFFFE = false ∧ addrPkg 0x200000FFFFFFFFFE = wide.pkg := by
  decide +kernel

/-- The wave with addresses 0x3000000000FC0000 + 32 l of its scratchpad in the pair v24 and the offsets 32 l in v26. -/
def addressed : Wave := wave ((regs 24 fun l => 0xFC0000 + 32 * word l) ++ (regs 25 fun _ => 0x30000000) ++ (regs 26 fun l => 32 * word l))

/-- A wave with own commons addresses 0x4000000000000000 + 64 l in the pair v24. -/
def toCommons : Wave := wave ((regs 24 fun l => 64 * word l) ++ regs 25 fun _ => 0x40000000)

/-- The block with i issued, on a package with a commons window. -/
def readyWide (i : Instr) (x : Ctx) : State := { wide with ctxs := [(0, x)], cur := some (bundle i) }

theorem passesWide {i : Instr} {v : Wave} (h : went (issueCheck i (bundle i) (readyWide i (ctx v))) = some [0, 1, 2, 3]) :
    Passes i (readyWide i (ctx v)) (bundle i) (ctx v) v [0, 1, 2, 3] := by
  refine ⟨rfl, rfl, rfl, ?_, by decide⟩
  unfold went at h
  split at h <;> simp_all

theorem no_cores {i : Instr} {v : Wave} : ∀ p c, (p, c) ∈ (readyWide i (ctx v)).cores → c.locks = [] :=
  fun p c h => absurd (show (p, c) ∈ ([] : List (Nat × Core)) from h) (by simp)

/-- LoadsAndStores, the plain accesses: every form, to the own commons and scratchpad, with nothing that holds an access back. -/
theorem witness_PlainAccesses : ∀ e ∈ [(Instr.st 8 24 4 0, false), (.stRel 8 24 6 3 0, false), (.sts 8 26 5 0, true), (.stsRel 8 26 1 2 0, true),
      (.ld 8 24 0 5 0, false), (.ldAcq 8 24 6 3 0, false), (.lds 8 26 1 0 0, true), (.ldsAcq 8 26 0 2 0, true)],
    let i := e.1
    let v := if e.2 then addressed else toCommons
    let ks := [0, 1, 2, 3].map fun k => (k, if e.2 then scratchKey 0 (32 * k) else commonsKey 0 (64 * k))
    Passes i (readyWide i (ctx v)) (bundle i) (ctx v) v [0, 1, 2, 3] ∧ Quiet (readyWide i (ctx v)) (bundle i) (ctx v) 32 ∧
      ks.map (·.1) = [0, 1, 2, 3].filter (fun k => !v.isHelper k) ∧ ([0, 1, 2, 3] : List Nat).Nodup ∧
      (∀ p ∈ ks, Plain (readyWide i (ctx v)) (bundle i) (ctx v) 32 (laneAddr v e.2 (if e.2 then 26 else 24) p.1) p.2) ∧
      ∀ p ∈ ks, p.2 < 0x4000000000000000 ∨ SMap.find? (readyWide i (ctx v)).recs (p.2 / 128) = none := by
  intro e he
  simp only [List.mem_cons, List.not_mem_nil, or_false] at he
  rcases he with rfl | rfl | rfl | rfl | rfl | rfl | rfl | rfl <;>
    refine ⟨passesWide (by decide +kernel), quiet 32 rfl rfl no_cores, by decide +kernel, by decide,
      fun p hp => plain rfl ?_, by decide +kernel⟩ <;>
    revert p <;> decide +kernel

/-- The machine with operation 7 of the block in flight, and 7 the first operand of an event. -/
def flying (x : Ctx) (k : OpKind) (rest : List Nat) : State :=
  { machine x with ops := [(7, ⟨0, 0, [0, 1], k⟩)], args := 7 :: rest }

/-- LoadsAndStores, the checked ones: every form, with all checks passed, no absent region touched and nothing unwritten; and a
store with something still to be performed at each end of the memory it may reach. -/
theorem witness_LoadsAndStores : (∀ e ∈ [(Instr.st 8 24 5 0, false, some (none : Option Nat)), (.stRel 8 24 6 3 0, false, some (some 6)),
      (.sts 8 26 5 0, true, some none), (.stsRel 8 26 1 2 0, true, some (some 1)),
      (.ld 8 24 0 5 0, false, none), (.ldAcq 8 24 6 3 0, false, none), (.lds 8 26 1 0 0, true, none), (.ldsAcq 8 26 0 2 0, true, none)],
    let i := e.1
    let x := ctx addressed
    let own := e.2.1
    let as := [0, 1, 2, 3].map fun k => (k, laneAddr addressed own (if own then 26 else 24) k)
    Passes i (ready i x) (bundle i) x addressed [0, 1, 2, 3] ∧ (∀ o n, x.touched o n = []) ∧ (∀ o n, (ready i x).unwritten 0 o n = false) ∧
      (∀ a ∈ as, addrSpace a.2 ≠ 1) ∧ ([0, 1, 2, 3].filter fun k => !addressed.isHelper k) = [0, 1, 2, 3] ∧
      ∃ ps u, plan (pass i (bundle i) [0, 1, 2, 3] (ready i x)) (bundle i) x addressed [0, 1, 2, 3]
        ⟨.ldst, 4, if e.2.2.isSome then permW else permR, e.2.2.isNone, if own then none else some 6, none⟩ as = .go ps u) ∧
    let k : OpKind := .store 4 (some 6) [(0, 0x2000000000000000, 5), (3, 0x4FFFFFFFFFFFFFFC, 6)]
    (flying (ctx addressed) k []).op? 7 = some ⟨0, 0, [0, 1], k⟩ ∧ (flying (ctx addressed) k []).ctx? 0 = some (ctx addressed) ∧
      (flying (ctx addressed) k []).mirrorsAwaited .storeAcknowledged 7 = false ∧ (flying (ctx addressed) k []).waiting = [] ∧
      ∀ e ∈ [(0, 0x2000000000000000, 5), (3, 0x4FFFFFFFFFFFFFFC, 6)], 0x2000000000000000 ≤ e.2.1 ∧ e.2.1 < 0x5000000000000000 := by
  refine ⟨fun e he => ?_, rfl, rfl, by decide +kernel, rfl, by decide⟩
  simp only [List.mem_cons, List.not_mem_nil, or_false] at he
  rcases he with rfl | rfl | rfl | rfl | rfl | rfl | rfl | rfl <;>
    exact ⟨passes (by decide +kernel), fun _ _ => rfl, fun _ _ => rfl, by decide +kernel, by decide +kernel, go_of (by decide +kernel)⟩

/-- FencesAndCompletions: the prefetch of addresses outside control space, and for each completion an operation of its kind; the
lanes 0 and 31, read at issue and left to be read, and the memory units at the ends of their ranges; and an atomic that has yet to change its unit. -/
theorem witness_FencesAndCompletions :
    let x := ctx addressed;
    (∀ i ∈ [.prefetchL1 24 0, .prefetchCm 24 15], Passes i (ready i x) (bundle i) x addressed [0, 1, 2, 3] ∧
      (ready i x).lines = [] ∧ ∀ l ∈ [0, 1, 2, 3], addrSpace (addressed.pair 24 l) ≠ 1) ∧
    (let k : OpKind := .load 8 32 false [(0, 5), (31, 6)] [] [] (some 6);
      (flying x k []).op? 7 = some ⟨0, 0, [0, 1], k⟩ ∧ (flying x k []).ctx? 0 = some x ∧ SMap.find? x.waves 0 = some addressed ∧
      ([(0, 5), (31, 6)].map (·.1) : List Nat).Nodup ∧ ∀ e ∈ [(0, 5), (31, 6)], e.1 < 32) ∧
    (let k : OpKind := .load 8 4 true [] [] [(0, scratchKey 0 0), (31, scratchKey 0 0x3FFFC)] none
      let s := flying x k []
      s.op? 7 = some ⟨0, 0, [0, 1], k⟩ ∧ s.ctx? 0 = some x ∧ SMap.find? x.waves 0 = some addressed ∧ x.placed = true ∧
      ([(0, scratchKey 0 0), (31, scratchKey 0 0x3FFFC)].map (·.1)).Nodup ∧ s.poison = [] ∧ s.cores = [] ∧
      (∀ j, s.unwritten 0 j 4 = false) ∧ ∀ e ∈ [(0, 0), (31, 0x3FFFC)], e.1 < 32 ∧ e.2 < 2 ^ 18) ∧
    (∀ k ∈ [OpKind.fence 1 6 [], .tfence [], .fence 0 0 [], .fence 2 6 []],
      (flying x k []).op? 7 = some ⟨0, 0, [0, 1], k⟩ ∧ (flying x k []).ctx? 0 = some x) ∧
    (let ws : List (Nat × Word) := [(32 * 8, 1), (32 * 8 + 31, 2)];
      (flying x (.result ws [(0, 1)]) []).op? 7 = some ⟨0, 0, [0, 1], .result ws [(0, 1)]⟩ ∧ (ws.map (·.1)).Nodup) ∧
    (∀ k ∈ [0x1000000000000000 / 32, 0x5000000000000000 / 32 - 1], 0x1000000000000000 / 32 ≤ k ∧ k < 0x5000000000000000 / 32 ∧
      (machine x).ops = []) ∧
    let k : OpKind := .atomic 0 0 4 8 true [⟨0, 0x2000000000010000, 1, 0, false⟩] []
    (7, ⟨0, 0, [0, 1], k⟩) ∈ (flying x k []).ops ∧ k.meets (32 * (0x2000000000010000 / 32)) 32 = true := by
  refine ⟨fun i hi => ⟨?_, ?_⟩, ⟨rfl, rfl, rfl, by decide, by decide⟩,
    ⟨rfl, rfl, rfl, rfl, by decide, rfl, rfl, fun _ => rfl, by decide⟩, by decide +kernel, ⟨rfl, by decide⟩, by decide +kernel,
    List.mem_singleton.2 rfl, by decide +kernel⟩
  · simp only [List.mem_cons, List.not_mem_nil, or_false] at hi
    rcases hi with rfl | rfl <;> exact passes (by decide +kernel)
  · exact ⟨rfl, by decide +kernel⟩

/-- A wave with the tensor addresses 0x2000000000010000 + 8 l in v24. -/
def toTensor : Wave := wave ((regs 24 fun l => 0x10000 + 8 * word l) ++ regs 25 fun _ => 0x20000000)

/-- Atomics, the plain ones: an atom of each use in the own commons and one in the own scratchpad, with nothing that holds them back. -/
theorem witness_PlainAtomics : ∀ e ∈ [(Instr.atom 8 24 12 0 0 0 4 0 1 3 0, toCommons), (.atom 8 24 12 0 0 0 0 1 0 2 0, toCommons),
      (.atom 0 24 12 0 0 1 0 2 2 2 0, toCommons), (.atoms 8 24 12 16 7 0 0 1 1 2 0, addressed)],
    let i := e.1
    let v := e.2
    let sp := if i matches .atoms .. then 3 else 4
    let ks := [0, 1, 2, 3].map fun k => (k, if sp = 3 then scratchKey 0 (32 * k) else commonsKey 0 (64 * k))
    Passes i (readyWide i (ctx v)) (bundle i) (ctx v) v [0, 1, 2, 3] ∧ Quiet (readyWide i (ctx v)) (bundle i) (ctx v) 8 ∧
      ks.map (·.1) = [0, 1, 2, 3].filter (fun k => !v.isHelper k) ∧
      (∀ p ∈ ks, Plain (readyWide i (ctx v)) (bundle i) (ctx v) 8 (v.pair 24 p.1) p.2) ∧
      (∀ p ∈ ks, addrSpace (v.pair 24 p.1) = sp) ∧
      ∀ p ∈ ks, p.2 < 0x4000000000000000 ∨ SMap.find? (readyWide i (ctx v)).recs (p.2 / 128) = none := by
  intro e he
  simp only [List.mem_cons, List.not_mem_nil, or_false] at he
  rcases he with rfl | rfl | rfl | rfl <;>
    refine ⟨passesWide (by decide +kernel), quiet 8 rfl rfl no_cores, by decide +kernel,
      fun p hp => plain rfl ?_, by decide +kernel, by decide +kernel⟩ <;>
    revert p <;> decide +kernel

/-- Atomics: an atom of the commons and an atoms of the scratchpad that pass every check; an atomic at each end of the address
ranges of ATOMIC_AT_HOME, f32 adds of use .comm of one lane and of two; operands at the ends of 4 and 8 bytes. -/
theorem witness_Atomics :
    (let i : Instr := .atom 8 24 12 0 0 0 4 0 1 3 0;
      Passes i (readyWide i (ctx toCommons)) (bundle i) (ctx toCommons) toCommons [0, 1, 2, 3] ∧
      (∀ k ∈ [0, 1, 2, 3], toCommons.isHelper k = false ∧ addrSpace (toCommons.pair 24 k) ≠ 1) ∧
      ∃ ps u, plan (pass i (bundle i) [0, 1, 2, 3] (readyWide i (ctx toCommons))) (bundle i) (ctx toCommons) toCommons [0, 1, 2, 3]
        ⟨.atom, 8, permR + permW, false, some 4, none⟩ ([0, 1, 2, 3].map fun k => (k, toCommons.pair 24 k)) = .go ps u) ∧
    (let i : Instr := .atoms 8 24 12 16 7 0 0 1 1 2 0;
      Passes i (readyWide i (ctx addressed)) (bundle i) (ctx addressed) addressed [0, 1, 2, 3] ∧
      ∃ ps u, plan (pass i (bundle i) [0, 1, 2, 3] (readyWide i (ctx addressed))) (bundle i) (ctx addressed) addressed [0, 1, 2, 3]
        ⟨.atoms, 4, permR + permW, false, none, none⟩ ([0, 1, 2, 3].map fun k => (k, addressed.pair 24 k)) = .go ps u) ∧
    (∀ e ∈ [(true, 0, 1, 8, [⟨0, 0x2000000000000000, 1, 0, false⟩, ⟨31, 0x4FFFFFFFFFFFFFF8, 2, 0, false⟩]),
        (false, 0, 2, 4, [⟨0, 0x2000000000000000, 1, 0, true⟩]),
        (false, 0, 2, 4, [⟨0, 0x2000000000000000, 1, 0, true⟩, (⟨1, 0x4FFFFFFFFFFFFFFC, 2, 0, true⟩ : AStep)])],
      let steps : List AStep := e.2.2.2.2
      let k : OpKind := .atomic e.2.1 e.2.2.1 e.2.2.2.1 8 e.1 steps []
      (flying (ctx toCommons) k []).op? 7 = some ⟨0, 0, [0, 1], k⟩ ∧ (flying (ctx toCommons) k []).ctx? 0 = some (ctx toCommons) ∧
      (∀ a ∈ steps, 0x2000000000000000 ≤ a.key ∧ a.key < 0x5000000000000000) ∧
      (flying (ctx toCommons) k []).mirrorsAwaited .atomicAtHome 7 = false ∧ (flying (ctx toCommons) k []).waiting = [] ∧
      ∀ q ∈ (flying (ctx toCommons) k []).ops, q.2.kind.pending.1 ≠ [] → q.1 = 7) ∧
    2 ^ 32 - 1 < 256 ^ 4 ∧ 2 ^ 64 - 1 < 256 ^ 8 := by
  refine ⟨⟨passesWide (by decide +kernel), by decide +kernel, go_of (by decide +kernel)⟩,
    ⟨passesWide (by decide +kernel), go_of (by decide +kernel)⟩, by decide +kernel, by decide⟩

def reach (p : Bool) (n : Nat) (r : Except Nat Nat × State) : Bool := match r with
  | (.ok key, u) => poisoned u key n == p
  | _ => false

theorem reach_of {p : Bool} {n : Nat} {r : Except Nat Nat × State} (h : reach p n r = true) :
    ∃ key u, r = (.ok key, u) ∧ poisoned u key n = p := by
  unfold reach at h
  split at h
  · exact ⟨_, _, rfl, by simpa using h⟩
  · cases h

def unreached (r : Except Nat Nat × State) : Bool := match r with
  | (.error _, _) => true
  | _ => false

theorem unreached_of {r : Except Nat Nat × State} (h : unreached r = true) : ∃ c u, r = (.error c, u) := by
  unfold unreached at h
  split at h
  · exact ⟨_, _, rfl⟩
  · cases h

/-- RemoteAtomics: a ratom of own tensor addresses that pass the early checks; its step at the home, translated and not poisoned,
translated and poisoned, and not translated; two lanes of one word; the last acknowledgement and one before it, with codes 0 and 9. -/
theorem witness_RemoteAtomics :
    (let i : Instr := .ratom 24 12 0 31 1 3 0;
      Passes i (ready i (ctx toTensor)) (bundle i) (ctx toTensor) toTensor [0, 1, 2, 3] ∧
      (∀ k ∈ [0, 1, 2, 3], toTensor.isHelper k = false ∧ addrPkg (toTensor.pair 24 k) = (ready i (ctx toTensor)).pkg ∧
        ∃ r, earlyCheck (pass i (bundle i) [0, 1, 2, 3] (ready i (ctx toTensor))) 0 (ctx toTensor) [0, 1, 2, 3]
          ⟨.ratom, 8, permR + permW, false, none, none⟩ k (toTensor.pair 24 k) = .ok r)) ∧
    (let steps : List (Nat × Nat × Nat) := [(0, 0x2000000000010000, 5), (1, 0x2000000000020000, 6), (2, 0x2000000000020000, 7)]
      let k : OpKind := .ratom 0 1 8 31 steps [(0, 0), (1, 0), (2, 0)];
      let s := flying (ctx toTensor) k [0]
      s.op? 7 = some ⟨0, 0, [0, 1], k⟩ ∧ s.ctx? 0 = some (ctx toTensor) ∧ SMap.find? steps 0 = some (0x2000000000010000, 5) ∧
      (steps.filter fun e => e.2.1 == 0x2000000000010000) = [(0, 0x2000000000010000, 5)] ∧
      (steps.filter fun e => e.2.1 == 0x2000000000020000).length = 2 ∧
      (∃ key u, ({ s with ops := SMap.insert s.ops 7 ⟨0, 0, [0, 1], .ratom 0 1 8 31 (steps.drop 1) [(0, 0), (1, 0), (2, 0)]⟩ } : State).engineAddr
        (ctx toTensor) 0x2000000000010000 8 (permR + permW) = (.ok key, u) ∧ poisoned u key 8 = false) ∧
      (∃ key u, ({ s with poison := [(0x2000000000010000 / 32, 1)] } : State).engineAddr
        (ctx toTensor) 0x2000000000010000 8 (permR + permW) = (.ok key, u) ∧ poisoned u key 8 = true) ∧
      ∃ c u, s.engineAddr (ctx toTensor) 0x2000000100010000 8 (permR + permW) = (.error c, u)) ∧
    (∀ e ∈ [(31, [(31, 0)]), (0, [(0, 0), (31, 5)])], ∀ code ∈ [0, 9],
      let k : OpKind := .ratom 0 1 8 31 [] e.2
      (flying (ctx toTensor) k [e.1, code]).op? 7 = some ⟨0, 0, [0, 1], k⟩ ∧ (∃ z, SMap.find? e.2 e.1 = some z) ∧ code ≤ 9 ∧
        (SMap.erase e.2 e.1 = [] ↔ e.1 = 31)) := by
  refine ⟨⟨passes (by decide +kernel), fun k hk => ?_⟩, ⟨rfl, rfl, rfl, by decide +kernel, by decide +kernel, reach_of (by decide +kernel),
    reach_of (by decide +kernel), unreached_of (by decide +kernel)⟩, fun e he code hc => ⟨rfl, ?_, ?_, ?_⟩⟩
  · simp only [List.mem_cons, List.not_mem_nil, or_false] at hk
    rcases hk with rfl | rfl | rfl | rfl <;> exact ⟨by decide +kernel, by decide +kernel, _, rfl⟩
  · simp only [List.mem_cons, List.not_mem_nil, or_false] at he; rcases he with rfl | rfl <;> exact ⟨_, rfl⟩
  · revert code; decide
  · revert e; decide

/-- The block at user level, and one whose descriptor gives 16 registers, one named barrier and no flag. -/
def user : Ctx := { ctx addressed with priv := false }
def small : Ctx := { ctx addressed with desc := 2 ^ 64 }

/-- A wave whose lanes a guard leaves out. -/
def guarded : Wave := { addressed with lanes := SMap.mapVals addressed.lanes fun _ n => { n with gcount := 4, gpred := false } }

/-- A wave whose lanes are helpers, and one whose lane 0 is. -/
def helping : Wave := { wave [] with lanes := SMap.mapVals (wave []).lanes fun _ n => { n with kind := .helper } }
def mixed : Wave := { wave [] with lanes := SMap.mapVals (wave []).lanes fun l n => if l = 0 then { n with kind := .helper } else n }

/-- IssueChecks: a run that a guard leaves out; a feature not accepted, a guard within a guard, eret at system level; a privileged
instruction at user level; the group table registers; the least register beyond the declared ones; the least barrier beyond the
declared ones; the fabric flag and another flag not given; a ratom's barrier that the block does not have, and one beyond its scratchpad; a
region entry and a barrier of an operand taken once; a barrier of a lane after a helper; a run of helpers alone; a register awaiting. -/
theorem witness_IssueChecks :
    (guarded.active [0, 1, 2, 3] = [] ∧ ∀ i ∈ [Instr.mov 4 8, .exit, .chain 8 0],
      cannotIssue i (ready i (ctx guarded)) (bundle i) guarded [] = false) ∧
    addressed.active [0, 1, 2, 3] ≠ [] ∧ (∃ f ∈ (Instr.chain 8 0).features, ({ ctx addressed with feat := 0xF7 } : Ctx).feat.testBit f = false) ∧
    (∃ l ∈ [0, 1, 2, 3], ∃ m, guarded.lane? l = some m ∧ m.gcount ≠ 0) ∧ ((ctx addressed).priv = true ∧ addressed.hmode = false) ∧
    (illegalHere .halt user addressed [0, 1, 2, 3] = false ∧ Instr.halt.privileged = true ∧ ¬ (user.priv = true ∨ addressed.hmode = true)) ∧
    ((0x0E0 ≤ 0x0E0 ∧ 0x0E0 ≤ 0x0E5) ∧ 0x0E0 ≤ 0x0E5 ∧ 0x0E5 ≤ 0x0E5) ∧
    (let beyond : List Nat := ((Instr.ld 14 24 0 5 0).regs ++ (Instr.ld 14 24 0 5 0).minted).filter fun r => small.declared ≤ r;
      16 ∈ beyond ∧ ∀ q ∈ beyond, 16 ≤ q) ∧
    (small.nbarriers ≤ small.nbarriers ∧ small.nbarriers ≤ 15) ∧
    ((Instr.rcap 8 8 7 0).minted ≠ [] ∧ small.ffabric = false) ∧
    ((Instr.mcfg 8 0).flagBit = some 102 ∧ small.desc.testBit 102 = false ∧ ∀ r ∈ (Instr.mcfg 8 0).regs ++ (Instr.mcfg 8 0).minted, r < 16) ∧
    (let x : Ctx := { small with desc := 2 ^ 64 + 2 ^ 88 };
      x.ntbars ≤ 1 ∧ 0 < x.ntbars ∧ x.scratchBytes < 16 * 0 + 16 ∧ ∀ r ∈ (Instr.ratom 8 10 0 0 0 2 0).regs ++ (Instr.ratom 8 10 0 0 0 2 0).minted, r < 16) ∧
    (∀ i ∈ [Instr.rgnSet 8 10 0, .rgnDrop 8 0, .tbarInit 8 10, .tbarArrive 8 10, .tbarWait 8 10], (∀ r ∈ i.regs ++ i.minted, r < small.declared) ∧
      cannotIssue i (ready i small) (bundle i) mixed [0, 1, 2, 3] = false ∧ small.nregions ≤ (mixed.reg 8 0).toNat ∧
      small.ntbars ≤ (mixed.reg 8 1).toNat % 2 ^ 14 ∧ mixed.isHelper 0 = true ∧ mixed.isHelper 1 = false) ∧
    ((∀ l ∈ helping.active [0, 1, 2, 3], helping.isHelper l = true) ∧ helping.active [0, 1, 2, 3] ≠ [] ∧
      overreach (.tbarWait 8 10) small (helping.active [0, 1, 2, 3]) = none ∧
      cannotIssue (.tbarWait 8 10) (ready (.tbarWait 8 10) small) (bundle (.tbarWait 8 10)) helping [0, 1, 2, 3] = false ∧ helping.windows = []) ∧
    (let v : Wave := { addressed with pend := [(8, 2)] };
      illegalHere (.mov 4 8) (ctx v) v [0, 1, 2, 3] = false ∧ (Instr.mov 4 8).groupRegister = false ∧ (Instr.mov 4 8).privileged = false ∧
      overreach (.mov 4 8) (ctx v) (v.active [0, 1, 2, 3]) = none ∧ 8 ∈ (Instr.mov 4 8).reads ∧ SMap.get 0 v.pend 8 ≠ 0) := by
  decide +kernel

/-- The block with a trap vector, and its wave with a trap that waits. -/
def handled : Ctx := { ctx addressed with tvec := 0x2000000000020000 }
def waiting : Wave := { addressed with trap := some ⟨0x1A, 5, 0, 15, 0x2000000000010000⟩ }

/-- HandlerEntry: nothing in flight, a load in flight, and a trap that has waited; and no trap vector, with nothing in flight and with a
trap that has waited. -/
theorem witness_HandlerEntry :
    ((machine handled).ctx? 0 = some handled ∧ SMap.find? handled.waves 0 = some addressed ∧ (machine handled).waveBusy 0 0 = false ∧
      handled.tvec ≠ 0 ∧ addressed.hmode = false) ∧
    (flying handled .mrd []).waveBusy 0 0 = true ∧
    (let x : Ctx := { handled with waves := [(0, waiting)] };
      let s : State := { machine x with args := [0, 0] };
      s.args = [0, 0] ∧ s.ctx? 0 = some x ∧ waiting.trap = some ⟨0x1A, 5, 0, 15, 0x2000000000010000⟩ ∧ s.waveBusy 0 0 = false ∧
      x.tvec ≠ 0 ∧ waiting.hmode = false ∧ x.goal = .none) ∧
    ((machine (ctx addressed)).ctx? 0 = some (ctx addressed) ∧ (machine (ctx addressed)).waveBusy 0 0 = false ∧ (ctx addressed).tvec = 0) ∧
    (let x : Ctx := ctx waiting;
      let s : State := { machine x with args := [0, 0] };
      s.ctx? 0 = some x ∧ waiting.trap ≠ none ∧ s.waveBusy 0 0 = false ∧ x.tvec = 0 ∧ x.goal = .none) := by
  decide +kernel

/-- SystemInstructions: a tlbinv that waits for nothing more. -/
theorem witness_SystemInstructions :
    let k : OpKind := .tlbinv 2 15 0 []
    let s := flying (ctx addressed) k [];
    s.args = [7] ∧ s.op? 7 = some ⟨0, 0, [0, 1], k⟩ ∧ s.ctx? 0 = some (ctx addressed) := by
  decide +kernel

/-- A tile configuration: gangs of two waves, N 16, format f, one K-step, column stride 4. -/
def config (f : Nat) : Nat := 2 + f * 2 ^ 8 + 2 ^ 16 + 4 * 2 ^ 48

def image (n : Nat) (r : Image) : Option (List (Nat × Nat)) := match r with
  | .ok ws _ => if ws.all fun e => e.2 < 256 ^ n then some ws else none
  | _ => none

theorem image_of {n : Nat} {ws : List (Nat × Nat)} {r : Image} (h : image n r = some ws) : ∃ u, r = .ok ws u := by
  unfold image at h
  split at h
  · split at h
    · cases h; exact ⟨_, rfl⟩
    · cases h
  · cases h

/-- The machine with the configuration k in the block's scratchpad. -/
def configured (k : Nat) : State := { machine (ctx addressed) with mem := writeMem [] (scratchKey 0 0) 64 k }

/-- A machine with i issued for the four lanes. -/
def issued (s : State) (i : Instr) : State := { s with cur := some (bundle i) }

/-- The block with a loaded matrix unit and the gang register g, its rows and column groups in v26. -/
def loaded (k g : Nat) (pipe : List MatOp) : Ctx :=
  { ctx { addressed with gang := g } with mat := ⟨true, k, [], [], none, pipe⟩ }

theorem passesIn {i : Instr} {s : State} {x : Ctx} {v : Wave} (hs : s.ctx? 0 = some x) (hv : SMap.find? x.waves 0 = some v)
    (h : went (issueCheck i (bundle i) (issued s i)) = some [0, 1, 2, 3]) :
    Passes i (issued s i) (bundle i) x v [0, 1, 2, 3] := by
  refine ⟨rfl, hs, hv, ?_, by decide⟩
  unfold went at h
  split at h <;> simp_all

/-- MatrixAccess: a malformed configuration and a good one read for mcfg; gang registers 0 and 3 that are good, 2 that is not;
accumulator access on an unloaded unit, in rows below 96 on a loaded one, and in row 96. -/
theorem witness_MatrixAccess :
    (∀ e ∈ [(0, true), (config 3, false)],
      let s := issued (configured e.1) (.mcfg 24 0)
      Passes (.mcfg 24 0) s (bundle (.mcfg 24 0)) (ctx addressed) addressed [0, 1, 2, 3] ∧
      (∃ u, readImages s (pass (.mcfg 24 0) (bundle (.mcfg 24 0)) [0, 1, 2, 3] s)
        (bundle (.mcfg 24 0)) (ctx addressed) addressed [0, 1, 2, 3] 64 [(0, addressed.pair 24 0)] = .ok [(0, e.1)] u) ∧
      cfgMalformed e.1 = e.2 ∧ Quiet s (bundle (.mcfg 24 0)) (ctx addressed) 64 ∧
      Plain s (bundle (.mcfg 24 0)) (ctx addressed) 64 (addressed.pair 24 0) (scratchKey 0 0) ∧ readMem s.mem (scratchKey 0 0) 64 = e.1) ∧
    ((ctx addressed).mat.pipe = [] ∧ (ctx addressed).mat.loaded = false ∧ (loaded 0 0 []).mat.loaded = true ∧ addressed.isHelper 0 = false) ∧
    (let size (g : Nat) : Nat := ((List.range 16).filter fun k => g.testBit k).length;
      (3 < 2 ^ 16 ∧ (3).testBit 0 = true ∧ 2 ≤ size 3 ∧ size 63 ≤ 6) ∧ (2).testBit 0 = false) ∧
    (∀ i ∈ [Instr.gang 26, .mzero 3 0, .mrd 8 26 3 0, .mwr 8 26 3 0, .mscale 26 3 0],
      (∃ v, Passes i (issued (machine (loaded 0 0 [])) i) (bundle i) (loaded 0 0 []) v [0, 1, 2, 3]) ∧
      Passes i (ready i (ctx addressed)) (bundle i) (ctx addressed) addressed [0, 1, 2, 3]) ∧
    ((∀ k ∈ [0, 1, 2], (addressed.reg 26 k).toNat % 128 < 96) ∧ (addressed.reg 26 3).toNat % 128 = 96) := by
  refine ⟨fun e he => ?_, by decide +kernel, by decide +kernel, fun i hi => ?_, by decide +kernel⟩
  · simp only [List.mem_cons, List.not_mem_nil, or_false] at he
    rcases he with rfl | rfl
    · exact ⟨passesIn (s := configured 0) rfl rfl (by decide +kernel), image_of (n := 64) (by decide +kernel), by decide +kernel,
        quiet 64 rfl rfl (fun _ _ h => nomatch h), plain rfl (by decide +kernel), by decide +kernel⟩
    · exact ⟨passesIn (s := configured (config 3)) rfl rfl (by decide +kernel), image_of (n := 64) (by decide +kernel),
        by decide +kernel, quiet 64 rfl rfl (fun _ _ h => nomatch h), plain rfl (by decide +kernel), by decide +kernel⟩
  · simp only [List.mem_cons, List.not_mem_nil, or_false] at hi
    rcases hi with rfl | rfl | rfl | rfl | rfl <;>
      exact ⟨⟨_, passesIn (s := machine (loaded 0 0 [])) rfl rfl (by decide +kernel)⟩, passes (by decide +kernel)⟩

/-- Two waves of gang 3 that wait at the latch with an s8 mma of tile 2. -/
def ganged : Ctx :=
  let r (w : Nat) : Rend := ⟨⟨0, w, origin, [0, 1, 2, 3], .mmaS8 8 2 0 0, 0x8000DB⟩, [0, 1, 2, 3], 3, 2, false, 8, 255, 0⟩
  let v (w : Nat) : Wave := { addressed with slot := w, gang := 3, rend := some (r w) }
  { loaded (config 3) 3 [] with waves := [(0, v 0), (1, v 1)] }

/-- MatrixMultiply: an mma on an unloaded unit, one of a wave of no gang, one of a gang whose other wave does not wait yet, and a
complete rendezvous that agrees, of readable operands. -/
theorem witness_MatrixMultiply :
    ((ctx addressed).mat.loaded = false ∧ Passes (.mmaS8 8 2 0 0) (ready (.mmaS8 8 2 0 0) (ctx addressed)) (bundle (.mmaS8 8 2 0 0))
      (ctx addressed) addressed [0, 1, 2, 3]) ∧
    (let x := loaded (config 3) 3 [];
      (∃ v, Passes (.mmaS8 8 2 0 0) (issued (machine x) (.mmaS8 8 2 0 0)) (bundle (.mmaS8 8 2 0 0)) x v [0, 1, 2, 3] ∧
        v.gang ≠ 0 ∧ x.gangClash 0 v.gang = [] ∧ x.gangGone v.gang = false) ∧ (loaded (config 3) 0 []).mat.loaded = true) ∧
    (machine ganged).ctx? 0 = some ganged ∧ ganged.state = .resident ∧ ganged.goal = .none ∧ ganged.gangReady 3 = true ∧
    ∃ r rs, ((gangWaves 3).filterMap fun w => match SMap.find? ganged.waves w with
        | some v => v.rend.map fun r => (w, r)
        | none => none) = (0, r) :: rs ∧ rendCause ganged.mat.cfg 3 ((0, r) :: rs) = none ∧ r.tile = 2 ∧
      operandFault (machine ganged) 0 ganged r.act (operandRanges ganged.mat.cfg (cfgTile ganged.mat.cfg r.tile)
        (ganged.mat.tile r.tile).kcur r.fmt) = none ∧ ganged.mat.latch = none ∧
      (∀ e ∈ (0, r) :: rs, ∀ v ∈ SMap.find? ganged.waves e.1, ∀ l ∈ v.lanes, l.2.lsw.toNat.testBit 8 = false) ∧
      ∀ e ∈ (0, r) :: rs, e.2.d + 8 ≤ 128 ∧ (e.2.a < 128 ∨ e.2.a = 255) ∧ e.2.bundle.ctx = 0 ∧ e.2.bundle.wave = e.1 := by
  refine ⟨⟨rfl, passes (by decide +kernel)⟩, ⟨⟨_, passesIn (s := machine (loaded (config 3) 3 [])) rfl rfl (by decide +kernel),
    by decide +kernel, by decide +kernel, by decide +kernel⟩, rfl⟩, rfl, rfl, rfl, by decide +kernel, _, _, rfl, by decide +kernel, rfl,
    by decide +kernel, rfl, by decide +kernel, by decide +kernel⟩

/-- MatrixCompletion: each operation at the head of the pipeline, with elements at the ends of a tile and scales at the ends. -/
theorem witness_MatrixCompletion :
    let ops : List MatOp := [.mma 3 96 64 4 3 [(0, 1), (95, 2)] [(0, 3), (63, 4)] [] [], .mzero 3, .mwr 3 [(0, 1), (6143, 2)],
      .mscale 3 (2 ^ 16 - 1) 0 (2 ^ 16 - 1), .mrd 3 7 8 [(0, some 0), (31, none)]]
    (∀ o ∈ ops, (loaded (config 3) 0 [o]).mat.pipe = o :: [] ∧ (machine (loaded (config 3) 0 [o])).ctx? 0 = some (loaded (config 3) 0 [o])) ∧
    ([(0, 1), (95, 2)].map (·.1) : List Nat).Nodup ∧ ([(0, 3), (63, 4)].map (·.1) : List Nat).Nodup ∧
    (∀ e ∈ [(0, (1 : Word)), (6143, 2)], e.1 < 6144) ∧ 2 ^ 16 - 1 < 2 ^ 16 ∧
    (flying (loaded (config 3) 0 []) .mrd []).op? 7 = some ⟨0, 0, [0, 1], .mrd⟩ ∧ ∀ e ∈ [(0, some 0), (31, none)], e.1 < 32 := by
  decide +kernel

/-- A box of 16 elements of 2 bytes at the start of an own page, tail barrier k. -/
def box (k : Nat) : Nat := 0x2000000000010000 * 2 ^ 448 + 16 * 2 ^ 248 + 2 ^ 264 + 2 ^ 280 + 2 ^ 296 + 2 ^ 312 + k * 2 ^ 58 + 8 * 2 ^ 10

/-- The block with entry 0 in a state. -/
def bound (r : RState) : Ctx := { ctx addressed with regions := [(0, ⟨r, box 31, [0, 0, 0, 0, 0], none⟩)] }

theorem passesAt {i : Instr} {x : Ctx} (h : went (issueCheck i (bundle i) (ready i x)) = some [0, 1, 2, 3])
    (hv : SMap.find? x.waves 0 = some addressed) : Passes i (ready i x) (bundle i) x addressed [0, 1, 2, 3] :=
  passesIn (s := machine x) rfl hv h

/-- RegionInstructions: rgn.set of a malformed and of a good descriptor; an entry not bound; an entry in each state, with no lock
held and a box of the own package. -/
theorem witness_RegionInstructions :
    let x := ctx addressed
    (∀ e ∈ [(box 31, true), (0, false)],
      let s := issued (configured e.1) (.rgnSet 26 24 0)
      Passes (.rgnSet 26 24 0) s (bundle (.rgnSet 26 24 0)) x addressed [0, 1, 2, 3] ∧
      (∃ u, readImages s (pass (.rgnSet 26 24 0) (bundle (.rgnSet 26 24 0)) [0, 1, 2, 3] s) (bundle (.rgnSet 26 24 0)) x addressed
        [0, 1, 2, 3] 64 [(0, addressed.pair 24 0)] = .ok [(0, e.1)] u) ∧
      (regionSetFault x [0, 1, 2, 3] 0 e.1 (addressed.pair 24 0) = none ↔ e.2 = true) ∧ boxMalformed e.1 x.spanBlocks = (!e.2) ∧
      Quiet s (bundle (.rgnSet 26 24 0)) x 64 ∧ Plain s (bundle (.rgnSet 26 24 0)) x 64 (addressed.pair 24 0) (scratchKey 0 0) ∧
      readMem s.mem (scratchKey 0 0) 64 = e.1) ∧
    (boxTbar (box 31) < x.ntbars ∧ 16 * boxTbar (box 31) + 16 ≤ x.scratchBytes ∧ boxSwin (box 31) + boxWindow (box 31) ≤ x.scratchBytes ∧
      x.regions = []) ∧
    (∀ i ∈ [Instr.rgnPre 26 0, .rgnFlush 26 0, .rgnDrop 26 0], Passes i (ready i x) (bundle i) x addressed [0, 1, 2, 3] ∧
      ∀ r ∈ [RState.absent, .filling, .present, .dirty], Passes i (ready i (bound r)) (bundle i) (bound r) addressed [0, 1, 2, 3] ∧
        SMap.find? (bound r).regions (addressed.reg 26 0).toNat = some ⟨r, box 31, [0, 0, 0, 0, 0], none⟩ ∧
        SMap.find? ((ready i (bound r)).core (bound r).place).locks 31 = none ∧ (ready i (bound r)).ops = []) ∧
    SMap.find? x.regions (addressed.reg 26 0).toNat = none ∧ addressed.isHelper 0 = false ∧
    boxSize (box 31) ≠ 0 ∧ addrSpace (boxBase (box 31)) = 2 ∧ addrPkg (boxBase (box 31)) = (machine x).pkg ∧ boxMcast (box 31) = 0 := by
  refine ⟨fun e he => ?_, by decide +kernel, fun i hi => ?_, by decide +kernel⟩
  · simp only [List.mem_cons, List.not_mem_nil, or_false] at he
    rcases he with rfl | rfl
    · exact ⟨passesIn (s := configured (box 31)) rfl rfl (by decide +kernel), image_of (n := 64) (by decide +kernel),
        by decide +kernel, by decide +kernel, quiet 64 rfl rfl (fun _ _ h => nomatch h), plain rfl (by decide +kernel), by decide +kernel⟩
    · exact ⟨passesIn (s := configured 0) rfl rfl (by decide +kernel), image_of (n := 64) (by decide +kernel), by decide +kernel,
        by decide +kernel, quiet 64 rfl rfl (fun _ _ h => nomatch h), plain rfl (by decide +kernel), by decide +kernel⟩
  · simp only [List.mem_cons, List.not_mem_nil, or_false] at hi
    rcases hi with rfl | rfl | rfl <;> refine ⟨passesAt (by decide +kernel) rfl, fun r hr => ?_⟩ <;>
      simp only [List.mem_cons, List.not_mem_nil, or_false] at hr <;>
      rcases hr with rfl | rfl | rfl | rfl <;> exact ⟨passesAt (by decide +kernel) rfl, by decide +kernel, by decide +kernel, rfl⟩

/-- The machine with barrier k of the block holding the image b. -/
def barred (k b : Nat) : State := { machine (ctx addressed) with mem := writeMem [] (scratchKey 0 (16 * k)) 16 b }

/-- The block with 32 barriers and no scratchpad. -/
def shallow : Ctx := { ctx addressed with desc := placedDesc - 256 * 2 ^ 72 }

/-- TransactionBarriers: arrivals and sectors below, at and above what is pending, on barriers with and without error; the reserved field at its ends; the instructions
on the last barriers, 28 to 31; one beyond the allocation and one under a range lock; and one with and without error, and a lane whose
phase has and has not moved. -/
theorem witness_TransactionBarriers :
    let fresh : Nat := 2 ^ 4 + 2 ^ 20 + 2 ^ 44 + 2 ^ 60;
    (fresh < 2 ^ 92 ∧ 2 ^ 92 - 1 < 2 ^ 92 ∧ 2 ^ 92 / 2 ^ 92 % 2 ^ 36 ≠ 0 ∧ 2 ^ 127 / 2 ^ 92 % 2 ^ 36 ≠ 0 ∧ fresh / 2 ^ 4 % 2 ^ 16 = 1 ∧ fresh / 2 ^ 20 % 2 ^ 24 = 1 ∧ fresh / 2 ^ 84 % 2 = 0) ∧
    (let v := wave (regs 24 fun l => 28 + word l);
      ∀ i ∈ [Instr.tbarInit 24 0, .tbarArrive 24 0, .tbarRead 8 24 0, .tbarTest 8 24 0, .tbarWait 24 0],
        Passes i (ready i (ctx v)) (bundle i) (ctx v) v [0, 1, 2, 3] ∧
        (∀ l ∈ [0, 1, 2, 3], (v.reg 24 l).toNat % 2 ^ 14 < (ctx v).ntbars ∧ 16 * ((v.reg 24 l).toNat % 2 ^ 14) + 16 ≤ (ctx v).scratchBytes) ∧
        ((ready i (ctx v)).core (ctx v).place).locks = [] ∧ (ready i (ctx v)).ops = []) ∧
    (∀ i ∈ [Instr.tbarInit 40 0, .tbarArrive 40 0],
      (Passes i (ready i shallow) (bundle i) shallow addressed [0, 1, 2, 3] ∧ addressed.isHelper 0 = false ∧
        0 < shallow.ntbars ∧ shallow.scratchBytes < 16 * 0 + 16) ∧
      let s : State := { machine (ctx addressed) with cores := [(0, { Core.reset with locks := [(31, ⟨9, 0, false, 1, 8, 15⟩)] })] }
      Passes i (issued s i) (bundle i) (ctx addressed) addressed [0, 1, 2, 3] ∧
        ∃ h ∈ (issued s i).scratchLocks 0, h.covers (16 * 0) 16 = true) ∧
    ∀ i ∈ [Instr.tbarTest 8 40 0, .tbarWait 40 0], ∀ b ∈ [2 ^ 84 + 3 * 2 ^ 85, 0, 1],
      Passes i (issued (barred 0 b) i) (bundle i) (ctx addressed) addressed [0, 1, 2, 3] ∧
      (readMem (issued (barred 0 b) i).mem (scratchKey 0 0) 16).testBit 84 = decide (b ≠ 0 ∧ b ≠ 1) ∧ addressed.reg 40 0 = 0 ∧
      (readMem (issued (barred 0 b) i).mem (scratchKey 0 0) 16 % 16 = (addressed.reg 41 0).toNat % 16 ↔ b ≠ 1) ∧
      [0, 1, 2, 3].Pairwise (· < ·) := by
  refine ⟨by decide, fun i hi => ?_, fun i hi => ?_, fun i hi b hb => ?_⟩
  · simp only [List.mem_cons, List.not_mem_nil, or_false] at hi
    rcases hi with rfl | rfl | rfl | rfl | rfl <;> exact ⟨passes (by decide +kernel), by decide +kernel⟩
  · simp only [List.mem_cons, List.not_mem_nil, or_false] at hi
    rcases hi with rfl | rfl <;>
      exact ⟨⟨passesAt (by decide +kernel) rfl, by decide +kernel⟩, passesIn rfl rfl (by decide +kernel), by decide +kernel⟩
  · simp only [List.mem_cons, List.not_mem_nil, or_false] at hi hb
    rcases hi with rfl | rfl <;> rcases hb with rfl | rfl | rfl <;>
      exact ⟨passesIn (s := barred 0 _) rfl rfl (by decide +kernel), by decide +kernel⟩

/-- A chain of n 4-byte integers from commons offset 0 to itself with one add of the constant, tail barrier k. -/
def chainOf (k n : Nat) : Nat :=
  0x4000000000000000 * 2 ^ 448 + 0x4000000000000000 * 2 ^ 256 + 7 * 2 ^ 192 + n * 2 ^ 160 + 2 ^ 99 + 3 * 2 ^ 96 + k * 2 ^ 82 + 2 ^ 8 + 11 * 2 ^ 4

def inCommons (k n : Nat) : State := { wide with mem := writeMem [] (scratchKey 0 0) 64 (chainOf k n) , ctxs := [(0, ctx addressed)] }

theorem pair_of {α β : Type} (r : α × β) : ∃ a b, r = (a, b) := ⟨r.1, r.2, rfl⟩

/-- A chain that only counts, of no stream: n elements, tail barrier k. -/
def noStream (k n : Nat) : Nat := n * 2 ^ 160 + k * 2 ^ 82

/-- A core whose lock table is full. -/
def fullCore : Core := { Core.reset with locks := (List.range 32).map fun k => (k, ⟨9, 0, true, 0, 2 ^ 20 + k, 2 ^ 20 + k⟩) }

/-- Chains: a descriptor read, of barrier 31, the last, whose streams find room in the lock table and, the table being full, do not; a
descriptor of a chain outside the commons; a malformed chain, an empty one and one of two elements; one that has started. -/
theorem witness_Chains :
    (let s := issued (inCommons 31 2) (.chain 24 0);
      Passes (.chain 24 0) s (bundle (.chain 24 0)) (ctx addressed) addressed [0, 1, 2, 3] ∧
      (∃ u, readImages s (pass (.chain 24 0) (bundle (.chain 24 0)) [0, 1, 2, 3] s) (bundle (.chain 24 0)) (ctx addressed) addressed
        [0, 1, 2, 3] 64 [(0, addressed.pair 24 0)] = .ok [(0, chainOf 31 2)] u) ∧ chainTbar (chainOf 31 2) < (ctx addressed).ntbars ∧
      16 * chainTbar (chainOf 31 2) + 16 ≤ (ctx addressed).scratchBytes ∧ (chainReserve s 0 (ctx addressed) (chainOf 31 2)).isSome = true ∧
      (chainReserve ({ s with cores := (List.range 64).map fun k => (k, fullCore) } : State) 0 (ctx addressed) (chainOf 31 2)).isNone = true) ∧
    (let s := issued (configured 0) (.chain 24 0);
      Passes (.chain 24 0) s (bundle (.chain 24 0)) (ctx addressed) addressed [0, 1, 2, 3] ∧ Quiet s (bundle (.chain 24 0)) (ctx addressed) 64 ∧
      Plain s (bundle (.chain 24 0)) (ctx addressed) 64 (addressed.pair 24 0) (scratchKey 0 0) ∧ readMem s.mem (scratchKey 0 0) 64 = 0 ∧
      chainTbar 0 < (ctx addressed).ntbars ∧ 16 * chainTbar 0 + 16 ≤ (ctx addressed).scratchBytes ∧ ∀ q ∈ chainStreams 0, addrSpace q ≠ 4) ∧
    (∀ e ∈ [(1, true), (chainOf 31 0, false), (chainOf 31 2, false)],
      let s := flying (ctx addressed) (.chain e.1 false) []
      s.args = [7] ∧ s.op? 7 = some ⟨0, 0, [0, 1], .chain e.1 false⟩ ∧ s.ctx? 0 = some (ctx addressed) ∧ chainMalformed s.pkg e.1 = e.2) ∧
    let s := flying (ctx addressed) (.chain (chainOf 31 2) true) []
    s.op? 7 = some ⟨0, 0, [0, 1], .chain (chainOf 31 2) true⟩ ∧ ∃ code u, chainElements (ctx addressed) (chainOf 31 2) s = (code, u) := by
  refine ⟨⟨passesIn (s := inCommons 31 2) rfl rfl (by decide +kernel), image_of (n := 64) (by decide +kernel), by decide +kernel,
    by decide +kernel, by decide +kernel, by decide +kernel⟩, ⟨passesIn (s := configured 0) rfl rfl (by decide +kernel),
    quiet 64 rfl rfl (fun _ _ h => nomatch h), plain rfl (by decide +kernel), by decide +kernel⟩, by decide +kernel, by decide +kernel, pair_of _⟩

/-- A copy of the box, of one sector of data in a window of eight, tail barrier 31, from or to a window of the block's scratchpad. -/
def copying (out drop : Bool) (done : List (Nat × Bool)) (targets : List Nat) : OpKind :=
  .copy 0 out drop (box 31) [0, 0, 0, 0, 0] done targets [] 0

/-- The same box combined on store: f16 add. -/
def reducing (done : List (Nat × Bool)) : OpKind := .copy 0 true false (box 31 + 2 ^ 5) [0, 0, 0, 0, 0] done [] [] 0

/-- Every sector of the window. -/
def all8 : List (Nat × Bool) := (List.range 8).map fun k => (k, true)

/-- CopyEvents: a copy with all and with one of its sectors left in each direction, with and without combining; one whose sectors are
all done; a failing one; a copy with a receiving block, context 1, whose window it has locked. -/
theorem witness_CopyEvents :
    let x := bound .filling
    (∀ out ∈ [true, false], ∀ done ∈ [[], all8.take 7], let s := flying x (copying out false done []) [];
      s.args = [7] ∧ s.op? 7 = some ⟨0, 0, [0, 1], copying out false done []⟩ ∧ s.ctx? 0 = some x ∧ leftSectors (box 31) done ≠ [] ∧
      boxRedop (box 31) = 0 ∧ SMap.find? done 7 = none ∧ done.length < boxSectors (box 31) ∧
      (∀ p ∈ s.ops, p.1 = 7 → p.2 = ⟨0, 0, [0, 1], copying out false done []⟩)) ∧
    (let s := flying x (reducing []) [0 + 1];
      s.args = [7, 0 + 1] ∧ s.op? 7 = some ⟨0, 0, [0, 1], reducing []⟩ ∧ 0 ∈ leftSectors (box 31 + 2 ^ 5) [] ∧ boxRedop (box 31 + 2 ^ 5) ≠ 0) ∧
    (∀ e ∈ [(false, false), (true, false), (true, true)],
      let s := flying x (copying e.1 e.2 all8 []) [];
      s.args = [7] ∧ s.op? 7 = some ⟨0, 0, [0, 1], copying e.1 e.2 all8 []⟩ ∧
      SMap.find? x.regions 0 = some ⟨.filling, box 31, [0, 0, 0, 0, 0], none⟩ ∧ all8.length = boxSectors (box 31)) ∧
    (∀ code ∈ [1, 9], (flying x (copying false false [] []) [code]).args = [7, code] ∧ 1 ≤ code ∧ code ≤ 9) ∧
    let s : State := { flying x (copying false false all8 [1]) [1] with
      ctxs := [(0, x), (1, ctx addressed)], cores := [(0, { Core.reset with locks := [(31, windowLock 7 1 4 (box 31))] })] };
    s.args = [7, 1] ∧ s.op? 7 = some ⟨0, 0, [0, 1], copying false false all8 [1]⟩ ∧ s.ctx? 1 = some (ctx addressed) ∧
      (s.scratchLocks 1) = [windowLock 7 1 4 (box 31)] ∧ (windowLock 7 1 4 (box 31)).op = 7 ∧ boxSwin (box 31) + boxSize (box 31) ≤ 0x40000 ∧
      boxSize (box 31) % 16 = 0 ∧ all8.length = boxSectors (box 31) ∧
      ∀ k, k < 16 → boxTbar (box 31) * 16 + k < boxSwin (box 31) ∨ boxSwin (box 31) + boxSize (box 31) ≤ boxTbar (box 31) * 16 + k := by
  refine ⟨by decide +kernel, by decide +kernel, by decide +kernel, by decide, rfl, rfl, rfl, by decide +kernel⟩

/-- FabricInstructions: each of its instructions passes; registers 8 and 9 of lanes 0 and 31 are at the ends of the clauses. -/
theorem witness_FabricInstructions :
    (∀ i ∈ [Instr.rcap 8 8 7 0, .rcapL 8 8 7 0, .arm 8 7 0, .sendstat 8 0 0, .sendstat 8 1 0],
      Passes i (ready i (ctx addressed)) (bundle i) (ctx addressed) addressed [0, 1, 2, 3]) ∧
    ∀ i ∈ [Instr.sendW 8 40 7 0 0 0, .sendL 8 40 7 3 1 0],
      Passes i (ready i (ctx addressed)) (bundle i) (ctx addressed) addressed [0, 1, 2, 3] ∧
      ∀ l ∈ [0, 1, 2, 3].filter fun l => !addressed.isHelper l, addressed.pair 40 l / 2 ^ 44 = (ready i (ctx addressed)).pkg := by
  refine ⟨fun i hi => ?_, fun i hi => ?_⟩ <;> simp only [List.mem_cons, List.not_mem_nil, or_false] at hi
  · rcases hi with rfl | rfl | rfl | rfl | rfl <;> exact passes (by decide +kernel)
  · rcases hi with rfl | rfl <;> exact ⟨passes (by decide +kernel), by decide +kernel⟩

/-- A lane write of a wave of the block to register 8 of lane 1 of the same wave, on its way or with outcome n - 1. -/
def writing (cap n : Nat) (tag : Nat) : OpKind := .laneWrite cap 0 1 5 tag 0 0 0 n 0

/-- The capability of register 8 of the block's first wave, with and without the lane form, of lane 1. -/
def capOf (own : Nat) : Nat := 1 + own * 2 ^ 5 + 8 * 2 ^ 9

/-- LaneWrites: a dead name; a live one of another tag; the own tag, with and without the pending bit of the register; and the
outcome of a decided one. -/
theorem witness_LaneWrites :
    let armed : Ctx := ctx { addressed with pend := [(8, 0x2)] };
    (let s := flying armed (writing (2 ^ 16) 0 0) [];
      s.args = [7] ∧ s.op? 7 = some ⟨0, 0, [0, 1], writing (2 ^ 16) 0 0⟩ ∧ 2 ^ 16 / 2 ^ 44 = s.pkg ∧ 2 ^ 16 < 2 ^ 64 ∧
        s.earlierWrite 7 ⟨0, 0, [0, 1], writing (2 ^ 16) 0 0⟩ = false ∧ s.named (2 ^ 16) = none) ∧
    (∀ e ∈ [(armed, 0), (armed, 1), (ctx addressed, 0)], ∀ own ∈ [0, 1],
      let s := flying e.1 (writing (capOf own) 0 e.2) [];
      s.args = [7] ∧ s.op? 7 = some ⟨0, 0, [0, 1], writing (capOf own) 0 e.2⟩ ∧ capOf own / 2 ^ 44 = s.pkg ∧ capOf own < 2 ^ 64 ∧
        s.earlierWrite 7 ⟨0, 0, [0, 1], writing (capOf own) 0 e.2⟩ = false ∧ s.named (capOf own) = some (0, 0) ∧ s.ctx? 0 = some e.1 ∧
        e.1.state = .resident ∧ e.1.die = e.1.fdie ∧ e.1.core = e.1.fcore ∧ e.1.ffabric = true ∧ 0 ≤ capOf own / 2 ^ 6 % 2 ^ 3 ∧
        capOf own / 2 ^ 9 % 2 ^ 7 + 0 = 8 ∧ 8 < e.1.declared ∧ ((capOf own).testBit 5 = true → 1 = capOf own % 32) ∧
        ∃ y n, SMap.find? e.1.waves 0 = some y ∧ y.lane? 1 = some n ∧ n.exited = false ∧ n.kind = .present ∧
          y.pending 8 1 = !decide (e.1 = ctx addressed)) ∧
    (armed.ptag = 0 ∧ armed ≠ ctx addressed) ∧
    ∀ out ∈ [0, 4], let s := flying armed (writing (capOf 0) (out + 1) 0) [];
      s.args = [7] ∧ s.op? 7 = some ⟨0, 0, [0, 1], writing (capOf 0) (out + 1) 0⟩ ∧ out < 5 ∧ ∃ y, s.wave? 0 0 = some y := by
  refine ⟨by decide +kernel, fun e he own ho => ?_, by decide +kernel, fun out ho => ⟨rfl, rfl, ?_, _, rfl⟩⟩
  · simp only [List.mem_cons, List.not_mem_nil, or_false] at he ho
    rcases he with rfl | rfl | rfl <;> rcases ho with rfl | rfl <;>
      exact ⟨rfl, rfl, by decide +kernel, by decide +kernel, by decide +kernel, by decide +kernel, rfl, by decide +kernel, by decide +kernel,
        by decide +kernel, by decide +kernel, by decide +kernel, by decide +kernel, by decide +kernel, by decide +kernel, _, _, rfl, rfl,
        by decide +kernel, by decide +kernel, by decide +kernel⟩
  · simp only [List.mem_cons, List.not_mem_nil, or_false] at ho; omega

/-- The machine with trace of partition 15 on, with the flags f of its control register, and a page open since clock 5. -/
def tracing (f fill clock : Nat) (args : List Nat) : State :=
  { (((machine (ctx addressed)).hubSet 0x720 15 (1 + f)).hubSet 0x727 15 3).hubSet 0x729 15 1 with
    pages := [(15, ⟨0, [], 0, fill, 0, 5⟩)], clock := BitVec.ofNat 64 clock, args := args }

/-- Trace: a record that fills the page to its last byte; a page on its last cycle and due; trace off and on; samples and intervals
of an earlier enable, not due, and due, with and without records asked for. -/
theorem witness_Trace :
    (let s := tracing 0 4016 5 [15, 32, 1];
      (s.hubGet 0x720 15).testBit 0 = true ∧ SMap.find? s.pages 15 = some ⟨0, [], 0, 4016, 0, 5⟩ ∧ 4016 + 32 ≤ 4048) ∧
    ((5 + 2 ^ 20 ≤ (tracing 0 0 (5 + 2 ^ 20) [15, 5]).clock.toNat) ∧ (tracing 0 0 (4 + 2 ^ 20) [15, 5]).clock.toNat < 5 + 2 ^ 20 ∧
      (tracing 0 0 0 [15, 5]).args = [15, (⟨0, [], 0, 0, 0, 5⟩ : Page).opened]) ∧
    (15 < 16 ∧ (tracing 0 0 0 []).partState 15 ≠ 2 ∧ (machine (ctx addressed)).partState 15 ≠ 2 ∧ ((machine (ctx addressed)).hubGet 0x720 15).testBit 0 = false ∧ ((tracing 0 0 0 [15, 0]).hubGet 0x720 15).testBit 0 = true ∧
      SMap.find? (tracing 0 0 0 [15, 0]).pages 15 ≠ none) ∧
    (tracing 0 0 0 [15, 2, 0]).hubGet 0x727 15 ≠ 2 ∧
    ∀ f ∈ [0, 4], let s := tracing f 0 1024 [15, 3, 1024];
      s.args = [15, 3, 1024] ∧ (s.hubGet 0x720 15).testBit 0 = true ∧ s.hubGet 0x727 15 = 3 ∧ 1024 ≤ s.clock.toNat ∧
        s.clock.toNat < 1025 ∧ s.hubGet 0x729 15 ≠ 0 ∧ (s.hubGet 0x720 15).testBit 2 = decide (f = 4) ∧
        0 + max 1 (s.hubGet 0x728 15) * 1024 ≤ s.clock.toNat ∧ s.clock.toNat < 1 + max 1 (s.hubGet 0x728 15) * 1024 ∧
        ((tracing 2 0 1024 []).hubGet 0x720 15).testBit 1 = true ∧ 0 ∈ (tracing 2 0 1024 []).heldCores 15 := by
  decide +kernel

theorem passesOn {i : Instr} {s : State} {x : Ctx} {v : Wave} {act : List Nat} (hs : s.ctx? 0 = some x)
    (hv : SMap.find? x.waves 0 = some v) (ha : act ≠ []) (h : went (issueCheck i (bundle i) (issued s i)) = some act) :
    Passes i (issued s i) (bundle i) x v act := by
  refine ⟨rfl, hs, hv, ?_, ha⟩
  unfold went at h
  split at h <;> simp_all

/-- A wave of lane 0 alone: v24 the last slot, v25 a number k, v26 and v27 the address of the scratchpad. -/
def solo (k : Word) : Wave :=
  { Wave.start 0 [(0, Lane.start .present origin)] with regs := [(32 * 24, 16383), (32 * 25, k), (32 * 26, 0xFC0000), (32 * 27, 0x30000000)] }

/-- The block of that wave, whose partition owns the last slot and every notify register; the words ws of the slot. -/
def slotted (k : Word) (ws : List (Nat × Word)) : State :=
  { (((machine (ctx (solo k))).hubSet 0x081 15 16383).hubSet 0x082 15 1).hubSet 0x084 15 256 with
    vesper := ws.map fun e => (512 * 16383 + e.1, e.2) }

/-- The slot is the block's own, in state q, with c drafts and f forced tokens. -/
def ownSlot (s : State) (q c f : Nat) : Bool :=
  let word (w : Nat) : Nat := (SMap.get 0 s.vesper (512 * 16383 + w)).toNat
  decide (16383 < 16384 ∧ s.hubGet 0x081 15 ≤ 16383 ∧ 16383 < s.hubGet 0x081 15 + s.hubGet 0x082 15 ∧ word 46 = 0 ∧
    word 47 = (ctx (solo 0)).fname 0 ∧ word 0 % 4 = q ∧ word 0 / 2 ^ 9 % 2 ^ 4 = c ∧ word 0 / 2 ^ 13 % 2 ^ 5 = f)

/-- SSTAT of state q, c drafts, f forced tokens, verified or not. -/
def stat (q c f v : Nat) : Word := word (q + c * 2 ^ 9 + f * 2 ^ 13 + v * 2 ^ 18)

/-- With i issued, its image is read as zeros and the entry is good. -/
def watched (s : State) (i : Instr) : Bool :=
  match (pass i (bundle i) [0] (issued s i)).ctx? 0, (pass i (bundle i) [0] (issued s i)).wave? 0 0 with
  | some y, some z => match readImages (issued s i) (pass i (bundle i) [0] (issued s i)) (bundle i) y z [0] 128 [(0, (solo 7).pair 26 0)] with
    | .ok ws u => decide (ws = [(0, 0)] ∧ u.vesper = s.vesper ∧ u.hub = s.hub ∧ u.entryOk (u.slotPart 16383) 0 = true)
    | _ => false
  | _, _ => false

theorem watched_of {s : State} {i : Instr} (h : watched s i = true) : ∃ y z, (pass i (bundle i) [0] (issued s i)).ctx? 0 = some y ∧
    (pass i (bundle i) [0] (issued s i)).wave? 0 0 = some z ∧
    ∃ u, readImages (issued s i) (pass i (bundle i) [0] (issued s i)) (bundle i) y z [0] 128 [(0, (solo 7).pair 26 0)] = .ok [(0, 0)] u ∧
      u.vesper = s.vesper ∧ u.hub = s.hub ∧ u.entryOk (u.slotPart 16383) 0 = true := by
  unfold watched at h
  split at h
  · rename_i y z hy hz
    split at h
    · rename_i ws u hr
      obtain ⟨rfl, hd⟩ := of_decide_eq_true h
      exact ⟨y, z, hy, hz, u, hr, hd⟩
    · cases h
  · cases h

/-- SequenceInstructions: every operation on slot 16383, the last, with no drafts and the most, no forced tokens and one and the most,
no token and one committed, running, stopped and trapped; the last word, class, mask, counter and watch entry. -/
theorem witness_SequenceInstructions :
    (ctx (solo 0)).ptag = 0 ∧ (ctx (solo 0)).part = 15 ∧
    (∀ c ∈ [0, 7, 8], ownSlot (slotted 0 [(0, stat 1 c 0 0)]) 1 c 0 = true) ∧
    (∀ f ∈ [0, 1, 16], ∀ p ∈ [0, 1], ownSlot (slotted 0 [(0, stat 1 0 f 0), (1, word p)]) 1 0 f = true) ∧
    (∀ q ∈ [2, 3], ownSlot (slotted 0 [(0, stat q 0 0 0)]) q 0 0 = true) ∧
    (∀ k ∈ [0, 383], ∀ i ∈ [Instr.sqProp 8 24 0, .sqVerify 8 24 0, .sqNext 8 24 0, .sqRead 8 24 0, .sqCtlClose 8 24 0, .sqCtlResume 8 24 0,
        .sqCtlSetclass 8 24 0, .sqCtlSetmask 8 24 0, .sqCtlSetcnt 8 24 0, .sqCtlClrdraft 8 24 0, .sqCtlClrfq 8 24 0, .sqCtlOpen 8 0,
        .sqWatch 8 24 0],
      Passes i (issued (slotted (word k) []) i) (bundle i) (ctx (solo (word k))) (solo (word k)) [0]) ∧
    (solo 0).isHelper 0 = false ∧ ((solo 383).reg 24 0).toNat = 16383 ∧ ((solo 383).reg 25 0).toNat < 384 ∧ 383 % 4 = 3 ∧ 383 % 16 = 15 ∧
    (∀ w, (SMap.get 0 (slotted 0 []).vesper w) = 0) ∧
    (let i : Instr := .sqWatch 8 24 0;
      let s := slotted 7 [(0, stat 1 0 0 0)];
      (∃ y z, (pass i (bundle i) [0] (issued s i)).ctx? 0 = some y ∧ (pass i (bundle i) [0] (issued s i)).wave? 0 0 = some z ∧
        ∃ u, readImages (issued s i) (pass i (bundle i) [0] (issued s i)) (bundle i) y z [0] 128 [(0, (solo 7).pair 26 0)] = .ok [(0, 0)] u ∧
          u.vesper = s.vesper ∧ u.hub = s.hub ∧ u.entryOk (u.slotPart 16383) 0 = true) ∧
      Quiet (issued s i) (bundle i) (ctx (solo 7)) 128 ∧
      Plain (issued s i) (bundle i) (ctx (solo 7)) 128 ((solo 7).pair 26 0) (scratchKey 0 0) ∧ readMem (issued s i).mem (scratchKey 0 0) 128 = 0 ∧
      (issued s i).entryOk ((issued s i).slotPart 16383) 0 = true) ∧ ((solo 7).reg 25 0).toNat < 8 ∧
    let s := flying (ctx (solo 0)) (.reply [(256, 1), (287, 2)]) []
    s.args = [7] ∧ s.op? 7 = some ⟨0, 0, [0, 1], .reply [(256, 1), (287, 2)]⟩ ∧ (([(256, 1), (287, 2)] : List (Nat × Word)).map (·.1)).Nodup := by
  refine ⟨rfl, rfl, by decide +kernel, by decide +kernel, by decide +kernel, fun k hk i hi => ?_, rfl, by decide +kernel,
    by decide +kernel, by decide, by decide, fun w => by simp [slotted, SMap.get, SMap.find?],
    ⟨watched_of (s := slotted 7 [(0, stat 1 0 0 0)]) (i := .sqWatch 8 24 0) (by decide +kernel), quiet 128 rfl rfl (fun _ _ h => nomatch h),
      plain rfl (by decide +kernel), by decide +kernel, by decide +kernel⟩, by decide +kernel, rfl, rfl, by decide⟩
  simp only [List.mem_cons, List.not_mem_nil, or_false] at hk hi
  rcases hk with rfl | rfl <;> rcases hi with rfl | rfl | rfl | rfl | rfl | rfl | rfl | rfl | rfl | rfl | rfl | rfl | rfl <;>
    exact passesOn (s := slotted _ []) rfl rfl (by decide) (by decide +kernel)

/-- Commits: unverified drafts; verified ones, none and eight, on a slot whose watch entries are all disabled. -/
theorem witness_Commits :
    (∀ i ∈ [Instr.sqCommit 8 24, .sqCommitD 8 24], ∀ w ∈ [stat 1 8 0 0, stat 1 8 0 1, stat 1 0 0 0],
      Passes i (issued (slotted 5 [(0, w)]) i) (bundle i) (ctx (solo 5)) (solo 5) [0]) ∧
    (∀ e ∈ [(8, 0), (8, 1), (0, 0)], ownSlot (slotted 5 [(0, stat 1 e.1 0 e.2)]) 1 e.1 0 = true ∧
      (stat 1 e.1 0 e.2).toNat.testBit 18 = decide (e.2 = 1) ∧ e.1 ≤ 8) ∧
    ∀ k, k < 8 → (SMap.get 0 (slotted 5 [(0, stat 1 8 0 1)]).vesper (512 * 16383 + (128 + 32 * k))).toNat % 2 = 0 := by
  refine ⟨fun i hi w hw => ?_, by decide +kernel, by decide +kernel⟩
  simp only [List.mem_cons, List.not_mem_nil, or_false] at hi hw
  rcases hi with rfl | rfl <;> rcases hw with rfl | rfl | rfl <;>
    exact passesOn (s := slotted 5 _) rfl rfl (by decide) (by decide +kernel)

/-- The same block with a notify range of n registers and register 255 pending or not; v24 is 16383, so the register is 255. -/
def notified (n p : Nat) : State := { (slotted 0 []).hubSet 0x084 15 n with notify := [(255, 9 + p * 2 ^ 64)] }

/-- Notify: register 255, the last, in the range and pending, in the range and not, and outside it. -/
theorem witness_Notify :
    (∀ i ∈ [Instr.ntfRead 8 24 0, .ntfWrite 8 24 0, .ntfWait 8 24], ∀ e ∈ [(256, 1), (256, 0), (255, 1)],
      Passes i (issued (notified e.1 e.2) i) (bundle i) (ctx (solo 0)) (solo 0) [0]) ∧
    ((solo 0).reg 24 0).toNat % 256 = 255 ∧ (solo 0).isHelper 0 = false ∧ (∃ m, (solo 0).lane? 0 = some m) ∧ [0] = [] ++ 0 :: [] ∧
    (∀ e ∈ [(256, 1), (256, 0), (255, 1)], (notified e.1 e.2).hubGet 0x083 15 ≤ 255 ∧
      (255 < (notified e.1 e.2).hubGet 0x083 15 + (notified e.1 e.2).hubGet 0x084 15 ↔ e.1 = 256) ∧
      (SMap.get 0 (notified e.1 e.2).notify 255).testBit 64 = decide (e.2 = 1)) := by
  refine ⟨fun i hi e he => ?_, by decide +kernel, rfl, ⟨_, rfl⟩, rfl, by decide +kernel⟩
  simp only [List.mem_cons, List.not_mem_nil, or_false] at hi he
  rcases hi with rfl | rfl | rfl <;> rcases he with rfl | rfl | rfl <;>
    exact passesOn (s := notified _ _) rfl rfl (by decide) (by decide +kernel)

/-- With i issued for lane 0 of s, the n bytes at address a are read. -/
def imageRead (s : State) (i : Instr) (v : Wave) (a n : Nat) : Bool :=
  match (pass i (bundle i) [0] (issued s i)).ctx? 0, (pass i (bundle i) [0] (issued s i)).wave? 0 0 with
  | some y, some z => match readImages (issued s i) (pass i (bundle i) [0] (issued s i)) (bundle i) y z [0] n [(0, v.pair a 0)] with
    | .ok _ u => u.nextId == s.nextId + 1
    | _ => false
  | _, _ => false

theorem imageRead_of {s : State} {i : Instr} {v : Wave} {a n : Nat} (h : imageRead s i v a n = true) :
    ∃ y z, (pass i (bundle i) [0] (issued s i)).ctx? 0 = some y ∧ (pass i (bundle i) [0] (issued s i)).wave? 0 0 = some z ∧
      ∃ m u, readImages (issued s i) (pass i (bundle i) [0] (issued s i)) (bundle i) y z [0] n [(0, v.pair a 0)] = .ok m u ∧
        u.nextId = s.nextId + 1 := by
  unfold imageRead at h
  split at h
  · rename_i y z hy hz
    split at h
    · rename_i m u hm
      exact ⟨y, z, hy, hz, m, u, hm, by simpa using h⟩
    · cases h
  · cases h

/-- A signal of value 5 to control address 0. -/
def signalImage (add : Nat) : Nat := 4 + 0x1000000000000000 * 2 ^ 64 + 5 * 2 ^ 128 + add * 2 ^ 192

/-- A machine whose queue q of partition 15 is enabled, takes device insertions and holds the entries es. -/
def queued (q : Nat) (es : List Entry) (args : List Nat) : State :=
  { (machine (ctx addressed)).hubSet 0x401 q (15 + 2 ^ 7 + 2 ^ 8) with queues := [(q, { Queue.reset with entries := es })], args := args }

/-- An operation of qput for lane 31. -/
def inserting (q m : Nat) : OpKind := .insertion 8 [(31, q, m)]

/-- QueueInsertion: an image that is read; insertions into queue 4096, into one not enabled, of a packet of no type, into a full ring of
16 and, of a NOP, into one with 15 entries. -/
theorem witness_QueueInsertion :
    (Passes (.qput 24 26 0) (issued (machine (ctx (solo 0))) (.qput 24 26 0)) (bundle (.qput 24 26 0)) (ctx (solo 0)) (solo 0) [0] ∧
      (solo 0).isHelper 0 = false ∧
      (let s := machine (ctx (solo 0));
        let i : Instr := .qput 24 26 0;
        (∃ y z, (pass i (bundle i) [0] (issued s i)).ctx? 0 = some y ∧ (pass i (bundle i) [0] (issued s i)).wave? 0 0 = some z ∧
          ∃ m u, readImages (issued s i) (pass i (bundle i) [0] (issued s i)) (bundle i) y z [0] 64 [(0, (solo 0).pair 26 0)] = .ok m u ∧
            u.nextId = s.nextId + 1) ∧
        Quiet (issued s i) (bundle i) (ctx (solo 0)) 64 ∧ Plain (issued s i) (bundle i) (ctx (solo 0)) 64 ((solo 0).pair 26 0) (scratchKey 0 0))) ∧
    (∀ e ∈ [(4096, 0, 0, 1), (0, 0, 0, 2), (4095, 7, 0, 3), (4095, 0, 16, 4), (4095, 0, 15, 0)],
      let s : State := { queued 4095 ((List.range e.2.2.1).map fun k => ⟨k, k, 0, false⟩) [7] with
        ops := [(7, ⟨0, 0, [31], inserting e.1 e.2.1⟩)] };
      let refusing (q : Nat) : Bool := s.hubGet 0x401 q % 16 != 15 || !(s.hubGet 0x401 q).testBit 8 || !(s.hubGet 0x401 q).testBit 7;
      s.op? 7 = some ⟨0, 0, [31], inserting e.1 e.2.1⟩ ∧ s.ctx? 0 = some (ctx addressed) ∧ (ctx addressed).part = 15 ∧
      (if 4096 ≤ e.1 then 1 else if refusing e.1 then 2 else if packetOk e.2.1 = false then 3
        else if 2 ^ (s.hubGet 0x401 e.1 / 2 ^ 12 % 16 + 4) ≤ (s.queue e.1).entries.length then 4 else 0) = e.2.2.2) := by
  exact ⟨⟨passesOn (s := machine (ctx (solo 0))) rfl rfl (by decide) (by decide +kernel), rfl,
    imageRead_of (s := machine (ctx (solo 0))) (i := .qput 24 26 0) (by decide +kernel),
    quiet 64 rfl rfl (fun _ _ h => nomatch h), plain rfl (by decide +kernel)⟩, by decide +kernel⟩

/-- Queue q runs and its first packet, of that type, has begun or not. -/
def first (s : State) (q type : Nat) (begun : Bool) : Bool := match (s.queue q).entries with
  | e :: es => decide (e.begun = begun ∧ e.image % 2 ^ 8 = type ∧ (∀ d ∈ es, d.begun = false ∧ d.index ≠ e.index) ∧
      (s.hubGet 0x401 q).testBit 7 = true ∧ (s.queue q).paused = false ∧ (s.queue q).suspended = false ∧ q < 4096 ∧ s.args.take 2 = [q, e.index])
  | [] => false

/-- The machine with a table for control space of partition 15 at control offset 0x10000, whose first page is mapped, and a window over it. -/
def control (s : State) : State :=
  { ((((s.hubSet 0x605 0 0x80000000).hubSet 0x709 241 7).hubSet 0x70C 241 0xFFFFFFFF).hubSet 0x501 15 0x10000).hubSet 0x502 15 0 with
    mem := writeMem (writeMem s.mem (ctlKey 0x10000) 8 0x11001) (ctlKey 0x11000) 8 0x3B }

def answered (a : Answer) (p : Nat → State → Bool) : Bool := match a with
  | .ok v u => p v u
  | _ => false

theorem answered_of {a : Answer} {p : Nat → State → Bool} (h : answered a p = true) : ∃ v u, a = .ok v u ∧ p v u = true := by
  unfold answered at h
  split at h
  · exact ⟨_, _, rfl, h⟩
  · cases h

def placedAt (r : Except (Nat ⊕ Nat) (Bool × Nat) × State) (p : Nat → State → Bool) : Bool := match r with
  | (.ok (false, pa), u) => p pa u
  | _ => false

theorem placedAt_of {r : Except (Nat ⊕ Nat) (Bool × Nat) × State} {p : Nat → State → Bool} (h : placedAt r p = true) :
    ∃ pa u, r = (.ok (false, pa), u) ∧ p pa u = true := by
  unfold placedAt at h
  split at h
  · exact ⟨_, _, rfl, h⟩
  · cases h

/-- A WAIT on control address 0, which holds 0, by mode k with operand y. -/
def waitImage (k y : Nat) : Nat := 3 + 0x1000000000000000 * 2 ^ 64 + y * 2 ^ 128 + k * 2 ^ 192

/-- An address of scratchpad is no word of Matins. -/
theorem no_word (s : State) {a : Nat} (part n need : Nat) (h : addrSpace a = 3) : s.matinsPlace part a n need = (.error (.inl 2), s) := by
  simp [State.matinsPlace, h]

theorem no_read (s : State) {a : Nat} (part n : Nat) (h : addrSpace a = 3) : s.matinsRead part a n = .fail 2 s := by
  simp [State.matinsRead, no_word s part n permR h]

/-- QueuePackets: the first packet of queue 4095, with another behind it, of each type, begun and not; a marker's word placed, placed on
a poisoned unit, and of no space of Matins'; a signal that writes and one that adds, its word placed and not; a wait not due and due, its
word read, met and not met in each mode, and not read. -/
theorem witness_QueuePackets :
    (∀ m ∈ [0, 5, 6, signalImage 0, waitImage 0 1], first (queued 4095 [⟨9, 9, m, false⟩, ⟨10, 10, 0, false⟩] [4095, 9]) 4095 (m % 256) false = true) ∧
    pktWord 6 0 = 0 ∧
    (∀ bad ∈ [false, true],
      let m := 6 + 0x1000000000000000 * 2 ^ 64
      let s : State := { control (queued 4095 [⟨9, 9, m, false⟩, ⟨10, 10, 0, false⟩] [4095, 9]) with
        poison := if bad then [(ctlKey 0 / 32, 1)] else [] }
      let b := s.setQueue 4095 { s.queue 4095 with entries := [⟨9, 9, m, true⟩, ⟨10, 10, 0, false⟩] }
      first s 4095 6 false = true ∧ s.waiting = [] ∧ pktWord m 0 ≠ 0 ∧ (s.hubGet 0x720 (s.hubGet 0x401 4095 % 16)).testBit 0 = false ∧
        ∃ pa u, b.matinsPlace (s.hubGet 0x401 4095 % 16) (pktWord m 0) 8 permW = (.ok (false, pa), u) ∧
          (u.queues == b.queues && u.hub == s.hub && pa % 8 == 0 && poisoned u (ctlKey pa) 8 == bad) = true) ∧
    (∀ m, addrSpace (pktWord m 0) = 3 → ∀ (s : State) (part need : Nat),
      s.matinsPlace part (pktWord m 0) 8 need = (.error (.inl 2), s) ∧ s.matinsRead part (pktWord m 0) 8 = .fail 2 s) ∧
    (∀ m ∈ [3, 4, 6], addrSpace (pktWord (m + 0x3000000000000000 * 2 ^ 64) 0) = 3 ∧
      first (queued 4095 [⟨9, 9, m + 0x3000000000000000 * 2 ^ 64, m != 6⟩, ⟨10, 10, 0, false⟩] [4095, 9, 0]) 4095 m (m != 6) = true) ∧
    (∀ add ∈ [0, 1],
      let s := control (queued 4095 [⟨9, 9, signalImage add, true⟩, ⟨10, 10, 0, false⟩] [4095, 9]);
      first s 4095 4 true = true ∧ s.waiting = [] ∧ ∃ pa u, s.matinsPlace (s.hubGet 0x401 4095 % 16) (pktWord (signalImage add) 0) 8
          (if decide (pktWord (signalImage add) 2 = 1) then permR + permW else permW) = (.ok (false, pa), u) ∧
        (!poisoned u (ctlKey pa) 8 && u.queues == s.queues && u.hub == s.hub && pa % 8 == 0) = true) ∧
    ∀ k ∈ [0, 1, 2, 3], ∀ y ∈ [0, 1],
      let s := control (queued 4095 [⟨9, 9, waitImage k y, true⟩, ⟨10, 10, 0, false⟩] [4095, 9, 0]);
      first s 4095 3 true = true ∧ s.waiting = [] ∧ s.clock.toNat < 1 ∧ 0 ≤ s.clock.toNat ∧
        ∃ x u, s.matinsRead (s.hubGet 0x401 4095 % 16) (pktWord (waitImage k y) 0) 8 = .ok x u ∧
          (u.queues == s.queues && u.hub == s.hub && u.waiting == s.waiting && x == 0) = true := by
  refine ⟨by decide +kernel, by decide +kernel, fun a ha => ?_, fun m h s part need => ⟨no_word s part 8 need h, no_read s part 8 h⟩,
    by decide +kernel, fun a ha => ?_, fun k hk y hy => ?_⟩ <;>
    simp only [List.mem_cons, List.not_mem_nil, or_false] at *
  · rcases ha with rfl | rfl <;>
      exact ⟨by decide +kernel, by decide +kernel, by decide +kernel, by decide +kernel, placedAt_of (by decide +kernel)⟩
  · rcases ha with rfl | rfl <;> exact ⟨by decide +kernel, by decide +kernel, placedAt_of (by decide +kernel)⟩
  · rcases hk with rfl | rfl | rfl | rfl <;> rcases hy with rfl | rfl <;>
      exact ⟨by decide +kernel, by decide +kernel, by decide +kernel, by decide +kernel, answered_of (by decide +kernel)⟩

/-- A LAUNCH of the descriptor at tensor offset 0x20000, which holds d, first in queue 4095 of a partition with clusters and units. -/
def launching (d : Nat) : State :=
  let s := ((queued 4095 [⟨9, 9, 1 + 0x2000000000020000 * 2 ^ 64, false⟩, ⟨10, 10, 0, false⟩] [4095, 9]).hubSet 0x80C 0 0x3F).hubSet 0x423 15 1
  { s with mem := writeMem s.mem (tensorKey 0x20000) 64 d }

/-- The code of R415 for a descriptor, as the statement has it. -/
def launchCode (u : State) (part d : Nat) : Nat :=
  let f (hi lo : Nat) : Nat := bits d hi lo
  let threads := f 137 128 * f 147 138 * f 157 148
  let span := f 165 160 * f 171 166 * f 177 172
  let missing (flag feature : Nat) : Prop := d.testBit flag = true ∧ (u.hubGet 0x80C 0).testBit feature = false
  if f 511 256 ≠ 0 ∨ f 191 178 ≠ 0 ∨ f 159 158 ≠ 0 ∨ f 127 103 ≠ 0 ∨ f 71 71 ≠ 0 then 2
  else if 32 < f 99 94 ∨ 32 < f 93 88 ∨ 16 < f 87 83 ∨ 1024 < f 82 72 ∨ threads = 0 ∨ 512 < threads ∨ span = 0 ∨ 48 < span ∨
    ¬ (f 165 160 ∣ f 223 192 ∧ f 171 166 ∣ f 239 224 ∧ f 177 172 ∣ f 255 240) then 3
  else if f 70 68 = 7 ∨ 0x10000 + 0x8000 * f 70 68 < 256 * f 82 72 then 4
  else if d.testBit 0 = true ∨ ¬ (f 63 60 = 1 ∨ (f 63 60 = 2 ∧ f 59 40 = u.pkg)) then 5
  else if missing 102 0 ∨ missing 101 4 ∨ missing 100 5 then 6
  else if 1024 < (threads + 31) / 32 * (8 * (f 67 64 + 1)) then 7
  else if u.hubGet 0x423 part = 0 ∧ u.hubGet 0x424 part = 0 then 8
  else 0

/-- Launches: a good descriptor read, one of no span, and a bad one read, and a descriptor that is not read or not aligned; a launch all
of whose spans are placed, with no block left, without and with a word for its end, and a rejected one. -/
theorem witness_Launches :
    (∀ e ∈ [(placedDesc + 0x2000000000010000, 0, 1), (placedDesc + 0x2000000000010000 - 2 ^ 192, 0, 0), (0, 3, 0)],
      let s := launching e.1
      let t0 := s.setQueue 4095 { s.queue 4095 with entries := [⟨9, 9, 1 + 0x2000000000020000 * 2 ^ 64, true⟩, ⟨10, 10, 0, false⟩] }
      first s 4095 1 false = true ∧ s.waiting = [] ∧ pktWord (1 + 0x2000000000020000 * 2 ^ 64) 0 % 64 = 0 ∧
      ∃ d u, t0.matinsRead (s.hubGet 0x401 4095 % 16) (pktWord (1 + 0x2000000000020000 * 2 ^ 64) 0) 64 = .ok d u ∧
        (u.queues == t0.queues && u.hub == s.hub && launchCode u 15 d == e.2.1 && (e.2.1 != 0 || descSpans d == e.2.2)) = true) ∧
    (addrSpace (pktWord (1 + 0x3000000000000000 * 2 ^ 64) 0) = 3 ∧ pktWord (1 + 0x3000000000000000 * 2 ^ 64) 0 % 64 = 0 ∧
      pktWord (1 + 32 * 2 ^ 64) 0 % 64 ≠ 0 ∧ ∀ a ∈ [0x3000000000000000, 32],
        first (queued 4095 [⟨9, 9, 1 + a * 2 ^ 64, false⟩, ⟨10, 10, 0, false⟩] [4095, 9]) 4095 1 false = true) ∧
    (∀ w ∈ [0, 0x1000000000000000], ∀ code ∈ [0, 3],
      let m := 1 + w * 2 ^ 192
      let l : Launch := ⟨4095, 9, m, placedDesc, code / 3, 1 - code / 3, code, 15, false⟩
      let s : State := { control (queued 4095 [⟨9, 9, m, true⟩, ⟨10, 10, 0, false⟩] [2]) with
        launches := [(2, { l with next := 1 })] };
      s.waiting = [] ∧ SMap.find? s.launches 2 = some { l with next := 1 } ∧ (∀ e ∈ s.ctxs, e.2.launch ≠ 2) ∧
        (s.queue 4095).entries = [⟨9, 9, m, true⟩, ⟨10, 10, 0, false⟩] ∧ (w = 0 → pktWord m 2 = 0) ∧
        (w ≠ 0 → ∃ pa z, s.matinsPlace 15 (pktWord m 2) 8 permW = (.ok (false, pa), z) ∧
          (z.launches == s.launches && z.ctxs == s.ctxs && z.queues == s.queues && z.hub == s.hub && !poisoned z (ctlKey pa) 8 &&
            pa % 8 == 0) = true)) := by
  refine ⟨fun e he => ?_, by decide +kernel, fun w hw code hc => ?_⟩ <;> simp only [List.mem_cons, List.not_mem_nil, or_false] at *
  · rcases he with rfl | rfl | rfl <;>
      exact ⟨by decide +kernel, by decide +kernel, by decide +kernel, answered_of (by decide +kernel)⟩
  · rcases hw with rfl | rfl <;> rcases hc with rfl | rfl <;>
      exact ⟨by decide +kernel, by decide +kernel, by decide +kernel, by decide +kernel, by decide +kernel,
        fun h => by first | exact absurd rfl h | exact placedAt_of (by decide +kernel)⟩

/-- QueueCommands: writes of QCTL with each ground of refusal and with none; a queue not enabled, enabled, paused and suspended, with
packets that have not begun. -/
theorem witness_QueueCommands :
    (let s (c : Nat) (es : List Entry) : State := { (machine (ctx addressed)).hubSet 0x401 0 c with queues := [(0, { Queue.reset with entries := es })] };
      let field (v : Nat) : Nat × Nat := (v % 16, v / 2 ^ 12 % 16);
      let bad (c v : Nat) (es : List Entry) : Bool := decide (12 < v / 2 ^ 12) || (c.testBit 7 && field c != field v) ||
        (c.testBit 7 && !v.testBit 7 && !es.isEmpty) || (!c.testBit 7 && v.testBit 7 && (s c es).partState (v % 16) != 1);
      bad 0 0xD000 [] = true ∧ bad 0xC080 0x080 [] = true ∧ bad 0x8F 0xF [⟨0, 0, 0, false⟩] = true ∧ bad 0 0x8E [] = true ∧
        bad 0 0xC68F [] = false ∧ bad 0x8F 0x20F [] = false ∧ 0xC68F < 2 ^ 16 ∧ (0xC68F).testBit 11 = false ∧
        (s 0xC080 []).hubGet 0x401 ((s 0xC080 []).hubGet 0x400 0 % 4096) < 2 ^ 16) ∧
    ((queued 0 [] []).hubGet 0x401 0).testBit 7 = true ∧ ((machine (ctx addressed)).hubGet 0x401 0).testBit 7 = false ∧
    (queued 0 [] []).hubGet 0x400 0 % 4096 = 0 ∧ (∃ x, (queued 0 [] []).ctx? 0 = some x ∧ x.queue = 0 ∧ x.state = .resident ∧ x.goal = .none) ∧
    (let s : State := { queued 0 [] [] with
        queues := [(0, { Queue.reset with entries := [⟨9, 9, 0, false⟩, ⟨10, 10, 5, false⟩], paused := true })] };
      (s.queue 0).paused = true ∧ (s.queue 0).suspended = false ∧ s.colls = [] ∧ s.launches = [] ∧
        (∀ e ∈ (s.queue 0).entries, e.begun = false ∧ e.image % 2 ^ 8 ≠ 1) ∧ ((s.queue 0).entries.map fun e => e.index).Nodup) := by
  refine ⟨by decide +kernel, by decide +kernel, by decide +kernel, by decide +kernel, ⟨_, rfl, rfl, rfl, rfl⟩, by decide +kernel⟩

/-- The machine with the block in a state, on its core or not, with a save area. -/
def standing (st : CState) (g : Goal) (core : Bool) (args : List Nat) : State :=
  { machine { ctx addressed with state := st, goal := g, onCore := core } with saves := [(0, 0x100000, 0x10000)], args := args }

/-- ContextCommands: a context number with no context, 65535; a block that issues, of a plain and of a confidential partition; one halted
on its core and off it, saved, and stopped; a full save pool; lanes parked at wfe and none. -/
theorem witness_ContextCommands :
    (let s := (machine (ctx addressed)).hubSet 0x040 0 0xFFFF;
      s.ctx? (s.hubGet 0x040 0 % 2 ^ 16) = none) ∧
    (∀ e ∈ [(CState.resident, Goal.none, false), (.saving, .saved, false), (.halted, .none, false), (.halted, .none, true), (.saved, .none, false),
        (.stopped, .none, false)],
      let s := standing e.1 e.2.1 e.2.2 [];
      s.hubGet 0x040 0 % 2 ^ 16 = 0 ∧ s.spanOf 0 = [0] ∧ s.colls = [] ∧ (∀ b ∈ s.spanOf 0, (SMap.find? s.saves b).isSome = true) ∧
      (s.hubGet 0x701 15).testBit 16 = false ∧ ∃ x, s.ctx? 0 = some x ∧ x.state = e.1 ∧ x.goal = e.2.1 ∧ x.onCore = e.2.2 ∧ x.part = 15 ∧
        (∀ k ∈ x.waves, k.2.sqtrap = false) ∧ x.placed = (e.1 != .saved && (e.1 != .halted || e.2.2))) ∧
    (((machine (ctx addressed)).hubSet 0x042 0 0).takeAreas 0 = none) ∧
    ((standing .resident .none false []).hubSet 0x701 15 0x40010000 |>.hubGet 0x701 15).testBit 16 = true ∧
    SMap.find? (machine { ctx addressed with state := .stopped }).saves 0 = none ∧
    (∃ k ∈ ({ addressed with lanes := [(0, { Lane.start .present origin with park := .wfe })] } : Wave).lanes, k.2.exited = false ∧ k.2.park = .wfe) ∧
    ∀ k ∈ addressed.lanes, k.2.exited = false → k.2.park ≠ .wfe := by
  refine ⟨by decide +kernel, fun e he => ?_, by decide +kernel, by decide +kernel, rfl, by decide +kernel, by decide +kernel⟩
  simp only [List.mem_cons, List.not_mem_nil, or_false] at he
  rcases he with rfl | rfl | rfl | rfl | rfl | rfl <;>
    exact ⟨by decide +kernel, by decide +kernel, rfl, by decide +kernel, by decide +kernel, _, rfl, rfl, rfl, rfl, rfl, by decide +kernel, rfl⟩

/-- A wave all of whose lanes have exited. -/
def exited : Wave := { addressed with lanes := addressed.lanes.map fun e => (e.1, { e.2 with exited := true }) }

/-- LeavingACore and Resumption: a wave that retires; a block whose waves have; one that is Retiring; a resident span; a drained one to save, halt and stop, and one to halt with
no area for it; one halted on its core; a saved one with room for it; and one being restored. -/
theorem witness_LeavingAndResuming :
    (let s : State := { machine (ctx exited) with args := [0, 0] };
      s.ctx? 0 = some (ctx exited) ∧ SMap.find? (ctx exited).waves 0 = some exited ∧ exited.retired = false ∧ exited.trap = none ∧
        s.waveBusy 0 0 = false ∧ (∀ e ∈ exited.lanes, e.2.exited = true) ∧ ∀ e ∈ (ctx exited).waves, e.2.rend = none) ∧
    (let x := ctx { exited with retired := true };
      let s : State := { machine x with args := [0] };
      s.ctx? 0 = some x ∧ x.state = .resident ∧ x.goal = .none ∧ s.ctxWorks 0 = false ∧ ∀ e ∈ x.waves, e.2.retired = true) ∧
    (∃ x, (standing .retiring .none true [0]).ctx? 0 = some x ∧ x.state = .retiring) ∧
    (let s := standing .resident .none false [0];
      s.args = [0] ∧ 0 ∉ s.unsaved ∧ s.colls = [] ∧ 0 ∈ s.spanOf 0 ∧ ∀ b ∈ s.spanOf 0, (SMap.find? s.saves b).isSome = true) ∧
    (∀ g ∈ [Goal.saved, .halted, .stopped], let s := standing (if g = .stopped then .resident else .saving) g false [0];
      s.spanOf 0 = [0] ∧ s.ctxBusy 0 = false ∧ (SMap.find? s.saves 0).isSome = true ∧
        ∃ x, s.ctx? 0 = some x ∧ x.goal = g ∧ ∀ e ∈ x.waves, e.2.trap = none ∧ e.2.walk = false) ∧
    (let x : Ctx := { ctx addressed with state := .saving, goal := .halted };
      let s : State := { machine x with args := [0] };
      s.ctx? 0 = some x ∧ s.spanOf 0 = [0] ∧ s.ctxBusy 0 = false ∧ (∀ e ∈ x.waves, e.2.trap = none ∧ e.2.walk = false) ∧ s.takeAreas 0 = none) ∧
    (let s := standing .halted .none true [0];
      s.spanOf 0 = [0] ∧ (SMap.find? s.saves 0).isSome = true ∧ ∃ x, s.ctx? 0 = some x ∧ x.state = .halted ∧ x.onCore = true) ∧
    (let s := ((standing .saved .none false [0]).hubSet 0x423 15 1).hubSet 0x80C 0 0xFF;
      s.spanOf 0 = [0] ∧ ∃ x, s.ctx? 0 = some x ∧ x.state = .saved ∧ (s.savedSpot 0 x).isSome = true ∧ s.imagePoisoned x true = false ∧
        ∀ e ∈ x.waves, ∀ n ∈ e.2.lanes, n.1 < 32) ∧
    let s := standing .restoring .none false [0];
    s.args = [0] ∧ s.spanOf 0 = [0] ∧ ∃ x, s.ctx? 0 = some x ∧ x.state = .restoring ∧
      ∀ e ∈ x.waves, e.2.sqtrap = false ∧ e.2.event = false := by
  refine ⟨by decide +kernel, by decide +kernel, ⟨_, rfl, rfl⟩, by decide +kernel, fun g hg => ?_, by decide +kernel,
    ⟨by decide +kernel, by decide +kernel, _, rfl, rfl, rfl⟩, ⟨by decide +kernel, _, rfl, rfl, by decide +kernel, by decide +kernel, by decide +kernel⟩,
    rfl, by decide +kernel, _, rfl, rfl, by decide +kernel⟩
  simp only [List.mem_cons, List.not_mem_nil, or_false] at hg
  rcases hg with rfl | rfl | rfl <;> exact ⟨by decide +kernel, by decide +kernel, by decide +kernel, _, rfl, rfl, by decide +kernel⟩

/-- The machine whose breakpoint unit u of partition 15 covers the program, with the block under debug. -/
def broken (u : Nat) : State :=
  (((machine { ctx addressed with dbgen := true }).hubSet 0x731 (60 + u) 1).hubSet 0x734 (60 + u) 0xFFFFFFFF).hubSet 0x735 (60 + u) 0xFFFFFFFF

/-- BundleIssue: a port that issues a nop, one with no wave, and units 0 and 3 that match. -/
theorem witness_BundleIssue :
    (let s : State := { machine (ctx (wave [])) with args := [0] };
      s.withheld = false ∧ s.selectWave 0 0 = some (0, 0, 0) ∧ s.ctx? 0 = some (ctx (wave [])) ∧ SMap.find? (ctx (wave [])).waves 0 = some (wave []) ∧
        (wave []).nextRun = some (origin, [0, 1, 2, 3]) ∧ (wave []).walk = false ∧ (∀ k ∈ (wave []).windows, k.pos < k.span ∨ s.inFlight k.id = false) ∧ pcMatch s (ctx (wave [])) (wave []) origin = none ∧
        (∃ u, fetch (s.hold 0 0) (ctx (wave [])) origin.toNat = .ok 3 u) ∧
        decode 3 = .ok .nop ∧ s.selectWave 767 3 = none) ∧
    ∀ u ∈ [0, 3], ∃ x, (broken u).ctx? 0 = some x ∧ SMap.find? x.waves 0 = some addressed ∧ x.state = .resident ∧ x.goal = .none ∧
      addressed.eligible = true ∧ addressed.nextRun = some (origin, [0, 1, 2, 3]) ∧ addressed.active [0, 1, 2, 3] ≠ [] ∧
      pcMatch (broken u) x addressed origin = some u ∧ 0 ∈ (broken u).spanOf 0 := by
  refine ⟨⟨by decide +kernel, by decide +kernel, rfl, rfl, by decide +kernel, rfl, by decide +kernel, by decide +kernel, ok_of (by decide +kernel),
    by decide +kernel, by decide +kernel⟩, fun u hu => ?_⟩
  simp only [List.mem_cons, List.not_mem_nil, or_false] at hu
  rcases hu with rfl | rfl <;> exact ⟨_, rfl, rfl, rfl, rfl, by decide +kernel, by decide +kernel, by decide +kernel, by decide +kernel,
    by decide +kernel⟩

def walked (r : Except Miss (Nat × Nat) × State) : Option (Nat × Nat) := match r with
  | (.ok p, _) => some p
  | _ => none

theorem walked_of {r : Except Miss (Nat × Nat) × State} {p : Nat × Nat} (h : walked r = some p) : ∃ u, r = (.ok (p.1, p.2), u) := by
  unfold walked at h
  split at h
  · cases h; exact ⟨_, rfl⟩
  · cases h

def missed (r : Except Miss (Nat × Nat) × State) : Option Miss := match r with
  | (.error m, _) => some m
  | _ => none

theorem missed_of {r : Except Miss (Nat × Nat) × State} {m : Miss} (h : missed r = some m) : ∃ u, r = (.error m, u) := by
  unfold missed at h
  split at h
  · cases h; exact ⟨_, rfl⟩
  · cases h

/-- PageWalks: from core 3071 and partition 15, the last, a page that the tables map with every permission but one, and one that they
do not, with no pointer entry held. -/
theorem witness_PageWalks :
    let s := machine (ctx addressed);
    let w (va : Nat) := walkAt (s.dieAgent (s.walkDie 3071)) true (s.root true 15) va (s.heldPointer (s.walkDie 3071) 15 true va (some 130))
      ({ s with tlb := s.tlb.filter fun y => !(y.covers (coreCache 3071) 15 true va || y.covers (clusterCache 3071) 15 true va) } : State);
    3071 < 3072 ∧ 15 < 16 ∧ 56 < 64 ∧ (∃ u, w 0x10000 = (.ok (0x3B, 2), u)) ∧ 0x3B &&& 56 = 56 ∧
      0x3B &&& 4 ≠ 4 ∧ (∃ m u, w 0x40000000 = (.error m, u)) ∧ ∀ y ∈ s.walkers, y.covers (s.walkDie 3071) 15 true 0x10000 = false := by
  refine ⟨by decide, by decide, by decide, walked_of (p := (0x3B, 2)) (by decide +kernel), by decide, by decide, ⟨.walk 0 2,
    missed_of (by decide +kernel)⟩, by decide +kernel⟩

/-- A launch of one block of n threads in one dimension. -/
def blocks (n : Nat) : Nat := placedDesc + (n - 1) * 2 ^ 128

/-- Placement: launches of one thread and of 512, on a package whose core 0 is free and on its core 47. -/
theorem witness_Placement : ∀ n ∈ [1, 512],
    let s : State := { State.reset with launches := [(2, ⟨4095, 9, 1, blocks n, 0, 1, 0, 15, false⟩)] }
    SMap.find? s.launches 2 = some ⟨4095, 9, 1, blocks n, 0, 1, 0, 15, false⟩ ∧ descSpanBlocks (blocks n) = 1 ∧
      bits (blocks n) 137 128 * bits (blocks n) 147 138 * bits (blocks n) 157 148 = n ∧ n ≤ 512 ∧
      ∀ b ∈ [0, 47], (n + 31) / 32 ≤ (s.freeSlots (48 * 0 + b) ((n + 31) / 32)).length := by decide +kernel

/-- A package in normal service with queues of partition 15, each with a launch of one block with one span left, of descriptor d. -/
def scheduled (qs : List (Nat × Int)) (d : Nat) : State :=
  let s : State := { State.reset with
    queues := qs.map fun e => (e.1, { Queue.reset with entries := [⟨9, 9, 1, true⟩], deficit := e.2 })
    launches := qs.map fun e => (e.1, ⟨e.1, 9, 1, d, 0, 1, 0, 15, false⟩) }
  let s := qs.foldl (fun t e => (t.hubSet 0x401 e.1 (15 + 2 ^ 7)).hubSet 0x405 e.1 e.1) s
  ((s.hubSet 0x423 15 1).hubSet 0x800 0 2).hubSet 0x425 0 0

/-- Scheduling: nothing ready; a span that no context table can hold; one queue ready, and nothing more once its span is placed, with its
deficit positive and not; two queues ready, of which the second is chosen, its deficit positive or by more quanta; by lottery, with
tickets and with none; the seed of R423's example; an epoch not begun and begun; a capped queue at its cap. -/
theorem witness_Scheduling :
    let d := blocks 1
    let wide := 63 * (2 ^ 160 + 2 ^ 166 + 2 ^ 172)
    let by' (s : State) (k q : Nat) : Int := (s.queue q).deficit + k * (max 1 (s.hubGet 0x404 q) * 1024 : Nat)
    State.reset.candidates = [] ∧ State.reset.queues = [] ∧
    (let s := scheduled [(7, 1)] wide;
      s.candidates = [] ∧ (s.queues.map (·.1)) = [7] ∧ (s.freshOf 7).isSome = true ∧ 65536 < s.ctxs.length + descSpanBlocks wide) ∧
    (∀ k ∈ [0, 2], let s := scheduled [(7, if k = 0 then 1 else -1024)] d;
      (∃ r, s.candidates = [(7, r)] ∧ ((s.chooseDeficit [7]).2.place 7 r).candidates = []) ∧ s.hubGet 0x425 0 % 2 = 0 ∧
        0 < by' s k 7 ∧ by' s k 7 ≤ 4096 ∧ ∀ j < k, by' s j 7 ≤ 0) ∧
    (∀ k ∈ [0, 3], let s := scheduled [(7, -4096), (8, if k = 0 then 1 else -2048)] d;
      s.candidates.map (·.1) = [7, 8] ∧ 0 < by' s k 8 ∧ by' s k 7 ≤ 0 ∧ (∀ j < k, by' s j 8 ≤ 0) ∧ SMap.get 0 s.ptrs 0 = 0) ∧
    (∀ q ∈ [0, 7], let s := (scheduled [(q, 1)] d).hubSet 0x425 0 1;
      (∃ r, s.candidates = [(q, r)] ∧ ((s.chooseLottery [q]).2.place q r).candidates = []) ∧ s.hubGet 0x425 0 % 2 = 1 ∧
        s.hubGet 0x405 q = q ∧ 0 ≤ (2 ^ 32 - 1) * q / 2 ^ 32 ∧ (q ≠ 0 → (2 ^ 32 - 1) * q / 2 ^ 32 < q)) ∧
    (let s : State := ((((State.reset.hubSet 0x405 3 20).hubSet 0x405 7 50).hubSet 0x405 9 30).hubSet 0x426 0 0x80000000).hubSet 0x427 0 1;
      s.hubGet 0x405 3 = 20 ∧ s.hubGet 0x405 7 = 50 ∧ s.hubGet 0x405 9 = 30 ∧ s.hubGet 0x426 0 = 0x80000000 ∧ s.hubGet 0x427 0 = 1) ∧
    (State.reset.clock.toNat < 1 * 2 ^ 20 ∧ 0 * 2 ^ 20 ≤ State.reset.clock.toNat ∧ State.reset.queues = []) ∧
    let s : State := ({ State.reset with queues := [(7, { Queue.reset with accrual := 16384 })] } : State).hubSet 0x406 7 1
    s.hubGet 0x406 7 ≠ 0 ∧ (s.queue 7).capped = false ∧ s.hubGet 0x406 7 * 1024 * 16 ≤ s.accrual 7 := by
  refine ⟨rfl, rfl, by decide +kernel, fun k hk => ?_, by decide +kernel, fun q hq => ?_, by decide +kernel, by decide +kernel, by decide +kernel⟩ <;>
    simp only [List.mem_cons, List.not_mem_nil, or_false] at *
  · rcases hk with rfl | rfl <;>
      exact ⟨⟨.fresh 7 0 0, by decide +kernel, by decide +kernel⟩, by decide +kernel, by decide +kernel, by decide +kernel, by decide +kernel⟩
  · rcases hq with rfl | rfl
    · exact ⟨⟨.fresh 0 0 0, by decide +kernel, by decide +kernel⟩, by decide +kernel, by decide +kernel, by decide, by decide⟩
    · exact ⟨⟨.fresh 7 0 0, by decide +kernel, by decide +kernel⟩, by decide +kernel, by decide +kernel, by decide, by decide⟩

/-- A barrier block of group 65535, and a block that reduces one float of the partition's tensor memory into another place; the
latter in a ring; and one that gathers such a float from each rank. -/
def barrierBlock : Nat := 7 + 0xFFFF * 2 ^ 48
def sumBlock : Nat := 9 * 2 ^ 12 + 0xFFFF * 2 ^ 48 + 2 ^ 512 + 0x2000000000020000 * 2 ^ 576 + 0x2000000000030000 * 2 ^ 640

def ringBlock : Nat := sumBlock + 2 ^ 18
def gatherBlock : Nat := sumBlock + 2

/-- A collective of queue 4095 in that group, of n ranks, whose own rank is 0. -/
def collective (n b : Nat) : Coll :=
  { queue := 4095, index := 9, group := 0xFFFF, rank := 0, nranks := n, inst := 1, block := b, blocks := [(0, b)], experts := [], alg := 0
    staged := [], got := [], suspended := [], since := 0, slots := [], want := [], idle := 0, halt := 0, code := 0
    step := 0, left := false, sent := 0, inbox := none, parts := [], done := false }

/-- Queue 4095 with two packets, the first of a collective with the parameter block b at tensor offset 0x20000; group 65535 has the
queue as its first rank, of n, and a queue of package 1 as its second. -/
def joining (n b : Nat) (begun : Bool) (args : List Nat) : State :=
  let s := queued 4095 [⟨9, 9, 2 + 0x2000000000020000 * 2 ^ 64, begun⟩, ⟨10, 10, 0, false⟩] args
  { s with mem := writeMem (writeMem s.mem (tensorKey 0x20000) 128 b) (ctlKey 0) 8 (0xFFF + 0x1000 * 2 ^ 32), groups := [(0xFFFF, 1 + n * 2 ^ 22)] }

/-- A block that queue 4095 may begin, of its group's rank i, and the machine after the check. -/
def fresh (u : State) (b : Nat) : Bool := match u.colCheck 4095 b with
  | some ⟨0, some _, _, w⟩ => w.colls.isEmpty && w.colfail.isEmpty && (u.rankLines b).isEmpty
  | _ => false

theorem fresh_of {u : State} {b : Nat} (h : fresh u b = true) :
    u.rankLines b = [] ∧ ∃ i m w, u.colCheck 4095 b = some ⟨0, some i, m, w⟩ ∧ w.colls = [] ∧ w.colfail = [] := by
  unfold fresh at h
  split at h
  · rename_i i m w hw
    simp only [Bool.and_eq_true, List.isEmpty_iff] at h
    exact ⟨h.2, i, m, w, hw, h.1.1, h.1.2⟩
  · cases h

theorem chunk_four (s : State) (c : Coll) (h : colOp c.block = 0) :
    s.chunk c 0 4 = (4, s.matinsRange (s.qpart c.queue) (colSrc c.block + 0) 4) := by
  have hl : ∀ k : Nat, Nat.min 4 (16 * (1 + k)) = 4 := fun k => by simp only [Nat.min_def]; split <;> omega
  simp [State.chunk, h, hl]

/-- Link 0, which is UP, alone reaches package 1. -/
def linked (s : State) : State := (s.hubSet 0x821 4097 1).hubSet 0x811 0 1

theorem link_zero {s : State} (h : ((List.range 32).filter fun l => (s.routeMask 1).testBit l) = [0]) : s.chosenLink 1 4 = some 0 := by
  simp [State.chosenLink, State.linkFor, h, Nat.mod_one]

/-- Whether a collective reports, with the queue's packets after it as the list says. -/
def reports (w : State) (c : Coll) (code : Nat) (is : List Nat) : Bool := match w.colReport c code with
  | .ok u => decide (((u.queue 4095).entries.map fun e => e.index) = is)
  | _ => false

theorem reports_of {w : State} {c : Coll} {code : Nat} {is : List Nat} (h : reports w c code is = true) :
    ∃ u, w.colReport c code = .ok u ∧ ((u.queue 4095).entries.map fun e => e.index) = is := by
  unfold reports at h
  split at h
  · exact ⟨_, ‹_›, of_decide_eq_true h⟩
  · cases h

theorem read_of {a : Answer} (h : answered a (fun b u => decide (colTimeout b = 0) && fresh u b) = true) :
    ∃ b u, a = .ok b u ∧ colTimeout b = 0 ∧ u.rankLines b = [] ∧ ∃ i m w, u.colCheck 4095 b = some ⟨0, some i, m, w⟩ ∧ w.colls = [] ∧ w.colfail = [] := by
  obtain ⟨b, u, h, hp⟩ := answered_of h
  simp only [Bool.and_eq_true, decide_eq_true_eq] at hp
  exact ⟨b, u, h, hp.1, fresh_of hp.2⟩

theorem chunked_of {s : State} {c : Coll} (hc : colOp c.block = 0)
    (h : answered (s.matinsRange (s.qpart c.queue) (colSrc c.block + 0) 4) (fun _ _ => true) = true) :
    ∃ y w, (s.chunk c 0 4).2 = .ok y w := by
  obtain ⟨y, w, hy, -⟩ := answered_of h
  exact ⟨y, w, by rw [chunk_four _ _ hc]; exact hy⟩

theorem result_of {a : Answer} {c : Coll} {is : List Nat}
    (h : answered a (fun _ w => answered (w.colResult c false) fun _ v => reports (v.setColl 7 { c with done := true }) { c with done := true } 0 is) = true) :
    ∃ x w, a = .ok x w ∧ ∃ y v, w.colResult c false = .ok y v ∧ ∃ u,
      (v.setColl 7 { c with done := true }).colReport { c with done := true } 0 = .ok u ∧
      ((u.queue 4095).entries.map fun e => e.index) = is := by
  obtain ⟨x, w, h, hp⟩ := answered_of h
  obtain ⟨y, v, hy, hq⟩ := answered_of hp
  exact ⟨x, w, h, y, v, hy, reports_of hq⟩

/-- Collectives: a barrier block read and fit to begin; a rank's own chunk of 4 bytes; a chunk from package 1; the staged input to be sent
there; a step of a ring between two ranks of the package, and one that comes from package 1; a barrier with its one rank in; a failed one; a rank, the blocks and a step's chunk
awaited for TIMEOUT, for less, and with bytes come; notices
with none, with that one and with another suspended; a suspension of 200 µs and of less; a slot awaited. -/
theorem witness_Collectives :
    (let s := joining 1 barrierBlock false [4095, 9];
      first s 4095 2 false = true ∧ s.waiting = [] ∧ pktWord (2 + 0x2000000000020000 * 2 ^ 64) 0 % 128 = 0 ∧
      ∃ b u, (s.setQueue 4095 { s.queue 4095 with entries := [⟨9, 9, 2 + 0x2000000000020000 * 2 ^ 64, true⟩, ⟨10, 10, 0, false⟩] }).matinsRead
          (s.hubGet 0x401 4095 % 16) (pktWord (2 + 0x2000000000020000 * 2 ^ 64) 0) 128 = .ok b u ∧ colTimeout b = 0 ∧
        u.rankLines b = [] ∧ ∃ i m w, u.colCheck 4095 b = some ⟨0, some i, m, w⟩ ∧ w.colls = [] ∧ w.colfail = []) ∧
    (let c := collective 1 sumBlock;
      let s : State := { joining 1 sumBlock true [7, 0, 0] with colls := [(7, c)] };
      s.args = [7, c.rank, 0] ∧ c.rank < c.nranks ∧ SMap.get 0 c.got c.rank = 0 ∧ c.total c.rank = some 4 ∧
        ∃ y w, (s.chunk c 0 4).2 = .ok y w) ∧
    (let c := collective 2 gatherBlock;
      let s : State := { joining 2 gatherBlock true [7, 1, 0, gatherBlock, 4, 5, 0] with colls := [(7, c)] };
      colOp gatherBlock = 2 ∧ 1 < c.nranks ∧ 1 ≠ c.rank ∧ SMap.get 0 c.got 1 = 0 ∧ s.rankPkg c 1 ≠ s.pkg ∧ SMap.get false s.dead (s.rankPkg c 1) = false ∧
        gatherBlock < 2 ^ 1024 ∧ ∀ e ∈ c.blocks, colSame e.2 gatherBlock = true) ∧
    (let c : Coll := { collective 2 gatherBlock with got := [(0, 4)], slots := [0] };
      let s : State := { linked (joining 2 gatherBlock true [7, 3, 0]) with colls := [(7, c)] };
      s.args = [7, c.nranks + 1, SMap.get 0 c.got (c.nranks + 1)] ∧ 1 ∈ s.outRanks c ∧ s.chosenLink (s.rankPkg c 1) 4 = some 0 ∧
        s.linkUp 0 = true ∧ 0 ∈ c.slots ∧ SMap.get 0 c.got (c.nranks + 1) < SMap.get 0 c.got c.rank) ∧
    (let c : Coll := { collective 2 ringBlock with alg := 1, parts := [(0, [0]), (1, [0])] };
      let d : Coll := { c with rank := 1, parts := [(0, [1]), (1, [1])] };
      colSend c.alg c.nranks c.rank c.step = some (d.rank, [0]) ∧ (colFrom c.alg c.nranks c.rank c.step).isSome = true ∧
        (colSend d.alg d.nranks d.rank d.step).isSome = true) ∧
    (let c : Coll := { collective 2 ringBlock with alg := 1, parts := [(0, [0]), (1, [0])], blocks := [(0, ringBlock), (1, ringBlock)] };
      let s : State := { joining 2 ringBlock true [7, 1, 0, ringBlock, 0, 0, 0, 1, 1, 5] with colls := [(7, c)] };
      s.colAlg c = c.alg ∧ ringBlock < 2 ^ 1024 ∧ (∀ e ∈ c.blocks, colSame e.2 ringBlock = true) ∧ s.rankPkg c 1 ≠ s.pkg ∧
        SMap.get false s.dead (s.rankPkg c 1) = false ∧ colFrom c.alg c.nranks c.rank c.step = some 1 ∧
        (colSend c.alg c.nranks c.rank c.step).isSome = true) ∧
    (∀ e ∈ [(1, 1), (2, 2), (3, 2)], e.1 = 3 → 2 ^ Nat.log2 2 = 2) ∧ colSend 1 2 0 0 = some (1, [0]) ∧ 0 < colSteps 1 2 ∧
    (let c := collective 1 barrierBlock;
      let s : State := { joining 1 barrierBlock true [7] with colls := [(7, c)] };
      s.colReady c = true ∧ ∃ x w, s.colResult c true = .ok x w ∧ ∃ y v, w.colResult c false = .ok y v ∧ ∃ u,
        (v.setColl 7 { c with done := true }).colReport { c with done := true } 0 = .ok u ∧
        ((u.queue 4095).entries.map fun e => e.index) = [9, 10]) ∧
    (let c : Coll := { collective 1 barrierBlock with code := 7 };
      let s : State := { joining 1 barrierBlock true [7] with colls := [(7, c)] };
      (SMap.find? c.blocks c.rank).isSome = true ∧ ∃ u, (s.scramble c).colReport { c with done := true } c.code = .ok u ∧
        ((u.queue 4095).entries.map fun e => e.index) = [9, 10]) ∧
    (∀ e ∈ [(700, 0), (699, 0), (0, 1)], ∀ a ∈ [(0, 1), (1, 0), (1, 1)],
      let c : Coll := { collective 2 (barrierBlock + 2 ^ 544) with alg := a.1 };
      let s : State := { joining 2 barrierBlock true [7, a.2, e.1, 0, e.2] with colls := [(7, c)] };
      (a.1 = 0 → c.has a.2 = false) ∧ SMap.find? c.blocks 1 = none ∧ c.step + 1 = 1 ∧ c.inbox = none ∧ SMap.get 0 c.got a.2 = 0 ∧
        s.counted c = 0 ∧ s.nanos (1000 * colTimeout c.block) = 700 ∧ s.colfail = []) ∧
    (∀ x ∈ [[], [3], [3, 4]], let s : State := { joining 1 barrierBlock true [7, 3] with colls := [(7, { collective 1 barrierBlock with suspended := x })] };
      s.args = [7, 3] ∧ (x.filter (· ≠ 3) = [] ↔ x.length < 2)) ∧
    (∀ t ∈ [0, 140000],
      let c : Coll := { collective 2 barrierBlock with suspended := [3] };
      let s : State := { joining 1 barrierBlock true [7, 0] with colls := [(7, c)], clock := BitVec.ofNat 64 t };
      s.args = [7, c.since] ∧ c.suspended ≠ [] ∧
        (if t = 0 then s.clock.toNat < c.since + s.nanos 200000 else c.since + s.nanos 200000 ≤ s.clock.toNat)) ∧
    (let c : Coll := { collective 2 sumBlock with want := [0] };
      let s : State := { joining 2 sumBlock true [7, 0] with colls := [(7, c)] };
      s.args = [7, 0] ∧ SMap.find? s.colls 7 = some c ∧ c.suspended = [] ∧ 0 ∈ c.want ∧
        (s.colls.filter fun e => e.2.slots.contains 0).length < 64) := by
  refine ⟨⟨by decide +kernel, rfl, by decide +kernel, read_of (by decide +kernel)⟩,
    ⟨rfl, by decide, by decide +kernel, by decide +kernel, chunked_of (by decide +kernel) (by decide +kernel)⟩, by decide +kernel,
    ⟨by decide +kernel, by decide +kernel, ?_, by decide +kernel, by decide +kernel, by decide +kernel⟩,
    by decide +kernel, by decide +kernel, by decide +kernel, by decide, by decide, ⟨by decide +kernel, result_of (by decide +kernel)⟩, ⟨by decide +kernel, reports_of (by decide +kernel)⟩, by decide +kernel,
    by decide +kernel, by decide +kernel, by decide +kernel⟩
  have h (s : State) (h : ((List.range 32).filter fun l => (s.routeMask 1).testBit l) = [0]) (c : Coll) (hc : s.rankPkg c 1 = 1) :
      s.chosenLink (s.rankPkg c 1) 4 = some 0 := by rw [hc]; exact link_zero h
  exact h _ (by decide +kernel) _ (by decide +kernel)

/-- A package of a domain of its own whose control line 0 has the copies ms. -/
def lined (ms : List Copy) (args : List Nat) : State :=
  { (State.reset.hubSet 0x605 0 0x80000000) with lines := [(0, ⟨ms, 0⟩)], args := args }

/-- A copy of agent a with data d. -/
def copyOf (a : Nat) (st : Coh) (d : Nat) : Copy := ⟨a, st, false, 0, true, 0, d, []⟩

/-- Lines without a copy, with a modified one, with a shared list under an owner, and with a clean list that agrees with memory. -/
def lists : List (List Copy) := [[], [copyOf 63 .m 5], [copyOf 0 .o (2 ^ 1024 - 1), copyOf 63 .s (2 ^ 1024 - 1)], [copyOf 63 .s 0, copyOf 0 .e 0]]

/-- ControlLines: each of those lines is coherent and served, with no request waiting; a copy that holds the only data, on its way and
not; a write of the last 8 bytes and of all; copies of each state held; an atomic on the last 8 bytes, of use .sync, whose party passes;
a request applied before; and requests, adds to the last elements among them, whose home does not serve. -/
theorem witness_ControlLines :
    (∀ ms ∈ lists,
      let s := lined ms [];
      let data := match ms with
        | [] => readMem s.mem (ctlKey (128 * 0)) 128
        | c :: _ => c.data;
      (SMap.get CLine.empty s.lines 0).members = ms ∧ (∀ c ∈ ms, c.state ≠ .c ∧ c.data = data ∧ c.data < 2 ^ 1024) ∧
        (ms.map fun c => c.agent).Nodup ∧
        ((∀ c ∈ ms, c.state ≠ .m ∧ c.state ≠ .o) → data = readMem s.mem (ctlKey (128 * 0)) 128) ∧
        s.waiting = [] ∧ s.leaving = [] ∧ s.deadAgent 0 = false ∧ s.deadAgent 63 = false ∧
        (∀ a ∈ [0, 63], ∀ q ∈ [0, 1], s.seen (lineHome 0) a q = false) ∧ (∀ k ∈ [0, 1, 2, 3], ∀ a ∈ [0, 63], s.lineServes k a 0 = .serves)) ∧
    (∀ ms ∈ [[copyOf 63 .m 5], [copyOf 63 .o 5, copyOf 0 .s 5]],
      let s : State := { lined ms [63, 0, 1] with leaving := [(63, 0)] };
      s.lineServes 3 63 0 = .serves ∧ s.lineServes 0 0 0 = .waits) ∧
    (∀ e ∈ [(120, 8), (0, 128)], 0 < e.2 ∧ e.1 + e.2 ≤ 128) ∧
    (∀ st ∈ [Coh.m, .o, .e, .s], ∃ ms ∈ lists, ∃ a, ∃ c, (ms.find? fun c => c.agent == a) = some c ∧ c.state = st) ∧
    (let s := lined [copyOf 63 .m 5] ([0, 63, 1, 120, 8, 7, 1, 2 ^ 64 - 1, 5, 0, 3] ++ [0, 0, 0, 0, 0, 6, 0, 0, 0] ++ [3]);
      (120 % 8 = 0 ∧ 120 < 128 ∧ 7 < 8 ∧ 1 < 3 ∧ 2 ^ 64 - 1 < 2 ^ (8 * 8) ∧ 3 < 4) ∧ poisoned s (ctlKey (128 * 0 + 120)) 8 = false ∧
        s.passes 0 (partyOf s.args 11) = true) ∧
    ({ lined [] [0, 0, 1] with applied := [(0, [(0, 1, 0)])] } : State).seen (lineHome 0) 0 1 = true ∧
    ∀ k ∈ [0, 1, 3, 4 + 0 + 3 * 31, 4 + 1 + 3 * 15, 4 + 2], ({ lined [] [0, 0, 1] with lost := [(0, 1)], rebuilds := [(0, ⟨1, [63], [], []⟩)] } : State).lineServes k 0 0 = .waits := by
  refine ⟨by decide +kernel, by decide +kernel, by decide, fun st hst => ?_, by decide +kernel, by decide +kernel, by decide +kernel⟩
  simp only [List.mem_cons, List.not_mem_nil, or_false] at hst
  rcases hst with rfl | rfl | rfl | rfl
  · exact ⟨_, .tail _ (.head _), 63, _, rfl, rfl⟩
  · exact ⟨_, .tail _ (.tail _ (.head _)), 0, _, rfl, rfl⟩
  · exact ⟨_, .tail _ (.tail _ (.tail _ (.head _))), 0, _, rfl, rfl⟩
  · exact ⟨_, .tail _ (.tail _ (.head _)), 63, _, rfl, rfl⟩

/-- A list of partials of format f at agents 0 and 63. -/
def partials (f : Nat) : List Copy := [⟨0, .c, false, 0, true, f, 0, [(0, ⟨1, 7, false, false, false⟩)]⟩,
  ⟨63, .c, false, 0, true, f, 0, [(0, ⟨2, 9, false, false, false⟩), (15, ⟨1, 1, false, false, false⟩)]⟩]

/-- CommutativeAndMirrors: an add to the last element in each format; a list of partials in each integer format; the last line of control
memory with no mirror, with one, and with one that no link reaches; a rebuild that waits for agent 63, which has a copy, with data and
with partials, and no rebuild yet; and one with every report in. -/
theorem witness_CommutativeAndMirrors :
    (∀ e ∈ [(0, 31), (1, 15), (2, 31)], let s := lined [] [63, 0, 1, e.2, e.1, 1];
      s.waiting = [] ∧ s.deadAgent 63 = false ∧ s.lineServes (4 + e.1 + 3 * e.2) 63 0 = .serves ∧ e.1 < 3 ∧ e.2 < (if e.1 = 1 then 16 else 32) ∧
        1 < 2 ^ (if e.1 = 1 then 64 else 32)) ∧
    (∀ f ∈ [0, 1], let s := lined (partials f) [0];
      s.lineServes 2 0 0 = .serves ∧ s.deadAgent (s.dieAgent 0) = false ∧ partials f ≠ [] ∧ f < 2 ∧ ∀ c ∈ partials f, c.state = .c ∧ c.cfmt = f ∧
        ∀ p ∈ c.parts, p.1 < (if f = 1 then 16 else 32) ∧ 0 ≤ p.2.sum) ∧
    (∀ c ∈ copyOf 63 .m 5 :: partials 0, let s : State := { lined [c] [c.agent, 0] with rebuilds := [(0, ⟨1, [c.agent], [], []⟩)] };
      SMap.find? s.rebuilds 0 = some ⟨1, [c.agent], [], []⟩ ∧ (s.lines.map (·.1)).Nodup ∧
        ((SMap.get CLine.empty s.lines 0).members.find? fun d => d.agent == c.agent) = some c) ∧
    (let s := lined [] [63, 0];
      s.waiting = [] ∧ SMap.find? s.rebuilds 0 = none ∧ SMap.find? s.lost 0 = none ∧ s.deadAgent 63 = false) ∧
    (∀ e ∈ [(0, true), (2 ^ 31, true), (2 ^ 31 + 1, false)],
      let s := (lined [] [2 ^ 39 - 1]).hubSet 0x602 1023 e.1;
      2 ^ 39 - 1 < 2 ^ 39 ∧ lineHome (2 ^ 39 - 1) = 1023 ∧ s.poison = [] ∧ (s.hubGet 0x602 1023).testBit 31 = decide (e.1 ≠ 0) ∧
        s.agentReachable (64 * (e.1 % 1024)) = e.2) ∧
    let s : State := { lined [] [1023] with rebuilds := [(1023, ⟨1, [], [(1023 * 2 ^ 29, 2 ^ 1024 - 1)], []⟩)] }
    SMap.find? s.rebuilds 1023 = some ⟨1, [], [(1023 * 2 ^ 29, 2 ^ 1024 - 1)], []⟩ ∧ Memory.wf s.mem = true ∧ lineHome (1023 * 2 ^ 29) = 1023 ∧
      2 ^ 1024 - 1 < 2 ^ 1024 ∧ 1023 < 1024 := by
  decide +kernel

/-- A package with register n of selector value sel at v. -/
def having (n sel v : Nat) (args : List Nat) : State := { State.reset.hubSet n sel v with args := args }

/-- Whether another package's access passes, to this memory key, or ends with this code. -/
def remoteKey (r : Except Nat Nat × State) : Option Nat := match r with
  | (.ok k, _) => some k
  | _ => none

def remoteCode (r : Except Nat Nat × State) : Option Nat := match r with
  | (.error c, _) => some c
  | _ => none

theorem remoteKey_of {r : Except Nat Nat × State} {k : Nat} (h : remoteKey r = some k) : ∃ u, r = (.ok k, u) := by
  unfold remoteKey at h
  split at h
  · cases h; exact ⟨_, rfl⟩
  · cases h

theorem remoteCode_of {r : Except Nat Nat × State} {c : Nat} (h : remoteCode r = some c) : ∃ u, r = (.error c, u) := by
  unfold remoteCode at h
  split at h
  · cases h; exact ⟨_, rfl⟩
  · cases h

/-- A package of which link 0 alone, which is up or not, reaches packages 0 to 255, and so does no link where the mask m is 0. -/
def routed (m up : Nat) (args : List Nat) : State :=
  { ((State.reset.hubSet 0x821 4097 m).hubSet 0x811 0 up |>.hubSet 0x811 31 1) with args := args }

theorem link_one {s : State} {src p ch : Nat} (h : ((List.range 32).filter fun l => (s.routeMask p).testBit l) = [0]) :
    s.linkFor src p ch = some 0 := by simp [State.linkFor, h, Nat.mod_one]

theorem link_none {s : State} {src p ch : Nat} (h : ((List.range 32).filter fun l => (s.routeMask p).testBit l) = []) :
    s.linkFor src p ch = none := by simp [State.linkFor, h]

/-- Links: link 31 up and down, with a lane write and a copy that took it; training, and trained before; a flit on a link that is up, from
a package lost and from another; one to be sent on, at the last hop, and after it, and with no link, to be answered and not, and of the own
package; an answer that reaches it; for this
package a tensor write of 32 bytes that passes and one that does not, and an atomic; acknowledged operations; a package to declare, to
repair after, and that may be admitted. -/
theorem witness_Links :
    (∀ v ∈ [0, 1], 31 < 32 ∧ ((having 0x811 31 v [31]).hubGet 0x811 31).testBit 0 = decide (v = 1) ∧ (having 0x811 31 v [31]).colls = []) ∧
    (let o : Op := ⟨0, 0, [0], .laneWrite (2 ^ 44) 0 0 0 0 0 0 0 0 32⟩;
      let p : Op := ⟨0, 0, [], .copy 0 false false (box 31) [] [] [] [] 32⟩;
      let s : State := { having 0x811 31 1 [31] with ops := [(7, o), (8, p)] };
      (7, o) ∈ s.ops ∧ (8, p) ∈ s.ops ∧ 2 ^ 44 / 2 ^ 44 % 2 ^ 20 ≠ s.pkg ∧ ([] : List Nat).length < boxSectors (box 31)) ∧
    (∀ v ∈ [0, 2], let s : State := { having 0x811 31 v [31, 1, 31, 2 ^ 20 - 1] with training := 16 - 8 * v };
      31 < 32 ∧ 2 ^ 20 - 1 < 2 ^ 20 ∧ s.svcState ≠ 3 ∧ (s.training.testBit 4 = true ∨ (s.hubGet 0x811 31).testBit 1 = true)) ∧
    (let s : State := { having 0x811 31 1 [] with dead := [(7, true)] };
      SMap.get false s.dead 7 = true ∧ SMap.get false s.dead 8 = false ∧ 0 = s.pkg ∧ 2 ^ 20 - 1 ≠ s.pkg) ∧
    ((∀ kind ∈ [1, 2, 6, 12], (routed 1 1 [31, 2, 1, 63, kind]).linkFor 2 1 (flitChannel kind) = some 0 ∧
        (routed 0 1 [31, 2, 1, 63, kind]).linkFor 2 1 (flitChannel kind) = none ∧ (routed 1 1 [31, 1, 2, 64, kind]).linkFor 0 1 1 = some 0) ∧
      63 < 64 ∧ ((routed 1 1 []).hubGet 0x811 0).testBit 0 = true ∧ ((routed 1 1 []).hubGet 0x811 31).testBit 0 = true ∧
      (routed 1 1 []).pkg = 0) ∧
    (let r : Op := ⟨0, 0, [0], .ratom 0 0 4 0 [(1, (2 ^ 40, 0))] [(1, 32)]⟩;
      let w : Op := ⟨0, 0, [0], .laneWrite (2 ^ 44) 0 0 0 0 0 0 0 0 32⟩;
      ∀ as ∈ [[31, 0, 1, 64, 3, 0, 2 ^ 40], [31, 0, 1, 64, 5, 2 ^ 44], [31, 1, 0, 1, 12, 3, 0, 2 ^ 40], [31, 1, 0, 1, 12, 5, 2 ^ 44]],
      let s : State := { routed 1 1 as with ops := [(7, r), (8, w)] };
      (7, r) ∈ s.ops ∧ (8, w) ∈ s.ops ∧ (1, 32) ∈ [(1, 32)] ∧ (SMap.get (0, 0) [(1, ((2 ^ 40 : Nat), (0 : Nat)))] 1).1 = [0, 2 ^ 40].getD 1 0 ∧
        2 ^ 44 = [2 ^ 44].getD 0 0 ∧ (64 ≤ 64 ∧ 0 = s.pkg ∧ 1 ≠ s.pkg) ∧ (s.hubGet 0x811 31).testBit 0 = true) ∧
    (let s := (((machine (ctx addressed)).hubSet 0x811 31 1).hubSet 0x511 63 0x10000).hubSet 0x512 63 0x1000;
      (s.hubGet 0x811 31).testBit 0 = true ∧ 32 ≤ 32 ∧ (∃ u, s.remoteAddr 0 0x20000 32 permW = (.ok (tensorKey 0x20000), u)) ∧
        (∃ u, s.remoteAddr 9 0x20000 32 permW = (.error 2, u)) ∧
        ∃ k u, s.remoteAddr 0 (0x20008 / 8 * 8) 8 (permR + permW) = (.ok k, u) ∧ poisoned u k 8 = false) ∧
    (∀ k ∈ [OpKind.ratom 0 0 4 0 [] [(0, 1)], .laneWrite (2 ^ 44) 0 0 0 0 0 0 0 0 32, .copy 0 false false 0 [] [] [] [] 32],
      ({ having 0x811 31 1 [31, 7, 1, 0, 0] with ops := [(7, ⟨0, 0, [0], k⟩)] } : State).op? 7 = some ⟨0, 0, [0], k⟩) ∧
    (∀ as ∈ [[], [2 ^ 20]], let s : State := { having 0x818 0 (2 ^ 20 - 1) as with waiting := [⟨0, 1, false, .cohRead, [63, 0, 0], false⟩] };
      s.args = as ∧ s.hubGet 0x818 0 % 2 ^ 20 + 1 = 2 ^ 20) ∧
    (let s : State := { (having 0x818 0 (2 ^ 20 - 1) []).hubSet 0x605 0 (2 ^ 31 + 2 ^ 20 - 1) with lost := [(0, 0)] };
      s.rebuilds = [] ∧ s.agenda = [] ∧ s.domPkg? 0 = some (s.hubGet 0x818 0 % 2 ^ 20) ∧ SMap.find? s.lost 0 = some 0) := by
  refine ⟨by decide +kernel, ⟨.head _, .tail _ (.head _), by decide +kernel⟩, by decide +kernel, by decide +kernel, ⟨fun kind hk => ?_, by decide +kernel⟩, by decide +kernel,
    ⟨by decide +kernel, by decide, remoteKey_of (by decide +kernel), remoteCode_of (by decide +kernel), reach_of (by decide +kernel)⟩,
    fun k hk => ?_, by decide +kernel, by decide +kernel⟩
  · simp only [List.mem_cons, List.not_mem_nil, or_false] at hk
    rcases hk with rfl | rfl | rfl | rfl <;>
      exact ⟨link_one (by decide +kernel), link_none (by decide +kernel), link_one (by decide +kernel)⟩
  · simp only [List.mem_cons, List.not_mem_nil, or_false] at hk
    rcases hk with rfl | rfl | rfl <;> rfl

/-- BringUp: every service state; an image that is not genuine, with no line held and one held (no image can be shown genuine here, for
Config.rootKey has no value); Dawn service with and without each condition of LEAVEDAWN, and of TRAIN; training and none; each way in
which the package is busy; free-standing values at their bounds. -/
theorem witness_BringUp :
    let svc (s : State) (hi lo : Nat) : Nat := s.hubGet 0x800 0 / 2 ^ lo % 2 ^ (hi + 1 - lo)
    (∀ v ∈ [1, 9], svc (having 0x800 0 v []) 3 3 = v / 8) ∧
    (∀ ms ∈ [[], [copyOf 63 .m 5]], let s := (lined ms []).hubSet 0x800 0 1;
      svc s 3 3 = 0 ∧ s.waiting = [] ∧ (∀ l ∈ s.heldLines (s.homeBase + s.hubGet64 0x803 0 % 2 ^ 36) (256 + 2 ^ 30), s.lineState 2 0 l = .serves) ∧
        imageGenuine ((s.heldLines (s.homeBase + s.hubGet64 0x803 0 % 2 ^ 36) (256 + 2 ^ 30)).foldl State.recall s)
          (s.homeBase + s.hubGet64 0x803 0 % 2 ^ 36) = false) ∧
    (let s := having 0x800 0 0x3E9 [];
      svc s 2 0 = 1 ∧ svc s 3 3 = 1 ∧ svc s 5 5 = 1 ∧ svc s 9 6 = 15) ∧
    (∀ v ∈ [0x3EA, 0x3E1, 0x3C9, 0x1E9], let s := having 0x800 0 v [];
      svc s 2 0 ≠ 1 ∨ svc s 3 3 ≠ 1 ∨ svc s 5 5 ≠ 1 ∨ svc s 9 6 ≠ 15) ∧
    (∀ e ∈ [(0x61, 0, 0, false), (0x6B, 16, 0, false), (0x69, 0, 1, false), (0x6A, 17, 0, false), (0x69, 31, 0, true), (0x69, 0, 0, true), (0x3EA, 16, 0, true)],
      let s : State := { (having 0x800 0 e.1 []).hubSet 0x805 0 e.2.1 with training := e.2.2.1 };
      decide (svc s 3 3 = 1 ∧ s.training = 0 ∧ (svc s 2 0 = 1 ∨ (svc s 2 0 = 2 ∧ s.hubGet 0x805 0 % 16 = 0))) = e.2.2.2) ∧
    (let s : State := { having 0x800 0 0x69 [15] with training := 14 };
      s.training ≠ 0 ∧ svc s 2 0 ≠ 3) ∧
    (svc (having 0x800 0 0x3EA [0]) 2 0 ≠ 1 ∧ State.reset.ctxs = [] ∧ State.reset.colls = [] ∧ State.reset.ops = [] ∧ svc State.reset 2 0 = 1) ∧
    ((0, ctx addressed) ∈ (machine (ctx addressed)).ctxs ∧ (ctx addressed).placed = true ∧ (∀ k ∈ [OpKind.ratom 0 0 4 0 [] [(0, 1)],
      .laneWrite 0 0 0 0 0 0 0 0 0 0, .copy 0 true false (box 31) [] [] [] [] 1], ({ State.reset with ops := [(7, ⟨0, 0, [0], k⟩)] } : State).pkgBusy = true)) ∧
    (let s := having 0x80B 0 5 [3, 4];
      3 < 4 ∧ svc s 2 0 = 1 ∧ (4 ||| s.hubGet (0x808 + 3) 0) = s.hubGet (0x808 + 3) 0 ∧ (2 ||| s.hubGet (0x808 + 3) 0) ≠ s.hubGet (0x808 + 3) 0) ∧
    (∀ v ∈ [0, 300, 4200, 2 ^ 32 - 1], v < 2 ^ 32) ∧ 3 < 4 ∧ 100 ≤ 100 ∧ State.reset.colls = [] := by decide +kernel

/-- HubRegisters: for each write its operands at a bound and the registers it depends on. -/
theorem witness_HubRegisters :
    2 ^ 32 - 1 < 2 ^ 32 ∧ (1 : Nat) % 2 = 1 ∧
    (let s : State := { having 0x0E1 0 (1 + 2 ^ 22) [0x0E5, 1, 1] with groups := [] };
      let e := s.hubGet 0x0E1 0 + 2 ^ 32 * s.hubGet 0x0E2 0 + 2 ^ 64 * s.hubGet 0x0E3 0 + 2 ^ 96 * s.hubGet 0x0E4 0;
      0 < e / 2 ^ 22 % 2 ^ 21 ∧ (s.rankAt e 0).1 = s.pkg) ∧
    (∀ p, p < 16 → (State.reset.cmWindow (State.reset.hubGet 0x0C0 0 % 4) p).2 = 0) ∧ 6 < 7 ∧
    (∀ e ∈ [(0, true), (15, true), (16, false), (127, false)],
      let s := (((having 0x0C1 3 1 [0x0C4, e.1, 0]).hubSet 0x0C0 0 3).hubSet 0x0C2 0 15).hubSet 0x0C3 63 1;
      let base := (s.cmWindow 3 15).1;
      let n := e.1 * 2 ^ 20;
      e.1 < 128 ∧ decide (n = 0 ∨ (base + n ≤ s.hubGet 0x0C1 3 * 2 ^ 24 ∧ ∀ q, q < 16 → q ≠ 15 → (s.cmWindow 3 q).2 = 0 ∨
        base + n ≤ (s.cmWindow 3 q).1 ∨ (s.cmWindow 3 q).1 + (s.cmWindow 3 q).2 ≤ base)) = e.2) ∧
    (let low (s : State) (n sel : Nat) : Nat := if s.hubGet (0x3000 + n) sel = 1 then s.hubGet (0x1000 + n) sel else s.hubGet n sel;
      low ((having 0x1426 0 0 []).hubSet 0x3426 0 1) 0x426 0 = 0 ∧ low ((having 0x1426 0 1 []).hubSet 0x3426 0 1) 0x426 0 ≠ 0 ∧
      low State.reset 0x426 0 = 1 ∧ low ((having 0x1501 0 0x1000 []).hubSet 0x3501 0 1) 0x501 0 % 4096 = 0 ∧
      low ((having 0x1501 0 0xFFF []).hubSet 0x3501 0 1) 0x501 0 % 4096 ≠ 0) ∧
    (let s := (((having 0x601 0 1 []).hubSet 0x600 0 0x20000).hubSet 0x605 0 0x80000000).hubSet 0x605 2 0x80000002;
      s.hubGet 0x601 0 % 1024 = 1 ∧ (2 ^ 31 + 1) % 1024 = 1 ∧ s.domSize ≤ 1023 ∧ (2 ^ 31 + 2) % 1024 ≠ 1 ∧ ¬ s.domSize ≤ 2 ∧
        s.lostIndex 2 = false ∧ Memory.wf s.mem = true) ∧
    (∀ v ∈ [0, 4, 15], v < 16 ∧ (v = 0 ∨ 4 ≤ v)) ∧ (∀ v ∈ [1, 3], 0 < v ∧ v < 4) ∧
    (let s := having 0x600 0 1023 [0x600, 1023, 1];
      1023 < 2 ^ 32 ∧ s.lines = [] ∧ 1023 % 2 ^ 10 = s.hubGet 0x600 0 % 2 ^ 10) ∧
    2 ^ 31 - 1 < 2 ^ 31 ∧
    (let s := (having 0x702 15 6 []).hubSet 0x422 0 15;
      s.hubGet 0x422 0 % 16 = 15 ∧ (∀ k, k < 32 → (4 : Nat).testBit k = true → (s.hubGet 0x702 15).testBit k = true) ∧
        (5 : Nat).testBit 0 = true ∧ (s.hubGet 0x702 15).testBit 0 = false) ∧
    State.reset.waiting = [] ∧ 128 ≤ 128 ∧ (2 ^ 36 - 128) + 128 ≤ 2 ^ 36 ∧ State.reset.lines = [] := by decide +kernel

/-- A package whose slot n has these words, selected by VSLOT, in partition 15's range. -/
def slotOf (n : Nat) (ws : List (Nat × Word)) (args : List Nat) : State :=
  { (((State.reset.hubSet 0x085 0 n).hubSet 0x080 0 15).hubSet 0x081 15 16380).hubSet 0x082 15 4 with vesper := ws, args := args }

/-- SystemSequences: a range whose first slot is running and whose next is free; the last slot running, stopped and trapped; a mask number
other than 0; a watch entry of a budget that the slot may hold; each counter word. -/
theorem witness_SystemSequences :
    let word (s : State) (n w : Nat) : Nat := (SMap.get 0 s.vesper (512 * n + w)).toNat
    (let s := slotOf 0 [(512 * 16380, 1)] [];
      let fits (m : Nat) : Prop := m < 16384 ∧ s.hubGet 0x081 15 ≤ m ∧ m < s.hubGet 0x081 15 + s.hubGet 0x082 15;
      fits 16381 ∧ word s 16381 0 % 4 = 0 ∧ word s 16380 0 % 4 ≠ 0 ∧ s.hubGet 0x081 15 = 16380) ∧
    (∀ v ∈ [1, 2, 3], let s := slotOf 16383 [(512 * 16383, BitVec.ofNat 32 v)] [];
      s.hubGet 0x085 0 < 16384 ∧ word s (s.hubGet 0x085 0) 0 % 4 = v) ∧
    ((having 0x090 0 3 []).hubGet 0x090 0 % 4 ≠ 0) ∧
    (let s := (((slotOf 16383 [(512 * 16383, 1)] []).hubSet 0x090 0 0x100).hubSet 0x083 15 0).hubSet 0x084 15 1;
      s.entryOk (s.slotPart 16383) (((List.range 32).map fun k => s.hubGet (0x090 + k) 0 * 2 ^ (32 * k)).sum) = true) ∧
    ∀ w ∈ [2, 5], let s := (slotOf 16383 [(512 * 16383, 1)] [0x087, 7, 0]).hubSet 0x086 0 w;
      2 ≤ s.hubGet 0x086 0 ∧ s.hubGet 0x086 0 ≤ 5 := by decide +kernel

/-- Partitions: an Unused partition beside a Sealed one with another tag and other clusters, plain and confidential, with no window of any
other; one that shares the tag, or the clusters, or is confidential without a key, or with a window that overlaps; each other state; a
partition with a context, with a queue, and with neither; one that dissolves, with a window of a commons region; none traced. -/
theorem witness_Partitions :
    let state (s : State) (p : Nat) : Nat := s.hubGet 0x701 p / 2 ^ 30 % 4
    let beside (a b c : Nat) : State := (((having 0x701 0 a [15]).hubSet 0x701 15 b).hubSet 0x702 0 1).hubSet 0x702 15 c
    (∀ b ∈ [2, 2 + 2 ^ 16], let s : State := { beside 0x40000001 b 2 with keyed := 2 ^ 15 };
      15 < 16 ∧ state s 15 = 0 ∧ (∀ q, q < 16 → q ≠ 15 → state s q ≠ 0 →
        s.hubGet 0x701 q % 2 ^ 16 ≠ s.hubGet 0x701 15 % 2 ^ 16 ∧ (state s q = 1 → s.hubGet64 0x702 q &&& s.hubGet64 0x702 15 = 0)) ∧
      s.keyed.testBit 15 = true ∧ (∀ q, q < 16 → ∀ w, w < 16 → (s.hubGet 0x709 (16 * q + w)).testBit 0 = false) ∧
      state s 0 = 1 ∧ s.ctxs = [] ∧ SMap.find? s.pages 15 = none ∧ s.agenda = []) ∧
    (let s := beside 0x40000002 2 2; state s 0 ≠ 0 ∧ s.hubGet 0x701 0 % 2 ^ 16 = s.hubGet 0x701 15 % 2 ^ 16) ∧
    (let s := beside 0x40000001 2 3; state s 0 = 1 ∧ s.hubGet64 0x702 0 &&& s.hubGet64 0x702 15 ≠ 0) ∧
    (let s := beside 0x40000001 (2 + 2 ^ 16) 2; (s.hubGet 0x701 15).testBit 16 = true ∧ s.keyed.testBit 15 = false) ∧
    (let s : State := { ((((beside 0x40000001 (2 + 2 ^ 16) 2).hubSet 0x709 255 3).hubSet 0x70C 255 8).hubSet 0x709 0 3).hubSet 0x70A 0 8 |>.hubSet 0x70C 0 9
        with keyed := 2 ^ 15 };
      ∀ v ∈ [255, 0], (s.hubGet 0x709 v).testBit 0 = true ∧ s.hubGet 0x709 v / 2 % 2 = 1 ∧ s.hubGet64 0x70A v ≤ 8 ∧ 8 ≤ s.hubGet64 0x70C v) ∧
    (∃ c x, (c, x) ∈ (machine (ctx addressed)).ctxs ∧ x.part = 15) ∧
    (let s := having 0x401 4095 (2 ^ 7 + 15) [15]; 4095 < 4096 ∧ (s.hubGet 0x401 4095).testBit 7 = true ∧ s.hubGet 0x401 4095 % 16 = 15) ∧
    state (having 0x701 15 0x80000000 [15]) 15 = 2 ∧ state (having 0x701 15 0x40000000 [15]) 15 ≠ 2 ∧
    (∀ q, q < 4096 → (State.reset.hubGet 0x401 q).testBit 7 = false ∨ State.reset.hubGet 0x401 q % 16 ≠ 15) ∧
    (let s := ((having 0x701 15 0x80000000 [15]).hubSet 0x0C3 63 1).hubSet 0x0C4 63 1;
      (s.cmWindow 3 15).1 ≤ 0x1FFFFF ∧ 0x1FFFFF < (s.cmWindow 3 15).1 + (s.cmWindow 3 15).2) ∧
    ∀ v ∈ [0, 0x40000000], state (having 0x701 15 v [0x709, 7, 1]) 15 = v / 2 ^ 30 := by
  refine ⟨by decide +kernel, by decide +kernel, by decide +kernel, by decide +kernel, by decide +kernel, ⟨0, ctx addressed, .head _, rfl⟩,
    by decide +kernel, by decide +kernel, by decide +kernel, fun q _ => .inl ?_, by decide +kernel, by decide +kernel⟩
  have h : State.reset.hub = [] := rfl
  simp [State.hubGet, h, SMap.get, SMap.find?, hubReset]


/-- DivideRemainder, QuadExchange, IntegerArithmetic, LogicShiftsBits, FloatArithmetic, FloatCompareAndFlags, ConversionsAndPacking,
LaneExchange, SystemRegisters: instructions whose fields stand at the bounds of their hypotheses, each issued for the four lanes. -/
def bounds : List Instr := [.div 127 127 127 1, .rem 0 0 0 0, .quad 127 127 255, .quad 0 0 0, .add 127 127 127, .mul24 127 0 127 1 1, .mul24 0 0 0 0 0,
  .mad24 0 127 0 1 1, .mul32 0 0 127 1 1, .mad32 127 127 127 0 1, .lea 126 126 127 7, .add64 126 126 126, .shlImm 127 0 31, .rorImm 0 127 0,
  .bfeN32 0 0 31 0, .bfeN32 127 127 0 31, .bfeS32 0 0 15 16, .bfi 127 127 31 0, .min 0 0 0 1, .max 127 0 0 0, .cmpS32 0 127 0 5, .cmpS32 0 0 0 0,
  .cmpN32 0 0 127 5, .fadd 127 127 127 3 1, .ffma3 0 127 0 127 2 0, .fclass 127 127 0, .cvt 126 126 0 14 13 1 1 0, .cvt 0 0 127 0 1 4 1 1,
  .hmin2 127 0 0 1 0, .red 127 127 7, .scanExc 0 0 0, .redF32 127 127 2 1, .redF32 0 0 0 0, .matchB64 0 126, .shflXorImm 127 127 31,
  .sysr 127 0x00E, .sysr 0 0x040, .sysw 127 0x002, .sysw 0 0x00C]

theorem witness_bounds : ∀ i ∈ bounds, ∃ x v, Passes i (issuing i) (bundle i) x v [0, 1, 2, 3] :=
  fun i h => passes_of_issues (List.all_eq_true.1 (by decide +kernel : bounds.all issues = true) i h)

/-- HeldValuesRoundToThemselves: the largest finite code, the least, and both zeros of each format, under stochastic rounding too. -/
theorem witness_HeldValuesRoundToThemselves : [(fmtF32, 0x7F7FFFFF), (fmtF32, 0x80000000), (fmtF16, 0xFBFF), (fmtBf16, 1), (fmtE4m3, 0x7E), (fmtE5m2, 0x80),
    (fmtE2m1, 0xF), (fmtE3m5, 0)].all (fun p => decide (p.2 < 2 ^ p.1.width) && match p.1.value p.2 with
      | .fin _ _ _ => true
      | _ => false) = true := by decide +kernel

/-- DecodeEncode: every word above is the word of a well-formed instruction, and decodes. -/
theorem witness_DecodeEncode : words.all (fun p => p.2.wellFormed && reads p) = true := by decide +kernel

/-- MemoryStaysCanonical: a store to tensor memory, from memory in its canonical form. -/
theorem witness_MemoryStaysCanonical : Memory.wf (issuing (.st 0 2 2 0)).mem = true ∧ ∃ t, step (issuing (.st 0 2 2 0)) = .next t := by
  refine ⟨by decide +kernel, ?_⟩
  have h : (match step (issuing (.st 0 2 2 0)) with | .next _ => true | _ => false) = true := by decide +kernel
  split at h
  · exact ⟨_, ‹_›⟩
  · cases h

end Sys2Proof.Tests
end

section
/-! PROOFS. Proofs/MemoryAndAddresses.lean: bytes of memory after a store, equality of memories in canonical form, and the
checks of an address before translation, one lemma per check and outcome. -/

namespace Sys2Proof.Machine.SMap
variable {α : Type}

theorem find?_eq_none_of_lt {m : List (Nat × α)} {lo k : Nat} (h : sortedFrom lo m = true) (hk : k < lo) :
    find? m k = none := by
  induction m generalizing lo with
  | nil => rfl
  | cons e m ih =>
    obtain ⟨j, v⟩ := e
    simp only [sortedFrom, Bool.and_eq_true, decide_eq_true_eq] at h
    rw [find?, if_neg (by omega), ih h.2 (by omega)]

/-- Sorted maps that list the same value for every key are equal: the heads have the same key, since neither map lists a
key below its head. -/
theorem eq_of_find?_eq {m n : List (Nat × α)} {lo : Nat} (hm : sortedFrom lo m = true) (hn : sortedFrom lo n = true)
    (h : ∀ k, find? m k = find? n k) : m = n := by
  induction m generalizing n lo with
  | nil =>
    match n with
    | [] => rfl
    | (j, v) :: _ => simpa [find?] using h j
  | cons e m ih =>
    obtain ⟨i, v⟩ := e
    match n with
    | [] => simpa [find?] using h i
    | (j, w) :: n =>
      simp only [sortedFrom, Bool.and_eq_true, decide_eq_true_eq] at hm hn
      have hij : i = j := by
        rcases Nat.lt_trichotomy i j with hlt | heq | hlt
        · have hi := h i
          rw [find?, if_pos rfl, find?, if_neg (by omega), find?_eq_none_of_lt hn.2 (by omega)] at hi
          cases hi
        · exact heq
        · have hj := h j
          rw [find?, if_neg (by omega), find?_eq_none_of_lt hm.2 (by omega), find?, if_pos rfl] at hj
          cases hj
      subst hij
      have hvw : v = w := by simpa [find?] using h i
      subst hvw
      have tails : ∀ k, find? m k = find? n k := by
        intro k
        by_cases hk : i = k
        · rw [find?_eq_none_of_lt hm.2 (by omega), find?_eq_none_of_lt hn.2 (by omega)]
        · simpa [find?, hk] using h k
      rw [ih hm.2 hn.2 tails]

theorem mem_of_find?_eq_some {m : List (Nat × α)} {k : Nat} {v : α} (h : find? m k = some v) : (k, v) ∈ m := by
  induction m with
  | nil => cases h
  | cons e m ih =>
    obtain ⟨j, w⟩ := e
    rw [find?] at h
    split at h
    · rename_i hjk
      cases h
      exact hjk ▸ List.mem_cons_self ..
    · exact List.mem_cons_of_mem _ (ih h)

/-- In canonical form a map lists the keys that do not have the default value, and no others. -/
theorem find?_of_wf [DecidableEq α] {d : α} {m : List (Nat × α)} (h : wf d m = true) (k : Nat) :
    find? m k = if get d m k = d then none else some (get d m k) := by
  simp only [wf, Bool.and_eq_true, List.all_eq_true, decide_eq_true_eq] at h
  unfold get
  cases hk : find? m k with
  | none => simp
  | some v => simp [h.2 _ (mem_of_find?_eq_some hk)]

/-- Maps in canonical form that agree at every key are equal. -/
theorem eq_of_get_eq [DecidableEq α] {d : α} {m n : List (Nat × α)} (hm : wf d m = true) (hn : wf d n = true)
    (h : ∀ k, get d m k = get d n k) : m = n := by
  have hfind : ∀ k, find? m k = find? n k := fun k => by rw [find?_of_wf hm, find?_of_wf hn, h]
  simp only [wf, Bool.and_eq_true] at hm hn
  exact eq_of_find?_eq hm.1 hn.1 hfind

end Sys2Proof.Machine.SMap

namespace Sys2Proof.Machine

/-! ### Bytes of memory -/

theorem readMem_congr {m m' : List Host.Cell} {n : Nat} :
    ∀ {k : Nat}, (∀ j, k ≤ j → j < k + n → readByte m j = readByte m' j) → readMem m k n = readMem m' k n := by
  induction n with
  | zero => exact fun _ => rfl
  | succ n ih =>
    intro k h
    rw [readMem, readMem, h k (by omega) (by omega), ih fun j h₁ h₂ => h j (by omega) (by omega)]

theorem readMem_writeMem_apart {m : List Host.Cell} {k n x j i : Nat} (h : j + i ≤ k ∨ k + n ≤ j) :
    readMem (writeMem m k n x) j i = readMem m j i :=
  readMem_congr fun _ _ _ => readByte_writeMem_other (by omega)

theorem readMem_writeMem_self (n : Nat) : ∀ (m : List Host.Cell) (k x : Nat),
    readMem (writeMem m k n x) k n = x % 256 ^ n := by
  induction n with
  | zero => intro m k x; simp [readMem, Nat.mod_one]
  | succ n ih =>
    intro m k x
    have head : (readByte (writeMem m k (n + 1) x) k).toNat = x % 256 := by
      rw [readByte_writeMem, if_pos (by omega)]
      simp
    rw [readMem, head, writeMem, ih, Nat.pow_succ', Nat.mod_mul]

theorem eq_of_readByte_eq {m m' : List Host.Cell} (hm : Memory.wf m = true) (hm' : Memory.wf m' = true)
    (h : ∀ k, readByte m k = readByte m' k) : m = m' := SMap.eq_of_get_eq hm hm' h

/-! ### Checks 1 and 2: the form of the address -/

/-- A must-be-zero bit of a is set, or its home index names no package (R64). -/
def Malformed (s : State) (a : Nat) : Prop :=
  (addrSpace a = 1 ∧ (a / 2 ^ 46 % 2 ^ 14 ≠ 0 ∨ s.domPkg? (a / 2 ^ 36 % 2 ^ 10) = none)) ∨
    (addrSpace a = 3 ∧ a / 2 ^ 24 % 2 ^ 36 ≠ 0) ∨ (addrSpace a = 4 ∧ a / 2 ^ 27 % 2 ^ 33 ≠ 0)

theorem formFault_null {s : State} {l a : Nat} (h : addrSpace a = 0) : formFault s l a = some (trapLane 7 0 l a) := by
  simp [formFault, h]

theorem formFault_reserved {s : State} {l a : Nat} (h : 5 < addrSpace a) :
    formFault s l a = some (trapLane 8 0 l a) := by
  unfold formFault
  split
  case h_7 => rfl
  all_goals omega

theorem formFault_control {s : State} {l a : Nat} (h : addrSpace a = 1) : formFault s l a =
    if a / 2 ^ 46 % 2 ^ 14 ≠ 0 ∨ s.domPkg? (a / 2 ^ 36 % 2 ^ 10) = none then some (trapLane 9 0 l a) else none := by
  simp only [formFault, h, bits, Bool.or_eq_true, bne_iff_ne, Option.isNone_iff_eq_none, Nat.reduceAdd, Nat.reduceSub]

theorem formFault_scratch {s : State} {l a : Nat} (h : addrSpace a = 3) :
    formFault s l a = if a / 2 ^ 24 % 2 ^ 36 ≠ 0 then some (trapLane 9 0 l a) else none := by
  simp only [formFault, h, bits, bne_iff_ne, Nat.reduceAdd, Nat.reduceSub]

theorem formFault_commons {s : State} {l a : Nat} (h : addrSpace a = 4) :
    formFault s l a = if a / 2 ^ 27 % 2 ^ 33 ≠ 0 then some (trapLane 9 0 l a) else none := by
  simp only [formFault, h, bits, bne_iff_ne, Nat.reduceAdd, Nat.reduceSub]

theorem formFault_malformed {s : State} {l a : Nat} (h : Malformed s a) :
    formFault s l a = some (trapLane 9 0 l a) := by
  rcases h with ⟨space, h⟩ | ⟨space, h⟩ | ⟨space, h⟩
  · rw [formFault_control space, if_pos h]
  · rw [formFault_scratch space, if_pos h]
  · rw [formFault_commons space, if_pos h]

theorem formFault_none {s : State} {l a : Nat} (h₀ : 0 < addrSpace a) (h₅ : addrSpace a ≤ 5) (h : ¬ Malformed s a) :
    formFault s l a = none := by
  obtain ⟨control, h⟩ := not_or.1 h
  obtain ⟨scratch, commons⟩ := not_or.1 h
  have spaces : addrSpace a = 1 ∨ addrSpace a = 2 ∨ addrSpace a = 3 ∨ addrSpace a = 4 ∨ addrSpace a = 5 := by omega
  rcases spaces with space | space | space | space | space
  · rw [formFault_control space, if_neg fun h => control ⟨space, h⟩]
  · simp [formFault, space]
  · rw [formFault_scratch space, if_neg fun h => scratch ⟨space, h⟩]
  · rw [formFault_commons space, if_neg fun h => commons ⟨space, h⟩]
  · simp [formFault, space]

/-! ### Check 3: the spaces of an instruction's class (R66) -/

/-- The spaces that the class takes. -/
def ClassAllows (s : State) (k : Cls) (a : Nat) : Prop :=
  match k with
  | .ldst => addrSpace a = 1 ∨ (addrSpace a = 2 ∧ addrPkg a = s.pkg) ∨ addrSpace a = 3 ∨ addrSpace a = 4
  | .atom => addrSpace a = 1 ∨ (addrSpace a = 2 ∧ addrPkg a = s.pkg) ∨ addrSpace a = 4
  | .atoms => addrSpace a = 3
  | .ratom => addrSpace a = 2

/-- Tensor memory of another package, which loads, stores and atomics do not reach. -/
def ClassRemote (s : State) (k : Cls) (a : Nat) : Prop :=
  (k = .ldst ∨ k = .atom) ∧ addrSpace a = 2 ∧ addrPkg a ≠ s.pkg

theorem ClassAllows.space {s : State} {k : Cls} {a : Nat} (h : ClassAllows s k a) : 0 < addrSpace a ∧ addrSpace a ≤ 5 := by
  cases k <;> simp only [ClassAllows] at h <;> omega

theorem classFault_allowed {s : State} {k : Cls} {l a : Nat} (h : ClassAllows s k a) : classFault s k l a = none := by
  cases k <;> simp only [ClassAllows] at h
  · rcases h with h | ⟨h, own⟩ | h | h <;> simp [classFault, *]
  · rcases h with h | ⟨h, own⟩ | h <;> simp [classFault, *]
  · simp [classFault, h]
  · simp [classFault, h]

theorem classFault_remote {s : State} {k : Cls} {l a : Nat} (h : ClassRemote s k a) :
    classFault s k l a = some (trapLane 0x0B 0 l a) := by
  obtain ⟨rfl | rfl, space, other⟩ := h <;> simp [classFault, space, other]

theorem classFault_refused {s : State} {k : Cls} {l a : Nat} (h₀ : 0 < addrSpace a) (h₅ : addrSpace a ≤ 5)
    (refused : ¬ ClassAllows s k a) (here : ¬ ClassRemote s k a) : classFault s k l a = some (trapLane 0x0A 0 l a) := by
  have spaces : addrSpace a = 1 ∨ addrSpace a = 2 ∨ addrSpace a = 3 ∨ addrSpace a = 4 ∨ addrSpace a = 5 := by omega
  cases k <;> simp only [ClassAllows, ClassRemote] at refused here <;>
    rcases spaces with space | space | space | space | space <;> simp_all [classFault]

/-! ### Check 4: the bound of the space -/

/-- The core field 63 names the own block (R71). -/
theorem boundCheck_scratch {s : State} {c : Nat} {x : Ctx} {act : List Nat} {l a : Nat} (hx : s.ctx? c = some x)
    (space : addrSpace a = 3) (own : a / 2 ^ 18 % 64 = 63) : boundCheck s c x act l a =
      if a % 2 ^ 18 < x.scratchBytes then .ok (c, a % 2 ^ 18) else .error (trapOf 4 4 act (a % 2 ^ 18)) := by
  have hb : bits a 23 18 = 63 := own
  have hoff : bits a 17 0 = a % 2 ^ 18 := by simp [bits]
  simp [boundCheck, space, hb, hoff, State.windowCtx, hx]

theorem boundCheck_commons {s : State} {c : Nat} {x : Ctx} {act : List Nat} {l a : Nat} (space : addrSpace a = 4) :
    boundCheck s c x act l a = if a % 2 ^ 27 < (s.cmWindow x.die x.part).2
      then .ok (0, (s.cmWindow x.die x.part).1 + a % 2 ^ 27) else .error (trapLane 0x0D 0 l a) := by
  have hoff : bits a 26 0 = a % 2 ^ 27 := by simp [bits]
  simp [boundCheck, space, hoff]

theorem boundCheck_control {s : State} {c : Nat} {x : Ctx} {act : List Nat} {l a : Nat} (space : addrSpace a = 1) :
    boundCheck s c x act l a = .ok (0, a % 2 ^ 46) := by
  simp [boundCheck, space, addrOff]

theorem boundCheck_tensor {s : State} {c : Nat} {x : Ctx} {act : List Nat} {l a : Nat} (space : addrSpace a = 2) :
    boundCheck s c x act l a = .ok (0, a % 2 ^ 40) := by
  simp [boundCheck, space]

/-! ### The checks in their order -/

section
variable {s : State} {c : Nat} {x : Ctx} {act : List Nat} {q : Req} {l a : Nat} {t : Trap} {r : Nat × Nat}

theorem earlyCheck_of_form (h : formFault s l a = some t) : earlyCheck s c x act q l a = .error t := by
  simp [earlyCheck, h]

theorem earlyCheck_of_class (h₁ : formFault s l a = none) (h₂ : classFault s q.cls l a = some t) :
    earlyCheck s c x act q l a = .error t := by
  simp [earlyCheck, h₁, h₂]

theorem earlyCheck_of_bound (h₁ : ¬ Malformed s a) (h₂ : ClassAllows s q.cls a)
    (h₃ : boundCheck s c x act l a = .error t) : earlyCheck s c x act q l a = .error t := by
  simp [earlyCheck, formFault_none h₂.space.1 h₂.space.2 h₁, classFault_allowed h₂, h₃]

/-- Alignment is checked last (R298). -/
theorem earlyCheck_of_align (h₁ : ¬ Malformed s a) (h₂ : ClassAllows s q.cls a)
    (h₃ : boundCheck s c x act l a = .ok r) :
    earlyCheck s c x act q l a = if a % q.n = 0 then .ok r else .error (trapLane 0x0E 0 l a) := by
  simp [earlyCheck, formFault_none h₂.space.1 h₂.space.2 h₁, classFault_allowed h₂, h₃]

end

/-- Settles O22: the byte laws by induction on the number of bytes, equality of memories key by key, and of the checks of an
address the first that fails. -/
theorem memoryAndAddresses : Obligations.MemoryAndAddresses := by
  unfold Obligations.MemoryAndAddresses
  refine ⟨⟨fun m k n x => readMem_writeMem_self n m k x, fun m k n x j i => readMem_writeMem_apart,
    fun m m' => eq_of_readByte_eq⟩, fun s c x act q l a hx => ?_⟩
  refine ⟨fun null => earlyCheck_of_form (formFault_null null),
    fun reserved => earlyCheck_of_form (formFault_reserved reserved),
    fun bad => earlyCheck_of_form (formFault_malformed bad),
    fun h₀ h₅ ok remote => earlyCheck_of_class (formFault_none h₀ h₅ ok) (classFault_remote remote),
    fun h₀ h₅ ok refused here => earlyCheck_of_class (formFault_none h₀ h₅ ok) (classFault_refused h₀ h₅ refused here),
    fun ok allowed space own outside => earlyCheck_of_bound ok allowed ?_,
    fun ok allowed space outside => earlyCheck_of_bound ok allowed ?_,
    fun ok allowed space own inside => earlyCheck_of_align ok allowed ?_,
    fun ok allowed space inside => earlyCheck_of_align ok allowed ?_,
    fun ok allowed space => earlyCheck_of_align ok allowed (boundCheck_control space),
    fun ok allowed space => earlyCheck_of_align ok allowed (boundCheck_tensor space)⟩
  · rw [boundCheck_scratch hx space own, if_neg (Nat.not_lt.2 outside)]
    rfl
  · rw [boundCheck_commons space, if_neg (Nat.not_lt.2 outside)]
    rfl
  · rw [boundCheck_scratch hx space own, if_pos inside]
  · rw [boundCheck_commons space, if_pos inside]

end Sys2Proof.Machine
end

section
/-! PROOFS. Proofs/CanonicalCore.lean: what the operations of cores and engines do to memory. An operation that does not write it
leaves it as it was (`mem_…`), one that writes keeps it in canonical form (`wf_…`), and one that answers a result with a state
answers it with such a memory (`canonical_…`). -/

namespace Sys2Proof.Machine

/-! ### Results that hold a state -/

/-- The state of a pair, once the pair is known. -/
theorem wf_snd {α : Type} {p : α × State} {a : α} {u : State} (h : Memory.wf p.2.mem = true) (e : p = (a, u)) :
    Memory.wf u.mem = true := by
  subst e; exact h

theorem wf_of_mem_eq {s t : State} (e : t.mem = s.mem) (h : Memory.wf s.mem = true) : Memory.wf t.mem = true := by rwa [e]

theorem wf_ite {p : Prop} [Decidable p] {s t : State} (hs : Memory.wf s.mem = true) (ht : Memory.wf t.mem = true) :
    Memory.wf (if p then s else t).mem = true := by split <;> assumption

theorem mem_ite {p : Prop} [Decidable p] {s t u : State} (hs : s.mem = u.mem) (ht : t.mem = u.mem) :
    (if p then s else t).mem = u.mem := by split <;> assumption

/-- The checks of all lanes let the access go on only from a state whose memory is in canonical form. -/
def Plan.Canonical : Plan → Prop
  | .go _ u => Memory.wf u.mem = true
  | _ => True

/-- The images of the lanes leave a memory in canonical form where the instruction goes on or waits; of a failed read nothing is
asked, since of its state only the caches stay. -/
def Image.Canonical : Image → Prop
  | .ok _ u | .wait u => Memory.wf u.mem = true
  | .fail _ _ => True

def Fetched.Canonical : Fetched → Prop
  | .ok _ u => Memory.wf u.mem = true
  | _ => True

def Delivery.Canonical : Delivery → Prop
  | .decided _ u => Memory.wf u.mem = true
  | _ => True

def Answer.Canonical : Answer → Prop
  | .ok _ u | .fail _ u => Memory.wf u.mem = true
  | .wait _ => True

def Result.Canonical : Result → Prop
  | .done u | .after u _ | .stall u => Memory.wf u.mem = true
  | .trap _ | .miss _ _ => True

theorem Plan.Canonical.go {r : Plan} {ps : List (Nat × Nat × Option Place)} {u : State} (h : r.Canonical) (e : r = .go ps u) :
    Memory.wf u.mem = true := by subst e; exact h

theorem Image.Canonical.ok {r : Image} {vs : List (Nat × Nat)} {u : State} (h : r.Canonical) (e : r = .ok vs u) :
    Memory.wf u.mem = true := by subst e; exact h

theorem Image.Canonical.wait {r : Image} {u : State} (h : r.Canonical) (e : r = .wait u) :
    Memory.wf u.mem = true := by subst e; exact h

theorem Fetched.Canonical.ok {r : Fetched} {v : Nat} {u : State} (h : r.Canonical) (e : r = .ok v u) :
    Memory.wf u.mem = true := by
  subst e; exact h

theorem Delivery.Canonical.decided {r : Delivery} {k : Nat} {u : State} (h : r.Canonical) (e : r = .decided k u) :
    Memory.wf u.mem = true := by subst e; exact h

theorem Answer.Canonical.ok {r : Answer} {v : Nat} {u : State} (h : r.Canonical) (e : r = .ok v u) :
    Memory.wf u.mem = true := by
  subst e; exact h

theorem Answer.Canonical.fail {r : Answer} {c : Nat} {u : State} (h : r.Canonical) (e : r = .fail c u) :
    Memory.wf u.mem = true := by
  subst e; exact h

/-! ### Registers, flags and statuses of a state -/

@[simp] theorem mem_setRegs (s : State) (c w : Nat) (ws : List (Nat × Word)) : (s.setRegs c w ws).mem = s.mem :=
  mem_fold_state (fun _ _ => by rfl) _ _

@[simp] theorem mem_orFlags (s : State) (c w : Nat) (fs : List (Nat × Nat)) : (s.orFlags c w fs).mem = s.mem :=
  mem_fold_state (fun _ _ => by rfl) _ _

@[simp] theorem mem_refuseAt (s : State) (n sel : Nat) (r : Bool) : (s.refuseAt n sel r).mem = s.mem := rfl

@[simp] theorem mem_acquire (s : State) (k sc : Nat) : (s.acquire k sc).mem = s.mem := by
  unfold State.acquire; split <;> rfl

@[simp] theorem mem_later (s : State) (e : Instr) (as : List Nat) : (s.later e as).mem = s.mem := rfl
@[simp] theorem mem_takeFree (s : State) : (s.takeFree).2.mem = s.mem := rfl

/-! ### Lines and their homes -/

@[simp] theorem mem_setLineRec (s : State) (n : Nat) (r : Option Rec) : (s.setLineRec n r).mem = s.mem := rfl

@[simp] theorem mem_taken (s : State) (e : Instr) : (s.taken e).mem = s.mem := by
  unfold State.taken; split <;> rfl

@[simp] theorem mem_wait (s : State) (home : Nat) (e : Instr) (args : List Nat) : (s.wait home e args).mem = s.mem := by
  simp [State.wait]

@[simp] theorem mem_freeLine (s : State) (n : Nat) : (s.freeLine n).mem = s.mem := by simp [State.freeLine]

@[simp] theorem mem_settled (s : State) : (s.settled).mem = s.mem := by
  unfold State.settled; (repeat' split) <;> simp

theorem wf_inTurn {s : State} {e : Instr} {f : State → State} (h : Memory.wf s.mem = true)
    (hf : ∀ t, Memory.wf t.mem = true → Memory.wf (f t).mem = true) : Memory.wf (s.inTurn e f).mem = true := by
  rw [State.inTurn, mem_settled]; exact hf _ (by rwa [mem_taken])

@[simp] theorem mem_waitOr (s : State) (line : Nat) (e : Instr) (args : List Nat) : (s.waitOr line e args).mem = s.mem := by
  unfold State.waitOr; split <;> simp

@[simp] theorem mem_ownNumber (s : State) (a n r : Nat) : (s.ownNumber a n r).mem = s.mem := rfl

theorem wf_homeStoreOr {s : State} (off n v : Nat) (h : Memory.wf s.mem = true) :
    Memory.wf (s.homeStoreOr off n v).mem = true := by
  unfold State.homeStoreOr; split <;> simp [h, wf_homeStore]

@[simp] theorem mem_arrived (s : State) (kind a n : Nat) : (s.arrived kind a n).mem = s.mem := by
  unfold State.arrived; split <;> rfl

@[simp] theorem mem_dataOf (s : State) (a n : Nat) : (s.dataOf a n).2.mem = s.mem := rfl

theorem wf_homeLane (off k op f use kind fenced : Nat) (me : Rec) {acc : Nat × Nat × State} (l : Nat × Nat × Nat)
    (h : Memory.wf acc.2.2.mem = true) : Memory.wf (homeLane off k op f use kind fenced me acc l).2.2.mem = true := by
  unfold homeLane; dsimp only
  rw [mem_setLineRec]; exact wf_homeAtomic _ _ _ h

theorem wf_updateMirror {s : State} (n : Nat) (h : Memory.wf s.mem = true) : Memory.wf (s.updateMirror n).mem = true := by
  unfold State.updateMirror
  refine wf_fold_state (fun t j ht => ?_) _ h
  dsimp only; split
  · exact ht
  · exact wf_put _ _ _ ht

/-! ### Traps, drains and events -/

theorem wf_eventRecordAt {s : State} (type queue ctx code data time : Nat) (h : Memory.wf s.mem = true) :
    Memory.wf (s.eventRecordAt type queue ctx code data time).mem = true := by
  unfold State.eventRecordAt; dsimp only; (repeat' split) <;> simp [h, wf_homeStore]

@[simp] theorem mem_startDrain (s : State) (c : Nat) (g : Goal) (e : Instr) : (s.startDrain c g e).mem = s.mem :=
  mem_fold_state (fun _ _ => by dsimp only; (repeat' split) <;> rfl) _ _

@[simp] theorem mem_markStop (s : State) (c : Nat) (k : StopRec) : (s.markStop c k).mem = s.mem :=
  mem_fold_state (fun _ _ => by split <;> rfl) _ _

theorem wf_deliver {s : State} (c w : Nat) (t : Trap) (h : Memory.wf s.mem = true) :
    Memory.wf (s.deliver c w t).mem = true := by
  unfold State.deliver; (repeat' split) <;> simp [h, wf_eventRecord]

theorem wf_takeTrap {s : State} (c w : Nat) (t : Trap) (h : Memory.wf s.mem = true) :
    Memory.wf (s.takeTrap c w t).mem = true := by
  unfold State.takeTrap; dsimp only; split <;> simp [h, wf_deliver]

@[simp] theorem mem_afterWork (s : State) (c w : Nat) : (s.afterWork c w).mem = s.mem := by
  unfold State.afterWork; dsimp only; (repeat' split) <;> simp

/-! ### Issue of an instruction -/

/-- A fault found by the checks of an instruction leaves memory alone. -/
theorem mem_issueCheck {i : Instr} {b : Bundle} {s u : State} {k : Trap} (hu : issueCheck i b s = .trap k u) :
    u.mem = s.mem := by
  unfold issueCheck at hu
  dsimp only at hu
  (repeat' split at hu) <;> cases hu <;> rfl

@[simp] theorem mem_acquireArrivals (i : Instr) (b : Bundle) (act : List Nat) (s : State) :
    (acquireArrivals i b act s).mem = s.mem := by
  unfold acquireArrivals; dsimp only; (repeat' split) <;> simp

@[simp] theorem mem_countBundle (b : Bundle) (n : Nat) (s : State) : (countBundle b n s).mem = s.mem := by
  unfold countBundle; (repeat' split) <;> rfl

@[simp] theorem mem_produce (s : State) (part type n body : Nat) : (s.produce part type n body).mem = s.mem := rfl
@[simp] theorem mem_giveSample (s : State) (core part body : Nat) : (s.giveSample core part body).mem = s.mem := rfl

@[simp] theorem mem_idleSample (s : State) (core islot : Nat) : (s.idleSample core islot).mem = s.mem := by
  unfold State.idleSample; (repeat' split) <;> rfl

@[simp] theorem mem_bundleSample (s : State) (x : Ctx) (islot : Nat) (b : Bundle) (act : List Nat) :
    (s.bundleSample x islot b act).mem = s.mem := by
  unfold State.bundleSample; (repeat' split) <;> rfl

@[simp] theorem mem_issuedAt (s : State) (c w : Nat) (pc : Dword) : (s.issuedAt c w pc).mem = s.mem := by
  unfold State.issuedAt; split <;> rfl

@[simp] theorem mem_noteIssue (s : State) (b : Bundle) : (s.noteIssue b).mem = s.mem := by simp [State.noteIssue]

@[simp] theorem mem_noteSample (s : State) (b : Bundle) (act : List Nat) : (s.noteSample b act).mem = s.mem := by
  unfold State.noteSample; split <;> simp

@[simp] theorem mem_pass (i : Instr) (b : Bundle) (act : List Nat) (s : State) : (pass i b act s).mem = s.mem := by simp [pass]

@[simp] theorem mem_launchAt (s : State) (id : Nat) (b : Bundle) (lanes : List Nat) (k : OpKind) :
    (s.launchAt id b lanes k).mem = s.mem := rfl

@[simp] theorem mem_launchOp (s : State) (b : Bundle) (lanes : List Nat) (k : OpKind) :
    (s.launchOp b lanes k).mem = s.mem := rfl

@[simp] theorem mem_idle (s : State) : (idle s).mem = s.mem := rfl

@[simp] theorem mem_noteFaulted (s : State) (b : Bundle) : (s.noteFaulted b).mem = s.mem := by
  unfold State.noteFaulted; split <;> simp

theorem wf_faultBundle (b : Bundle) {s : State} (k : Trap) (h : Memory.wf s.mem = true) : Memory.wf (faultBundle b s k).mem = true := by
  simp [faultBundle, h, wf_takeTrap]

theorem wf_settle {b : Bundle} {s : State} {r : Result} (h : Memory.wf s.mem = true) (hr : r.Canonical) :
    Memory.wf (settle b s r).mem = true := by
  cases r with
  | done t => exact hr
  | after t k => exact wf_takeTrap _ _ _ hr
  | trap k => exact wf_faultBundle _ _ h
  | miss k u => exact wf_faultBundle _ _ h
  | stall t => exact hr

/-! ### Page walks and translation -/

theorem wf_readEntry {s : State} (a : Nat) (tensor : Bool) (t : Nat) (h : Memory.wf s.mem = true) :
    Memory.wf (s.readEntry a tensor t).2.mem = true := by
  unfold State.readEntry; dsimp only; (repeat' split) <;> simp [h, wf_ctlRead]

theorem wf_walkFrom (a : Nat) (tensor : Bool) (va lvl : Nat) : ∀ (t : Nat) {s : State}, Memory.wf s.mem = true →
    Memory.wf (walkFrom a tensor va lvl t s).2.mem = true := by
  induction lvl with
  | zero =>
    intro t s h
    unfold walkFrom; dsimp only
    (repeat' split) <;> exact wf_snd (wf_readEntry a tensor _ h) ‹_›
  | succ k ih =>
    intro t s h
    unfold walkFrom; dsimp only
    split
    · exact wf_snd (wf_readEntry a tensor _ h) ‹_›
    · have hu := wf_snd (wf_readEntry a tensor _ h) ‹_›
      split
      · exact hu
      · split
        · exact hu
        · split
          · exact hu
          · exact ih _ hu

theorem wf_walk (a : Nat) (tensor : Bool) (root va : Nat) {s : State} (h : Memory.wf s.mem = true) :
    Memory.wf (walk a tensor root va s).2.mem = true := by
  unfold walk; split <;> simp [h, wf_walkFrom]

@[simp] theorem mem_cacheXlat (s : State) (x : Xlat) : (s.cacheXlat x).mem = s.mem := rfl

theorem wf_walkAt (a : Nat) (tensor : Bool) (root va : Nat) (start : Option Pointer) {s : State} (h : Memory.wf s.mem = true) :
    Memory.wf (walkAt a tensor root va start s).2.mem = true := by
  unfold walkAt; split <;> simp [h, wf_walk, wf_walkFrom]

theorem wf_walkTables {s : State} (die agent part : Nat) (tensor : Bool) (root va : Nat) (k : Option Nat) (h : Memory.wf s.mem = true) :
    Memory.wf (s.walkTables die agent part tensor root va k).2.mem = true := by
  have hw := wf_walkAt agent tensor root va (s.heldPointer die part tensor va k) h
  unfold State.walkTables; dsimp only
  split
  · exact wf_snd hw ‹_›
  · have hu := wf_snd hw ‹_›
    exact hu

@[simp] theorem mem_discardTlb (s : State) (p : Xlat → Bool) : (s.discardTlb p).mem = s.mem := rfl

/-- A translation is made by the caches or by one walk. -/
theorem wf_translate {s : State} (place part : Nat) (tensor : Bool) (va need : Nat) (k : Option Nat) (h : Memory.wf s.mem = true) :
    Memory.wf (s.translate place part tensor va need k).2.mem = true :=
  translate_keeps (P := fun u => Memory.wf u.mem = true) h (fun _ _ hu => hu) (fun _ _ hu => hu) (fun _ _ hu => hu)
    fun _ _ _ _ _ hu => wf_walkTables _ _ _ _ _ _ _ hu

theorem wf_engineAddr {s : State} (x : Ctx) (a n need : Nat) (h : Memory.wf s.mem = true) :
    Memory.wf (s.engineAddr x a n need).2.mem = true := by
  unfold State.engineAddr; split <;> grind [wf_translate]

theorem wf_engineRead {s : State} (x : Ctx) (a n : Nat) (h : Memory.wf s.mem = true) :
    Memory.wf (s.engineRead x a n).2.mem = true := by
  unfold State.engineRead; split <;> grind [wf_engineAddr]

theorem wf_engineWrite {s : State} (x : Ctx) (a n v : Nat) (h : Memory.wf s.mem = true) :
    Memory.wf (s.engineWrite x a n v).2.mem = true := by
  unfold State.engineWrite
  split
  · exact wf_snd (wf_engineAddr x a n permW h) ‹_›
  · exact wf_engineStore _ _ _ (wf_snd (wf_engineAddr x a n permW h) ‹_›)

/-! ### Stores and atomics on memory -/

@[simp] theorem mem_updateL1 (s : State) (core pa n v : Nat) : (s.updateL1 core pa n v).mem = s.mem := by
  unfold State.updateL1; split <;> rfl

@[simp] theorem mem_markDirty (s : State) (c o n : Nat) : (s.markDirty c o n).mem = s.mem := by
  unfold State.markDirty; (repeat' split) <;> rfl

theorem wf_storePlace {s : State} (x : Ctx) (p : Place) (n v : Nat) (r : Option Rec) (h : Memory.wf s.mem = true) :
    Memory.wf (s.storePlace x p n v r).mem = true := by
  unfold State.storePlace; split <;> simp [h, wf_put, wf_ctlWrite]

theorem wf_atomicStep {s : State} (x : Ctx) (op f n : Nat) (ret : Bool) (r : Option Rec → Option Rec) (a : AStep) (h : Memory.wf s.mem = true) :
    Memory.wf (atomicStep s x op f n ret r a).2.mem = true := by
  unfold atomicStep; dsimp only; (repeat' split) <;> simp [h, wf_put, wf_homeAtomic, wf_pageAdd]

theorem wf_atomicSteps (x : Ctx) (op f n : Nat) (ret : Bool) (r : Nat → Option Rec → Option Rec) (as : List AStep) :
    ∀ {s : State} (vals : List (Nat × Nat)), Memory.wf s.mem = true → Memory.wf (atomicSteps x op f n ret r as s vals).2.mem = true := by
  induction as with
  | nil => intro s vals h; exact h
  | cons a as ih => intro s vals h; exact ih _ (wf_atomicStep x op f n ret _ a h)

theorem wf_applyMerged {s : State} (c : Ctx) (k x : Nat) (xs : List Nat) (h : Memory.wf s.mem = true) :
    Memory.wf (s.applyMerged c k x xs).mem = true := by
  unfold State.applyMerged; dsimp only; (repeat' split) <;> simp [h, wf_put, wf_homeAtomic]

theorem wf_mergedAdds (x : Ctx) (fuel : Nat) : ∀ (as : List (Nat × AStep)) {s : State}, Memory.wf s.mem = true →
    Memory.wf (mergedAdds x fuel as s).mem = true := by
  induction fuel with
  | zero => intro as s h; rwa [mergedAdds]
  | succ fuel ih =>
    intro as s h
    cases as with
    | nil => rwa [mergedAdds]; simp
    | cons a as =>
      rw [mergedAdds]
      refine ih _ ?_
      split
      · exact wf_atomicStep _ _ _ _ _ _ _ h
      · exact wf_applyMerged _ _ _ _ h

@[simp] theorem mem_waitLines (s : State) (e : Instr) (id : Nat) (ks : List Nat) : (s.waitLines e id ks).mem = s.mem := by
  simp [State.waitLines, mem_fold_state, apply_ite State.mem]

@[simp] theorem mem_awaitMirrors (s : State) (e : Instr) (id : Nat) (ks : List Nat) : (s.awaitMirrors e id ks).mem = s.mem := by
  unfold State.awaitMirrors; split <;> rfl

@[simp] theorem mem_postEnd (s : State) (e : Instr) (id : Nat) (ks : List Nat) : (s.postEnd e id ks).mem = s.mem := by
  unfold State.postEnd; split <;> rfl

theorem wf_performStores (c w : Nat) (x : Ctx) (n : Nat) (rel : Option Nat) (todo : List (Nat × Nat × Nat)) :
    ∀ {s : State}, Memory.wf s.mem = true → Memory.wf (s.performStores c w x n rel todo).mem = true := by
  induction todo with
  | nil => intro s h; exact h
  | cons e todo ih =>
    intro s h
    rw [State.performStores]
    refine ih ?_
    split
    · exact h
    · exact wf_storePlace _ _ _ _ _ h

theorem wf_performAdds (id : Nat) (x : Ctx) (steps : List AStep) (ks : List Nat) :
    ∀ {s : State}, Memory.wf s.mem = true → Memory.wf (s.performAdds id x steps ks).mem = true := by
  induction ks with
  | nil => intro s h; exact h
  | cons k ks ih =>
    intro s h
    rw [State.performAdds]
    refine ih ?_
    split
    · exact wf_applyMerged _ _ _ _ h
    · exact wf_mergedAdds _ _ _ h

theorem wf_performAtomic {s : State} (id : Nat) (x : Ctx) (op f n : Nat) (ret : Bool) (steps : List AStep) (vals : List (Nat × Nat))
    (h : Memory.wf s.mem = true) : Memory.wf (s.performAtomic id x op f n ret steps vals).2.mem = true := by
  unfold State.performAtomic; split <;> simp [h, wf_atomicSteps, wf_performAdds]

@[simp] theorem mem_atomicReturn (s : State) (id : Nat) (o : Op) (n d : Nat) (ret : Bool) (vals : List (Nat × Nat)) (ks : List Nat) :
    (s.atomicReturn id o n d ret vals ks).mem = s.mem := by
  unfold State.atomicReturn; split <;> simp

@[simp] theorem mem_atomicOver (s : State) (id : Nat) : (s.atomicOver id).mem = s.mem := by
  unfold State.atomicOver; (repeat' split) <;> simp

/-! ### Locks, barriers and copies -/

theorem wf_barrierArrive {s : State} (c i n sec : Nat) (h : Memory.wf s.mem = true) : Memory.wf (s.barrierArrive c i n sec).mem = true := by
  simp [State.barrierArrive, h, wf_stepBarrier]

theorem wf_barrierFail {s : State} (c i k : Nat) (h : Memory.wf s.mem = true) : Memory.wf (s.barrierFail c i k).mem = true := by
  simp [State.barrierFail, h, wf_stepBarrier]

theorem mem_takeLock {u : State} (s : State) (core : Nat) (l : Lock) (hu : s.takeLock core l = some u) : u.mem = s.mem := by
  unfold State.takeLock at hu; dsimp only at hu
  split at hu
  · cases hu
  · split at hu
    · cases hu; rfl
    · cases hu

theorem mem_takeLocks (core : Nat) (ls : List Lock) : ∀ {s u : State}, s.takeLocks core ls = some u → u.mem = s.mem := by
  induction ls with
  | nil => intro s u hu; cases hu; rfl
  | cons l ls ih =>
    intro s u hu
    rw [State.takeLocks] at hu
    split at hu
    · rw [ih hu, mem_takeLock _ _ _ ‹_›]
    · cases hu

@[simp] theorem mem_retryLocks (s : State) : s.retryLocks.mem = s.mem := by
  unfold State.retryLocks
  refine mem_fold_state (fun t e => ?_) _ _
  dsimp only; split
  · exact mem_fold_state (g := fun t c => t.post .multicastLanding [e.1, c]) (fun _ _ => rfl) _ _
  · rfl

@[simp] theorem mem_releaseLocks (s : State) (id : Nat) (p : Lock → Bool) : (s.releaseLocks id p).mem = s.mem := by
  simp [State.releaseLocks]

@[simp] theorem mem_remoteCopy (s : State) (c id d : Nat) (origin : List Int) (out : Bool) :
    (s.remoteCopy c id d origin out).mem = s.mem := by
  unfold State.remoteCopy; dsimp only
  simp only [apply_ite State.mem, mem_post]
  rw [mem_fold_state]
  · simp
  · exact fun _ _ => rfl

/-- A copy of an empty box makes its arrivals at once; any other takes locks and goes in flight, and writes nothing yet. -/
theorem wf_startCopy {s u : State} (c w n : Nat) (out drop : Bool) (h : Memory.wf s.mem = true)
    (hu : s.startCopy c w n out drop = some u) : Memory.wf u.mem = true := by
  unfold State.startCopy at hu
  split at hu
  · cases hu; exact h
  · split at hu
    · cases hu; exact h
    · dsimp only at hu
      split at hu
      · cases hu
        exact wf_fold_state (fun t b => wf_barrierArrive _ _ _ _) _ (wf_barrierArrive _ _ _ _ h)
      · split at hu
        · cases hu
        · have ht := mem_takeLocks _ _ ‹_›
          cases hu
          simp only [apply_ite State.mem, mem_remoteCopy, mem_post, ite_self]
          rw [mem_fold_state, mem_addOp, mem_modCtx, mem_fold_state, ht]
          · exact h
          · intro t b
            split
            · split
              · rfl
              · cases hl : t.takeLock _ _ with
                | none => rfl
                | some t' => exact mem_takeLock _ _ _ hl
            · rfl
          · exact fun _ _ => rfl

theorem wf_sectorIn {s : State} (x : Ctx) (d : Nat) (origin : List Int) (j : Nat) (h : Memory.wf s.mem = true) :
    Memory.wf (s.sectorIn x d origin j).2.mem = true := by
  unfold State.sectorIn
  refine List.foldlRecOn (motive := fun p : _ × State => Memory.wf p.2.mem = true) _ _ h fun p hp i _ => ?_
  split
  · exact hp
  · split
    · exact hp
    · split
      · exact hp
      · split
        · exact wf_snd (wf_engineRead _ _ _ hp) ‹_›
        · exact wf_snd (wf_engineRead _ _ _ hp) ‹_›

theorem wf_sectorOut {s : State} (c : Nat) (x : Ctx) (d : Nat) (origin : List Int) (j : Nat) (h : Memory.wf s.mem = true) :
    Memory.wf (s.sectorOut c x d origin j).2.mem = true := by
  unfold State.sectorOut
  refine List.foldlRecOn (motive := fun p : _ × State => Memory.wf p.2.mem = true) _ _ h fun p hp i _ => ?_
  dsimp only
  split
  · exact hp
  · dsimp only
    have ha (a n need : Nat) := wf_engineAddr (s := p.2) x a n need hp
    split
    · exact hp
    · split
      · exact hp
      · split
        · exact wf_engineWrite _ _ _ _ hp
        · split
          · exact wf_snd (ha ..) ‹_›
          · split
            · exact wf_snd (ha ..) ‹_›
            · exact wf_engineStore _ _ _ (wf_snd (ha ..) ‹_›)

@[simp] theorem mem_wakeLoads (s : State) (c : Nat) : (s.wakeLoads c).mem = s.mem := by
  unfold State.wakeLoads
  refine mem_fold_state (fun t e => ?_) _ _
  dsimp only; (repeat' split) <;> rfl

theorem wf_sectorDone {s : State} (id j : Nat) (o : Op) (h : Memory.wf s.mem = true) :
    Memory.wf (s.sectorDone id j o).mem = true := by
  unfold State.sectorDone
  split
  · simp only [apply_ite State.mem, mem_post, mem_wakeLoads, ite_self]
    rw [mem_fold_state (fun _ _ => mem_post ..)]
    simp only [apply_ite State.mem, mem_wakeLoads, ite_self]
    exact wf_barrierArrive _ _ _ _ h
  · exact h

@[simp] theorem mem_entryAfter (s : State) (c n : Nat) (out drop : Bool) : (s.entryAfter c n out drop).mem = s.mem := rfl

theorem wf_failBarrier {s : State} (c i code left : Nat) (h : Memory.wf s.mem = true) :
    Memory.wf (s.failBarrier c i code left).mem = true := by
  unfold State.failBarrier; split <;> grind [wf_barrierFail, wf_barrierArrive]

/-! ### The plan of an access -/

theorem wf_placeOf {s : State} (x : Ctx) (q : Req) (l a : Nat) (r : Nat × Nat) (h : Memory.wf s.mem = true) :
    Memory.wf (placeOf s x q l a r).2.mem = true := by
  unfold placeOf; split <;> grind [wf_translate]

theorem wf_laneCheck {s : State} (b : Bundle) (x : Ctx) (act : List Nat) (q : Req) (l a : Nat) (h : Memory.wf s.mem = true) :
    Memory.wf (laneCheck s b x act q l a).2.mem = true := by
  unfold laneCheck
  split
  · exact h
  · have hp (r : Nat × Nat) := wf_placeOf (s := s) x q l a r h
    split
    · exact wf_snd (hp _) ‹_›
    · exact wf_snd (hp _) ‹_›
    · have hu := wf_snd (hp _) ‹_›
      dsimp only
      (repeat' split) <;> simpa using hu

@[simp] theorem mem_waitsWalk (s : State) (b : Bundle) (walk : Bool) : (s.waitsWalk b walk).mem = s.mem := by
  unfold State.waitsWalk; split <;> rfl

theorem canonical_planFrom (b : Bundle) (x : Ctx) (v : Wave) (act : List Nat) (q : Req) (as : List (Nat × Nat)) :
    ∀ (ps : List (Nat × Nat × Option Place)) {s : State}, Memory.wf s.mem = true → (planFrom b x v act q as ps s).Canonical := by
  induction as with
  | nil => intro ps s h; exact h
  | cons e as ih =>
    intro ps s h
    have hl := wf_laneCheck b x act q e.1 e.2 h
    unfold planFrom
    split
    · trivial
    · split
      · exact ih _ (wf_snd hl ‹_›)
      · trivial
    · split
      · trivial
      · exact ih _ (wf_snd hl ‹_›)

theorem canonical_plan {s : State} (b : Bundle) (x : Ctx) (v : Wave) (act : List Nat) (q : Req) (as : List (Nat × Nat))
    (h : Memory.wf s.mem = true) : (plan s b x v act q as).Canonical := canonical_planFrom b x v act q as [] h

theorem wf_startTouched (b : Bundle) (es : List Nat) : ∀ {s u : State}, Memory.wf s.mem = true → startTouched b es s = some u →
    Memory.wf u.mem = true := by
  induction es with
  | nil => intro s u h hu; cases hu; exact h
  | cons n ns ih =>
    intro s u h hu
    rw [startTouched] at hu
    split at hu
    · exact ih (wf_startCopy _ _ _ _ _ h ‹_›) hu
    · cases hu

@[simp] theorem mem_pinIf (b : Bundle) (ps : List Place) (s : State) : (pinIf b ps s).mem = s.mem := by
  unfold pinIf; split <;> rfl

@[simp] theorem mem_tensorLoad (s : State) (core pa n l : Nat) (acq : Bool) : (s.tensorLoad core pa n l acq).2.mem = s.mem := by
  unfold State.tensorLoad; dsimp only; (repeat' split) <;> simp

theorem wf_loadPlace {s : State} (x : Ctx) (p : Place) (n l : Nat) (acq : Bool) (h : Memory.wf s.mem = true) :
    Memory.wf (s.loadPlace x p n l acq).2.mem = true := by
  unfold State.loadPlace; split <;> simp [h, wf_ctlRead]

@[simp] theorem mem_watchStop (s : State) (b : Bundle) (v : Wave) (kinds n : Nat) (as : List (Nat × Nat)) :
    (watchStop s b v kinds n as).mem = s.mem := by
  unfold watchStop; dsimp only; (repeat' split) <;> simp

theorem wf_imageValues (x : Ctx) (n : Nat) (ps : List (Nat × Nat × Option Place)) : ∀ {s : State}, Memory.wf s.mem = true →
    Memory.wf (imageValues x n ps s).2.mem = true := by
  induction ps with
  | nil => intro s h; exact h
  | cons e ps ih =>
    obtain ⟨l, a, p⟩ := e
    intro s h
    cases p with
    | none => exact ih h
    | some p => exact ih (wf_loadPlace _ _ _ _ _ h)

theorem canonical_readImages {s0 s : State} (b : Bundle) (x : Ctx) (v : Wave) (act : List Nat) (n : Nat) (as : List (Nat × Nat))
    (h0 : Memory.wf s0.mem = true) (h : Memory.wf s.mem = true) : (readImages s0 s b x v act n as).Canonical := by
  unfold readImages; dsimp only
  split
  · simpa [Image.Canonical] using h0
  · trivial
  · trivial
  · have hu := (canonical_plan b x v act _ as h).go ‹_›
    split
    · split
      · exact h0
      · simpa [Image.Canonical] using wf_imageValues x n _ hu
    · cases ht : startTouched b (touches b.ctx x n _) s0 with
      | none => exact h0
      | some t => exact wf_startTouched b _ h0 ht

/-! ### Branches and block barriers -/

@[simp] theorem mem_branchTo (b : Bundle) (counts : Bool) (act : List Nat) (target : Nat → Option Dword) (t : State) :
    (branchTo b counts act target t).mem = t.mem := rfl

@[simp] theorem mem_writeLink (b : Bundle) (act : List Nat) (d : Nat) (t : State) : (writeLink b act d t).mem = t.mem := by
  simp [writeLink]

@[simp] theorem mem_barrierEnd (s : State) (c n : Nat) : (barrierEnd s c n).mem = s.mem := by
  unfold barrierEnd; (repeat' split) <;> rfl

@[simp] theorem mem_barrierRounds (c n k : Nat) : ∀ s : State, (barrierRounds c n k s).mem = s.mem := by
  induction k with
  | zero => intro s; unfold barrierRounds; (repeat' split) <;> simp
  | succ k ih => intro s; unfold barrierRounds; (repeat' split) <;> simp [ih]

@[simp] theorem mem_barrierCheck (s : State) (c n : Nat) : (barrierCheck s c n).mem = s.mem := by
  unfold barrierCheck; split <;> simp

@[simp] theorem mem_arriveAt (b : Bundle) (n : Nat) (sync : Bool) (s : State) (l : Nat) :
    (arriveAt b n sync s l).mem = s.mem := by
  unfold arriveAt; (repeat' split) <;> simp

/-! ### Loads and prefetches -/

theorem wf_readLanes (b : Bundle) (x : Ctx) (n : Nat) (acq : Bool) (ps : List (Nat × Nat × Option Place)) :
    ∀ {s : State} (vals waits : List (Nat × Nat)), Memory.wf s.mem = true →
      Memory.wf (readLanes b x n acq ps s vals waits).2.2.mem = true := by
  induction ps with
  | nil => intro s vals waits h; exact h
  | cons e ps ih =>
    obtain ⟨l, a, p⟩ := e
    intro s vals waits h
    cases p with
    | none => exact ih _ _ h
    | some p =>
      rw [readLanes]
      split
      · exact ih _ _ h
      · exact ih _ _ (wf_loadPlace _ _ _ _ _ h)

theorem wf_readAgain (c w : Nat) (x : Ctx) (n : Nat) (acq : Option Nat) (todo : List (Nat × Nat)) :
    ∀ {s : State} (vals : List (Nat × Nat)), Memory.wf s.mem = true → Memory.wf (readAgain c w x n acq todo s vals).2.mem = true := by
  induction todo with
  | nil => intro s vals h; exact h
  | cons e todo ih =>
    intro s vals h
    rw [readAgain]; dsimp only
    split
    · exact ih _ (wf_loadPlace _ _ _ _ _ h)
    · exact ih _ h

theorem wf_finishLoad {s : State} (c w n : Nat) (acq : Option Nat) (todo vals : List (Nat × Nat)) (h : Memory.wf s.mem = true) :
    Memory.wf (s.finishLoad c w n acq todo vals).2.mem = true := by
  unfold State.finishLoad; dsimp only; (repeat' split) <;> simp [h, wf_readAgain]

@[simp] theorem mem_storeOver (s : State) (id : Nat) : (s.storeOver id).mem = s.mem := by
  unfold State.storeOver; (repeat' split) <;> simp [mem_endOp]

theorem wf_prefetchLane (b : Bundle) (x : Ctx) (act : List Nat) (l1 : Bool) {s : State} (l a : Nat) (h : Memory.wf s.mem = true) :
    Memory.wf (prefetchLane b x act l1 s l a).mem = true := by
  unfold prefetchLane; split <;> grind [wf_cohRead, wf_placeOf]

/-! ### Remote atomics -/

theorem wf_ratomStep {s : State} (x : Ctx) (op f n a y : Nat) (h : Memory.wf s.mem = true) :
    Memory.wf (ratomStep s x op f n a y).2.mem = true := by
  unfold ratomStep; split <;> grind [wf_engineStore, wf_engineAddr]

/-! ### The matrix unit -/

@[simp] theorem mem_modMat (s : State) (c : Nat) (f : Machine.Matrix → Machine.Matrix) : (s.modMat c f).mem = s.mem := rfl
@[simp] theorem mem_enterPipe (s : State) (c : Nat) (o : MatOp) : (s.enterPipe c o).mem = s.mem := rfl

theorem canonical_faultOnce {t : State} (v : Wave) (act : List Nat) (k : Trap) (h : Memory.wf t.mem = true) :
    (faultOnce v act t k).Canonical := by
  unfold faultOnce
  split
  · exact h
  · trivial

theorem wf_rendFault {s : State} (c w : Nat) (k : Trap) (h : Memory.wf s.mem = true) : Memory.wf (s.rendFault c w k).mem = true := by
  simp [State.rendFault, h, wf_takeTrap]

theorem wf_gangFault {s : State} (c g cause : Nat) (h : Memory.wf s.mem = true) :
    Memory.wf (s.gangFault c g cause).mem = true := by
  unfold State.gangFault
  split
  · exact h
  · refine wf_fold_state (fun t e ht => ?_) _ h
    dsimp only
    split
    · exact wf_ite (wf_rendFault _ _ _ ht) ht
    · exact ht

@[simp] theorem mem_mmaEnter (s : State) (c : Nat) (x : Ctx) (g : Nat) (rs : List (Nat × Rend)) (f tile : Nat) (reuse : Bool) :
    (mmaEnter s c x g rs f tile reuse).mem = s.mem :=
  mem_fold_state (fun _ _ => by simp) _ _

/-! ### Fetch and selection of a bundle -/

theorem canonical_fetchHalf {s : State} (x : Ctx) (a : Nat) (k : Option Nat) (h : Memory.wf s.mem = true) :
    (fetchHalf s x a k).Canonical := by
  unfold fetchHalf; dsimp only
  refine iteInduction (motive := Fetched.Canonical) (fun _ => trivial) fun _ => ?_
  refine iteInduction (motive := Fetched.Canonical) (fun _ => trivial) fun _ => ?_
  generalize (if (addrSpace a == 2) = true then a % 2 ^ 40 else addrOff a) = va
  have ht := wf_translate x.place x.part (addrSpace a == 2) va permX k h
  split
  · split <;> trivial
  · have hu := wf_snd ht ‹_›
    refine iteInduction (motive := Fetched.Canonical) (fun _ => trivial) fun _ => ?_
    generalize (if (addrSpace a == 2) = true then HomeState.serves else _) = home
    cases home with
    | waits => trivial
    | gone => trivial
    | serves =>
      refine iteInduction (motive := Fetched.Canonical) (fun _ => trivial) fun _ => ?_
      exact iteInduction (motive := Fetched.Canonical) (fun _ => hu) fun _ => wf_ctlRead _ _ _ hu

theorem canonical_fetchHalves (x : Ctx) (n : Nat) :
    ∀ {s : State} (a : Nat), Memory.wf s.mem = true → (fetchHalves x n s a).Canonical := by
  induction n with
  | zero => intro s a h; exact h
  | succ n ih =>
    intro s a h
    unfold fetchHalves
    split
    · have hu := (canonical_fetchHalf x a none h).ok ‹_›
      split
      · exact (ih (a + 2) hu).ok ‹_›
      · exact ih (a + 2) hu
    · exact canonical_fetchHalf x a none h

theorem canonical_fetch {s : State} (x : Ctx) (a : Nat) (h : Memory.wf s.mem = true) : (fetch s x a).Canonical := by
  unfold fetch
  split
  · have hu := (canonical_fetchHalf x a (some 128) h).ok ‹_›
    split
    · exact (canonical_fetchHalves x _ (a + 2) hu).ok ‹_›
    · exact canonical_fetchHalves x _ (a + 2) hu
  · exact canonical_fetchHalf x a (some 128) h

@[simp] theorem mem_breakpointStop (s : State) (c w : Nat) : (breakpointStop s c w).mem = s.mem := by
  unfold breakpointStop; (repeat' split) <;> simp

@[simp] theorem mem_skipRun (s : State) (c w : Nat) (pc : Dword) (run : List Nat) (n : Nat) : (skipRun s c w pc run n).mem = s.mem := by
  simp [skipRun]

theorem wf_issueWave {s : State} (c w : Nat) (h : Memory.wf s.mem = true) : Memory.wf (issueWave s c w).mem = true := by
  have stop (t : State) (b : Bundle) (k : Trap) (ht : t.mem = s.mem) :
      Memory.wf (idle ((t.noteFaulted b).takeTrap c w k)).mem = true := by
    rw [mem_idle]; exact wf_takeTrap _ _ _ (by rwa [mem_noteFaulted, ht])
  unfold issueWave
  split
  · split
    · exact h
    · split
      · exact h
      · split
        · simpa using h
        · dsimp only
          split
          · exact h
          · exact stop _ _ _ rfl
          · have hu := (canonical_fetch _ _ h).ok ‹_›
            split
            · exact hu
            · split
              · simpa using hu
              · exact stop _ _ _ rfl
  · exact h

@[simp] theorem mem_hold (s : State) (core slot : Nat) : (s.hold core slot).mem = s.mem := rfl
@[simp] theorem mem_unhold (s : State) (core islot : Nat) : (s.unhold core islot).mem = s.mem := rfl

@[simp] theorem mem_endWalk (s : State) (c w : Nat) : (s.endWalk c w).mem = s.mem := by
  unfold State.endWalk; (repeat' split) <;> rfl

@[simp] theorem mem_idleOwed (s : State) : (s.idleOwed).mem = s.mem :=
  mem_fold_state (fun _ _ => by dsimp only; (repeat' split) <;> simp) _ _

@[simp] theorem mem_serve (s : State) : (s.serve).mem = s.mem := by simp [State.serve]

@[simp] theorem mem_unholdAll (s : State) : (s.unholdAll).mem = s.mem := by
  unfold State.unholdAll; split <;> rfl

theorem mem_dueEvent {y : Instr} {u : State} (s : State) (hu : s.dueEvent = some (y, u)) : u.mem = s.mem := by
  unfold State.dueEvent at hu
  split at hu
  · cases hu
  · split at hu
    · cases hu; exact mem_unholdAll s
    · cases hu

@[simp] theorem mem_chooseBundle (s : State) : (s.chooseBundle).mem = s.mem := by
  unfold State.chooseBundle; split <;> rfl

end Sys2Proof.Machine
end

section
/-! PROOFS. Proofs/CanonicalHub.lean: the same of the operations of trace, blocks, Vesper, Matins and collectives. -/

namespace Sys2Proof.Machine

/-! ### Trace pages and records -/

theorem wf_tracePut {s : State} (a n v : Nat) (h : Memory.wf s.mem = true) : Memory.wf (s.tracePut a n v).mem = true := by
  simp [State.tracePut, h, wf_engineStore]

theorem wf_closePage {s : State} (part : Nat) (h : Memory.wf s.mem = true) : Memory.wf (s.closePage part).mem = true := by
  unfold State.closePage; split <;> simp [h, wf_tracePut]

theorem wf_openPage {s : State} (part : Nat) (h : Memory.wf s.mem = true) : Memory.wf (s.openPage part).mem = true := by
  simp only [State.openPage]
  refine wf_ite ?_ h
  rw [mem_post]; exact wf_tracePut _ _ _ h

theorem wf_addRecord {s : State} (part n v : Nat) (h : Memory.wf s.mem = true) :
    Memory.wf (s.addRecord part n v).mem = true := by
  have hc : Memory.wf ((s.closePage part).openPage part).mem = true := wf_openPage part (wf_closePage part h)
  conv_lhs => arg 1; arg 1; arg 0; delta State.addRecord
  extract_lets fits t
  have ht : Memory.wf t.mem = true := wf_ite h hc
  split
  · exact ht
  · rwa [mem_hubSet]

theorem wf_flushTrace {s : State} (part : Nat) (h : Memory.wf s.mem = true) : Memory.wf (s.flushTrace part).mem = true := by
  simp only [State.flushTrace]
  exact wf_closePage part (wf_fold_state (fun t e ht => wf_ite (wf_addRecord _ _ _ ht) ht) _ h)

@[simp] theorem mem_blockEvent (s : State) (c e : Nat) : (s.blockEvent c e).mem = s.mem := by
  unfold State.blockEvent; (repeat' split) <;> rfl

@[simp] theorem mem_sampleCore (part : Nat) (s : State) (core : Nat) : (State.sampleCore part s core).mem = s.mem := by
  unfold State.sampleCore; dsimp only; (repeat' split) <;> simp

@[simp] theorem mem_noteHeld (s : State) (core part : Nat) : (s.noteHeld core part).mem = s.mem := by
  unfold State.noteHeld; dsimp only; split <;> simp

@[simp] theorem mem_laneCycles (part n : Nat) (s : State) (core : Nat) : (State.laneCycles part n s core).mem = s.mem := rfl

@[simp] theorem mem_zeroCounts (s : State) (part : Nat) : (s.zeroCounts part).mem = s.mem :=
  mem_fold_state (fun _ _ => by simp) _ _

@[simp] theorem mem_dropSamples (s : State) (part : Nat) : (s.dropSamples part).mem = s.mem := by
  unfold State.dropSamples; dsimp only; exact mem_fold_state (fun _ _ => by split <;> rfl) _ _

@[simp] theorem mem_latchRanges (s : State) (part : Nat) : (s.latchRanges part).mem = s.mem := by
  conv_lhs => arg 1; arg 0; delta State.latchRanges
  exact mem_fold_state (fun _ _ => mem_fold_state (fun _ _ => mem_hubSet ..) _ _) _ _

@[simp] theorem mem_traceEnable (s : State) (part v : Nat) : (s.traceEnable part v).mem = s.mem := by
  unfold State.traceEnable; dsimp only
  rw [mem_post, mem_post, mem_latchRanges]
  simp

theorem wf_traceDisable {s : State} (part v : Nat) (h : Memory.wf s.mem = true) : Memory.wf (s.traceDisable part v).mem = true := by
  simp [State.traceDisable, h, wf_closePage]

theorem wf_writeTrctl {s : State} (part v : Nat) (h : Memory.wf s.mem = true) : Memory.wf (s.writeTrctl part v).mem = true := by
  unfold State.writeTrctl
  refine wf_ite (by rwa [mem_refuseAt]) ?_
  split
  · rwa [mem_traceEnable]
  · exact wf_traceDisable _ _ h
  · rwa [mem_hubSet]

/-! ### Blocks, their images and commands -/

theorem wf_putSave {s : State} (x : Ctx) (off n v : Nat) (h : Memory.wf s.mem = true) : Memory.wf (s.putSave x off n v).mem = true := by
  simp [State.putSave, h, wf_engineStore]

theorem wf_saveWaves {s : State} (x : Ctx) (h : Memory.wf s.mem = true) : Memory.wf (s.saveWaves x).mem = true := by
  unfold State.saveWaves
  refine wf_fold_state (fun t w ht => ?_) _ h
  split
  · exact ht
  · exact wf_fold_state (fun _ _ => wf_putSave _ _ _ _) _ (wf_fold_state (fun _ _ => wf_putSave _ _ _ _) _ (wf_putSave _ _ _ _ ht))

theorem wf_saveRegs {s : State} (x : Ctx) (h : Memory.wf s.mem = true) : Memory.wf (s.saveRegs x).mem = true := by
  unfold State.saveRegs
  refine wf_fold_state (fun t w ht => ?_) _ h
  split
  · exact ht
  · exact wf_fold_state (fun _ _ hu => wf_fold_state (fun _ _ => wf_putSave _ _ _ _) _ hu) _ ht

theorem wf_saveScratch {s : State} (c : Nat) (x : Ctx) (h : Memory.wf s.mem = true) :
    Memory.wf (s.saveScratch c x).mem = true :=
  wf_fold_state (fun _ _ ht => by simp [ht, wf_putSave]) _ h

theorem wf_saveRegions {s : State} (x : Ctx) (h : Memory.wf s.mem = true) : Memory.wf (s.saveRegions x).mem = true := by
  unfold State.saveRegions; dsimp only
  exact wf_putSave _ _ _ _ (wf_fold_state (fun _ _ => wf_putSave _ _ _ _) _ (wf_fold_state (fun _ _ => wf_putSave _ _ _ _) _ h))

theorem wf_saveMatrix {s : State} (x : Ctx) (all : Bool) (h : Memory.wf s.mem = true) :
    Memory.wf (s.saveMatrix x all).mem = true := by
  unfold State.saveMatrix; dsimp only
  split
  · refine wf_fold_state (fun t k ht => ?_) _ (wf_putSave _ _ _ _ (wf_fold_state (fun t k ht => ?_) _ (wf_putSave _ _ _ _ h)))
    · split
      · exact wf_fold_state (fun _ _ => wf_putSave _ _ _ _) _ ht
      · exact ht
    · exact wf_putSave _ _ _ _ (wf_putSave _ _ _ _ ht)
  · exact h

theorem wf_saveImage {s : State} (c : Nat) (all : Bool) (h : Memory.wf s.mem = true) :
    Memory.wf (s.saveImage c all).mem = true := by
  unfold State.saveImage; split <;> grind [wf_saveWaves, wf_saveRegs, wf_saveScratch, wf_saveRegions, wf_saveMatrix, wf_putSave]

theorem wf_loadCore {s : State} (c : Nat) (h : Memory.wf s.mem = true) : Memory.wf (s.loadCore c).mem = true := by
  unfold State.loadCore
  split
  · exact h
  · exact wf_restore _ _ _ h

theorem wf_loadImage {s : State} (c : Nat) (h : Memory.wf s.mem = true) : Memory.wf (s.loadImage c).mem = true := by
  unfold State.loadImage; split <;> simp [h, wf_loadCore]

theorem mem_takeArea {u : State} (s : State) (c : Nat) (hu : s.takeArea c = some u) : u.mem = s.mem := by
  unfold State.takeArea at hu; dsimp only at hu; (repeat' split at hu) <;> cases hu <;> rfl

theorem mem_takeAreas {s u : State} (c : Nat) (hu : s.takeAreas c = some u) : u.mem = s.mem := by
  refine List.foldlRecOn (motive := fun t : Option State => ∀ u, t = some u → u.mem = s.mem) _ _ (fun u hu => ?_) (fun t ht b _ u hu => ?_) u hu
  · cases hu; rfl
  · split at hu
    · rw [mem_takeArea _ _ hu, ht _ rfl]
    · cases hu

@[simp] theorem mem_poolGrew (s : State) (part : Nat) : (s.poolGrew part).mem = s.mem := by
  unfold State.poolGrew; dsimp only; exact mem_fold_state (fun _ _ => by split <;> rfl) _ _

@[simp] theorem mem_returnArea (s : State) (c part : Nat) : (s.returnArea c part).mem = s.mem := by
  unfold State.returnArea; split <;> simp

theorem wf_poolFull {s : State} (c : Nat) (h : Memory.wf s.mem = true) : Memory.wf (s.poolFull c).mem = true := by
  unfold State.poolFull
  refine wf_fold_state (fun t b ht => ?_) _ h
  split
  · exact wf_eventRecord _ _ _ _ _ ht
  · exact ht

@[simp] theorem mem_setQueue (s : State) (q : Nat) (x : Queue) : (s.setQueue q x).mem = s.mem := rfl

theorem wf_noteCap {s : State} (q e : Nat) (h : Memory.wf s.mem = true) : Memory.wf (s.noteCap q e).mem = true := by
  unfold State.noteCap; dsimp only; split <;> simp [h, wf_eventRecord]

theorem wf_enterEpoch {s : State} (q : Nat) (h : Memory.wf s.mem = true) : Memory.wf (s.enterEpoch q).mem = true := by
  unfold State.enterEpoch; dsimp only
  split
  · exact h
  · rw [mem_setQueue]; exact wf_fold_state (fun _ _ => wf_noteCap _ _) _ h

theorem wf_account {s : State} (c : Nat) (h : Memory.wf s.mem = true) : Memory.wf (s.account c).mem = true := by
  unfold State.account; split <;> simp [h, wf_enterEpoch]

@[simp] theorem mem_charge (s : State) (c : Nat) : (s.charge c).mem = s.mem := by
  unfold State.charge; split <;> rfl

theorem wf_leaveCore {s : State} (c : Nat) (h : Memory.wf s.mem = true) : Memory.wf (s.leaveCore c).mem = true := by
  unfold State.leaveCore; split <;> simp [h, wf_account]

@[simp] theorem mem_lapseOwners (s : State) (x : Ctx) : (s.lapseOwners x).mem = s.mem := rfl

@[simp] theorem mem_launchCheck (s : State) (n : Nat) : (s.launchCheck n).mem = s.mem := by
  unfold State.launchCheck; (repeat' split) <;> rfl

@[simp] theorem mem_forgetTarget (s : State) (c : Nat) : (s.forgetTarget c).mem = s.mem :=
  mem_fold_state (fun _ _ => by dsimp only; (repeat' split) <;> rfl) _ _

theorem wf_endCtx {s : State} (c : Nat) (h : Memory.wf s.mem = true) : Memory.wf (s.endCtx c).mem = true := by
  unfold State.endCtx
  split
  · exact h
  · have ht (x : Ctx) : Memory.wf (if x.placed then s.leaveCore c else s).mem = true := by
      split
      · exact wf_leaveCore c h
      · exact h
    dsimp only
    rw [mem_post, mem_launchCheck, mem_returnArea]
    refine wf_filter_mem _ ?_
    simpa using ht _

@[simp] theorem mem_retire (s : State) (c : Nat) : (s.retire c).mem = s.mem := rfl

theorem wf_deliverKept {s : State} (c : Nat) (h : Memory.wf s.mem = true) : Memory.wf (s.deliverKept c).mem = true := by
  unfold State.deliverKept; dsimp only
  split
  · refine wf_fold_state (fun t e ht => ?_) _ h
    split
    · exact wf_deliver _ _ _ (by rwa [mem_modWave])
    · exact ht
  · exact h

theorem wf_saveOff {s : State} (c : Nat) (st : CState) (h : Memory.wf s.mem = true) : Memory.wf (s.saveOff c st).mem = true := by
  simp [State.saveOff, h, wf_saveImage, wf_leaveCore]

/-- A block that stops leaves its image and its stop record in its area, or reports that it has none. -/
theorem wf_stopBlock {s : State} (c : Nat) (h : Memory.wf s.mem = true) : Memory.wf (s.stopBlock c).mem = true := by
  unfold State.stopBlock; dsimp only
  rw [mem_blockEvent]
  split
  · have hu := mem_takeArea _ _ ‹_›
    rw [mem_modCtx] at hu
    rw [← hu] at h
    split
    · exact wf_putSave _ _ _ _ (wf_saveImage _ _ h)
    · exact h
  · split
    · exact wf_eventRecord _ _ _ _ _ h
    · exact h

@[simp] theorem mem_suspendTargets (s : State) (c : Nat) : (s.suspendTargets c).mem = s.mem := by
  unfold State.suspendTargets
  exact mem_fold_state (fun _ _ => mem_fold_state (fun _ _ => by rfl) _ _) _ _

theorem wf_cannotSave {s : State} (c : Nat) (h : Memory.wf s.mem = true) : Memory.wf (s.cannotSave c).mem = true := by
  simp [State.cannotSave, h, wf_poolFull]

theorem mem_preempt {s u : State} (c : Nat) (hu : s.preempt c = some u) : u.mem = s.mem := by
  unfold State.preempt at hu
  split at hu
  · cases hu; rw [mem_suspendTargets, mem_startDrain, mem_takeAreas c ‹_›]
  · cases hu

theorem wf_signal {s : State} (c : Nat) (h : Memory.wf s.mem = true) : Memory.wf (s.signal c).mem = true := by
  unfold State.signal
  split
  · split
    · exact h
    · refine wf_fold_state (fun t e ht => ?_) _ h
      dsimp only; split
      · exact ht
      · exact wf_putSave _ _ _ _ ht
  · exact h

theorem wf_continueBlock {s : State} (c : Nat) (h : Memory.wf s.mem = true) : Memory.wf (s.continueBlock c).mem = true := by
  unfold State.continueBlock; (repeat' split) <;> simp [h, wf_loadCore]

theorem wf_issueAgain {s : State} (bs : List Nat) (h : Memory.wf s.mem = true) : Memory.wf (s.issueAgain bs).mem = true :=
  wf_fold_state (fun _ _ ht => by simp [ht, wf_deliverKept]) _ h

@[simp] theorem mem_releaseBlock (s : State) (c : Nat) : (s.releaseBlock c).mem = s.mem := by
  unfold State.releaseBlock; (repeat' split) <;> simp

theorem wf_ctxCommand {s : State} (cmd : Nat) (h : Memory.wf s.mem = true) : Memory.wf (s.ctxCommand cmd).mem = true := by
  unfold State.ctxCommand; dsimp only
  have hu : Memory.wf (s.hubSet 0x042 0 0).mem = true := h
  generalize s.hubSet 0x042 0 0 = u at hu ⊢
  have hr : Memory.wf u.refuseCtx.mem = true := hu
  have release (bs : List Nat) : Memory.wf (bs.foldl State.releaseBlock u).mem = true := by
    rwa [mem_fold_state mem_releaseBlock]
  split
  · exact hr
  · split
    · split
      · split
        · rwa [mem_preempt _ ‹_›]
        · exact wf_cannotSave _ hu
      · exact hr
    · split
      · rwa [mem_startDrain]
      · exact hr
    · split
      · split
        · exact wf_issueAgain _ (release _)
        · exact release _
      · exact hr
    · split
      · rwa [mem_fold_state (fun _ _ => by rw [mem_modCtx, mem_retire])]
      · exact hr
    · split
      · rwa [mem_markStop, mem_startDrain]
      · exact hr
    · split
      · exact wf_issueAgain _ (wf_fold_state (fun _ _ => wf_continueBlock _) _ hu)
      · exact hr
    · exact wf_signal _ hu
    · exact hu
    · split
      · exact hr
      · exact hu
    · exact hr

/-! ### Lane writes -/

@[simp] theorem mem_deliver (b : Bundle) (x : Ctx) (k rel : Nat) (s : State) (w : Nat × Nat × Nat × Word) :
    (deliver b x k rel s w).mem = s.mem := by
  unfold deliver; (repeat' split) <;> rfl

@[simp] theorem mem_arrival (s : State) (c w r l : Nat) (v : Word) (slane name rel : Nat) :
    (s.arrival c w r l v slane name rel).mem = s.mem := by
  unfold State.arrival; (repeat' split) <;> rfl

theorem wf_deposit {s : State} (c w r l : Nat) (v : Word) (slane name rel : Nat) (h : Memory.wf s.mem = true) :
    Memory.wf (s.deposit c w r l v slane name rel).mem = true := by
  unfold State.deposit; dsimp only; (repeat' split) <;> simp [h, wf_putSave]

theorem canonical_decideWrite {s : State} (atPort : Bool) (cap k l : Nat) (v : Word) (tag slane name rel : Nat)
    (h : Memory.wf s.mem = true) : (s.decideWrite atPort cap k l v tag slane name rel).Canonical := by
  have ha (c w r : Nat) : Memory.wf (s.arrival c w r l v slane name rel).mem = true := by rwa [mem_arrival]
  have either {p : Prop} [Decidable p] {d e : Delivery} (hd : d.Canonical) (he : e.Canonical) : (if p then d else e).Canonical :=
    iteInduction (fun _ => hd) fun _ => he
  unfold State.decideWrite
  split
  · exact h
  · split
    · refine either trivial (either trivial ?_)
      split
      · exact h
      · refine either h (either h (either h (either (wf_deposit _ _ _ _ _ _ _ _ h) ?_)))
        exact wf_ite (wf_deposit _ _ _ _ _ _ _ _ (ha ..)) (ha ..)
    · exact h

theorem wf_decideOp {s : State} (atPort : Bool) (id : Nat) (e : Instr) (h : Memory.wf s.mem = true) :
    Memory.wf (s.decideOp atPort id e).mem = true := by
  unfold State.decideOp
  split
  · split
    · split
      · exact h
      · split
        · exact h
        · split
          · have ht := (canonical_decideWrite _ _ _ _ _ _ _ _ _ h).decided ‹_›
            exact ht
          · exact h
          · simpa using h
    · exact h
  · exact h

/-! ### Regions and chains -/

theorem canonical_startOrStall {s t : State} (b : Bundle) (n : Nat) (out drop : Bool) (hs : Memory.wf s.mem = true)
    (ht : Memory.wf t.mem = true) : (startOrStall s t b n out drop).Canonical := by
  unfold startOrStall
  split
  · exact wf_startCopy _ _ _ _ _ ht ‹_›
  · exact hs

theorem mem_chainReserve {s u : State} (c : Nat) (x : Ctx) (d : Nat) (hu : chainReserve s c x d = some u) : u.mem = s.mem := by
  unfold chainReserve at hu; dsimp only at hu
  split at hu
  · cases hu; rfl
  · split at hu
    · cases hu
    · split at hu
      · cases hu; rfl
      · obtain ⟨t, ht, rfl⟩ := Option.map_eq_some_iff.1 hu
        rw [mem_modCtx, mem_takeLocks _ _ ht]

theorem wf_chainEndOp {s : State} (id : Nat) (o : Op) (d code : Nat) (h : Memory.wf s.mem = true) :
    Memory.wf (chainEndOp s id o d code).mem = true := by
  have ht : Memory.wf (s.releaseLocks id fun _ => true).mem = true := by rwa [mem_releaseLocks]
  unfold chainEndOp; dsimp only
  rw [mem_endOp]
  refine wf_barrierArrive _ _ _ _ ?_
  split
  · exact ht
  · exact wf_barrierFail _ _ _ ht

theorem wf_chainRead (x : Ctx) (d e : Nat) (ns : List Nat) : ∀ {s : State} (vs : List Nat), Memory.wf s.mem = true →
    Memory.wf (chainRead x d e ns s vs).2.mem = true := by
  induction ns with
  | nil => intro s vs h; exact h
  | cons n ns ih =>
    intro s vs h
    unfold chainRead; dsimp only
    split
    · split
      · exact wf_snd (wf_engineRead x _ _ h) ‹_›
      · exact ih _ (wf_snd (wf_engineRead x _ _ h) ‹_›)
    · exact ih _ h

theorem wf_chainElements {s : State} (x : Ctx) (d : Nat) (h : Memory.wf s.mem = true) :
    Memory.wf (chainElements x d s).2.mem = true := by
  unfold chainElements
  refine List.foldlRecOn (motive := fun p : _ × State => Memory.wf p.2.mem = true) _ _ h fun p hp e _ => ?_
  have hr := wf_chainRead x d e (List.range (chainNin d)) [] hp
  dsimp only
  split
  · exact wf_snd hr ‹_›
  · have hw (a n v : Nat) := wf_engineWrite x a n v (wf_snd hr ‹_›)
    split <;> exact wf_snd (hw _ _ _) ‹_›

/-! ### Sequences -/

@[simp] theorem mem_setSlot (s : State) (n w v : Nat) : (s.setSlot n w v).mem = s.mem := rfl
@[simp] theorem mem_setSstat (s : State) (n hi lo v : Nat) : (s.setSstat n hi lo v).mem = s.mem := rfl
@[simp] theorem mem_clearSlot (s : State) (n : Nat) : (s.clearSlot n).mem = s.mem := rfl

@[simp] theorem mem_cutDrafts (s : State) (n k : Nat) : (s.cutDrafts n k).mem = s.mem := by
  unfold State.cutDrafts; split <;> rfl

@[simp] theorem mem_cutForced (s : State) (n k : Nat) : (s.cutForced n k).mem = s.mem := by
  rw [State.cutForced, mem_setSstat]
  exact mem_ite (mem_setSlot ..) rfl

@[simp] theorem mem_setNotify (s : State) (r v : Nat) : (s.setNotify r v).mem = s.mem := rfl
@[simp] theorem mem_claim (s : State) (p : Party) (n : Nat) : (s.claim p n).mem = s.mem := rfl

@[simp] theorem mem_slotCheck (s : State) (p : Party) (n : Nat) (running : Bool) : (s.slotCheck p n running).2.mem = s.mem := by
  unfold State.slotCheck; dsimp only; (repeat' split) <;> simp

@[simp] theorem mem_disable (s : State) (n e : Nat) : (s.disable n e).mem = s.mem := by
  unfold State.disable; dsimp only; split <;> simp

@[simp] theorem mem_countToken (s : State) (n x : Nat) : (s.countToken n x).mem = s.mem := by
  simp only [State.countToken]
  rw [mem_fold_state fun t k => mem_ite (mem_setSlot ..) rfl, mem_setSlot, mem_setSlot, mem_setSlot,
    mem_fold_state fun t i => mem_setSlot .., mem_setSlot]

@[simp] theorem mem_fork (s : State) (n e : Nat) (k : Commit) : (s.fork n e k).1.mem = s.mem := by
  unfold State.fork
  split
  · rw [mem_setNotify, mem_setSstat, mem_setSstat, mem_setSstat, mem_cutDrafts]
    exact mem_fold_state (fun _ _ => mem_setSlot ..) _ _
  · rw [mem_setNotify]

@[simp] theorem mem_force (s : State) (n x : Nat) : (s.force n x).mem = s.mem := by
  rw [State.force, mem_setSstat, mem_setSlot]

@[simp] theorem mem_applyOne (s : State) (n x excl : Nat) (k : Commit) : (s.applyOne n x excl k).1.mem = s.mem := by
  unfold State.applyOne; dsimp only
  rw [mem_fold_state (fun _ _ => mem_setNotify ..), mem_fold_state (fun _ _ => mem_force ..)]
  simp only [apply_ite State.mem, apply_ite Prod.fst, mem_setSstat, mem_fork, ite_self]
  rw [mem_fold_state (fun _ _ => mem_disable ..), mem_countToken]

@[simp] theorem mem_applyInjected (n ie : Nat) (ys : List Nat) :
    ∀ (s : State) (k : Commit), (State.applyInjected n ie ys s k).1.mem = s.mem := by
  induction ys with
  | nil => intro s k; rfl
  | cons y ys ih =>
    intro s k
    unfold State.applyInjected; dsimp only
    split <;> simp [ih]

@[simp] theorem mem_applyList (n : Nat) (xs : List Nat) :
    ∀ (s : State) (k : Commit), (State.applyList n xs s k).1.mem = s.mem := by
  induction xs with
  | nil => intro s k; rfl
  | cons x xs ih =>
    intro s k
    unfold State.applyList; dsimp only
    split <;> simp [ih]

@[simp] theorem mem_sqCommit (s : State) (p : Party) (n : Nat) (x : Option Nat) : (s.sqCommit p n x).2.2.mem = s.mem := by
  have ht := mem_slotCheck s p n true
  unfold State.sqCommit
  split
  · rename_i e; rw [e] at ht; dsimp only; split
    · rfl
    · simpa using ht
  · rfl

@[simp] theorem mem_sqProp (s : State) (p : Party) (n x : Nat) : (s.sqProp p n x).2.mem = s.mem := by
  have ht := mem_slotCheck s p n true
  unfold State.sqProp
  split
  · rename_i e
    rw [e] at ht
    rw [apply_ite Prod.snd]
    exact mem_ite rfl (by rw [mem_setSstat, mem_setSstat, mem_setSlot]; exact ht)
  · exact ht

@[simp] theorem mem_sqVerify (s : State) (p : Party) (n a : Nat) : (s.sqVerify p n a).2.mem = s.mem := by
  have ht := mem_slotCheck s p n true
  unfold State.sqVerify
  split
  · rename_i e; rw [e] at ht; simpa using ht
  · exact ht

@[simp] theorem mem_sqNext (s : State) (p : Party) (n : Nat) : (s.sqNext p n).2.2.mem = s.mem := by
  have ht := mem_slotCheck s p n false
  unfold State.sqNext
  split
  · rename_i e; rw [e] at ht; dsimp only at ht ⊢
    split
    · rw [mem_cutForced, mem_fold_state (fun u i => mem_setSlot u n _ _), ht]
    · split
      · split
        · exact ht
        · rfl
      · rfl
      · rfl
  · rfl

@[simp] theorem mem_sqWatch (s : State) (p : Party) (n e m : Nat) : (s.sqWatch p n e m).2.mem = s.mem := by
  have ht := mem_slotCheck s p n false
  unfold State.sqWatch
  split
  · rename_i e; rw [e] at ht; dsimp only at ht ⊢
    split
    · rfl
    · rw [mem_fold_state (fun u w => mem_setSlot u n _ _), ht]
  · exact ht

@[simp] theorem mem_sqOpen (s : State) (p : Party) : (s.sqOpen p).2.2.mem = s.mem := by
  unfold State.sqOpen; dsimp only
  split
  · have ht (n : Nat) : ((List.range 16).foldl (fun t c => t.setSlot n (48 + c) 0xFFFFFFFF) ((s.clearSlot n).setSlot n 0 1)).mem = s.mem := by
      rw [mem_fold_state (fun t c => mem_setSlot t n _ _), mem_setSlot, mem_clearSlot]
    dsimp only; split <;> simp [ht]
  · rfl

@[simp] theorem mem_sqCtl (s : State) (p : Party) (op n k y z : Nat) : (s.sqCtl p op n k y z).2.mem = s.mem := by
  have ht := mem_slotCheck s p n false
  unfold State.sqCtl
  split
  · rename_i e; rw [e] at ht; dsimp only at ht ⊢
    (repeat' split) <;> simp [ht]
  · exact ht

/-! ### Packets and queues -/

theorem wf_matinsPlace {s : State} (part a n need : Nat) (h : Memory.wf s.mem = true) :
    Memory.wf (s.matinsPlace part a n need).2.mem = true := by
  unfold State.matinsPlace; split <;> grind [wf_translate]

theorem canonical_matinsRead {s : State} (part a n : Nat) (h : Memory.wf s.mem = true) : (s.matinsRead part a n).Canonical := by
  have hp := wf_matinsPlace part a n permR h
  unfold State.matinsRead; dsimp only
  split
  · exact wf_snd hp ‹_›
  · trivial
  · have hu := wf_snd hp ‹_›
    refine iteInduction (motive := Answer.Canonical) (fun _ => hu) fun _ => ?_
    split
    · exact hu
    · exact wf_recall _ hu

theorem canonical_matinsWord {s : State} (part a : Nat) (rel add : Bool) (f : Nat → Nat) (h : Memory.wf s.mem = true) :
    (s.matinsWord part a rel add f).Canonical := by
  have hp (need : Nat) := wf_matinsPlace part a 8 need h
  unfold State.matinsWord; dsimp only
  split
  · exact wf_snd (hp _) ‹_›
  · trivial
  · have hu := wf_snd (hp _) ‹_›
    refine iteInduction (motive := Answer.Canonical) (fun _ => hu) fun _ => ?_
    change Memory.wf (State.mem (ite ..)) = true
    split
    · exact wf_put _ _ _ hu
    · exact wf_homeAtomic _ _ _ hu

@[simp] theorem mem_advance (s : State) (q : Nat) : (s.advance q).mem = s.mem := by
  unfold State.advance; split <;> rfl

theorem mem_begin? {y : Entry} {u : State} (s : State) (type : Nat) (hu : s.begin? type = some (y, u)) : u.mem = s.mem := by
  unfold State.begin? at hu; dsimp only at hu
  split at hu
  · split at hu
    · cases hu; rfl
    · cases hu
  · cases hu

@[simp] theorem mem_completePacket (s : State) (q index : Nat) : (s.completePacket q index).mem = s.mem := by
  unfold State.completePacket; dsimp only; (repeat' split) <;> simp

@[simp] theorem mem_pauseQueue (s : State) (q : Nat) : (s.pauseQueue q).mem = s.mem :=
  mem_fold_state (fun _ _ => mem_post ..) _ _

theorem wf_wordFailure {s : State} (q code a : Nat) (h : Memory.wf s.mem = true) : Memory.wf (s.wordFailure q code a).mem = true := by
  simp [State.wordFailure, h, wf_eventRecord]

theorem wf_insertPacket {s : State} (device : Option Nat) (q m : Nat) (h : Memory.wf s.mem = true) :
    Memory.wf (s.insertPacket device q m).2.2.mem = true := by
  unfold State.insertPacket; dsimp only; (repeat' split) <;> simp [h, wf_homeStoreOr]

theorem wf_qputRegister {s : State} (h : Memory.wf s.mem = true) : Memory.wf (s.qputRegister).mem = true := by
  simp [State.qputRegister, h, wf_insertPacket]

/-! ### Launches and placement -/

theorem wf_finishLaunch {s : State} (n : Nat) (h : Memory.wf s.mem = true) : Memory.wf (s.finishLaunch n).mem = true := by
  unfold State.finishLaunch
  split
  · exact h
  · have hf (t : State) (l : Launch) (ht : Memory.wf t.mem = true) :
        Memory.wf (if l.done then t else t.completePacket l.queue l.index).mem = true := by
      split
      · exact ht
      · rwa [mem_completePacket]
    dsimp only
    split
    · exact hf _ _ h
    · have hw (part a : Nat) (f : Nat → Nat) := canonical_matinsWord part a true false f h
      split
      · have hu := (hw ..).ok ‹_›
        exact hf _ _ hu
      · have hu := (hw ..).fail ‹_›
        refine hf _ _ (show Memory.wf (State.mem (ite ..)) = true from ?_)
        split
        · exact wf_wordFailure _ _ _ hu
        · exact wf_eventRecord _ _ _ _ _ hu
      · split
        · rwa [mem_waitOr]
        · rw [mem_waitOr]; exact hf _ _ h

@[simp] theorem mem_addLaunch (s : State) (l : Launch) : (s.addLaunch l).mem = s.mem := rfl

theorem wf_launchReject {s : State} (q : Nat) (e : Entry) (code : Nat) (h : Memory.wf s.mem = true) :
    Memory.wf (s.launchReject q e code).mem = true := by simp [State.launchReject, h, wf_finishLaunch, wf_eventRecord]

@[simp] theorem mem_chooseDeficit (s : State) (cs : List Nat) : (s.chooseDeficit cs).2.mem = s.mem := by
  simp only [State.chooseDeficit]
  exact mem_ite rfl (mem_fold_state (fun _ _ => mem_setQueue ..) _ _)

@[simp] theorem mem_chooseLottery (s : State) (cs : List Nat) : (s.chooseLottery cs).2.mem = s.mem := by
  simp only [State.chooseLottery, apply_ite Prod.snd, ite_self, mem_hubSet]

@[simp] theorem mem_carveCore (s : State) (k d : Nat) (acq : Bool) : (s.carveCore k d acq).mem = s.mem := by
  unfold State.carveCore; dsimp only; (repeat' split) <;> simp

@[simp] theorem mem_placeBlock (n : Nat) (l : Launch) (cluster base : Nat) (s : State) (i : Nat) :
    (State.placeBlock n l cluster base s i).mem = s.mem := by simp [State.placeBlock]

@[simp] theorem mem_placeFresh (s : State) (n cluster base : Nat) : (s.placeFresh n cluster base).mem = s.mem := by
  unfold State.placeFresh; split
  · rfl
  · exact mem_fold_state (fun _ _ => by simp) _ _

@[simp] theorem mem_watchCap (s : State) (q : Nat) : (s.watchCap q).mem = s.mem := by
  unfold State.watchCap; dsimp only; (repeat' split) <;> simp

theorem wf_placeSaved {s : State} (c cluster base : Nat) (h : Memory.wf s.mem = true) :
    Memory.wf (s.placeSaved c cluster base).mem = true := by
  unfold State.placeSaved
  split
  · exact h
  · refine wf_fold_state (fun _ _ => wf_loadImage _) _ (wf_fold_state (fun t b ht => ?_) _ h)
    split
    · simpa using ht
    · exact ht

theorem wf_place {s : State} (q : Nat) (r : Ready) (h : Memory.wf s.mem = true) : Memory.wf (s.place q r).mem = true := by
  unfold State.place; split <;> simp [h, wf_placeSaved]

theorem wf_placeAll (n : Nat) : ∀ {s : State}, Memory.wf s.mem = true → Memory.wf (State.placeAll n s).mem = true := by
  induction n with
  | zero => intro s h; exact h
  | succ n ih =>
    intro s h
    have choice (cs : List (Nat × Ready)) : Memory.wf (if s.hubGet 0x425 0 % 2 = 1 then s.chooseLottery (cs.map (·.1))
        else s.chooseDeficit (cs.map (·.1))).2.mem = true := by
      split
      · rwa [mem_chooseLottery]
      · rwa [mem_chooseDeficit]
    unfold State.placeAll; dsimp only
    split
    · exact h
    · split
      · exact ih (wf_place _ _ (choice _))
      · exact choice _

theorem wf_tableFull {s : State} (h : Memory.wf s.mem = true) : Memory.wf (s.tableFull).mem = true :=
  wf_fold_state (fun _ _ ht => by dsimp only; (repeat' split) <;> simp [ht, wf_eventRecord]) _ h

@[simp] theorem mem_restoreBlock (s : State) (c : Nat) : (s.restoreBlock c).mem = s.mem := by
  unfold State.restoreBlock; dsimp only
  rw [mem_fold_state (fun _ _ => mem_post ..), mem_blockEvent]

@[simp] theorem mem_queueRefused (s : State) (q : Nat) (r : Bool) : (s.queueRefused q r).mem = s.mem := rfl

@[simp] theorem mem_unpauseQueue (s : State) (q : Nat) : (s.unpauseQueue q).mem = s.mem := by
  unfold State.unpauseQueue; dsimp only
  rw [mem_post, mem_advance, mem_fold_state (fun _ _ => mem_post ..), mem_setQueue]

theorem wf_resetQueue {s : State} (q : Nat) (h : Memory.wf s.mem = true) : Memory.wf (s.resetQueue q).mem = true := by
  unfold State.resetQueue; dsimp only
  rw [mem_fold_state (fun _ _ => mem_launchCheck ..)]
  refine wf_fold_state (fun t e ht => ?_) _ (wf_fold_state (fun t e ht => ?_) _ h)
  · split
    · exact wf_launchReject _ _ _ ht
    · rwa [mem_completePacket]
  · exact wf_eventRecord _ _ _ _ _ ht

theorem wf_queueCommand {s : State} (q cmd : Nat) (h : Memory.wf s.mem = true) :
    Memory.wf (s.queueCommand q cmd).mem = true := by
  unfold State.queueCommand; dsimp only
  split
  · split <;> simpa using h
  · split <;> simpa using h
  · split
    · exact h
    · rw [mem_fold_state, mem_pauseQueue]
      · exact h
      · intro t c
        split
        · split
          · rw [mem_post]
          · rfl
        · rfl
  · split
    · exact wf_resetQueue _ h
    · exact h
  · exact h

@[simp] theorem mem_writeQctl (s : State) (q v : Nat) (machine : Bool) : (s.writeQctl q v machine).mem = s.mem := by
  unfold State.writeQctl; dsimp only; (repeat' split) <;> simp

/-! ### Collectives -/

theorem canonical_matinsRange {s : State} (part a n : Nat) (h : Memory.wf s.mem = true) :
    (s.matinsRange part a n).Canonical := by
  unfold State.matinsRange
  refine List.foldlRecOn (motive := Answer.Canonical) _ _ h fun r hr j _ => ?_
  split
  · have hx (a n : Nat) := canonical_matinsRead part a n hr
    split
    · exact (hx ..).ok ‹_›
    · exact hx ..
  · exact hr

theorem canonical_matinsPut {s : State} (part a n v : Nat) (check : Bool) (h : Memory.wf s.mem = true) :
    (s.matinsPut part a n v check).Canonical := by
  unfold State.matinsPut
  refine List.foldlRecOn (motive := Answer.Canonical) _ _ h fun r hr j _ => ?_
  split
  · have hp (a n : Nat) := wf_matinsPlace part a n permW hr
    dsimp only
    split
    · have hu := wf_snd (hp ..) ‹_›
      change Memory.wf (State.mem (ite ..)) = true
      split
      · exact hu
      · exact wf_engineStore _ _ _ hu
    · exact wf_snd (hp ..) ‹_›
    · trivial
  · exact hr

theorem canonical_matinsPuts {s : State} (part : Nat) (ws : List (Nat × Nat × Nat)) (check : Bool) (h : Memory.wf s.mem = true) :
    (s.matinsPuts part ws check).Canonical := by
  unfold State.matinsPuts
  refine List.foldlRecOn (motive := Answer.Canonical) _ _ h fun r hr j _ => ?_
  dsimp only; split
  · exact canonical_matinsPut _ _ _ _ _ hr
  · exact hr

@[simp] theorem mem_setColl (s : State) (n : Nat) (c : Coll) : (s.setColl n c).mem = s.mem := rfl

@[simp] theorem mem_failGroup (s : State) (c : Coll) (code : Nat) : (s.failGroup c code).mem = s.mem := by
  unfold State.failGroup; dsimp only; exact mem_fold_state (fun _ _ => by split <;> rfl) _ _

@[simp] theorem mem_putReady (s : State) (n : Nat) (c : Coll) : (s.putReady n c).mem = s.mem := by
  unfold State.putReady; dsimp only; split <;> simp

@[simp] theorem mem_putColl (s : State) (n : Nat) (c : Coll) : (s.putColl n c).mem = s.mem := rfl

@[simp] theorem mem_offerSlots (s : State) (ls : List Nat) : (s.offerSlots ls).mem = s.mem :=
  mem_fold_state (fun _ _ => mem_fold_state (fun _ _ => mem_post ..) _ _) _ _

@[simp] theorem mem_takeSlots (s : State) (n : Nat) : (s.takeSlots n).mem = s.mem := by
  unfold State.takeSlots; split <;> simp

theorem canonical_colExperts {s : State} (part b i : Nat) (h : Memory.wf s.mem = true) :
    (s.colExperts part b i).1.Canonical := by
  have hr (a n : Nat) := canonical_matinsRange part a n h
  unfold State.colExperts
  split
  · exact h
  · split
    · split
      · exact (hr ..).ok ‹_›
      · exact hr ..
    · split <;> exact h
    · exact h

theorem wf_colCheck {s : State} {k : Checked} (q b : Nat) (h : Memory.wf s.mem = true) (hk : s.colCheck q b = some k) :
    Memory.wf k.next.mem = true := by
  unfold State.colCheck at hk; dsimp only at hk
  split at hk
  · cases hk; exact h
  · split at hk
    · cases hk; exact h
    · rename_i i _
      have hu := canonical_colExperts (s.qpart q) b i h
      split at hk
      · cases hk; exact h
      · split at hk
        · cases hk; exact h
        · split at hk
          · cases hk; exact h
          · split at hk
            · cases hk
            · rename_i e
              rw [e] at hu; cases hk; exact hu
            · rename_i e
              rw [e] at hu; cases hk; exact hu

@[simp] theorem mem_learnBlock (s : State) (n rank b : Nat) : (s.learnBlock n rank b).mem = s.mem := by
  unfold State.learnBlock; dsimp only; (repeat' split) <;> simp

@[simp] theorem mem_joinColl (s : State) (n rank b : Nat) : (s.joinColl n rank b).mem = s.mem := by
  unfold State.joinColl; (repeat' split) <;> simp [mem_fold_state]

@[simp] theorem mem_postTimer (s : State) (n : Nat) (c : Coll) (step : Nat) : (s.postTimer n c step).mem = s.mem := by
  unfold State.postTimer; split <;> rfl

@[simp] theorem mem_openStep (s : State) (n : Nat) (c : Coll) : (s.openStep n c).mem = s.mem := by
  unfold State.openStep; dsimp only; (repeat' split) <;> simp

@[simp] theorem mem_startSchedule (s : State) (n : Nat) : (s.startSchedule n).mem = s.mem := by
  unfold State.startSchedule; (repeat' split) <;> simp

@[simp] theorem mem_closeStep (s : State) (n : Nat) : (s.closeStep n).mem = s.mem := by
  unfold State.closeStep; dsimp only; (repeat' split) <;> simp

@[simp] theorem mem_receive (s : State) (n : Nat) (c : Coll) (vs : List (Nat × Nat × Nat)) : (s.receive n c vs).mem = s.mem := by
  simp [State.receive]

@[simp] theorem mem_startSteps (s : State) (n : Nat) (old : List (Nat × Coll)) : (s.startSteps n old).mem = s.mem := by
  unfold State.startSteps; dsimp only
  split
  · rfl
  · split
    · rw [mem_postTimer, mem_post]
    · rw [mem_fold_state (fun _ _ => mem_postTimer ..), mem_fold_state (fun _ _ => mem_post ..),
        mem_fold_state (fun _ _ => by rw [mem_post, mem_post]), mem_post]

theorem canonical_combineInput {s : State} (part b : Nat) (experts : List Nat) (h : Memory.wf s.mem = true) :
    (s.combineInput part b experts).Canonical := by
  unfold State.combineInput; dsimp only
  generalize e : List.foldl _ _ _ = r
  have hr : r.1.Canonical := by
    rw [← e]
    refine List.foldlRecOn (motive := fun r : Answer × Nat => r.1.Canonical) _ _ h fun r hr j _ => ?_
    split
    · rename_i ht
      rw [ht] at hr
      have hc (a n : Nat) := canonical_matinsRead part a n hr
      split
      · have hx (a n : Nat) := canonical_matinsRange part a n ((hc ..).ok ‹_›)
        split
        · exact (hx ..).ok ‹_›
        · exact hx ..
      · exact hc ..
    · exact hr
  split
  · exact hr
  · exact hr

theorem canonical_chunk {s : State} (d : Coll) (off left : Nat) (h : Memory.wf s.mem = true) :
    (s.chunk d off left).2.Canonical := by
  have hi (part b : Nat) (es : List Nat) := canonical_combineInput part b es h
  unfold State.chunk; dsimp only
  split
  · split
    · exact (hi ..).ok ‹_›
    · exact hi ..
  · split <;> exact canonical_matinsRange _ _ _ h

@[simp] theorem mem_stage (s : State) (n : Nat) (c : Coll) (k len v : Nat) : (s.stage n c k len v).mem = s.mem := by
  simp [State.stage]

theorem mem_mayLeave {y : Bool} {u : State} (s : State) (n : Nat) (c : Coll) (i : Nat) (hu : s.mayLeave n c i = some (y, u)) :
    u.mem = s.mem := by
  conv at hu => lhs; arg 0; delta State.mayLeave
  split at hu
  · split at hu
    · cases hu; rfl
    · split at hu
      · cases hu
      · split at hu
        · cases hu; rfl
        · cases hu
          exact mem_ite rfl (by rw [mem_post, mem_putColl])
  · cases hu

@[simp] theorem mem_sendStep (s : State) (n : Nat) (c : Coll) (i off : Nat) : (s.sendStep n c i off).mem = s.mem := by
  obtain ⟨leave, e⟩ : ∃ r, r = s.mayLeave n c i := ⟨_, rfl⟩
  have hl {y : Bool} {u : State} (h : leave = some (y, u)) : u.mem = s.mem := mem_mayLeave s n c i (e ▸ h)
  conv_lhs => arg 1; arg 0; delta State.sendStep
  rw [← e]
  dsimp only
  split
  · exact mem_failGroup ..
  · exact (mem_later ..).trans (hl rfl)
  · have ht (m : Nat) (d : Coll) : (if off < m then State.putReady _ n d else _).mem = s.mem :=
      mem_ite ((mem_putReady ..).trans (hl rfl)) (hl rfl)
    exact mem_ite (ht ..) ((mem_later ..).trans (ht ..))

@[simp] theorem mem_chunkStep (s : State) (n : Nat) (c : Coll) (t : Nat) : (s.chunkStep n c t).mem = s.mem := by
  obtain ⟨leave, e⟩ : ∃ f, f = s.mayLeave n c := ⟨_, rfl⟩
  have hl {i : Nat} {y : Bool} {u : State} (h : leave i = some (y, u)) : u.mem = s.mem := mem_mayLeave s n c i (e ▸ h)
  conv_lhs => arg 1; arg 0; delta State.chunkStep
  rw [← e]
  dsimp only
  refine mem_ite rfl ?_
  split
  · rfl
  · refine mem_ite (by rw [mem_later, mem_setColl]) ?_
    split
    · exact mem_ite (mem_later ..) (by rw [mem_closeStep, mem_receive, mem_setColl])
    · split
      · exact mem_failGroup ..
      · rw [mem_later, hl ‹_›]
      · have hu := hl ‹_›
        exact mem_ite (by rw [mem_closeStep, mem_setColl, hu]) (by rw [mem_later, mem_setColl, hu])

theorem wf_localStep {s : State} (n : Nat) (c d : Coll) (off : Nat) (h : Memory.wf s.mem = true) :
    Memory.wf (s.localStep n c d off).mem = true := by
  unfold State.localStep; dsimp only
  split
  · rwa [mem_later]
  · split
    · exact h
    · split
      · rwa [mem_startSchedule, mem_putReady]
      · have hr (k : Nat) := canonical_chunk d off k h
        split
        · rw [mem_failGroup]; exact (hr _).fail ‹_›
        · rwa [mem_later]
        · have hu := (hr _).ok ‹_›
          rwa [mem_post, mem_stage]

@[simp] theorem mem_foreignStep (s : State) (n : Nat) (c : Coll) (k t : Nat) : (s.foreignStep n c k t).mem = s.mem := by
  unfold State.foreignStep; dsimp only; (repeat' split) <;> simp

theorem canonical_colResult {s : State} (c : Coll) (check : Bool) (h : Memory.wf s.mem = true) :
    (s.colResult c check).Canonical := by
  unfold State.colResult
  split
  · exact h
  · refine canonical_matinsPuts _ _ _ ?_
    split <;> exact h

theorem wf_scramble {s : State} (c : Coll) (h : Memory.wf s.mem = true) : Memory.wf (s.scramble c).mem = true := by
  unfold State.scramble
  split
  · exact h
  · refine wf_fold_state (fun t e ht => wf_fold_state (fun t j ht => ?_) _ ht) _ h
    have hp (a n v : Nat) := canonical_matinsPut (t.qpart c.queue) a n v false ht
    split
    · have hu := (hp ..).ok ‹_›
      exact hu
    · exact ht

theorem wf_reportBarrier {s : State} (c : Nat) (x : Ctx) (i code : Nat) (h : Memory.wf s.mem = true) :
    Memory.wf (s.reportBarrier c x i code).mem = true := by
  have ht : Memory.wf (State.mem (if (!x.placed) = true then
      { s with mem := writeMem s.mem (scratchKey c (16 * i)) 16 (s.getSave x (x.saveAt 4 + 16 * i) 16) } else s)) = true := by
    split
    · exact wf_writeMem _ _ _ h
    · exact h
  unfold State.reportBarrier; dsimp only
  generalize (if (!x.placed) = true then _ else s) = t at ht ⊢
  have hu : Memory.wf (State.mem (if code = 0 then t.barrierArrive c i 1 0 else t.failBarrier c i code 0)) = true := by
    split
    · exact wf_barrierArrive _ _ _ _ ht
    · exact wf_failBarrier _ _ _ _ ht
  split
  · exact wf_putSave _ _ _ _ hu
  · exact hu

theorem wf_colReport {s u : State} (c : Coll) (code : Nat) (h : Memory.wf s.mem = true) (hu : s.colReport c code = .ok u) :
    Memory.wf u.mem = true := by
  have hw (part a : Nat) (f : Nat → Nat) := canonical_matinsWord part a true false f h
  unfold State.colReport at hu; dsimp only at hu
  split at hu
  · split at hu
    · cases hu; exact h
    · split at hu
      · cases hu; exact (hw ..).ok ‹_›
      · cases hu; exact (hw ..).fail ‹_›
      · cases hu
  · split at hu
    · cases hu; split
      · exact wf_reportBarrier _ _ _ _ h
      · exact h
    · cases hu; exact h

@[simp] theorem mem_endColl (s : State) (n : Nat) (c : Coll) : (s.endColl n c).mem = s.mem := by simp [State.endColl]

theorem wf_finishColl {s : State} (n : Nat) (c : Coll) (code : Nat) (h : Memory.wf s.mem = true) :
    Memory.wf (s.finishColl n c code).mem = true := by
  unfold State.finishColl
  split
  · rw [mem_endColl]; exact wf_colReport _ _ h ‹_›
  · rwa [mem_waitOr, mem_setColl]

theorem canonical_writeResults {s : State} (c : Coll) (h : Memory.wf s.mem = true) : (s.writeResults c).Canonical := by
  have all (check : Bool) (t : State) (ht : Memory.wf t.mem = true) : ((s.mates c).foldl (fun r (_, (d : Coll)) => match r with
      | .ok _ t => t.colResult d check
      | k => k) (Answer.ok 0 t)).Canonical := by
    refine List.foldlRecOn (motive := Answer.Canonical) _ _ ht fun r hr e _ => ?_
    dsimp only; split
    · exact canonical_colResult _ _ hr
    · exact hr
  have first := all true s h
  unfold State.writeResults; dsimp only
  split
  · have second := all false _ (first.ok ‹_›)
    split
    · change Memory.wf (State.mem (List.foldl ..)) = true
      rw [mem_fold_state (fun _ _ => mem_setColl ..)]
      exact second.ok ‹_›
    · exact second
  · exact first

end Sys2Proof.Machine
end

section
/-! PROOFS. Proofs/CanonicalRegisters.lean: the same of writes to the registers of the hub, of links and of service. -/

namespace Sys2Proof.Machine

/-! ### Hub registers -/

@[simp] theorem mem_regPut (s : State) (n v : Nat) : (s.regPut n v).mem = s.mem := rfl
@[simp] theorem mem_stagePut (s : State) (n v : Nat) : (s.stagePut n v).mem = s.mem := rfl
@[simp] theorem mem_unstage (s : State) (n sel : Nat) : (s.unstage n sel).mem = s.mem := rfl
@[simp] theorem mem_pairPut (s : State) (n x : Nat) : (s.pairPut n x).mem = s.mem := by simp [State.pairPut]
@[simp] theorem mem_refusal (s : State) (n : Nat) (r : Bool) : (s.refusal n r).mem = s.mem := rfl

theorem wf_unless {s : State} {stat : Nat} {refused : Bool} {f : State → State} (h : Memory.wf s.mem = true)
    (hf : Memory.wf (f s).mem = true) : Memory.wf (s.unless stat refused f).mem = true := by
  unfold State.unless
  split
  · exact h
  · exact hf

theorem mem_unless {s : State} {stat : Nat} {refused : Bool} {f : State → State} (hf : (f s).mem = s.mem) :
    (s.unless stat refused f).mem = s.mem := by
  unfold State.unless
  split
  · rfl
  · exact hf

@[simp] theorem mem_writeSpsize (s : State) (v : Nat) : (s.writeSpsize v).mem = s.mem := by
  unfold State.writeSpsize; dsimp only; split <;> simp

@[simp] theorem mem_writeVrange (s : State) (n v : Nat) : (s.writeVrange n v).mem = s.mem := by
  unfold State.writeVrange; dsimp only; split <;> simp

@[simp] theorem mem_vop (s : State) (op : Nat) : (s.vop op).mem = s.mem := by
  unfold State.vop; dsimp only; (repeat' split) <;> simp

@[simp] theorem mem_writeVdata (s : State) (v : Nat) : (s.writeVdata v).mem = s.mem := by
  unfold State.writeVdata; dsimp only; (repeat' split) <;> simp

@[simp] theorem mem_writeVesper (s : State) (n v : Nat) : (s.writeVesper n v).mem = s.mem := by
  simp [State.writeVesper, apply_ite State.mem]

@[simp] theorem mem_writeCommons (s : State) (n v : Nat) : (s.writeCommons n v).mem = s.mem := by
  unfold State.writeCommons; dsimp only
  exact mem_ite rfl (mem_ite (mem_unless rfl) (mem_ite rfl (mem_ite (mem_unless rfl) rfl)))

@[simp] theorem mem_writeGroup (s : State) : s.writeGroup.mem = s.mem := by
  simp only [State.writeGroup, apply_ite State.mem, ite_self]

@[simp] theorem mem_writeGroupReg (s : State) (n v : Nat) : (s.writeGroupReg n v).mem = s.mem := by
  unfold State.writeGroupReg; (repeat' split) <;> simp

@[simp] theorem mem_writePmask (s : State) (n v : Nat) : (s.writePmask n v).mem = s.mem := mem_unless (mem_regPut ..)

@[simp] theorem mem_writeLseed (s : State) (n v : Nat) : (s.writeLseed n v).mem = s.mem := by
  unfold State.writeLseed; dsimp only
  split
  · simp
  · exact mem_unless (mem_pairPut ..)

@[simp] theorem mem_writeEvsize (s : State) (v : Nat) : (s.writeEvsize v).mem = s.mem := mem_unless (mem_hubSet ..)

theorem wf_writeQcap {s : State} (q v : Nat) (h : Memory.wf s.mem = true) : Memory.wf (s.writeQcap q v).mem = true := by
  unfold State.writeQcap; dsimp only; split <;> simp [h, wf_enterEpoch, wf_noteCap]

theorem wf_writeQueue {s : State} (n v : Nat) (machine : Bool) (h : Memory.wf s.mem = true) :
    Memory.wf (s.writeQueue n v machine).mem = true := by
  have keep {t : State} (e : t.mem = s.mem) : Memory.wf t.mem = true := by rwa [e]
  unfold State.writeQueue; dsimp only
  refine wf_ite (keep (mem_hubSet ..)) (wf_ite (keep (mem_writeQctl ..)) (wf_ite (keep (mem_ite ?_ ?_)) (wf_ite (keep (mem_regPut ..))
    (wf_ite (wf_writeQcap _ _ h) (wf_ite (keep (mem_regPut ..)) (wf_ite (wf_queueCommand _ _ h) (wf_ite (wf_qputRegister h)
    (wf_ite (keep (mem_hubSet ..)) (wf_ite (keep (mem_writePmask ..)) (wf_ite (wf_ite h (keep (mem_hubSet ..)))
    (wf_ite (keep (mem_writeLseed ..)) (wf_ite (keep (mem_hubSet ..)) (wf_ite (keep (mem_writeEvsize ..)) h)))))))))))))
  · rw [mem_queueRefused]
  · rw [mem_regPut, mem_queueRefused]

@[simp] theorem mem_writeRoot (s : State) (n v : Nat) : (s.writeRoot n v).mem = s.mem := by
  unfold State.writeRoot; dsimp only
  exact mem_ite (mem_hubSet ..) (mem_ite (mem_hubSet ..) (mem_ite (mem_unless (mem_regPut ..))
    (mem_ite (by rw [mem_refusal, mem_stagePut]) (mem_ite (mem_unless (mem_pairPut ..)) rfl))))

theorem wf_writeDomself {s : State} (v : Nat) (h : Memory.wf s.mem = true) : Memory.wf (s.writeDomself v).mem = true := by
  unfold State.writeDomself
  refine wf_unless h ?_
  rw [mem_hubSet]; exact wf_swapSlices _ _ h

@[simp] theorem mem_writeChmap (s : State) (v : Nat) : (s.writeChmap v).mem = s.mem :=
  mem_unless (mem_ite (mem_post ..) (mem_hubSet ..))

theorem wf_writeDmpkg {s : State} (v : Nat) (h : Memory.wf s.mem = true) : Memory.wf (s.writeDmpkg v).mem = true := by
  have hu (i x : Nat) : Memory.wf (s.hubSet 0x605 i x).mem = true := by rwa [mem_hubSet]
  refine wf_unless h (wf_ite ?_ (hu ..))
  rw [mem_retryWaiting]; exact wf_freshSlice _ (hu ..)

theorem wf_writeDomain {s : State} (n v : Nat) (machine : Bool) (h : Memory.wf s.mem = true) :
    Memory.wf (s.writeDomain n v machine).mem = true := by
  have keep {t : State} (e : t.mem = s.mem) : Memory.wf t.mem = true := by rwa [e]
  unfold State.writeDomain
  exact wf_ite h (wf_ite (wf_writeDomself _ h) (wf_ite (keep (by rw [mem_refusal, mem_hubSet])) (wf_ite (keep (mem_writeChmap ..))
    (wf_ite (keep (mem_hubSet ..)) (wf_ite (wf_writeDmpkg _ h) h)))))

@[simp] theorem mem_trimPmask (s : State) (part : Nat) : (s.trimPmask part).mem = s.mem := rfl

@[simp] theorem mem_setPartState (s : State) (p st : Nat) : (s.setPartState p st).mem = s.mem := by
  rw [State.setPartState, mem_hubSet]

theorem wf_sealPart {s : State} (p : Nat) (h : Memory.wf s.mem = true) : Memory.wf (s.sealPart p).mem = true := by
  unfold State.sealPart
  exact wf_ite (by rwa [mem_refuseAt]) (by rw [mem_refuseAt, mem_setPartState]; exact wf_flushTrace _ h)

@[simp] theorem mem_dissolvePart (s : State) (p : Nat) : (s.dissolvePart p).mem = s.mem := by
  unfold State.dissolvePart
  exact mem_ite (mem_refuseAt ..) (by rw [mem_post, mem_refuseAt, mem_setPartState])

@[simp] theorem mem_discardPointers (s : State) (p : Pointer → Bool) : (s.discardPointers p).mem = s.mem := rfl

/-- The memory of a dissolved partition is its window, cleared, and the trace that its flush wrote. -/
theorem wf_dissolve {s : State} (p : Nat) (h : Memory.wf s.mem = true) : Memory.wf (s.dissolve p).mem = true := by
  simp only [State.dissolve]
  rw [mem_trimPmask]
  simp only []
  rw [mem_fold_state (fun _ _ => mem_hubSet ..), mem_fold_state fun t w => mem_fold_state (fun _ _ => by rw [mem_unstage, mem_hubSet]) _ _,
    mem_unstage, mem_hubSet, mem_hubSet, mem_hubSet]
  exact wf_fold_state (fun _ _ => wf_clearWindow _ _) _ (wf_flushTrace _ h)

theorem wf_writePart {s : State} (n v : Nat) (h : Memory.wf s.mem = true) : Memory.wf (s.writePart n v).mem = true := by
  have keep {t : State} (e : t.mem = s.mem) : Memory.wf t.mem = true := by rwa [e]
  have done {t : State} (e : t.mem = s.mem) : (t.refusal 0x705 false).mem = s.mem := by rw [mem_refusal, e]
  unfold State.writePart; dsimp only
  refine wf_ite (wf_ite (wf_sealPart _ h) (keep (mem_ite (mem_dissolvePart ..) (mem_refusal ..)))) (keep ?_)
  exact mem_ite (mem_refusal ..) (mem_ite (done (mem_hubSet ..)) (mem_ite (mem_refusal ..) (mem_ite (done (mem_regPut ..))
    (mem_ite (done (mem_stagePut ..)) (mem_ite (done (by rw [mem_trimPmask, mem_pairPut])) (mem_ite (done (mem_regPut ..))
    (mem_ite (mem_unless (mem_pairPut ..)) (mem_ite (mem_unless (mem_pairPut ..)) (mem_ite (done rfl) (done rfl))))))))))

theorem wf_writeTrace {s : State} (n v : Nat) (h : Memory.wf s.mem = true) : Memory.wf (s.writeTrace n v).mem = true := by
  have keep {t : State} (e : t.mem = s.mem) : Memory.wf t.mem = true := by rwa [e]
  unfold State.writeTrace; dsimp only
  exact wf_ite (wf_writeTrctl _ _ h) (keep (mem_ite (mem_refuseAt ..) (mem_ite (mem_stagePut ..) (mem_ite (mem_pairPut ..)
    (mem_ite (mem_regPut ..) (mem_ite (mem_hubSet ..) (mem_ite (mem_regPut ..) (mem_ite (mem_stagePut ..) (mem_ite (mem_pairPut ..)
    (mem_ite (mem_hubSet ..) (mem_ite (mem_regPut ..) rfl)))))))))))

theorem wf_writePartition {s : State} (n v : Nat) (machine : Bool) (h : Memory.wf s.mem = true) :
    Memory.wf (s.writePartition n v machine).mem = true := by
  unfold State.writePartition
  exact wf_ite (by rwa [mem_hubSet]) (wf_ite (wf_ite (wf_writePart _ _ h) h) (wf_ite (by rwa [mem_refusal]) (wf_writeTrace _ _ h)))

theorem wf_writeLow {s : State} (n v : Nat) (machine : Bool) (h : Memory.wf s.mem = true) :
    Memory.wf (s.writeLow n v machine).mem = true := by
  have keep {t : State} (e : t.mem = s.mem) : Memory.wf t.mem = true := by rwa [e]
  unfold State.writeLow
  exact wf_ite (keep (mem_hubSet ..)) (wf_ite (wf_ctxCommand _ h) (wf_ite (keep (mem_hubSet ..)) (wf_ite (keep (mem_regPut ..))
    (wf_ite (keep (mem_writeSpsize ..)) (wf_ite (keep (mem_writeVesper ..)) (wf_ite (keep (mem_writeCommons ..))
    (wf_ite (wf_ite (keep (mem_writeGroupReg ..)) h) (wf_ite (wf_writeQueue _ _ _ h) (wf_ite (keep (mem_writeRoot ..))
    (wf_ite (wf_writeDomain _ _ _ h) (wf_ite (wf_writePartition _ _ _ h) h)))))))))))

/-! ### Links and peers -/

@[simp] theorem mem_loseOps (s : State) (p : Nat → Nat → Bool) : (s.loseOps p).mem = s.mem := by
  refine mem_fold_state (fun t e => ?_) _ _
  dsimp only; split
  · exact mem_fold_state (fun _ _ => mem_post ..) _ _
  · split
    · rw [mem_post]
    · rfl
  · split
    · rw [mem_post]
    · rfl
  · rfl

@[simp] theorem mem_linkDown (s : State) (l : Nat) : (s.linkDown l).mem = s.mem := by
  simp [State.linkDown, mem_fold_state, apply_ite State.mem]

theorem wf_translateRemote {s : State} (tag va need : Nat) (h : Memory.wf s.mem = true) :
    Memory.wf (s.translateRemote tag va need).2.mem = true := by
  have hd : Memory.wf (s.discardTlb fun y => y.covers hubCache tag true va).mem = true := by rwa [mem_discardTlb]
  generalize e : (s.discardTlb fun y => y.covers hubCache tag true va) = u at hd
  have hw (die agent part root va : Nat) (k : Option Nat) := wf_walkTables die agent part true root va k hd
  unfold State.translateRemote; dsimp only
  rw [e]
  have miss : Memory.wf (match u.walkTables 4 (u.dieAgent 0) tag true (u.remoteRoot tag) va (some (256 + 4 * (va / 2 ^ 16) + 2)) with
      | (.error .poison, w) => ((.error 4, w) : Except Nat Nat × State)
      | (.error _, w) => (.error 2, w)
      | (.ok (leaf, lvl), w) =>
        if leaf &&& need = need then
          (.ok (leafAddr true leaf lvl va), w.cacheXlat ⟨hubCache, tag, true, va / 2 ^ pageBits lvl, lvl, leaf⟩)
        else (.error 2, { w with walkers := u.walkers })).2.mem = true := by
    split
    · exact wf_snd (hw ..) ‹_›
    · exact wf_snd (hw ..) ‹_›
    · have hv := wf_snd (hw ..) ‹_›
      split
      · rwa [mem_cacheXlat]
      · exact hv
  split
  · split
    · exact h
    · exact miss
  · exact miss

theorem wf_remoteAddr {s : State} (tag a n need : Nat) (h : Memory.wf s.mem = true) :
    Memory.wf (s.remoteAddr tag a n need).2.mem = true := by
  unfold State.remoteAddr; split <;> grind [wf_translateRemote]

theorem wf_remoteWrite {s : State} (tag a n v : Nat) (h : Memory.wf s.mem = true) :
    Memory.wf (s.remoteWrite tag a n v).mem = true := by
  unfold State.remoteWrite; split <;> grind [wf_engineStore, wf_remoteAddr]

theorem wf_remoteUpdate {s : State} (tag a n : Nat) (f : Nat → Nat) (h : Memory.wf s.mem = true) :
    Memory.wf (s.remoteUpdate tag a n f).mem = true := by
  unfold State.remoteUpdate; split <;> grind [wf_engineStore, wf_remoteAddr]

theorem wf_remoteLane {s : State} (as : List Nat) (h : Memory.wf s.mem = true) : Memory.wf (s.remoteLane as).mem = true := by
  have hd (b : Bool) (cap k l : Nat) (v : Word) (tag sl nm rel : Nat) := canonical_decideWrite b cap k l v tag sl nm rel h
  unfold State.remoteLane; dsimp only
  split
  · rwa [mem_later]
  · split
    · split
      · exact (hd ..).decided ‹_›
      · exact h
      · rwa [mem_wait]
    · split
      · exact (hd ..).decided ‹_›
      · exact h
      · rwa [mem_wait]

@[simp] theorem mem_ackArrive (s : State) (l id k code data : Nat) : (s.ackArrive l id k code data).mem = s.mem := by
  unfold State.ackArrive; dsimp only; (repeat' split) <;> simp

@[simp] theorem mem_lostFlit (s : State) (kind : Nat) (as : List Nat) : (s.lostFlit kind as).mem = s.mem := by
  unfold State.lostFlit; dsimp only
  split
  · exact mem_fold_state (fun _ _ => mem_failGroup ..) _ _
  · refine mem_fold_state (fun t e => ?_) _ _
    split
    · split
      · exact mem_fold_state (fun _ _ => mem_post ..) _ _
      · rfl
    · split
      · rw [mem_post]
      · rfl
    · simp only [apply_ite State.mem, mem_post, ite_self]
    · rfl

theorem wf_consumeFlit {s : State} (l kind : Nat) (as : List Nat) (h : Memory.wf s.mem = true) :
    Memory.wf (s.consumeFlit l kind as).mem = true := by
  unfold State.consumeFlit; dsimp only
  split
  · split <;> simpa using h
  · exact wf_remoteWrite _ _ _ _ h
  · exact wf_remoteUpdate _ _ _ _ h
  · exact wf_remoteUpdate _ _ _ _ h
  · exact wf_remoteLane _ h
  · simpa using h
  · simpa using h
  · simpa using h
  · simpa using h
  · exact wf_remoteAddr _ _ _ _ h
  · exact h
  · simpa using h
  · exact h

theorem mem_sendFlit {u : State} (s : State) (src dst hop kind : Nat) (as : List Nat) (hu : s.sendFlit src dst hop kind as = some u) :
    u.mem = s.mem := by
  unfold State.sendFlit at hu
  split at hu
  · split at hu
    · cases hu; rfl
    · cases hu
  · cases hu

@[simp] theorem mem_forwardFlit (s : State) (src dst hop kind : Nat) (as : List Nat) :
    (s.forwardFlit src dst hop kind as).mem = s.mem := by
  unfold State.forwardFlit; dsimp only
  split
  · rename_i t e
    split at e
    · cases e
    · exact mem_sendFlit _ _ _ _ _ _ e
  · split
    · rfl
    · split
      · exact mem_lostFlit ..
      · cases e : s.sendFlit s.pkg src 1 lostKind (kind :: as) with
        | none => rfl
        | some t => exact mem_sendFlit _ _ _ _ _ _ e

@[simp] theorem mem_loseHome (p : Nat) (s : State) (h : Nat) : (State.loseHome p s h).mem = s.mem := by
  unfold State.loseHome; dsimp only
  split
  · simp only [apply_ite State.mem, mem_post, ite_self]
    exact mem_fold_state (fun _ _ => mem_post ..) _ _
  · rfl

theorem wf_repairLine {s : State} (n : Nat) (x : CLine) (h : Memory.wf s.mem = true) :
    Memory.wf (s.repairLine n x).mem = true := by
  unfold State.repairLine; dsimp only
  rw [mem_setLine]
  split
  · exact wf_setHomeData _ _ h
  · split
    · exact wf_setHomeData _ _ h
    · exact h

theorem wf_repairLists {s : State} (h : Memory.wf s.mem = true) : Memory.wf (s.repairLists).mem = true :=
  wf_fold_state (fun _ _ ht => by dsimp only; split <;> simp [ht, wf_repairLine]) _ h

@[simp] theorem mem_dropReporters (s : State) : (s.dropReporters).mem = s.mem := by
  unfold State.dropReporters; dsimp only; exact mem_fold_state (fun _ _ => by split <;> rfl) _ _

theorem wf_repair {s : State} (h : Memory.wf s.mem = true) : Memory.wf (s.repair).mem = true := by
  simp [State.repair, h, wf_repairLists]

theorem wf_declare {s : State} (p : Nat) (h : Memory.wf s.mem = true) : Memory.wf (s.declare p).mem = true := by
  unfold State.declare; dsimp only
  have ht (t : State) (g : State → Nat × Coll → State) (hg : ∀ t e, (g t e).mem = t.mem) (homes : List Nat) (cs : List (Nat × Coll)) :
      (homes.foldl (State.loseHome p) (cs.foldl g t)).mem = t.mem := by
    rw [mem_fold_state (mem_loseHome p), mem_fold_state hg]
  refine iteInduction (motive := fun t : State => Memory.wf t.mem = true) (fun _ => ?_) (fun _ => ?_)
  · rw [mem_post, ht, mem_loseOps]
    · exact h
    · intro t e; split
      · exact mem_failGroup ..
      · rfl
  · refine wf_repair ?_
    rw [ht, mem_loseOps]
    · exact h
    · intro t e; split
      · exact mem_failGroup ..
      · rfl

theorem wf_admitPkg {s : State} (p : Nat) (h : Memory.wf s.mem = true) : Memory.wf (s.admitPkg p).mem = true := by
  unfold State.admitPkg; dsimp only
  rw [mem_retryWaiting]
  exact wf_fold_state (fun _ _ => wf_freshSlice _) _ h

theorem wf_peerCommand {s : State} (v : Nat) (h : Memory.wf s.mem = true) : Memory.wf (s.peerCommand v).mem = true := by
  unfold State.peerCommand; dsimp only
  split
  · exact wf_declare _ h
  · exact wf_unless h (wf_admitPkg _ h)
  · exact h

/-! ### Bring-up and service -/

@[simp] theorem mem_setSvc (s : State) (hi lo v : Nat) : (s.setSvc hi lo v).mem = s.mem := rfl

/-- The lines that an access needs are recalled before it. -/
theorem wf_recalled {s : State} {off n : Nat} {e : Instr} {args : List Nat} {f : State → State} (h : Memory.wf s.mem = true)
    (hf : ∀ t, Memory.wf t.mem = true → Memory.wf (f t).mem = true) : Memory.wf (s.recalled off n e args f).mem = true := by
  have ht : Memory.wf (s.taken e).mem = true := by rwa [mem_taken]
  unfold State.recalled; dsimp only
  split
  · rw [mem_settled]; exact hf _ (wf_fold_state (fun t l => wf_recall l) _ ht)
  · rwa [mem_waitLine]

theorem wf_verify {s : State} (h : Memory.wf s.mem = true) : Memory.wf s.verify.mem = true := by
  unfold State.verify; dsimp only
  refine wf_unless h (wf_recalled h fun t ht => ?_)
  split <;> simpa using ht

@[simp] theorem mem_train (s : State) : s.train.mem = s.mem := by
  refine mem_unless ?_
  split
  · rfl
  · rw [mem_post]

@[simp] theorem mem_leaveDawn (s : State) : s.leaveDawn.mem = s.mem :=
  mem_unless (by rw [mem_hubSet, mem_setSvc])

theorem wf_serviceCommand {s : State} (v : Nat) (h : Memory.wf s.mem = true) : Memory.wf (s.serviceCommand v).mem = true := by
  unfold State.serviceCommand
  split
  · exact wf_verify h
  · simpa using h
  · simpa using h
  · exact h

@[simp] theorem mem_writePkgnum (s : State) (v : Nat) : (s.writePkgnum v).mem = s.mem := mem_unless (mem_hubSet ..)
@[simp] theorem mem_writeFeatacc (s : State) (n v : Nat) : (s.writeFeatacc n v).mem = s.mem := mem_unless (mem_hubSet ..)
@[simp] theorem mem_writePwrcap (s : State) (v : Nat) : (s.writePwrcap v).mem = s.mem := rfl

theorem wf_writeHigh {s : State} (n v : Nat) (h : Memory.wf s.mem = true) : Memory.wf (s.writeHigh n v).mem = true := by
  have keep {t : State} (e : t.mem = s.mem) : Memory.wf t.mem = true := by rwa [e]
  have done {t : State} (e : t.mem = s.mem) : Memory.wf (t.refusal 0x802 false).mem = true := by rwa [mem_refusal, e]
  unfold State.writeHigh; dsimp only
  exact wf_ite (wf_serviceCommand _ h) (wf_ite (done (mem_stagePut ..)) (wf_ite (done (mem_pairPut ..)) (wf_ite (done (mem_hubSet ..))
    (wf_ite (keep (mem_writePkgnum ..)) (wf_ite (keep (mem_writeFeatacc ..)) (wf_ite (done (mem_hubSet ..))
    (wf_ite (done (mem_ite (mem_hubSet ..) rfl)) (wf_ite (done (mem_hubSet ..)) (wf_ite (wf_peerCommand _ h) (wf_ite (done (mem_hubSet ..))
    (wf_ite (done (mem_regPut ..)) (wf_ite (keep (mem_writePwrcap ..)) (wf_ite (done rfl) h)))))))))))))

theorem wf_regWrite {s : State} (n v : Nat) (machine : Bool) (h : Memory.wf s.mem = true) :
    Memory.wf (s.regWrite n v machine).mem = true := by
  unfold State.regWrite; (repeat' split) <;> simp [h, wf_writeHigh, wf_writeLow]

/-! ### Wave registers -/

@[simp] theorem mem_writeWaveReg (s : State) (c w n y : Nat) : (s.writeWaveReg c w n y).mem = s.mem := by
  unfold State.writeWaveReg; (repeat' split) <;> rfl

end Sys2Proof.Machine
end

section
/-! PROOFS. Proofs/CanonicalInstructions.lean: every instruction keeps the canonical form of memory, one lemma per shape of
instruction. -/

namespace Sys2Proof.Machine

/-! ### Outcomes -/

/-- The memory of the state that an outcome answers, if it answers one, is in canonical form. -/
def NextCanonical (o : Host.Outcome State Fault Refusal) : Prop := ∀ t, o = .next t → Memory.wf t.mem = true

theorem nextCanonical_next {t : State} (h : Memory.wf t.mem = true) : NextCanonical (.next t) := fun _ e => by cases e; exact h

/-- An instruction whose meaning keeps the canonical form keeps it when it issues, stalls or faults. -/
theorem canonical_issue {i : Instr} {s : State} {body : Bundle → List Nat → State → Result} (h : Memory.wf s.mem = true)
    (hb : ∀ b act t, Memory.wf t.mem = true → (body b act t).Canonical) : NextCanonical (issue i s body) := by
  unfold issue
  split
  · exact fun _ e => by cases e
  · refine nextCanonical_next ?_
    split
    · exact wf_settle h (hb _ _ _ (by rwa [mem_pass]))
    · exact h
    · exact wf_settle (r := .trap _) (by rwa [mem_issueCheck ‹_›]) trivial

/-! ### Registers, flags and control flow -/

section
variable {s : State} (h : Memory.wf s.mem = true)
include h

theorem canonical_perLane (i : Instr) (f : Ctx → Wave → Nat → List (Nat × Word)) : NextCanonical (perLane i s f) := by
  refine canonical_issue h fun b act t ht => ?_
  split
  · exact wf_of_mem_eq (mem_setRegs ..) ht
  · exact ht

theorem canonical_perLaneFlags (i : Instr) (q : Nat) (f : Wave → Nat → List (Nat × Word) × Nat) :
    NextCanonical (perLaneFlags i s q f) := by
  refine canonical_issue h fun b act t ht => ?_
  split
  · have hu (ws : List (Nat × Word)) : Memory.wf (t.setRegs b.ctx b.wave ws).mem = true := by rwa [mem_setRegs]
    exact wf_ite (by rw [mem_orFlags]; exact hu _) (hu _)
  · exact ht

theorem canonical_perTile (i : Instr) (d : Nat) (f : Wave → List Nat → Nat → Word) : NextCanonical (perTile i s d f) := by
  refine canonical_issue h fun b act t ht => ?_
  split
  · exact wf_of_mem_eq (mem_setRegs ..) ht
  · exact ht

theorem canonical_sfu (i : Instr) (d a q : Nat) (f : Nat → Nat × Nat) : NextCanonical (sfu i s d a q f) := by
  refine canonical_issue h fun b act t ht => ?_
  split
  · exact wf_ite ht (by rwa [mem_post, mem_launchOp])
  · exact ht

theorem canonical_execNop : NextCanonical (execNop s) := canonical_issue h fun _ _ _ ht => ht

theorem canonical_execGuard (c n k : Nat) : NextCanonical (execGuard c n k s) := canonical_issue h fun _ _ _ ht => ht

theorem canonical_execPart (p : Nat) : NextCanonical (execPart p s) := canonical_issue h fun _ _ _ ht => wf_ite ht ht

theorem canonical_execYield : NextCanonical (execYield s) := canonical_issue h fun _ _ _ ht => ht

theorem canonical_execExit : NextCanonical (execExit s) := by
  refine canonical_issue h fun b act t ht => ?_
  extract_lets u w
  have hw : Memory.wf w.mem = true := wf_of_mem_eq (mem_fold_state (fun _ _ => mem_barrierCheck ..) _ _) ht
  clear_value w
  dsimp only [Result.Canonical]
  split
  · exact wf_ite (wf_of_mem_eq (mem_post ..) hw) hw
  · exact hw

theorem canonical_execTrap (n : Nat) : NextCanonical (execTrap n s) :=
  canonical_issue h fun _ _ _ ht => iteInduction (fun _ => ht) fun _ => ht

theorem canonical_execBrk (n : Nat) : NextCanonical (execBrk n s) := by
  refine canonical_issue h fun b act t ht => ?_
  split
  · exact ht
  · split
    · split
      · exact wf_of_mem_eq ((mem_markStop ..).trans (mem_startDrain ..)) ht
      · exact ht
    · exact ht

theorem canonical_arrive (i : Instr) (n : Nat) (sync : Bool) : NextCanonical (arrive i s n sync) :=
  canonical_issue h fun _ _ _ ht => wf_of_mem_eq (mem_fold_state (fun _ _ => mem_arriveAt ..) _ _) ht

theorem canonical_branch (i : Instr) (c : Nat) (sense : Bool) (off : Int) : NextCanonical (branch i s c sense off) := by
  refine canonical_issue h fun b act t ht => ?_
  split
  · exact wf_of_mem_eq (mem_branchTo ..) ht
  · exact ht

theorem canonical_execCall (c o : Nat) : NextCanonical (execCall c o s) :=
  canonical_issue h fun _ _ _ ht => wf_of_mem_eq ((mem_branchTo ..).trans (mem_writeLink ..)) ht

theorem canonical_jumpPair (i : Instr) (a : Nat) (counts : Bool) (link : Option Nat) : NextCanonical (jumpPair i s a counts link) := by
  refine canonical_issue h fun b act t ht => ?_
  split
  · split
    · trivial
    · refine wf_of_mem_eq (mem_branchTo ..) ?_
      split
      · rwa [mem_writeLink]
      · exact ht
  · exact ht

theorem canonical_execSreg (d i : Nat) : NextCanonical (execSreg d i s) := by
  refine canonical_issue h fun b act t ht => ?_
  split
  · exact wf_of_mem_eq (mem_setRegs ..) ht
  · exact ht

theorem canonical_execFlagrWave (d : Nat) : NextCanonical (execFlagrWave d s) := by
  refine canonical_issue h fun b act t ht => ?_
  split
  · exact wf_of_mem_eq (mem_setRegs ..) ht
  · exact ht

theorem canonical_execFlagc : NextCanonical (execFlagc s) := canonical_issue h fun _ _ _ ht => ht

/-! ### Memory instructions -/

theorem canonical_load (i : Instr) (d a w : Nat) (ext own : Bool) (acq : Option Nat) :
    NextCanonical (load i s d a w ext own acq) := by
  refine canonical_issue h fun b act t ht => ?_
  split
  · refine iteInduction (motive := Result.Canonical) (fun _ => ht) fun _ => ?_
    have hp (x : Ctx) (v : Wave) (q : Req) (as : List (Nat × Nat)) := canonical_plan b x v act q as ht
    dsimp only
    split
    · rwa [Result.Canonical, mem_waitsWalk]
    · trivial
    · trivial
    · have hu := (hp ..).go ‹_›
      refine iteInduction (motive := Result.Canonical) (fun _ => h) fun _ => ?_
      split
      · exact h
      · have hr (x : Ctx) (n : Nat) (acq : Bool) (ps : List (Nat × Nat × Option Place)) :=
          wf_readLanes b x n acq ps [] [] (wf_startTouched b _ hu ‹_›)
        refine iteInduction (motive := Result.Canonical) (fun _ => ?_) fun _ => ?_
        · cases e : startTouched b _ s with
          | none => exact h
          | some y => exact wf_startTouched b _ h e
        · have hl (o : Option Nat) (r : State) (hr : Memory.wf r.mem = true) (x : Ctx) : Memory.wf (State.mem (match o with
              | some sc => r.acquire x.place sc
              | none => r)) = true := by
            split
            · rwa [mem_acquire]
            · exact hr
          refine wf_of_mem_eq ((mem_watchStop ..).trans (mem_takeFree ..)) (wf_ite ?_ ?_)
          · rw [mem_postEnd, mem_launchAt, mem_pinIf]; exact hl _ _ (hr ..) _
          · rw [mem_launchAt, mem_pinIf]; exact hl _ _ (hr ..) _
  · exact ht

theorem canonical_store (i : Instr) (d a w : Nat) (own : Bool) (rel : Option Nat) : NextCanonical (store i s d a w own rel) := by
  refine canonical_issue h fun b act t ht => ?_
  split
  · refine iteInduction (motive := Result.Canonical) (fun _ => ht) fun _ => ?_
    have hp (x : Ctx) (v : Wave) (q : Req) (as : List (Nat × Nat)) := canonical_plan b x v act q as ht
    dsimp only
    split
    · rwa [Result.Canonical, mem_waitsWalk]
    · trivial
    · trivial
    · have hu (places : List Place) : Memory.wf (pinIf b places _).mem = true := wf_of_mem_eq (mem_pinIf ..) ((hp ..).go ‹_›)
      refine wf_of_mem_eq ((mem_watchStop ..).trans (mem_takeFree ..)) (wf_ite ?_ ?_)
      · rw [mem_post, mem_launchAt]; exact wf_ite (hu _) (wf_performStores _ _ _ _ _ _ (hu _))
      · rw [mem_postEnd, mem_launchAt]; exact wf_ite (hu _) (wf_performStores _ _ _ _ _ _ (hu _))
  · exact ht

theorem canonical_atomic (i : Instr) (scratch : Bool) (d a rb rc op kind scope use f w : Nat) :
    NextCanonical (atomic i s scratch d a rb rc op kind scope use f w) := by
  refine canonical_issue h fun b act t ht => ?_
  split
  · refine iteInduction (motive := Result.Canonical) (fun _ => ht) fun _ => ?_
    have hp (x : Ctx) (v : Wave) (q : Req) (as : List (Nat × Nat)) := canonical_plan b x v act q as ht
    dsimp only
    split
    · rwa [Result.Canonical, mem_waitsWalk]
    · trivial
    · refine iteInduction (motive := Result.Canonical) (fun _ => h) fun _ => ?_
      split
      · exact wf_takeTrap _ _ _ (wf_of_mem_eq (mem_noteFaulted ..) (wf_startTouched b _ h ‹_›))
      · exact h
    · have hu (places : List Place) : Memory.wf (pinIf b places _).mem = true := wf_of_mem_eq (mem_pinIf ..) ((hp ..).go ‹_›)
      have hs (x : Ctx) (r : Nat → Option Rec → Option Rec) (as : List AStep) (places : List Place) :=
        wf_atomicSteps x op f (2 ^ w) (use != 2) r as [] (hu places)
      refine wf_of_mem_eq ((mem_watchStop ..).trans (mem_takeFree ..)) (wf_ite ?_ ?_)
      · rw [mem_atomicReturn]; exact wf_ite (wf_of_mem_eq (mem_acquire ..) (hs ..)) (hs ..)
      · rw [mem_post, mem_awaitMirrors, mem_launchAt]; exact wf_ite (wf_of_mem_eq (mem_acquire ..) (hs ..)) (hs ..)
  · exact ht

theorem canonical_execRatom (a rb op tb f w l : Nat) : NextCanonical (execRatom a rb op tb f w l s) := by
  refine canonical_issue h fun b act t ht => ?_
  split
  · refine iteInduction (motive := Result.Canonical) (fun _ => ht) fun _ => ?_
    dsimp only
    split
    · trivial
    · refine iteInduction (motive := Result.Canonical) (fun _ => wf_barrierArrive _ _ _ _ ht) fun _ => ?_
      refine wf_of_mem_eq ((mem_watchStop ..).trans ?_) ht
      rw [mem_fold_state, mem_launchAt]
      exact fun u l => mem_ite (mem_post ..) (mem_ite rfl (mem_post ..))
  · exact ht

theorem canonical_prefetch (i : Instr) (a : Nat) (l1 : Bool) : NextCanonical (prefetch i s a l1) := by
  refine canonical_issue h fun b act t ht => ?_
  split
  · exact wf_of_mem_eq (mem_takeFree ..) (wf_fold_state (fun _ _ hu => wf_prefetchLane _ _ _ _ _ _ hu) _ ht)
  · exact ht

theorem canonical_fence (i : Instr) (kind sc : Nat) : NextCanonical (fence i s kind sc) := by
  refine canonical_issue h fun b act t ht => ?_
  refine iteInduction (motive := Result.Canonical) (fun _ => ht) fun _ => ?_
  have hu (k : OpKind) (g : Lane → Lane) :
      Memory.wf (State.launchOp (if kind = 0 then t else t.modLanes b.ctx b.wave act g) b act k).mem = true := by
    rw [mem_launchOp]; exact wf_ite ht (by rwa [mem_modLanes])
  exact wf_ite (by rw [mem_post]; exact hu ..) (hu ..)

theorem canonical_execTfence : NextCanonical (execTfence s) := by
  refine canonical_issue h fun b act t ht => ?_
  refine iteInduction (motive := Result.Canonical) (fun _ => ht) fun _ => ?_
  exact wf_ite (by rwa [mem_post, mem_launchOp]) (by rwa [mem_launchOp])

theorem canonical_execInval : NextCanonical (execInval s) := by
  refine canonical_issue h fun b act t ht => ?_
  split
  · exact wf_ite ht ht
  · exact ht

/-! ### Matrix unit -/

theorem canonical_execMcfg (a l : Nat) : NextCanonical (execMcfg a l s) := by
  refine canonical_issue h fun b act t ht => ?_
  have hr (x : Ctx) (v : Wave) (n : Nat) (as : List (Nat × Nat)) := canonical_readImages b x v act n as h ht
  split
  · dsimp only
    split
    · exact (hr ..).wait ‹_›
    · trivial
    · exact ht
    · have hu := (hr ..).ok ‹_›
      refine iteInduction (motive := Result.Canonical) (fun _ => canonical_faultOnce _ _ _ ht) fun _ => ?_
      exact iteInduction (motive := Result.Canonical) (fun _ => h) fun _ => wf_of_mem_eq (mem_modMat ..) hu
  · exact ht

theorem canonical_execGang (a : Nat) : NextCanonical (execGang a s) := by
  refine canonical_issue h fun b act t ht => ?_
  split
  · exact iteInduction (motive := Result.Canonical) (fun _ => canonical_faultOnce _ _ _ ht) fun _ => ht
  · exact ht

theorem canonical_mmaArrive (i : Instr) (f d a sel tile : Nat) (reuse : Bool) : NextCanonical (mmaArrive i s f d a sel tile reuse) := by
  refine canonical_issue h fun b act t ht => ?_
  have hf : Memory.wf (s.noteFaulted b).mem = true := by rwa [mem_noteFaulted]
  split
  · dsimp only
    have fault (c : Bool) (r : Result) (hr : r.Canonical) : (if c = true then Result.done t else r).Canonical :=
      iteInduction (motive := Result.Canonical) (fun _ => ht) fun _ => hr
    refine iteInduction (motive := Result.Canonical) (fun _ => ht) fun _ => ?_
    refine iteInduction (motive := Result.Canonical) (fun _ => fault _ _ trivial) fun _ => ?_
    refine iteInduction (motive := Result.Canonical) (fun _ => fault _ _ trivial) fun _ => ?_
    refine iteInduction (motive := Result.Canonical) (fun _ => fault _ _ (wf_takeTrap _ _ _ (wf_gangFault _ _ _ hf))) fun _ => ?_
    split
    · exact fault _ _ (wf_takeTrap _ _ _ (wf_fold_state (fun _ _ => wf_rendFault _ _ _) _ hf))
    · split
      · exact wf_ite (by rwa [mem_post, mem_modWave]) (by rwa [mem_modWave])
      · exact h
  · exact ht

theorem canonical_onTile {i : Instr} {body : Bundle → Ctx → Wave → List Nat → State → Result}
    (hb : ∀ b x v act t, Memory.wf t.mem = true → (body b x v act t).Canonical) : NextCanonical (onTile i s body) := by
  refine canonical_issue h fun b act t ht => ?_
  split
  · exact iteInduction (motive := Result.Canonical) (fun _ => ht) fun _ =>
      iteInduction (motive := Result.Canonical) (fun _ => canonical_faultOnce _ _ _ ht) fun _ => hb _ _ _ _ _ ht
  · exact ht

theorem canonical_execMzero (tl l : Nat) : NextCanonical (execMzero tl l s) :=
  canonical_onTile h fun _ _ _ _ _ ht => wf_of_mem_eq ((mem_enterPipe ..).trans (mem_modMat ..)) ht

theorem canonical_execMrd (d a tl l : Nat) : NextCanonical (execMrd d a tl l s) :=
  canonical_onTile h fun _ _ _ _ _ ht => iteInduction (motive := Result.Canonical) (fun _ => trivial) fun _ =>
    wf_of_mem_eq ((mem_enterPipe ..).trans ((mem_launchAt ..).trans (mem_modMat ..))) ht

theorem canonical_execMwr (d a tl l : Nat) : NextCanonical (execMwr d a tl l s) :=
  canonical_onTile h fun _ _ _ _ _ ht => iteInduction (motive := Result.Canonical) (fun _ => trivial) fun _ =>
    iteInduction (motive := Result.Canonical) (fun _ => ht) fun _ =>
      wf_of_mem_eq ((mem_enterPipe ..).trans (mem_modMat ..)) ht

theorem canonical_execMscale (a tl l : Nat) : NextCanonical (execMscale a tl l s) :=
  canonical_onTile h fun _ _ _ _ _ ht => wf_of_mem_eq ((mem_enterPipe ..).trans (mem_modMat ..)) ht

/-! ### Regions, transaction barriers and chains -/

theorem canonical_execRgnSet (d a l : Nat) : NextCanonical (execRgnSet d a l s) := by
  refine canonical_issue h fun b act t ht => ?_
  have hr (x : Ctx) (v : Wave) (n : Nat) (as : List (Nat × Nat)) := canonical_readImages b x v act n as h ht
  split
  · dsimp only
    split
    · exact (hr ..).wait ‹_›
    · trivial
    · exact ht
    · have hu := (hr ..).ok ‹_›
      split
      · exact canonical_faultOnce _ _ _ ht
      · exact hu
  · exact ht

theorem canonical_regionOp {i : Instr} {a : Nat} {act' : Bundle → List Nat → State → Nat → Region → Option Result}
    (hb : ∀ b act t n r k, Memory.wf t.mem = true → act' b act t n r = some k → k.Canonical) :
    NextCanonical (regionOp i s a act') := by
  refine canonical_issue h fun b act t ht => ?_
  split
  · dsimp only
    split
    · exact hb _ _ _ _ _ _ ht ‹_›
    · exact canonical_faultOnce _ _ _ ht
  · exact ht

theorem canonical_execRgnPre (a l : Nat) : NextCanonical (execRgnPre a l s) := by
  refine canonical_regionOp h fun b act t n r k ht e => ?_
  split at e
  · cases e
  · cases e; exact canonical_startOrStall _ _ _ _ h ht
  · cases e; exact ht

theorem canonical_execRgnFlush (a l : Nat) : NextCanonical (execRgnFlush a l s) := by
  refine canonical_regionOp h fun b act t n r k ht e => ?_
  split at e
  · cases e
  · split at e
    · cases e
    · cases e; exact canonical_startOrStall _ _ _ _ h ht
  · cases e; exact ht

theorem canonical_execRgnDrop (a l : Nat) : NextCanonical (execRgnDrop a l s) := by
  refine canonical_regionOp h fun b act t n r k ht e => ?_
  split at e
  · cases e
  · cases e
  · split at e
    · cases e
    · cases e; exact canonical_startOrStall _ _ _ _ h ht
  · cases e; exact ht
  · cases e; exact ht

theorem canonical_execRgnStat (d a l : Nat) : NextCanonical (execRgnStat d a l s) := by
  refine canonical_issue h fun b act t ht => ?_
  split
  · exact wf_of_mem_eq (mem_setRegs ..) ht
  · exact ht

theorem canonical_barrierOnce {i : Instr} {a : Nat} {body : Bundle → Wave → Nat → Nat → State → State}
    (hb : ∀ b v low k t, Memory.wf t.mem = true → Memory.wf (body b v low k t).mem = true) : NextCanonical (barrierOnce i s a body) := by
  refine canonical_issue h fun b act t ht => ?_
  split
  · refine iteInduction (motive := Result.Canonical) (fun _ => ht) fun _ => ?_
    split
    · exact canonical_faultOnce _ _ _ ht
    · exact h
    · exact hb _ _ _ _ _ ht
  · exact ht

theorem canonical_execTbarInit (a l : Nat) : NextCanonical (execTbarInit a l s) :=
  canonical_barrierOnce h fun _ _ _ _ _ ht => wf_put _ _ _ ht

theorem canonical_execTbarArrive (a l : Nat) : NextCanonical (execTbarArrive a l s) :=
  canonical_barrierOnce h fun _ _ _ _ _ ht => wf_ite ht (wf_barrierArrive _ _ _ _ ht)

theorem canonical_barrierEach {i : Instr} {a : Nat} {errs : Bool} {body : Bundle → Ctx → Wave → List Nat → State → State}
    (hb : ∀ b x v act t, Memory.wf t.mem = true → Memory.wf (body b x v act t).mem = true) : NextCanonical (barrierEach i s a errs body) := by
  refine canonical_issue h fun b act t ht => ?_
  split
  · split
    · trivial
    · exact h
    · exact hb _ _ _ _ _ ht
  · exact ht

theorem canonical_execTbarWait (a l : Nat) : NextCanonical (execTbarWait a l s) := by
  refine canonical_barrierEach h fun b x v act t ht => ?_
  simp only [apply_ite State.mem, mem_acquire, ite_self]
  refine wf_of_mem_eq (mem_fold_state (fun t k => ?_) _ _) ht
  split
  · exact mem_modLanes ..
  · rfl

theorem canonical_execTbarTest (d a l : Nat) : NextCanonical (execTbarTest d a l s) :=
  canonical_barrierEach h fun _ _ _ _ _ ht => wf_ite (wf_of_mem_eq (mem_setRegs ..) ht)
    (wf_of_mem_eq ((mem_acquire ..).trans (mem_setRegs ..)) ht)

theorem canonical_execTbarRead (d a l : Nat) : NextCanonical (execTbarRead d a l s) :=
  canonical_barrierEach h fun _ _ _ _ _ ht => wf_of_mem_eq (mem_setRegs ..) ht

theorem canonical_execChain (a l : Nat) : NextCanonical (execChain a l s) := by
  refine canonical_issue h fun b act t ht => ?_
  have hr (x : Ctx) (v : Wave) (n : Nat) (as : List (Nat × Nat)) := canonical_readImages b x v act n as h ht
  split
  · dsimp only
    split
    · exact (hr ..).wait ‹_›
    · trivial
    · exact ht
    · have hu := (hr ..).ok ‹_›
      refine iteInduction (motive := Result.Canonical) (fun _ => canonical_faultOnce _ _ _ ht) fun _ => ?_
      refine iteInduction (motive := Result.Canonical) (fun _ => canonical_faultOnce _ _ _ ht) fun _ => ?_
      split
      · refine wf_of_mem_eq ((mem_post ..).trans ((mem_launchAt ..).trans (mem_chainReserve _ _ _ ‹_›))) hu
      · exact h
  · exact ht

/-! ### Capabilities, sends and sequence slots -/

theorem canonical_rcap (i : Instr) (d b n k : Nat) : NextCanonical (rcap i s d b n k) := by
  refine canonical_issue h fun b act t ht => ?_
  split
  · exact wf_of_mem_eq (mem_setRegs ..) ht
  · exact ht

theorem canonical_execArm (d n l : Nat) : NextCanonical (execArm d n l s) := by
  refine canonical_issue h fun b act t ht => ?_
  split
  · exact ht
  · exact ht

theorem canonical_execSendstat (d k l : Nat) : NextCanonical (execSendstat d k l s) := by
  refine canonical_issue h fun b act t ht => ?_
  split
  · exact wf_ite (wf_of_mem_eq ((mem_modWave ..).trans (mem_setRegs ..)) ht) (wf_of_mem_eq (mem_setRegs ..) ht)
  · exact ht

theorem canonical_execSendW (d a k sc r l : Nat) : NextCanonical (execSendW d a k sc r l s) := by
  refine canonical_issue h fun b act t ht => ?_
  split
  · exact wf_of_mem_eq (mem_fold_state (fun _ _ => mem_deliver ..) _ _) ht
  · exact ht

theorem canonical_execSendL (d a k sc r l : Nat) : NextCanonical (execSendL d a k sc r l s) := by
  refine canonical_issue h fun b act t ht => ?_
  split
  · exact wf_of_mem_eq (mem_fold_state (fun _ _ => mem_deliver ..) _ _) ht
  · exact ht

theorem canonical_execQput (d a la : Nat) : NextCanonical (execQput d a la s) := by
  refine canonical_issue h fun b act t ht => ?_
  have hr (x : Ctx) (v : Wave) (n : Nat) (as : List (Nat × Nat)) := canonical_readImages b x v act n as h ht
  split
  · refine iteInduction (motive := Result.Canonical) (fun _ => ht) fun _ => ?_
    split
    · exact wf_of_mem_eq ((mem_post ..).trans (mem_launchAt ..)) ((hr ..).ok ‹_›)
    · trivial
    · exact (hr ..).wait ‹_›
  · exact ht

theorem canonical_sequence {i : Instr} {acq : Bool} {f : Ctx → Wave → Nat → State → List (Nat × Nat) × Bool × State}
    (hf : ∀ x v l t, (f x v l t).2.2.mem = t.mem) : NextCanonical (sequence i s acq f) := by
  refine canonical_issue h fun b act t ht => ?_
  split
  · refine iteInduction (motive := Result.Canonical) (fun _ => ht) fun _ => ?_
    extract_lets r src u w z
    have hr : Memory.wf r.1.mem = true :=
      List.foldlRecOn (motive := fun p : State × List (Nat × Word) × List Nat => Memory.wf p.1.mem = true) _ _ ht fun p hp l _ =>
        wf_of_mem_eq (hf ..) hp
    have hz : Memory.wf z.mem = true := wf_of_mem_eq ((mem_post ..).trans (mem_launchAt ..))
      (wf_ite (wf_of_mem_eq (mem_acquire ..) hr) hr)
    exact iteInduction (motive := Result.Canonical) (fun _ => hz) fun _ => hz
  · exact ht

theorem canonical_execNtfRead (d a la : Nat) : NextCanonical (execNtfRead d a la s) :=
  canonical_sequence h fun _ _ _ _ => by dsimp only; split <;> rfl

theorem canonical_execNtfWait (d a : Nat) : NextCanonical (execNtfWait d a s) := by
  refine canonical_issue h fun b act t ht => ?_
  split
  · extract_lets r
    have hr : Memory.wf r.1.mem = true := by
      refine List.foldlRecOn (motive := fun p : State × List (Nat × Word) => Memory.wf p.1.mem = true) _ _ ht fun p hp l _ => ?_
      simp only []
      split
      · exact hp
      · split
        · exact hp
        · split
          · exact hp
          · exact hp
    refine iteInduction (motive := Result.Canonical) (fun _ => hr) fun _ => ?_
    exact wf_of_mem_eq ((mem_post ..).trans ((mem_launchAt ..).trans (mem_acquire ..))) hr
  · exact ht

theorem canonical_execNtfWrite (d a la : Nat) : NextCanonical (execNtfWrite d a la s) := by
  refine canonical_issue h fun b act t ht => ?_
  split
  · exact wf_of_mem_eq (mem_fold_state (fun _ _ => mem_ite (mem_setNotify ..) rfl) _ _) ht
  · exact ht

theorem canonical_execSqProp (d a la : Nat) : NextCanonical (execSqProp d a la s) :=
  canonical_sequence h fun _ _ _ _ => mem_sqProp ..

theorem canonical_execSqVerify (d a la : Nat) : NextCanonical (execSqVerify d a la s) :=
  canonical_sequence h fun _ _ _ _ => mem_sqVerify ..

theorem canonical_execSqCommit (d a : Nat) : NextCanonical (execSqCommit d a s) :=
  canonical_sequence h fun _ _ _ _ => mem_sqCommit ..

theorem canonical_execSqCommitD (d a : Nat) : NextCanonical (execSqCommitD d a s) :=
  canonical_sequence h fun _ _ _ _ => mem_sqCommit ..

theorem canonical_execSqNext (d a la : Nat) : NextCanonical (execSqNext d a la s) :=
  canonical_sequence h fun _ _ _ _ => mem_sqNext ..

theorem canonical_execSqRead (d a la : Nat) : NextCanonical (execSqRead d a la s) :=
  canonical_sequence h fun _ _ _ _ => rfl

theorem canonical_execSqCtlOpen (d la : Nat) : NextCanonical (execSqCtlOpen d la s) :=
  canonical_sequence h fun _ _ _ _ => mem_sqOpen ..

theorem canonical_sqCtl (i : Instr) (op d a : Nat) : NextCanonical (sqCtl i s op d a) :=
  canonical_sequence h fun _ _ _ _ => mem_sqCtl ..

theorem canonical_execSqWatch (d a la : Nat) : NextCanonical (execSqWatch d a la s) := by
  refine canonical_issue h fun b act t ht => ?_
  have hr (x : Ctx) (v : Wave) (n : Nat) (as : List (Nat × Nat)) := canonical_readImages b x v act n as h ht
  split
  · refine iteInduction (motive := Result.Canonical) (fun _ => ht) fun _ => ?_
    split
    · have hu := (hr ..).ok ‹_›
      refine wf_of_mem_eq ((mem_post ..).trans (mem_launchAt ..)) ?_
      exact List.foldlRecOn (motive := fun p : State × List (Nat × Word) => Memory.wf p.1.mem = true) _ _ hu fun p hp e _ =>
        wf_of_mem_eq (mem_sqWatch ..) hp
    · trivial
    · exact (hr ..).wait ‹_›
  · exact ht

/-! ### System instructions -/

theorem canonical_execSysr (d n : Nat) : NextCanonical (execSysr d n s) := by
  refine canonical_issue h fun b act t ht => ?_
  split
  · exact wf_of_mem_eq (mem_setRegs ..) ht
  · exact ht

theorem canonical_execSysw (a n : Nat) : NextCanonical (execSysw a n s) := by
  refine canonical_issue h fun b act t ht => ?_
  split
  · dsimp only
    split
    · exact ht
    · refine iteInduction (motive := Result.Canonical) (fun _ => ht) fun _ => ?_
      refine iteInduction (motive := Result.Canonical) (fun _ => wf_of_mem_eq (mem_writeWaveReg ..) ht) fun _ => ?_
      exact wf_writeLow _ _ _ ht
  · exact ht

theorem canonical_execEret : NextCanonical (execEret s) := canonical_issue h fun _ _ _ ht => wf_ite ht ht

theorem canonical_execHalt : NextCanonical (execHalt s) :=
  canonical_issue h fun _ _ _ ht => wf_ite ht (wf_of_mem_eq (mem_startDrain ..) ht)

theorem canonical_execWfe : NextCanonical (execWfe s) := by
  refine canonical_issue h fun b act t ht => ?_
  split
  · exact wf_ite ht (wf_ite ht ht)
  · exact ht

theorem canonical_tlbinv (i : Instr) (form : Nat) (operand : Ctx → Wave → Nat → Nat × Nat) : NextCanonical (tlbinv i s form operand) := by
  refine canonical_issue h fun b act t ht => ?_
  split
  · exact wf_ite (wf_of_mem_eq ((mem_post ..).trans ((mem_launchOp ..).trans (mem_modLanes ..))) ht)
      (wf_of_mem_eq ((mem_launchOp ..).trans (mem_modLanes ..)) ht)
  · exact ht

end

end Sys2Proof.Machine
end

section
/-! PROOFS. Proofs/CanonicalEvents.lean: every event keeps the canonical form of memory. -/

namespace Sys2Proof.Machine

/-- The state after a package reset holds the empty memory. -/
theorem canonical_execPackageReset (s : State) : NextCanonical (execPackageReset s) := nextCanonical_next wf_empty

/-! ### Waves, loads, stores and copies -/

section
variable {s : State} (h : Memory.wf s.mem = true)
include h

theorem canonical_execBundleIssue : NextCanonical (execBundleIssue s) := by
  refine nextCanonical_next (wf_ite ?_ ?_)
  · rwa [mem_idle, mem_idleSample]
  · split
    · rwa [mem_idle, mem_idleSample, mem_unhold]
    · exact wf_issueWave _ _ (by rwa [mem_endWalk, mem_hold])

theorem canonical_execInstructionComplete : NextCanonical (execInstructionComplete s) := by
  refine nextCanonical_next ?_
  split
  · split
    · rwa [mem_endOp, mem_orFlags, mem_setRegs]
    · rw [mem_endOp]
      split
      · exact wf_ite h (by rwa [mem_acquire])
      · exact h
    · rwa [mem_endOp]
    · exact h
  · exact h

theorem canonical_execWaveRetire : NextCanonical (execWaveRetire s) := by
  refine nextCanonical_next ?_
  split
  · refine wf_ite h ?_
    rw [mem_afterWork]
    split
    · refine wf_fold_state (fun t e ht => ?_) _ (by rwa [mem_modWave])
      dsimp only
      split
      · exact wf_ite (wf_rendFault _ _ _ ht) ht
      · exact ht
    · rwa [mem_modWave]
  · exact h

theorem canonical_execBlockRetire : NextCanonical (execBlockRetire s) := by
  refine nextCanonical_next ?_
  split
  · exact wf_ite (wf_endCtx _ h) (wf_ite (wf_of_mem_eq (mem_retire ..) h) h)
  · exact h

theorem canonical_execLoadDataReturn : NextCanonical (execLoadDataReturn s) := by
  refine nextCanonical_next ?_
  split
  · split
    · have hl (c w n : Nat) (acq : Option Nat) (todo vals : List (Nat × Nat)) := wf_finishLoad c w n acq todo vals h
      refine wf_ite (by rwa [mem_later]) ?_
      dsimp only
      split
      · rw [mem_endOp, mem_setRegs]; exact hl ..
      · rw [mem_post]; exact hl ..
    · exact h
  · exact h

theorem canonical_execStoreAcknowledged : NextCanonical (execStoreAcknowledged s) := by
  have hu : Memory.wf (s.taken .storeAcknowledged).mem = true := by rwa [mem_taken]
  refine nextCanonical_next ?_
  dsimp only
  split
  · split
    · split
      · refine wf_ite (by rwa [mem_later]) ?_
        rw [mem_storeOver, mem_awaitMirrors, mem_waitLines]
        exact wf_performStores _ _ _ _ _ _ hu
      · rwa [mem_settled, mem_endOp]
    · rwa [mem_settled]
  · rwa [mem_settled]

theorem canonical_execAtomicAtHome : NextCanonical (execAtomicAtHome s) := by
  have hu : Memory.wf (s.taken .atomicAtHome).mem = true := by rwa [mem_taken]
  refine nextCanonical_next ?_
  dsimp only
  split
  · split
    · split
      · refine wf_ite (by rwa [mem_later]) ?_
        rw [mem_atomicOver, mem_awaitMirrors, mem_waitLines, mem_takeFree]
        exact wf_performAtomic _ _ _ _ _ _ _ _ hu
      · rwa [mem_settled]
    · rwa [mem_settled]
  · rwa [mem_settled]

theorem canonical_execInboundSectorWritten : NextCanonical (execInboundSectorWritten s) := by
  refine nextCanonical_next ?_
  split
  · split
    · dsimp only
      split
      · refine wf_ite h ?_
        have hr (p : Prop) [Decidable p] (v : Except Nat Nat) (x : Ctx) (d : Nat) (origin : List Int) (j : Nat) :
            Memory.wf (if p then (v, s) else s.sectorIn x d origin j).2.mem = true := by
          split
          · exact h
          · exact wf_sectorIn x d origin j h
        split
        · rw [mem_post, mem_takeFree]; exact hr ..
        · exact wf_sectorDone _ _ _ (wf_put _ _ _ (by rw [mem_takeFree]; exact hr ..))
      · exact h
    · exact h
  · exact h

theorem canonical_execOutboundSectorAck : NextCanonical (execOutboundSectorAck s) := by
  have hu : Memory.wf (s.takeFree).2.mem = true := by rwa [mem_takeFree]
  refine nextCanonical_next ?_
  split
  · split
    · split
      · have ho (c : Nat) (x : Ctx) (d : Nat) (origin : List Int) (j : Nat) := wf_sectorOut c x d origin j hu
        refine wf_ite (wf_ite (wf_sectorDone _ _ _ h) h) (wf_ite ?_ (by rwa [mem_post]))
        split
        · rw [mem_post]; exact wf_snd (ho ..) ‹_›
        · exact wf_sectorDone _ _ _ (wf_snd (ho ..) ‹_›)
      · exact h
    · exact h
  · exact h

theorem canonical_execReduceOnStoreCombine : NextCanonical (execReduceOnStoreCombine s) := by
  refine nextCanonical_next ?_
  split
  · split
    · split
      · have ho (c : Nat) (x : Ctx) (d : Nat) (origin : List Int) (j : Nat) := wf_sectorOut c x d origin j h
        refine wf_ite ?_ h
        split
        · rw [mem_post]; exact wf_snd (ho ..) ‹_›
        · rw [mem_post]; exact wf_snd (ho ..) ‹_›
      · exact h
    · exact h
  · exact h

theorem canonical_execMulticastLanding : NextCanonical (execMulticastLanding s) := by
  refine nextCanonical_next ?_
  split
  · split
    · split
      · refine wf_ite h (wf_ite (wf_ite h ?_) (wf_ite h ?_))
        · split
          · have ht := mem_takeLock _ _ _ ‹_›
            exact wf_ite (by rwa [mem_post, ht]) (by rwa [ht])
          · exact wf_ite (by rwa [mem_post]) h
        · have land {t : State} (c d id : Nat) (p : Lock → Bool) (ht : Memory.wf t.mem = true) : Memory.wf
              (((List.range (boxSectors d)).foldl (fun (t : State) _ => t.barrierArrive c (boxTbar d) 0 1) (t.releaseLocks id p)).barrierArrive
                c (boxTbar d) 1 0).mem = true :=
            wf_barrierArrive _ _ _ _ (wf_fold_state (fun _ _ => wf_barrierArrive _ _ _ _) _ (by rwa [mem_releaseLocks]))
          refine wf_ite ?_ ?_
          · rw [mem_post]; exact land _ _ _ _ (wf_fold_state (fun _ _ => wf_put _ _ _) _ h)
          · exact land _ _ _ _ (wf_fold_state (fun _ _ => wf_put _ _ _) _ h)
      · exact h
    · exact h
  · exact h

theorem canonical_execCopyComplete : NextCanonical (execCopyComplete s) := by
  refine nextCanonical_next ?_
  split
  · split
    · refine wf_ite ?_ h
      rw [mem_endOp]
      exact wf_barrierArrive _ _ _ _ (by rwa [mem_entryAfter, mem_releaseLocks])
    · exact h
  · exact h

theorem canonical_execCopyFail : NextCanonical (execCopyFail s) := by
  refine nextCanonical_next (wf_ite h ?_)
  split
  · split
    · rw [mem_endOp, mem_wakeLoads]
      exact wf_fold_state (fun _ _ => wf_failBarrier _ _ _ _) _ (wf_failBarrier _ _ _ _ (by rwa [mem_entryAfter, mem_releaseLocks]))
    · exact h
  · exact h

theorem canonical_execRatomAtTarget : NextCanonical (execRatomAtTarget s) := by
  refine nextCanonical_next ?_
  split
  · split
    · split
      · refine wf_fold_state (fun t e ht => ?_) _ h
        rw [mem_post]; exact wf_ratomStep _ _ _ _ _ _ ht
      · exact h
    · exact h
  · exact h

theorem canonical_execRatomAcknowledged : NextCanonical (execRatomAcknowledged s) := by
  refine nextCanonical_next ?_
  split
  · split
    · refine wf_ite ?_ h
      have ht (c tb : Nat) : Memory.wf (State.mem (if s.arg 2 = 0 then s else s.barrierFail c tb (s.arg 2))) = true :=
        wf_ite h (wf_barrierFail _ _ _ h)
      exact wf_ite (by rw [mem_endOp]; exact wf_barrierArrive _ _ _ _ (ht ..)) (ht ..)
    · exact h
  · exact h

theorem canonical_execChainStart : NextCanonical (execChainStart s) := by
  refine nextCanonical_next ?_
  split
  · split
    · exact wf_ite (wf_chainEndOp _ _ _ _ h) (wf_ite (wf_chainEndOp _ _ _ _ h) (by rwa [mem_post]))
    · exact h
  · exact h

theorem canonical_execChainComplete : NextCanonical (execChainComplete s) := by
  refine nextCanonical_next ?_
  split
  · split
    · split
      · exact wf_chainEndOp _ _ _ _ (wf_chainElements _ _ h)
      · exact h
    · exact h
  · exact h

theorem canonical_execMmaRendezvous : NextCanonical (execMmaRendezvous s) := by
  refine nextCanonical_next ?_
  split
  · refine wf_ite (wf_ite (wf_fold_state (fun _ _ => wf_rendFault _ _ _) _ h) ?_) h
    split
    · exact wf_gangFault _ _ _ h
    · dsimp only
      split
      · refine wf_fold_state (fun t e ht => ?_) _ h
        split
        · exact wf_rendFault _ _ _ ht
        · exact ht
      · rwa [mem_mmaEnter]
    · exact h
  · exact h

theorem canonical_execMatrixOperationComplete : NextCanonical (execMatrixOperationComplete s) := by
  refine nextCanonical_next ?_
  split
  · split
    · dsimp only
      split
      · split
        · rwa [mem_endOp, mem_setRegs, mem_modMat]
        · rwa [mem_modMat]
      · rwa [mem_afterWork, mem_modMat]
    · exact h
  · exact h

theorem canonical_execLaneWriteDecided : NextCanonical (execLaneWriteDecided s) := nextCanonical_next (wf_decideOp _ _ _ h)

theorem canonical_execLaneWriteForward : NextCanonical (execLaneWriteForward s) := nextCanonical_next (wf_decideOp _ _ _ h)

theorem canonical_execSendOutcomeReturn : NextCanonical (execSendOutcomeReturn s) := by
  refine nextCanonical_next ?_
  split
  · split
    · exact wf_ite h (by rwa [mem_endOp, mem_modWave])
    · exact h
  · exact h

theorem canonical_execVesperReply : NextCanonical (execVesperReply s) := by
  refine nextCanonical_next ?_
  split
  · split
    · rwa [mem_endOp, mem_setRegs]
    · exact h
  · exact h

/-! ### Queues and launches -/

theorem canonical_execQueueInsertion : NextCanonical (execQueueInsertion s) := by
  refine nextCanonical_next ?_
  split
  · split
    · split
      · rw [mem_endOp]
        refine wf_fold_state (fun t e ht => ?_) _ h
        have hu (q m : Nat) (x : Ctx) := wf_insertPacket (some x.part) q m ht
        dsimp only
        exact wf_ite (by rw [mem_modCtx, mem_setReg]; exact hu ..) (by rw [mem_setReg]; exact hu ..)
      · rwa [mem_endOp]
    · exact h
  · exact h

theorem canonical_execLaunchBegin : NextCanonical (execLaunchBegin s) := by
  refine nextCanonical_next (wf_inTurn h fun s h => ?_)
  split
  case h_1 e t hb =>
    have ht : Memory.wf t.mem = true := by rwa [mem_begin? _ _ hb]
    have hr (p : Prop) [Decidable p] (part a n c : Nat) : (if p then t.matinsRead part a n else .fail c t).Canonical := by
      split
      · exact canonical_matinsRead _ _ _ ht
      · exact ht
    dsimp only
    split
    · rwa [mem_waitOr]
    · rw [mem_advance]; exact wf_launchReject _ _ _ ((hr ..).fail ‹_›)
    next d u hd =>
      have hu : Memory.wf u.mem = true := (hr ..).ok hd
      have ha (l : Launch) : Memory.wf (u.addLaunch l).mem = true := by rwa [mem_addLaunch]
      refine wf_ite (by rw [mem_advance]; exact wf_launchReject _ _ _ hu) ?_
      rw [mem_post, mem_advance]
      exact wf_ite (wf_finishLaunch _ (ha _)) (ha _)
  · exact h

theorem canonical_execLaunchComplete : NextCanonical (execLaunchComplete s) := by
  refine nextCanonical_next (wf_inTurn h fun s h => ?_)
  split
  · exact wf_ite (wf_finishLaunch _ h) h
  · exact h

theorem canonical_execCollectiveBegin : NextCanonical (execCollectiveBegin s) := by
  refine nextCanonical_next (wf_inTurn h fun s h => ?_)
  split
  case h_1 e t hb =>
    have ht : Memory.wf t.mem = true := by rwa [mem_begin? _ _ hb]
    have hr (p : Prop) [Decidable p] (part a n c : Nat) : (if p then t.matinsRead part a n else .fail c t).Canonical := by
      split
      · exact canonical_matinsRead _ _ _ ht
      · exact ht
    dsimp only
    split
    · rwa [mem_waitOr]
    · rw [mem_completePacket]; exact (hr ..).fail ‹_›
    next b u hd =>
      have hu : Memory.wf u.mem = true := (hr ..).ok hd
      split
      · rwa [mem_waitOr]
      · split
        · rwa [mem_later]
        next k hk =>
          have hn : Memory.wf k.next.mem = true := wf_colCheck _ _ (wf_fold_state (fun t l => wf_recall l) _ hu) hk
          refine wf_ite ?_ ?_
          · rw [mem_advance, mem_post, mem_putColl]; exact hn
          · rw [mem_advance]
            split
            · rw [mem_failGroup, mem_putColl]; exact hn
            · refine wf_ite ?_ (wf_ite ?_ ?_)
              · rw [mem_failGroup, mem_putColl]; exact hn
              · rw [mem_fold_state fun _ _ => mem_startSchedule .., mem_startSteps, mem_joinColl, mem_takeSlots, mem_putColl]; exact hn
              · rw [mem_post, mem_fold_state fun _ _ => mem_startSchedule .., mem_startSteps, mem_joinColl, mem_takeSlots, mem_putColl]
                exact hn
  · exact h

theorem canonical_execWaitBegin : NextCanonical (execWaitBegin s) := by
  refine nextCanonical_next ?_
  split
  · rwa [mem_post, mem_begin? _ _ ‹_›]
  · exact h

theorem canonical_execWaitPoll : NextCanonical (execWaitPoll s) := by
  refine nextCanonical_next (wf_inTurn h fun s h => ?_)
  have hr (part a n : Nat) := canonical_matinsRead part a n h
  split
  · refine wf_ite h (wf_ite (by rwa [mem_later]) ?_)
    dsimp only
    split
    · have hu := (hr ..).ok ‹_›
      exact wf_ite (by rwa [mem_completePacket]) (by rwa [mem_post])
    · rw [mem_completePacket]; exact wf_wordFailure _ _ _ ((hr ..).fail ‹_›)
    · rwa [mem_waitOr]
  · exact h

theorem canonical_execSignalBegin : NextCanonical (execSignalBegin s) := by
  refine nextCanonical_next ?_
  split
  · rwa [mem_post, mem_begin? _ _ ‹_›]
  · exact h

theorem canonical_execSignalComplete : NextCanonical (execSignalComplete s) := by
  refine nextCanonical_next (wf_inTurn h fun s h => ?_)
  have hr (part a : Nat) (rel add : Bool) (f : Nat → Nat) := canonical_matinsWord part a rel add f h
  split
  · refine wf_ite h ?_
    dsimp only
    split
    · rw [mem_completePacket]; exact (hr ..).ok ‹_›
    · rw [mem_completePacket]; exact wf_wordFailure _ _ _ ((hr ..).fail ‹_›)
    · rwa [mem_waitOr]
  · exact h

theorem canonical_execFencePacket : NextCanonical (execFencePacket s) := by
  refine nextCanonical_next ?_
  split
  · rwa [mem_completePacket, mem_begin? _ _ ‹_›]
  · exact h

theorem canonical_execMarkerPacket : NextCanonical (execMarkerPacket s) := by
  refine nextCanonical_next (wf_inTurn h fun s h => ?_)
  split
  case h_1 e t hb =>
    have ht : Memory.wf t.mem = true := by rwa [mem_begin? _ _ hb]
    have hp (p : Prop) [Decidable p] (part k n b : Nat) : Memory.wf (State.mem (if p then t.produce part k n b else t)) = true :=
      wf_ite (by rwa [mem_produce]) ht
    refine wf_ite (by rw [mem_completePacket]; exact hp ..) ?_
    split
    · rw [mem_completePacket]; exact (canonical_matinsWord _ _ _ _ _ (hp ..)).ok ‹_›
    · rw [mem_completePacket]; exact wf_wordFailure _ _ _ ((canonical_matinsWord _ _ _ _ _ (hp ..)).fail ‹_›)
    · rwa [mem_waitOr]
  · exact h

theorem canonical_execNopPacket : NextCanonical (execNopPacket s) := by
  refine nextCanonical_next ?_
  split
  · rwa [mem_completePacket, mem_begin? _ _ ‹_›]
  · exact h

theorem canonical_execPlacementOpportunity : NextCanonical (execPlacementOpportunity s) :=
  nextCanonical_next (wf_tableFull (wf_placeAll _ h))

theorem canonical_execEpochBoundary : NextCanonical (execEpochBoundary s) := by
  refine nextCanonical_next (wf_ite (by rwa [mem_later]) ?_)
  rw [mem_fold_state fun t q => mem_ite (mem_watchCap ..) rfl]
  exact wf_fold_state (fun _ _ => wf_enterEpoch _) _ h

theorem canonical_execCapReached : NextCanonical (execCapReached s) :=
  nextCanonical_next (wf_ite (wf_enterEpoch _ h) (wf_ite h (wf_ite (wf_noteCap _ _ h) (wf_ite (by rwa [mem_later]) h))))

theorem canonical_execMatinsPreempt : NextCanonical (execMatinsPreempt s) := by
  refine nextCanonical_next ?_
  split
  · refine wf_ite h ?_
    split
    · rwa [mem_preempt _ ‹_›]
    · exact wf_cannotSave _ h
  · exact h

/-! ### Contexts -/

theorem canonical_execSaveComplete : NextCanonical (execSaveComplete s) := by
  refine nextCanonical_next ?_
  split
  · exact h
  · refine wf_ite (by rwa [mem_later]) (wf_ite h ?_)
    dsimp only
    split
    · rw [mem_post]
      refine wf_fold_state (fun _ _ => wf_saveOff _ _) _ ?_
      rwa [mem_fold_state fun _ _ => mem_blockEvent .., mem_takeAreas _ ‹_›]
    · refine wf_poolFull _ ?_
      rwa [mem_fold_state fun _ _ => by rw [mem_modCtx, mem_blockEvent]]
      
theorem canonical_execDeferredHaltSave : NextCanonical (execDeferredHaltSave s) := by
  refine nextCanonical_next ?_
  split
  · refine wf_ite ?_ h
    split
    · rw [mem_post]
      exact wf_fold_state (fun _ _ => wf_saveOff _ _) _ (by rwa [mem_takeAreas _ ‹_›])
    · exact h
  · exact h

theorem canonical_execContextResume : NextCanonical (execContextResume s) := by
  unfold execContextResume
  extract_lets c t
  refine nextCanonical_next ?_
  have hp : Memory.wf t.mem = true := by
    unfold t
    split
    · refine wf_ite ?_ h
      split
      · exact wf_placeSaved _ _ _ h
      · exact h
    · exact h
  split
  · refine wf_ite ?_ hp
    rw [mem_post]
    refine wf_fold_state (fun t b ht => ?_) _ hp
    split
    · rwa [mem_dropL1]
    · exact ht
  · exact hp

theorem canonical_execRestoreComplete : NextCanonical (execRestoreComplete s) := by
  refine nextCanonical_next (wf_ite (wf_issueAgain _ ?_) h)
  rwa [mem_fold_state mem_restoreBlock, mem_fold_state fun _ _ => mem_modCtx ..]

theorem canonical_execHandlerEntry : NextCanonical (execHandlerEntry s) := by
  refine nextCanonical_next ?_
  split
  · split
    · refine wf_ite h (wf_ite (by rwa [mem_afterWork, mem_modWave]) ?_)
      rw [mem_afterWork]; exact wf_deliver _ _ _ h
    · exact h
  · exact h

theorem canonical_execBreakpointPcStop : NextCanonical (execBreakpointPcStop s) := nextCanonical_next (by rwa [mem_breakpointStop])

theorem canonical_execStopComplete : NextCanonical (execStopComplete s) := by
  refine nextCanonical_next ?_
  split
  · exact wf_ite h (wf_ite (by rwa [mem_later]) (wf_ite (wf_fold_state (fun _ _ => wf_stopBlock _) _ h) h))
  · exact h

theorem canonical_execPageWalkComplete : NextCanonical (execPageWalkComplete s) :=
  nextCanonical_next (wf_translate _ _ _ _ _ _ (by rwa [mem_discardTlb]))

theorem canonical_execTlbinvComplete : NextCanonical (execTlbinvComplete s) := by
  refine nextCanonical_next ?_
  split
  · split
    · rw [mem_endOp]
      split
      · rwa [mem_acquire, mem_discardPointers, mem_discardTlb]
      · rwa [mem_discardPointers, mem_discardTlb]
    · exact h
  · exact h

theorem canonical_execUncorrectableError : NextCanonical (execUncorrectableError s) :=
  nextCanonical_next (wf_ite h (wf_ite (by rwa [mem_post]) h))

/-! ### Collectives -/

theorem canonical_execCollectiveStep : NextCanonical (execCollectiveStep s) := by
  refine nextCanonical_next ?_
  split
  · exact h
  · refine wf_ite h (wf_ite (wf_ite (by rwa [mem_chunkStep]) (wf_ite (by rwa [mem_sendStep]) h)) ?_)
    split
    · exact wf_ite (wf_localStep _ _ _ _ h) h
    · refine wf_ite h (wf_ite (wf_ite (by rwa [mem_failGroup]) h) ?_)
      have ht (ds : List (Nat × Coll)) (n k b : Nat) :
          Memory.wf (ds.foldl (fun (t : State) (d : Nat × Coll) => t.startSchedule d.1) (s.joinColl n k b)).mem = true := by
        rwa [mem_fold_state fun _ _ => mem_startSchedule .., mem_joinColl]
      dsimp only
      split
      · rw [mem_foreignStep]; exact ht ..
      · exact ht ..

theorem canonical_execCollectiveComplete : NextCanonical (execCollectiveComplete s) := by
  refine nextCanonical_next (wf_inTurn h fun s h => ?_)
  split
  · exact h
  · refine wf_ite (wf_finishColl _ _ _ (wf_ite (wf_scramble _ h) h)) (wf_ite (wf_finishColl _ _ _ h) (wf_ite h
      (wf_ite (by rwa [mem_later]) ?_)))
    have hr (c : Coll) := canonical_writeResults c h
    split
    · refine wf_finishColl _ _ _ ?_
      rw [mem_fold_state fun _ _ => mem_post ..]
      exact (hr _).ok ‹_›
    · rw [mem_failGroup]; exact (hr _).fail ‹_›
    · rwa [mem_later]

theorem canonical_execCollectiveStepTimeout : NextCanonical (execCollectiveStepTimeout s) := by
  refine nextCanonical_next ?_
  split
  · exact h
  · exact wf_ite h (wf_ite (by rwa [mem_later]) (wf_ite (by rwa [mem_failGroup]) (by rwa [mem_later])))

theorem canonical_execSuspendNotice : NextCanonical (execSuspendNotice s) := by
  refine nextCanonical_next ?_
  split
  · exact h
  · rwa [mem_fold_state fun _ _ => mem_ite rfl (mem_ite (by rw [mem_post, mem_putColl]) (mem_setColl ..))]

theorem canonical_execResumeNotice : NextCanonical (execResumeNotice s) := by
  refine nextCanonical_next ?_
  split
  · exact h
  · rwa [mem_fold_state fun _ _ => mem_ite rfl (mem_ite (by rw [mem_takeSlots, mem_putColl]) (mem_setColl ..))]

theorem canonical_execSuspensionSlotRelease : NextCanonical (execSuspensionSlotRelease s) := by
  refine nextCanonical_next ?_
  split
  · exact h
  · exact wf_ite h (wf_ite (by rwa [mem_later]) (by rwa [mem_offerSlots, mem_setColl]))

theorem canonical_execLinkSlotGrant : NextCanonical (execLinkSlotGrant s) := by
  refine nextCanonical_next ?_
  split
  · exact wf_ite (by rwa [mem_putColl]) h
  · exact h

/-! ### Coherence and slices -/

theorem canonical_cohRequest {e : Instr} {kind a n q : Nat} {apply : State → Nat × State}
    (ha : ∀ t, Memory.wf t.mem = true → Memory.wf (apply t).2.mem = true) : NextCanonical (cohRequest e s kind a n q apply) := by
  have hu : Memory.wf (s.taken e).mem = true := by rwa [mem_taken]
  refine nextCanonical_next ?_
  dsimp only
  refine wf_ite (by rwa [mem_freeLine, mem_arrived]) (wf_ite (by rwa [mem_waitLine]) ?_)
  split
  · rw [mem_freeLine, mem_record]; exact ha _ (by rwa [mem_arrived])
  · rwa [mem_waitLine]
  · rwa [mem_freeLine, mem_arrived]

theorem canonical_execCohRead : NextCanonical (execCohRead s) := by
  refine canonical_cohRequest h fun t ht => ?_
  split
  · exact ht
  · rw [mem_dataOf]; exact wf_cohRead _ _ ht

theorem canonical_execCohWrite : NextCanonical (execCohWrite s) := by
  refine canonical_cohRequest h fun t ht => ?_
  rw [mem_dataOf, mem_setLineRec, mem_clearPoison]
  exact wf_cohWrite _ _ _ ht

theorem canonical_execCohRollout : NextCanonical (execCohRollout s) := by
  unfold execCohRollout
  split
  · exact nextCanonical_next (by rwa [mem_post])
  · refine canonical_cohRequest h fun t ht => ?_
    rw [mem_dataOf]; exact wf_rollout _ _ ht

theorem canonical_execCommAddRequest : NextCanonical (execCommAddRequest s) := by
  unfold execCommAddRequest
  extract_lets f e
  exact canonical_cohRequest h fun t ht => wf_of_mem_eq (mem_setLineRec ..) (wf_pageAdd _ _ _ _ _ ht)

theorem canonical_execHomeAtomicRecall : NextCanonical (execHomeAtomicRecall s) := by
  unfold execHomeAtomicRecall
  extract_lets n g
  refine canonical_cohRequest h fun t ht => ?_
  extract_lets
  split
  · exact wf_recall _ ht
  · split
    · exact ht
    · exact List.foldlRecOn (motive := fun acc : Nat × Nat × State => Memory.wf acc.2.2.mem = true) _ _ ht
        fun acc ha l _ => wf_homeLane _ _ _ _ _ _ _ _ _ ha

theorem canonical_execGather : NextCanonical (execGather s) := canonical_cohRequest h fun _ ht => wf_gatherC _ ht

theorem canonical_execMirrorUpdate : NextCanonical (execMirrorUpdate s) := by
  have hu : Memory.wf (s.taken .mirrorUpdate).mem = true := by rwa [mem_taken]
  have hv : Memory.wf (s.taken .mirrorUpdate).settled.mem = true := by rwa [mem_settled]
  refine nextCanonical_next (wf_ite (wf_ite ?_ (by rwa [mem_wait])) (wf_ite (by rwa [mem_waitLine]) (wf_updateMirror _ hv)))
  rw [mem_hubSet]; exact wf_mirrorSlice _ hv

theorem canonical_execAgentReport : NextCanonical (execAgentReport s) := by
  refine nextCanonical_next ?_
  split
  · exact wf_ite (by rwa [mem_settled, mem_taken]) (by rwa [mem_wait, mem_taken])
  · exact wf_ite (wf_ite (by rwa [mem_post]) h) h

theorem canonical_execSliceRebuildComplete : NextCanonical (execSliceRebuildComplete s) := by
  refine nextCanonical_next ?_
  split
  · exact wf_ite (wf_rebuildSlice _ _ h) h
  · exact h

/-! ### Links -/

theorem canonical_execFlitArrive : NextCanonical (execFlitArrive s) :=
  nextCanonical_next (wf_ite (wf_remoteLane _ h) (wf_ite h (wf_ite (by rwa [mem_forwardFlit]) (wf_consumeFlit _ _ _ h))))

theorem canonical_execFlitRetry : NextCanonical (execFlitRetry s) := nextCanonical_next h

theorem canonical_execRemoteAckArrive : NextCanonical (execRemoteAckArrive s) := nextCanonical_next (by rwa [mem_ackArrive])

theorem canonical_execLinkReceiveTimeout : NextCanonical (execLinkReceiveTimeout s) := nextCanonical_next (by rwa [mem_linkDown])

theorem canonical_execLinkRetryExhausted : NextCanonical (execLinkRetryExhausted s) := nextCanonical_next (by rwa [mem_linkDown])

theorem canonical_execKeepAlive : NextCanonical (execKeepAlive s) := nextCanonical_next h

theorem canonical_execLinkTrained : NextCanonical (execLinkTrained s) :=
  nextCanonical_next (wf_ite h (wf_ite (by rwa [mem_post, mem_hubSet, mem_hubSet]) (by rwa [mem_hubSet, mem_hubSet])))

theorem canonical_execTrainComplete : NextCanonical (execTrainComplete s) := by
  refine nextCanonical_next (wf_ite h ?_)
  extract_lets t
  have ht : Memory.wf t.mem = true := by rwa [mem_setSvc]
  exact ht

theorem canonical_execControlFlitReissue : NextCanonical (execControlFlitReissue s) := nextCanonical_next (by rwa [mem_retryWaiting])

/-! ### Package, power and trace -/

theorem canonical_execThermalThrottle : NextCanonical (execThermalThrottle s) := by
  refine nextCanonical_next ?_
  extract_lets t
  have ht : Memory.wf t.mem = true := by rwa [mem_hubSet]
  exact wf_ite ht ht

theorem canonical_execThermalTrip : NextCanonical (execThermalTrip s) := by
  refine nextCanonical_next ?_
  extract_lets t u
  have hu : Memory.wf (u.setSvc 2 0 3).mem = true := by
    rwa [mem_setSvc, mem_hubSet, mem_fold_state fun _ _ => mem_linkDown ..]
  exact hu

theorem canonical_execTraceRecord : NextCanonical (execTraceRecord s) := nextCanonical_next (wf_ite (wf_addRecord _ _ _ h) h)

theorem canonical_execTracePageTimeout : NextCanonical (execTracePageTimeout s) := by
  refine nextCanonical_next ?_
  split
  · exact wf_ite h (wf_ite (wf_closePage _ h) (by rwa [mem_later]))
  · exact h

theorem canonical_execTraceSample : NextCanonical (execTraceSample s) := by
  refine nextCanonical_next (wf_ite h (wf_ite (by rwa [mem_later]) (wf_ite (by rwa [mem_later]) ?_)))
  rw [mem_post]
  exact wf_ite (by rwa [mem_fold_state fun _ _ => mem_sampleCore ..]) h

theorem canonical_execLaneCycleInterval : NextCanonical (execLaneCycleInterval s) := by
  refine nextCanonical_next (wf_ite h (wf_ite (by rwa [mem_later]) ?_))
  rw [mem_post, mem_latchRanges]
  exact wf_ite (by rwa [mem_fold_state fun _ _ => mem_laneCycles ..]) (by rwa [mem_zeroCounts])

theorem canonical_lowWrite (p : Nat → Bool) : NextCanonical (s.lowWrite p) := nextCanonical_next (wf_ite (wf_writeLow _ _ _ h) h)

theorem canonical_execPeerDeclare : NextCanonical (execPeerDeclare s) := nextCanonical_next (wf_ite (wf_peerCommand _ h) (wf_repair h))

theorem canonical_execDissolutionEnd : NextCanonical (execDissolutionEnd s) := nextCanonical_next (wf_ite (wf_dissolve _ h) h)

theorem canonical_execDieCoolsBelow100c : NextCanonical (execDieCoolsBelow100c s) := by
  refine nextCanonical_next ?_
  extract_lets t
  have ht : Memory.wf t.mem = true := by rwa [mem_hubSet]
  exact wf_ite ht (wf_ite ht ht)

theorem canonical_execPcieControlMemoryAccess : NextCanonical (execPcieControlMemoryAccess s) := by
  have hu : Memory.wf (s.taken .pcieControlMemoryAccess).mem = true := by rwa [mem_taken]
  refine nextCanonical_next (wf_ite ?_ (wf_ite h (wf_recalled h fun t ht => wf_ite ?_ ht)))
  · rw [mem_settled]
    exact wf_ite (wf_homeStoreOr _ _ _ hu) (wf_eventRecordAt _ _ _ _ _ _ hu)
  · exact wf_ite (wf_homeStore _ _ _ (wf_homeStore _ _ _ ht)) (wf_homeStore _ _ _ ht)

end

end Sys2Proof.Machine
end

section
/-! PROOFS. Proofs/MemoryStaysCanonical.lean: every step keeps the canonical form of memory. -/

namespace Sys2Proof.Machine

/-- Every operation, family by family: an instruction by its shape, an event by what it does to the hub, the engines and memory. -/
theorem canonical_exec {s : State} (h : Memory.wf s.mem = true) (i : Instr) : NextCanonical (exec i s) := by
  cases i with dsimp only [exec]
  | movS | addS | subS | andS | orS | xorS | shlS | shrS | sarS | mul24S | setlt | mov | movi | addImm | add | sub
  | addc | subb | neg | abs | min | max | and | or | xor | andn | not | shl | shr | sar | rol | ror | shlImm | shrImm
  | sarImm | rolImm | rorImm | mul24 | mad24 | mul32 | mad32 | div | rem | popc | clz | ctz | brev | bfeN32 | bfeS32
  | bfi | bsel | bgath | lea | add64 | sub64 | shl64 | shr64 | cmpS32 | cmpN32 | sel | packH2 | packB4 | packE2m1x8
  | unpackH2 | unpackB4 | unpackE2m1x8 | flagr | shflAt | shflRot | shflXor | shflAtImm | shflRotImm | shflXorImm
  | shflRev | quad => exact canonical_perLane h _ _
  | faddS | fsubS | fmulS | fminS | fmaxS | fadd | fsub | fmul | ffma | ffma3 | fmin | fmax | fminn | fmaxn | fabs
  | fneg | fcmpEq | fcmpLt | fcmpLe | fcmpUn | fcmpNe | fcmpGt | fcmpGe | fcmpOrd | fclass | fdiv | fsqrt | frnd
  | fldexp | cvt | hadd2F16 | hsub2F16 | hmul2F16 | hfma2F16 | hadd2Bf16 | hsub2Bf16 | hmul2Bf16 | hfma2Bf16 | hmin2
  | hmax2 | redF32 => exact canonical_perLaneFlags h _ _ _
  | nop => exact canonical_execNop h
  | guard => exact canonical_execGuard h _ _ _
  | part => exact canonical_execPart h _
  | yield => exact canonical_execYield h
  | exit => exact canonical_execExit h
  | trap => exact canonical_execTrap h _
  | brk => exact canonical_execBrk h _
  | barSync | barArrive => exact canonical_arrive h _ _ _
  | bra | braZ | jmp => exact canonical_branch h _ _ _ _
  | call => exact canonical_execCall h _ _
  | jmpr | callr | ret => exact canonical_jumpPair h _ _ _ _
  | sreg => exact canonical_execSreg h _ _
  | frcp | frsq | fexp2 | flog2 | fsin | fcos => exact canonical_sfu h _ _ _ _ _
  | flagrWave => exact canonical_execFlagrWave h _
  | flagc => exact canonical_execFlagc h
  | vote | ballot | red | scanInc | scanExc | matchB32 | matchB64 | elect => exact canonical_perTile h _ _ _
  | ld | ldAcq | lds | ldsAcq => exact canonical_load h _ _ _ _ _ _ _
  | st | stRel | sts | stsRel => exact canonical_store h _ _ _ _ _ _
  | atom | atoms => exact canonical_atomic h _ _ _ _ _ _ _ _ _ _ _ _
  | ratom => exact canonical_execRatom h _ _ _ _ _ _ _
  | prefetchL1 | prefetchCm => exact canonical_prefetch h _ _ _
  | fenceAcq | fenceRel | fenceFull => exact canonical_fence h _ _ _
  | tfence => exact canonical_execTfence h
  | inval => exact canonical_execInval h
  | mcfg => exact canonical_execMcfg h _ _
  | gang => exact canonical_execGang h _
  | mmaE2m1 | mmaE4m3 | mmaE5m2 | mmaS8 | mmaBf16 | mmaF16 => exact canonical_mmaArrive h _ _ _ _ _ _ _
  | mzero => exact canonical_execMzero h _ _
  | mrd => exact canonical_execMrd h _ _ _ _
  | mwr => exact canonical_execMwr h _ _ _ _
  | mscale => exact canonical_execMscale h _ _ _
  | rgnSet => exact canonical_execRgnSet h _ _ _
  | rgnPre => exact canonical_execRgnPre h _ _
  | rgnFlush => exact canonical_execRgnFlush h _ _
  | rgnDrop => exact canonical_execRgnDrop h _ _
  | rgnStat => exact canonical_execRgnStat h _ _ _
  | tbarInit => exact canonical_execTbarInit h _ _
  | tbarArrive => exact canonical_execTbarArrive h _ _
  | tbarWait => exact canonical_execTbarWait h _ _
  | tbarTest => exact canonical_execTbarTest h _ _ _
  | tbarRead => exact canonical_execTbarRead h _ _ _
  | chain => exact canonical_execChain h _ _
  | rcap | rcapL => exact canonical_rcap h _ _ _ _ _
  | arm => exact canonical_execArm h _ _ _
  | sendstat => exact canonical_execSendstat h _ _ _
  | sendW => exact canonical_execSendW h _ _ _ _ _ _
  | sendL => exact canonical_execSendL h _ _ _ _ _ _
  | qput => exact canonical_execQput h _ _ _
  | ntfRead => exact canonical_execNtfRead h _ _ _
  | ntfWait => exact canonical_execNtfWait h _ _
  | ntfWrite => exact canonical_execNtfWrite h _ _ _
  | sqProp => exact canonical_execSqProp h _ _ _
  | sqVerify => exact canonical_execSqVerify h _ _ _
  | sqCommit => exact canonical_execSqCommit h _ _
  | sqCommitD => exact canonical_execSqCommitD h _ _
  | sqNext => exact canonical_execSqNext h _ _ _
  | sqWatch => exact canonical_execSqWatch h _ _ _
  | sqRead => exact canonical_execSqRead h _ _ _
  | sqCtlOpen => exact canonical_execSqCtlOpen h _ _
  | sqCtlClose | sqCtlResume | sqCtlSetclass | sqCtlSetmask | sqCtlSetcnt | sqCtlClrdraft | sqCtlClrfq
    => exact canonical_sqCtl h _ _ _ _
  | sysr => exact canonical_execSysr h _ _
  | sysw => exact canonical_execSysw h _ _
  | eret => exact canonical_execEret h
  | halt => exact canonical_execHalt h
  | wfe => exact canonical_execWfe h
  | tlbinvPage | tlbinvPart | tlbinvAll => exact canonical_tlbinv h _ _ _
  | bundleIssue => exact canonical_execBundleIssue h
  | instructionComplete => exact canonical_execInstructionComplete h
  | waveRetire => exact canonical_execWaveRetire h
  | blockRetire => exact canonical_execBlockRetire h
  | loadDataReturn => exact canonical_execLoadDataReturn h
  | storeAcknowledged => exact canonical_execStoreAcknowledged h
  | atomicAtHome => exact canonical_execAtomicAtHome h
  | inboundSectorWritten => exact canonical_execInboundSectorWritten h
  | outboundSectorAck => exact canonical_execOutboundSectorAck h
  | reduceOnStoreCombine => exact canonical_execReduceOnStoreCombine h
  | multicastLanding => exact canonical_execMulticastLanding h
  | copyComplete => exact canonical_execCopyComplete h
  | copyFail => exact canonical_execCopyFail h
  | ratomAtTarget => exact canonical_execRatomAtTarget h
  | ratomAcknowledged => exact canonical_execRatomAcknowledged h
  | chainStart => exact canonical_execChainStart h
  | chainComplete => exact canonical_execChainComplete h
  | mmaRendezvous => exact canonical_execMmaRendezvous h
  | matrixOperationComplete => exact canonical_execMatrixOperationComplete h
  | laneWriteDecided => exact canonical_execLaneWriteDecided h
  | laneWriteForward => exact canonical_execLaneWriteForward h
  | sendOutcomeReturn => exact canonical_execSendOutcomeReturn h
  | vesperReply => exact canonical_execVesperReply h
  | queueInsertion => exact canonical_execQueueInsertion h
  | launchBegin => exact canonical_execLaunchBegin h
  | launchComplete => exact canonical_execLaunchComplete h
  | collectiveBegin => exact canonical_execCollectiveBegin h
  | waitBegin => exact canonical_execWaitBegin h
  | waitPoll => exact canonical_execWaitPoll h
  | signalBegin => exact canonical_execSignalBegin h
  | signalComplete => exact canonical_execSignalComplete h
  | fencePacket => exact canonical_execFencePacket h
  | markerPacket => exact canonical_execMarkerPacket h
  | nopPacket => exact canonical_execNopPacket h
  | placementOpportunity => exact canonical_execPlacementOpportunity h
  | epochBoundary => exact canonical_execEpochBoundary h
  | capReached => exact canonical_execCapReached h
  | matinsPreempt => exact canonical_execMatinsPreempt h
  | saveComplete => exact canonical_execSaveComplete h
  | deferredHaltSave => exact canonical_execDeferredHaltSave h
  | contextResume => exact canonical_execContextResume h
  | restoreComplete => exact canonical_execRestoreComplete h
  | handlerEntry => exact canonical_execHandlerEntry h
  | breakpointPcStop => exact canonical_execBreakpointPcStop h
  | stopComplete => exact canonical_execStopComplete h
  | pageWalkComplete => exact canonical_execPageWalkComplete h
  | tlbinvComplete => exact canonical_execTlbinvComplete h
  | uncorrectableError => exact canonical_execUncorrectableError h
  | collectiveStep => exact canonical_execCollectiveStep h
  | collectiveComplete => exact canonical_execCollectiveComplete h
  | collectiveStepTimeout => exact canonical_execCollectiveStepTimeout h
  | suspendNotice => exact canonical_execSuspendNotice h
  | resumeNotice => exact canonical_execResumeNotice h
  | suspensionSlotRelease => exact canonical_execSuspensionSlotRelease h
  | linkSlotGrant => exact canonical_execLinkSlotGrant h
  | cohRead => exact canonical_execCohRead h
  | cohWrite => exact canonical_execCohWrite h
  | cohRollout => exact canonical_execCohRollout h
  | commAddRequest => exact canonical_execCommAddRequest h
  | homeAtomicRecall => exact canonical_execHomeAtomicRecall h
  | gather => exact canonical_execGather h
  | mirrorUpdate => exact canonical_execMirrorUpdate h
  | agentReport => exact canonical_execAgentReport h
  | sliceRebuildComplete => exact canonical_execSliceRebuildComplete h
  | flitArrive => exact canonical_execFlitArrive h
  | flitRetry => exact canonical_execFlitRetry h
  | remoteAckArrive => exact canonical_execRemoteAckArrive h
  | linkReceiveTimeout => exact canonical_execLinkReceiveTimeout h
  | linkRetryExhausted => exact canonical_execLinkRetryExhausted h
  | keepAlive => exact canonical_execKeepAlive h
  | linkTrained => exact canonical_execLinkTrained h
  | trainComplete => exact canonical_execTrainComplete h
  | controlFlitReissue => exact canonical_execControlFlitReissue h
  | packageReset => exact canonical_execPackageReset s
  | thermalThrottle => exact canonical_execThermalThrottle h
  | thermalTrip => exact canonical_execThermalTrip h
  | traceRecord => exact canonical_execTraceRecord h
  | tracePageTimeout => exact canonical_execTracePageTimeout h
  | traceSample => exact canonical_execTraceSample h
  | laneCycleInterval => exact canonical_execLaneCycleInterval h
  | ctxPreempt | ctxHalt | ctxRelease | ctxKill | ctxStop | ctxContinue | ctxSignal | ctxSetdbg0 | ctxSetdbg1
    => exact nextCanonical_next (wf_ctxCommand _ h)
  | vopOpen | vopClose | vopResume | vopSetclass | vopSetmask | vopSetcnt | vopClrdraft | vopClrfq | vopInstall
    => exact nextCanonical_next (by rwa [mem_vop])
  | vdataWrite | vnhiWrite | vnpendClear | gcmdWrite | cmregionWrite | cmwindowWrite | pmaskWrite | lseedWrite
  | evsizeWrite | rootWrite | domselfWrite | chmapWrite | dmpkgWrite | firewallWindowWrite => exact canonical_lowWrite h _
  | queuePause | queueUnpause | queueEvict | queueReset => exact nextCanonical_next (wf_queueCommand _ _ h)
  | qctlWrite => exact nextCanonical_next (by rwa [mem_writeQctl])
  | qputRegister => exact nextCanonical_next (wf_qputRegister h)
  | partitionSeal => exact nextCanonical_next (wf_sealPart _ h)
  | partitionDissolve => exact nextCanonical_next (by rwa [mem_dissolvePart])
  | dissolutionEnd => exact canonical_execDissolutionEnd h
  | traceEnable | traceDisable => exact nextCanonical_next (wf_writeTrctl _ _ h)
  | verify | leavedawn | train => exact nextCanonical_next (wf_serviceCommand _ h)
  | pkgnumWrite => exact nextCanonical_next (by rwa [mem_writePkgnum])
  | feataccWrite => exact nextCanonical_next (by rwa [mem_writeFeatacc])
  | peerDeclare => exact canonical_execPeerDeclare h
  | peerAdmit => exact nextCanonical_next (wf_peerCommand _ h)
  | pwrcapWrite => exact nextCanonical_next (by rwa [mem_writePwrcap])
  | registerWrite => exact nextCanonical_next (wf_regWrite _ _ _ h)
  | dieCoolsBelow100c => exact canonical_execDieCoolsBelow100c h
  | packagePowerOverPwrcap => exact nextCanonical_next (by rwa [mem_hubSet])
  | pcieControlMemoryAccess => exact canonical_execPcieControlMemoryAccess h

theorem canonical_performIssued {s : State} (h : Memory.wf s.mem = true) : NextCanonical (performIssued s) := by
  unfold performIssued
  split
  · exact canonical_exec h _
  · exact nextCanonical_next h

theorem canonical_stepBundle {s : State} (h : Memory.wf s.mem = true) : NextCanonical (stepBundle s) := by
  unfold stepBundle
  have hb : NextCanonical (exec .bundleIssue s.serve) := canonical_exec (by rwa [mem_serve]) _
  split
  · exact canonical_performIssued (hb _ ‹_›)
  · exact hb

theorem canonical_step {s : State} (h : Memory.wf s.mem = true) : NextCanonical (step s) := by
  unfold step
  split
  · exact canonical_exec h _
  · split
    · exact canonical_exec (by rwa [mem_dueEvent _ ‹_›]) _
    · exact canonical_stepBundle (by rwa [mem_chooseBundle])

/-- Settles O4, by cases on what a step performs: a bundle at issue, a due event, or the bundle that the core chooses. -/
theorem memoryStaysCanonical : Obligations.MemoryStaysCanonical := by
  unfold Obligations.MemoryStaysCanonical
  intro s t h ht
  exact canonical_step h t ht

end Sys2Proof.Machine
end

section
/-! PROOFS. Proofs/HubReads.lean: the bits of a field that is set, what a hub register reads as after a write, the status bit of
chapter 27's registers, and an event's operands. -/

namespace Sys2Proof.Machine.SMap

theorem find?_set {α : Type} [DecidableEq α] (d : α) (m : List (Nat × α)) (k : Nat) (v : α) (j : Nat) :
    find? (set d m k v) j = if k = j then (if v = d then none else some v) else find? m j := by
  unfold set
  split
  · rw [find?_erase]
  · rw [find?_insert]

end Sys2Proof.Machine.SMap

namespace Sys2Proof.Machine

/-! ### Bit fields -/

theorem testBit_bits (x hi lo i : Nat) : (bits x hi lo).testBit i = (decide (i < hi + 1 - lo) && x.testBit (i + lo)) := by
  rw [bits, Nat.testBit_mod_two_pow, Nat.testBit_div_two_pow]

theorem testBit_setBits {hi lo : Nat} (h : lo ≤ hi) (x v i : Nat) :
    (setBits x hi lo v).testBit i = if lo ≤ i ∧ i ≤ hi then v.testBit (i - lo) else x.testBit i := by
  have shape : setBits x hi lo v = 2 ^ (hi + 1) * (x / 2 ^ (hi + 1)) + (2 ^ lo * (v % 2 ^ (hi + 1 - lo)) + x % 2 ^ lo) := by
    simp only [setBits]
    rw [Nat.mul_comm (x / _), Nat.mul_comm (v % _), Nat.add_assoc]
  have low : x % 2 ^ lo < 2 ^ lo := Nat.mod_lt _ (Nat.two_pow_pos _)
  have inner : 2 ^ lo * (v % 2 ^ (hi + 1 - lo)) + x % 2 ^ lo < 2 ^ (hi + 1) := by
    have below := Nat.mul_add_lt_mul_of_lt_of_lt (Nat.mod_lt v (Nat.two_pow_pos (hi + 1 - lo))) low
    rwa [← Nat.pow_add, Nat.sub_add_cancel (by omega)] at below
  rw [shape, Nat.testBit_two_pow_mul_add _ inner, Nat.testBit_two_pow_mul_add _ low, Nat.testBit_mod_two_pow,
    Nat.testBit_mod_two_pow, Nat.testBit_div_two_pow]
  rcases Nat.lt_or_ge i lo with below | above
  · rw [if_pos (by omega), if_pos below, if_neg (by omega), decide_eq_true below, Bool.true_and]
  · rw [if_neg (Nat.not_lt.2 above)]
    by_cases inside : i ≤ hi
    · rw [if_pos (by omega), if_pos ⟨above, inside⟩, decide_eq_true (by omega), Bool.true_and]
    · rw [if_neg (by omega), if_neg (by omega), Nat.sub_add_cancel (by omega)]

theorem bits_setBits_self {hi lo : Nat} (h : lo ≤ hi) (x v : Nat) : bits (setBits x hi lo v) hi lo = v % 2 ^ (hi + 1 - lo) := by
  refine Nat.eq_of_testBit_eq fun i => ?_
  rw [testBit_bits, testBit_setBits h, Nat.testBit_mod_two_pow, Nat.add_sub_cancel]
  by_cases hi' : i < hi + 1 - lo
  · rw [if_pos (by omega)]
  · simp [hi']

/-- A field keeps its value when a field apart from it is set. -/
theorem bits_setBits_apart {hi lo i j : Nat} (h : lo ≤ hi) (apart : i < lo ∨ hi < j) (x v : Nat) :
    bits (setBits x hi lo v) i j = bits x i j := by
  refine Nat.eq_of_testBit_eq fun k => ?_
  rw [testBit_bits, testBit_bits, testBit_setBits h]
  by_cases hk : k < i + 1 - j
  · rw [if_neg (by omega)]
  · simp [hk]

theorem setBits_lt {hi lo n x : Nat} (h : lo ≤ hi) (hn : hi < n) (hx : x < 2 ^ n) (v : Nat) : setBits x hi lo v < 2 ^ n := by
  refine Nat.lt_pow_two_of_testBit _ fun i hi' => ?_
  rw [testBit_setBits h, if_neg (by omega)]
  exact Nat.testBit_lt_two_pow (Nat.lt_of_lt_of_le hx (Nat.pow_le_pow_right (by decide) hi'))

theorem bits_one (x k : Nat) : bits x k k = (x.testBit k).toNat := by
  rw [Nat.toNat_testBit, bits, Nat.add_sub_cancel_left, Nat.pow_one]

theorem bits_one_eq_one_iff {x k : Nat} : bits x k k = 1 ↔ x.testBit k = true := by
  rw [bits_one, Bool.toNat_eq_one]

/-! ### Hub registers after a write -/

theorem hubGet_lt (s : State) (n sel : Nat) : s.hubGet n sel < 2 ^ 32 := BitVec.isLt _

theorem hubGet_congr {s t : State} (h : t.hub = s.hub) (n sel : Nat) : t.hubGet n sel = s.hubGet n sel := by
  rw [State.hubGet, State.hubGet, h]

@[simp] theorem hubGet_hubSet_self (s : State) (n sel v : Nat) : (s.hubSet n sel v).hubGet n sel = v % 2 ^ 32 := by
  simp [State.hubGet, State.hubSet, word]

/-- Registers under their selectors stand at keys of their own. -/
@[simp] theorem hubGet_hubSet_ne {n sel m j : Nat} (s : State) (v : Nat) (h : n * 0x10000 + sel ≠ m * 0x10000 + j) :
    (s.hubSet n sel v).hubGet m j = s.hubGet m j := by
  rw [State.hubGet, State.hubGet, SMap.get, SMap.get]
  simp only [State.hubSet, SMap.find?_set, if_neg h]

/-- A field of a register that is set within the register's 32 bits. -/
theorem hubGet_hubSet_setBits {hi lo : Nat} (h : lo ≤ hi) (h32 : hi < 32) (s : State) (n sel v : Nat) :
    (s.hubSet n sel (setBits (s.hubGet n sel) hi lo v)).hubGet n sel = setBits (s.hubGet n sel) hi lo v := by
  rw [hubGet_hubSet_self, Nat.mod_eq_of_lt (setBits_lt h h32 (hubGet_lt ..) v)]

/-! ### The status bit of chapter 27's registers -/

@[simp] theorem regSel_status (s : State) : s.regSel 0x802 = 0 := rfl

@[simp] theorem statusBit_refusal (s : State) (r : Bool) : ((s.refusal 0x802 r).hubGet 0x802 0).testBit 0 = r := by
  rw [State.refusal, regSel_status, State.refuseAt, hubGet_hubSet_setBits (Nat.le_refl _) (by decide),
    testBit_setBits (Nat.le_refl _), if_pos ⟨Nat.le_refl _, Nat.le_refl _⟩]
  cases r <;> rfl

theorem hubGet_refusal_ne {m j : Nat} (s : State) (r : Bool) (h : 0x8020000 ≠ m * 0x10000 + j) :
    (s.refusal 0x802 r).hubGet m j = s.hubGet m j := by
  rw [State.refusal, regSel_status]
  exact hubGet_hubSet_ne s _ h

theorem unless_of_refused {s : State} {n : Nat} {r : Bool} {f : State → State} (h : r = true) :
    s.unless n r f = s.refusal n true := if_pos h

theorem unless_of_applied {s : State} {n : Nat} {r : Bool} {f : State → State} (h : r = false) :
    s.unless n r f = (f s).refusal n false := if_neg (by simp [h])

/-! ### Operands of an event -/

theorem arg_of_one {s : State} {m : Nat} (h : s.args = [m]) : s.arg 0 = m := by rw [State.arg, h]; rfl

theorem args_of_two {s : State} {m n : Nat} (h : s.args = [m, n]) : s.arg 0 = m ∧ s.arg 1 = n := by
  rw [State.arg, State.arg, h]; exact ⟨rfl, rfl⟩

end Sys2Proof.Machine
end

section
/-! PROOFS. Proofs/ResetState.lean: what is read of the state after package reset. -/

namespace Sys2Proof.Machine

/-! ### Reads of the state after reset -/

/-- No register has been written since reset. -/
@[simp] theorem hubGet_reset (n sel : Nat) : State.reset.hubGet n sel = (hubReset n).toNat := rfl

theorem hubReset_eq_zero {n : Nat} (h : n ≠ 0x425 ∧ n ≠ 0x426 ∧ n ≠ 0x800 ∧ n ≠ 0x808 ∧ n ≠ 0x828) : hubReset n = 0 := by
  obtain ⟨h₁, h₂, h₃, h₄, h₅⟩ := h
  simp [hubReset, h₁, h₂, h₃, h₄, h₅]

theorem queue_reset (q : Nat) : State.reset.queue q = Queue.reset := rfl

theorem core_reset (k : Nat) : State.reset.core k = Core.reset := rfl

theorem feature_reset {k : Nat} (h : k < 4) : State.reset.hubGet (0x80C + k) 0 = 0 := by
  rw [hubGet_reset, hubReset_eq_zero (by omega)]
  rfl

/-- Settles O5: the registers read as the reset values of their numbers, and every list of work is empty. -/
theorem resetState : Obligations.ResetState := by
  unfold Obligations.ResetState
  refine ⟨rfl, rfl, rfl, rfl, rfl, fun k hk => feature_reset hk, rfl, rfl, fun p => ?_, fun q => ⟨?_, ?_⟩, fun k => ?_,
    fun p => rfl, rfl, rfl, rfl, rfl, rfl, rfl, rfl, rfl, rfl, rfl, fun l => ?_, rfl, rfl, rfl, wf_empty⟩
  · rw [State.partState, hubGet_reset, hubReset_eq_zero (by decide)]
    rfl
  · rw [State.qenabled, State.qctl, hubGet_reset, hubReset_eq_zero (by decide)]
    rfl
  · rw [queue_reset]
    rfl
  · rw [core_reset]
    exact ⟨rfl, rfl⟩
  · rw [hubGet_reset, hubReset_eq_zero (by decide)]
    rfl

end Sys2Proof.Machine
end

section
/-! PROOFS. Proofs/Service.lean: the commands of SVCCMD and the writes of PKGNUM, FEATACC and PWRCAP, each refused or applied. -/

namespace Sys2Proof.Machine

/-- Memory, contexts and the work in flight stay as they were. -/
def Unmoved (s t : State) : Prop := t.mem = s.mem ∧ t.ctxs = s.ctxs ∧ t.ops = s.ops

/-- The command or write is refused whole: of what BringUp reads, the status bit alone tells of it. -/
def Refuses (i : Instr) (s : State) : Prop :=
  ∃ t, exec i s = .next t ∧ (t.hubGet 0x802 0).testBit 0 = true ∧ Unmoved s t ∧ t.hubGet 0x800 0 = s.hubGet 0x800 0

theorem Unmoved.refl (s : State) : Unmoved s s := ⟨rfl, rfl, rfl⟩

theorem Unmoved.hubSet {s t : State} (h : Unmoved s t) (n sel v : Nat) : Unmoved s (t.hubSet n sel v) := by
  obtain ⟨mem, ctxs, ops⟩ := h
  exact ⟨(mem_hubSet ..).trans mem, (ctxs_hubSet ..).trans ctxs, (ops_hubSet ..).trans ops⟩

theorem Unmoved.setSvc {s t : State} (h : Unmoved s t) (hi lo v : Nat) : Unmoved s (t.setSvc hi lo v) := h.hubSet ..

theorem Unmoved.refusal {s t : State} (h : Unmoved s t) (n : Nat) (r : Bool) : Unmoved s (t.refusal n r) := h.hubSet ..

theorem Unmoved.withHot {s t : State} (h : Unmoved s t) (m : Nat) : Unmoved s { t with hot := m } := h

theorem refuses_of_refusal {i : Instr} {s : State} (run : exec i s = .next (s.refusal 0x802 true)) : Refuses i s :=
  ⟨_, run, statusBit_refusal .., (Unmoved.refl s).refusal .., hubGet_refusal_ne _ _ (by decide)⟩

/-! ### Fields of SVC -/

theorem imgOk_eq_true_iff {s : State} : s.imgOk = true ↔ bits (s.hubGet 0x800 0) 3 3 = 1 := bits_one_eq_one_iff.symm

theorem hubGet_setSvc {hi lo : Nat} (h : lo ≤ hi) (h32 : hi < 32) (s : State) (v : Nat) :
    (s.setSvc hi lo v).hubGet 0x800 0 = setBits (s.hubGet 0x800 0) hi lo v := hubGet_hubSet_setBits h h32 ..

/-- SVC is not the status register: a write that is done leaves it as the write made it. -/
theorem svc_refusal (s : State) (r : Bool) : (s.refusal 0x802 r).hubGet 0x800 0 = s.hubGet 0x800 0 :=
  hubGet_refusal_ne s r (by decide)

/-! ### PACKAGE_RESET and VERIFY (R29, R487) -/

theorem packageReset_resets (s : State) : ∃ t, exec .packageReset s = .next t ∧ { t with free := 0 } = State.reset :=
  ⟨_, rfl, rfl⟩

theorem exec_verify (s : State) : exec .verify s = .next s.verify := rfl

theorem verify_refused {s : State} (h : bits (s.hubGet 0x800 0) 3 3 = 1) : Refuses .verify s :=
  refuses_of_refusal (by rw [exec_verify, State.verify, unless_of_refused (imgOk_eq_true_iff.2 h)])

theorem taken_of_none_posted {s : State} (h : ∀ w ∈ s.waiting, w.posted = false) (e : Instr) : s.taken e = s := by
  have absent : s.waiting.findIdx? (fun w => w.posted && w.event == e && w.args == s.args) = .none := by
    rw [List.findIdx?_eq_none_iff]
    exact fun w hw => by simp [h w hw]
  rw [State.taken, absent]

theorem settled_of_no_turn {s : State} (h : ∀ w ∈ s.waiting, w.turn = false) : s.settled = s := by
  have absent : s.waiting.find? (fun w => w.turn) = .none := by
    rw [List.find?_eq_none]
    exact fun w hw => by simp [h w hw]
  rw [State.settled, absent]

theorem outer_foldl_recall (ls : List Nat) : ∀ s : State, (ls.foldl State.recall s).outer = s.outer := by
  induction ls with
  | nil => exact fun _ => rfl
  | cons l ls ih => exact fun s => (ih _).trans (outer_recall s l)

theorem waiting_of_outer {s t : State} (h : t.outer = s.outer) : t.waiting = s.waiting := (congrArg State.waiting h :)

/-- With no request at its turn and every line's home serving, the lines are recalled at once. -/
theorem recalled_of_serves {s : State} {off n : Nat} (e : Instr) (args : List Nat) (f : State → State)
    (posted : ∀ w ∈ s.waiting, w.posted = false) (serves : ∀ l ∈ s.heldLines off n, s.lineState 2 0 l = .serves) :
    s.recalled off n e args f = (f ((s.heldLines off n).foldl State.recall s)).settled := by
  have absent : (s.heldLines off n).find? (fun l => s.lineState 2 0 l != .serves) = .none := by
    rw [List.find?_eq_none]
    exact fun l hl => by simp [serves l hl]
  simp only [State.recalled, taken_of_none_posted posted, absent]

/-- The domain offset of the image in the package's control memory. -/
def State.imageAt (s : State) : Nat := s.homeBase + s.hubGet64 0x803 0 % 2 ^ 36

/-- The lines that VERIFY recalls: of the header and the longest image. -/
def State.imageLines (s : State) : List Nat := s.heldLines s.imageAt (256 + 2 ^ 30)

/-- The package after that recall. -/
def State.imageRecalled (s : State) : State := s.imageLines.foldl State.recall s

theorem hub_imageRecalled (s : State) : s.imageRecalled.hub = s.hub := hub_of_outer (outer_foldl_recall ..)

theorem ctxs_imageRecalled (s : State) : s.imageRecalled.ctxs = s.ctxs := ctxs_of_outer (outer_foldl_recall ..)

theorem waiting_imageRecalled (s : State) : s.imageRecalled.waiting = s.waiting := waiting_of_outer (outer_foldl_recall ..)

/-- What VERIFY makes of the image at domain offset a. -/
def State.judged (s : State) (a : Nat) : State := if imageGenuine s a then s.setSvc 4 3 1 else s.setSvc 4 4 1

theorem waiting_judged (s : State) (a : Nat) : (s.judged a).waiting = s.waiting := by
  unfold State.judged
  split <;> rfl

theorem unmoved_judged (s : State) (a : Nat) : Unmoved s (s.judged a) := by
  unfold State.judged
  split <;> exact (Unmoved.refl s).setSvc ..

theorem svc_judged (s : State) (a : Nat) : (s.judged a).hubGet 0x800 0 =
    if imageGenuine s a then setBits (s.hubGet 0x800 0) 4 3 1 else setBits (s.hubGet 0x800 0) 4 4 1 := by
  unfold State.judged
  split <;> exact hubGet_setSvc (by decide) (by decide) ..

section
variable {s : State} (unverified : bits (s.hubGet 0x800 0) 3 3 = 0) (idle : ∀ w ∈ s.waiting, w.posted = false ∧ w.turn = false)
  (serves : ∀ l ∈ s.imageLines, s.lineState 2 0 l = .serves)
include unverified idle serves

theorem verify_recalled : s.verify = (s.imageRecalled.judged s.imageAt).refusal 0x802 false := by
  have notOk : s.imgOk = false := by rw [Bool.eq_false_iff, ne_eq, imgOk_eq_true_iff, unverified]; decide
  have recalled : s.recalled s.imageAt (256 + 2 ^ 30) .verify [] (State.judged · s.imageAt) =
      (s.imageRecalled.judged s.imageAt).settled := recalled_of_serves _ _ _ (fun w hw => (idle w hw).1) serves
  have noTurn : ∀ w ∈ (s.imageRecalled.judged s.imageAt).waiting, w.turn = false := by
    rw [waiting_judged, waiting_imageRecalled]
    exact fun w hw => (idle w hw).2
  rw [settled_of_no_turn noTurn] at recalled
  rw [← recalled]
  exact unless_of_applied (f := fun t => t.recalled s.imageAt (256 + 2 ^ 30) .verify [] (State.judged · s.imageAt)) notOk

/-- VERIFY changes of SVC the bits IMGOK and IMGBAD alone. -/
theorem verify_applied : ∃ t, exec .verify s = .next t ∧ (t.hubGet 0x802 0).testBit 0 = false ∧ t.ctxs = s.ctxs ∧
    t.mem = s.imageRecalled.mem ∧ bits (t.hubGet 0x800 0) 9 5 = bits (s.hubGet 0x800 0) 9 5 ∧
    bits (t.hubGet 0x800 0) 2 0 = bits (s.hubGet 0x800 0) 2 0 ∧
    (imageGenuine s.imageRecalled s.imageAt = true → bits (t.hubGet 0x800 0) 3 3 = 1 ∧ bits (t.hubGet 0x800 0) 4 4 = 0) ∧
    (imageGenuine s.imageRecalled s.imageAt = false → bits (t.hubGet 0x800 0) 3 3 = 0 ∧ bits (t.hubGet 0x800 0) 4 4 = 1) := by
  obtain ⟨mem, ctxs, -⟩ := (unmoved_judged s.imageRecalled s.imageAt).refusal 0x802 false
  refine ⟨_, (exec_verify s).trans (congrArg Host.Outcome.next (verify_recalled unverified idle serves)), statusBit_refusal ..,
    ctxs.trans (ctxs_imageRecalled s), mem, ?_⟩
  rw [svc_refusal, svc_judged, hubGet_congr (hub_imageRecalled s)]
  cases imageGenuine s.imageRecalled s.imageAt with
  | true =>
    rw [if_pos rfl]
    refine ⟨bits_setBits_apart (by decide) (by decide) .., bits_setBits_apart (by decide) (by decide) .., fun _ => ?_, nofun⟩
    rw [bits_one, bits_one, testBit_setBits (by decide), testBit_setBits (by decide)]
    exact ⟨rfl, rfl⟩
  | false =>
    rw [if_neg Bool.false_ne_true]
    refine ⟨bits_setBits_apart (by decide) (by decide) .., bits_setBits_apart (by decide) (by decide) .., nofun, fun _ => ⟨?_, ?_⟩⟩
    · rw [bits_setBits_apart (by decide) (by decide), unverified]
    · exact bits_setBits_self (by decide) ..

end

/-! ### LEAVEDAWN and TRAIN (R485, R489) -/

theorem exec_leavedawn (s : State) : exec .leavedawn s = .next s.leaveDawn := rfl

theorem leavedawn_refused {s : State} (h : bits (s.hubGet 0x800 0) 2 0 ≠ 1 ∨ bits (s.hubGet 0x800 0) 3 3 ≠ 1 ∨
    bits (s.hubGet 0x800 0) 5 5 ≠ 1 ∨ bits (s.hubGet 0x800 0) 9 6 ≠ 15) : Refuses .leavedawn s := by
  refine refuses_of_refusal ?_
  rw [exec_leavedawn, State.leaveDawn, unless_of_refused]
  rcases h with dawn | image | memory | dies
  · simp [State.svcState, dawn]
  · simp [Bool.eq_false_iff.2 (mt imgOk_eq_true_iff.1 image)]
  · simp [Bool.eq_false_iff.2 (mt bits_one_eq_one_iff.2 memory)]
  · simp [State.dies, dies]

theorem leavedawn_applied {s : State} (dawn : bits (s.hubGet 0x800 0) 2 0 = 1) (image : bits (s.hubGet 0x800 0) 3 3 = 1)
    (memory : bits (s.hubGet 0x800 0) 5 5 = 1) (dies : bits (s.hubGet 0x800 0) 9 6 = 15) :
    ∃ t, exec .leavedawn s = .next t ∧ (t.hubGet 0x802 0).testBit 0 = false ∧ Unmoved s t ∧ bits (t.hubGet 0x800 0) 2 0 = 2 ∧
      bits (t.hubGet 0x800 0) 9 3 = bits (s.hubGet 0x800 0) 9 3 ∧ t.hubGet 0x425 0 = 0 := by
  have allowed : (s.svcState != 1 || !s.imgOk || !(s.hubGet 0x800 0).testBit 5 || s.dies != 15) = false := by
    simp [State.svcState, State.dies, dawn, dies, imgOk_eq_true_iff.2 image, bits_one_eq_one_iff.1 memory]
  refine ⟨_, (exec_leavedawn s).trans (congrArg Host.Outcome.next (unless_of_applied allowed)), statusBit_refusal ..,
    (((Unmoved.refl s).setSvc ..).hubSet ..).refusal .., ?_⟩
  rw [svc_refusal, hubGet_hubSet_ne _ _ (by decide), hubGet_setSvc (by decide) (by decide)]
  refine ⟨bits_setBits_self (by decide) .., bits_setBits_apart (by decide) (by decide) .., ?_⟩
  rw [hubGet_refusal_ne _ _ (by decide), hubGet_hubSet_self, Nat.zero_mod]

theorem exec_train (s : State) : exec .train s = .next s.train := rfl

/-- The state of service, the image and the units selected allow TRAIN. -/
def MayTrain (s : State) : Prop := bits (s.hubGet 0x800 0) 3 3 = 1 ∧ s.training = 0 ∧
  (bits (s.hubGet 0x800 0) 2 0 = 1 ∨ (bits (s.hubGet 0x800 0) 2 0 = 2 ∧ s.hubGet 0x805 0 % 16 = 0))

theorem mayTrain_iff {s : State} : MayTrain s ↔ (!s.imgOk || s.training != 0 ||
    !(s.svcState == 1 || (s.svcState == 2 && s.hubGet 0x805 0 % 16 == 0))) = false := by
  rw [MayTrain, ← imgOk_eq_true_iff]
  simp [State.svcState, and_assoc, or_iff_not_imp_left]

theorem train_refused {s : State} (h : ¬ MayTrain s) : Refuses .train s := by
  rw [mayTrain_iff, Bool.not_eq_false] at h
  exact refuses_of_refusal (by rw [exec_train, State.train, unless_of_refused h])

theorem untrained_eq (s : State) : s.untrained = (s.hubGet 0x805 0 % 16 &&& (15 - bits (s.hubGet 0x800 0) 9 6)) +
    if (s.hubGet 0x805 0).testBit 4 && !(List.range 32).all (fun l => (s.hubGet 0x811 l).testBit 1) then 16 else 0 := by
  have low : s.hubGet 0x805 0 % 32 % 16 = s.hubGet 0x805 0 % 16 := Nat.mod_mod_of_dvd _ (by decide)
  have links : (s.hubGet 0x805 0 % 32).testBit 4 = (s.hubGet 0x805 0).testBit 4 := Nat.testBit_mod_two_pow _ 5 4
  rw [State.untrained, low, links, State.dies]

/-- What TRAIN does when it is not refused. -/
def State.startTraining (s : State) : State :=
  if s.untrained = 0 then s
  else ({ s with training := s.untrained, free := s.free + 1 } : State).post .trainComplete [Config.freeNat s.free]

/-- TRAIN with nothing to train ends at once; else its units are in training, and TRAIN_COMPLETE is due. -/
theorem train_applied {s : State} {units : Nat} (hu : s.untrained = units) (h : MayTrain s) :
    ∃ t : State, exec .train s = .next t ∧ (t.hubGet 0x802 0).testBit 0 = false ∧ Unmoved s t ∧
    t.hubGet 0x800 0 = s.hubGet 0x800 0 ∧ t.training = units ∧
    (units ≠ 0 → ∃ pass : Nat, t.agenda = s.agenda ++ [(Instr.trainComplete, [pass])]) := by
  have run := unless_of_applied (s := s) (n := 0x802) (f := State.startTraining) (mayTrain_iff.1 h)
  refine ⟨_, (exec_train s).trans (congrArg Host.Outcome.next run), statusBit_refusal .., ?_⟩
  rw [svc_refusal]
  obtain ⟨-, none, -⟩ := h
  subst hu
  by_cases trained : s.untrained = 0
  · rw [State.startTraining, if_pos trained, trained]
    exact ⟨⟨rfl, rfl, rfl⟩, rfl, none, fun units => absurd rfl units⟩
  · rw [State.startTraining, if_neg trained]
    exact ⟨⟨rfl, rfl, rfl⟩, rfl, rfl, fun _ => ⟨_, rfl⟩⟩

theorem exec_trainComplete {s : State} (units : s.training ≠ 0) (service : bits (s.hubGet 0x800 0) 2 0 ≠ 3) :
    exec .trainComplete s = .next
      { s.setSvc 9 6 (s.dies ||| (s.arg 0 % 16 &&& s.training)) with training := 0, interrupts := s.interrupts + 1 } :=
  congrArg Host.Outcome.next (if_neg (not_or.2 ⟨units, service⟩))

theorem trainComplete_applied {s : State} {m : Nat} (hm : s.args = [m]) (units : s.training ≠ 0)
    (service : bits (s.hubGet 0x800 0) 2 0 ≠ 3) : ∃ t, exec .trainComplete s = .next t ∧ Unmoved s t ∧ t.training = 0 ∧
      bits (t.hubGet 0x800 0) 9 6 = bits (s.hubGet 0x800 0) 9 6 ||| (m % 16 &&& s.training) ∧
      t.interrupts = s.interrupts + 1 := by
  refine ⟨_, exec_trainComplete units service, ⟨rfl, rfl, rfl⟩, rfl, ?_, rfl⟩
  have dies : bits (s.hubGet 0x800 0) 9 6 < 2 ^ 4 := Nat.mod_lt _ (by decide)
  have pass : m % 16 &&& s.training < 2 ^ 4 := Nat.lt_of_le_of_lt Nat.and_le_left (Nat.mod_lt _ (by decide))
  change bits ((s.setSvc 9 6 _).hubGet 0x800 0) 9 6 = _
  rw [hubGet_setSvc (by decide) (by decide), bits_setBits_self (by decide), arg_of_one hm]
  exact Nat.mod_eq_of_lt (Nat.or_lt_two_pow dies pass)

/-! ### PKGNUM, FEATACC and PWRCAP (R482, R486, R490) -/

/-- Work whose target is another package. -/
def OpKind.remote : OpKind → Prop
  | .ratom .. | .laneWrite .. => True
  | .copy _ _ _ _ _ _ _ _ link => link ≠ 0
  | _ => False

/-- A block is resident, or remote work is in flight. -/
def PkgBusy (s : State) : Prop :=
  (∃ c x, (c, x) ∈ s.ctxs ∧ x.placed = true) ∨ s.colls ≠ [] ∨ ∃ id o, (id, o) ∈ s.ops ∧ o.kind.remote

theorem pkgBusy_iff {s : State} : s.pkgBusy = true ↔ PkgBusy s := by
  simp only [State.pkgBusy, PkgBusy, Bool.or_eq_true, List.any_eq_true, Prod.exists, Bool.not_eq_true', List.isEmpty_eq_false_iff,
    or_assoc]
  refine or_congr_right (or_congr_right (exists_congr fun id => exists_congr fun o => and_congr_right fun _ => ?_))
  cases o.kind <;> simp [OpKind.remote]

theorem exec_pkgnumWrite {s : State} {v : Nat} (hv : s.args = [v]) :
    exec .pkgnumWrite s = .next (s.writePkgnum (v % 2 ^ 32)) := by rw [← arg_of_one hv]; rfl

theorem pkgnumWrite_refused {s : State} {v : Nat} (hv : s.args = [v]) (h : bits (s.hubGet 0x800 0) 2 0 ≠ 1 ∨ PkgBusy s) :
    Refuses .pkgnumWrite s := by
  refine refuses_of_refusal ?_
  rw [exec_pkgnumWrite hv, State.writePkgnum, unless_of_refused]
  rcases h with dawn | busy
  · simp [State.svcState, dawn]
  · simp [pkgBusy_iff.2 busy]

theorem pkgnumWrite_applied {s : State} {v : Nat} (hv : s.args = [v]) (dawn : bits (s.hubGet 0x800 0) 2 0 = 1)
    (idle : ¬ PkgBusy s) : ∃ t, exec .pkgnumWrite s = .next t ∧ (t.hubGet 0x802 0).testBit 0 = false ∧ Unmoved s t ∧
      t.hubGet 0x806 0 = v % 2 ^ 20 := by
  have allowed : (s.svcState != 1 || s.pkgBusy) = false := by
    simp [State.svcState, dawn, Bool.eq_false_iff.2 (mt pkgBusy_iff.1 idle)]
  refine ⟨_, (exec_pkgnumWrite hv).trans (congrArg Host.Outcome.next (unless_of_applied allowed)), statusBit_refusal ..,
    ((Unmoved.refl s).hubSet ..).refusal .., ?_⟩
  rw [hubGet_refusal_ne _ _ (by decide), hubGet_hubSet_self]
  omega

section
variable {s : State} {k v : Nat} (hkv : s.args = [k, v]) (hk : k < 4) (hv : v < 2 ^ 32)
include hkv hk hv

theorem exec_feataccWrite : exec .feataccWrite s = .next (s.unless 0x802
    (s.svcState != 1 || (v ||| s.hubGet (0x808 + k) 0) != s.hubGet (0x808 + k) 0) fun t => t.hubSet (0x80C + k) 0 v) := by
  obtain ⟨arg₀, arg₁⟩ := args_of_two hkv
  have offer : 0x80C + k - 4 = 0x808 + k := by omega
  change Host.Outcome.next (s.writeFeatacc (0x80C + s.arg 0 % 4) (s.arg 1 % 2 ^ 32)) = _
  rw [arg₀, arg₁, Nat.mod_eq_of_lt hk, Nat.mod_eq_of_lt hv, State.writeFeatacc, offer]

theorem feataccWrite_refused (h : bits (s.hubGet 0x800 0) 2 0 ≠ 1 ∨
    (v ||| s.hubGet (0x808 + k) 0) ≠ s.hubGet (0x808 + k) 0) : Refuses .feataccWrite s := by
  refine refuses_of_refusal ?_
  rw [exec_feataccWrite hkv hk hv, unless_of_refused]
  rcases h with dawn | offer
  · simp [State.svcState, dawn]
  · simp [offer]

theorem feataccWrite_applied (dawn : bits (s.hubGet 0x800 0) 2 0 = 1)
    (offer : (v ||| s.hubGet (0x808 + k) 0) = s.hubGet (0x808 + k) 0) :
    ∃ t, exec .feataccWrite s = .next t ∧ (t.hubGet 0x802 0).testBit 0 = false ∧ Unmoved s t ∧ t.hubGet (0x80C + k) 0 = v := by
  have allowed : (s.svcState != 1 || (v ||| s.hubGet (0x808 + k) 0) != s.hubGet (0x808 + k) 0) = false := by
    simp [State.svcState, dawn, offer]
  refine ⟨_, (exec_feataccWrite hkv hk hv).trans (congrArg Host.Outcome.next (unless_of_applied allowed)), statusBit_refusal ..,
    ((Unmoved.refl s).hubSet ..).refusal .., ?_⟩
  rw [hubGet_refusal_ne _ _ (by omega), hubGet_hubSet_self, Nat.mod_eq_of_lt hv]

end

theorem exec_pwrcapWrite {s : State} {v : Nat} (hv : s.args = [v]) :
    exec .pwrcapWrite s = .next (s.writePwrcap (v % 2 ^ 32)) := by rw [← arg_of_one hv]; rfl

theorem pwrcapWrite_clamps {s : State} {v : Nat} (hv : s.args = [v]) (h32 : v < 2 ^ 32) :
    ∃ t, exec .pwrcapWrite s = .next t ∧ Unmoved s t ∧ t.hubGet 0x828 0 = max 300 (min 4200 v) := by
  refine ⟨_, exec_pwrcapWrite hv, ((Unmoved.refl s).hubSet ..).refusal .., ?_⟩
  rw [State.writePwrcap, hubGet_refusal_ne _ _ (by decide), hubGet_hubSet_self, Nat.mod_eq_of_lt h32]
  change max 300 (min 4200 v) % 2 ^ 32 = _
  omega

end Sys2Proof.Machine
end

section
/-! PROOFS. Proofs/BringUp.lean: power and temperature, the trip that takes every link down, and bring-up as a whole. -/

namespace Sys2Proof.Machine

/-! ### Power and temperature (R499) -/

/-- A field of the power and temperature register after a write of a value of a byte. -/
theorem hubGet_setByte {hi lo : Nat} (h : lo + 7 = hi) (h32 : hi < 32) (s : State) (n sel c : Nat) :
    (s.hubSet n sel (setBits (s.hubGet n sel) hi lo (Nat.min 255 c))).hubGet n sel / 2 ^ lo % 2 ^ 8 = min 255 c := by
  have width : hi + 1 - lo = 8 := by omega
  have field := bits_setBits_self (show lo ≤ hi by omega) (s.hubGet n sel) (Nat.min 255 c)
  rw [bits, width] at field
  rw [hubGet_hubSet_setBits (by omega) h32, field]
  exact Nat.mod_eq_of_lt (by change min 255 c < _; omega)

theorem thermalThrottle_withholds {s : State} {d c : Nat} (hdc : s.args = [d, c]) (hd : d < 4) (hot : 100 ≤ c) :
    ∃ t, exec .thermalThrottle s = .next t ∧ Unmoved s t ∧ t.hot.testBit d = true ∧ t.hubGet 0x829 0 % 2 ^ 8 = min 255 c := by
  obtain ⟨arg₀, arg₁⟩ := args_of_two hdc
  have reached : ¬ s.arg 1 < 100 := by omega
  refine ⟨_, congrArg Host.Outcome.next (if_neg reached), ⟨rfl, rfl, rfl⟩, ?_, ?_⟩
  · simp [arg₀, Nat.mod_eq_of_lt hd]
  · have byte := hubGet_setByte (hi := 7) (lo := 0) rfl (by decide) s 0x829 0 c
    rw [Nat.pow_zero, Nat.div_one] at byte
    rw [arg₁]
    exact byte

/-- A set bit is taken away as any field is set to 0. -/
theorem sub_two_pow_eq_setBits {x k : Nat} (h : x.testBit k = true) : x - 2 ^ k = setBits x k k 0 := by
  have odd : x / 2 ^ k % 2 = 1 := by rwa [Nat.testBit_eq_decide_div_mod_eq, decide_eq_true_eq] at h
  have whole : x / 2 ^ k = 2 * (x / 2 ^ (k + 1)) + 1 := by rw [Nat.pow_succ, ← Nat.div_div_eq_div_mul]; omega
  have parts := Nat.div_add_mod x (2 ^ k)
  rw [whole, Nat.mul_add, ← Nat.mul_assoc, ← Nat.pow_succ, Nat.mul_one] at parts
  simp only [setBits, Nat.zero_mod, Nat.zero_mul, Nat.add_zero]
  rw [Nat.mul_comm (x / _)]
  exact Nat.sub_eq_of_eq_add (parts.symm.trans (Nat.add_right_comm ..))

theorem testBit_setBits_zero (x k i : Nat) : (setBits x k k 0).testBit i = if i = k then false else x.testBit i := by
  rw [testBit_setBits (Nat.le_refl k), Nat.zero_testBit]
  by_cases h : i = k
  · rw [if_pos (by omega), if_pos h]
  · rw [if_neg (by omega), if_neg h]

theorem exec_dieCools {s : State} {d c : Nat} (hdc : s.args = [d, c]) (hd : d < 4) (service : bits (s.hubGet 0x800 0) 2 0 ≠ 3) :
    exec .dieCoolsBelow100c s = .next
      { s.hubSet 0x829 0 (setBits (s.hubGet 0x829 0) 7 0 (Nat.min 255 c)) with hot := setBits s.hot d d 0 } := by
  obtain ⟨arg₀, arg₁⟩ := args_of_two hdc
  refine congrArg Host.Outcome.next ((if_neg (show ¬ s.svcState = 3 from service)).trans ?_)
  rw [arg₀, arg₁, Nat.mod_eq_of_lt hd]
  cases bit : s.hot.testBit d with
  | true => exact (if_pos bit).trans (by rw [hot_hubSet, sub_two_pow_eq_setBits bit])
  | false =>
    have same : setBits s.hot d d 0 = s.hot := Nat.eq_of_testBit_eq fun i => by
      rw [testBit_setBits_zero]
      split
      · rw [‹i = d›, bit]
      · rfl
    exact (if_neg (by rw [hot_hubSet, bit]; exact Bool.false_ne_true)).trans (by rw [same]; rfl)

theorem dieCools_releases {s : State} {d c : Nat} (hdc : s.args = [d, c]) (hd : d < 4)
    (service : bits (s.hubGet 0x800 0) 2 0 ≠ 3) : ∃ t, exec .dieCoolsBelow100c s = .next t ∧ Unmoved s t ∧
      t.hot.testBit d = false ∧ ∀ k, k ≠ d → t.hot.testBit k = s.hot.testBit k :=
  ⟨_, exec_dieCools hdc hd service, ⟨rfl, rfl, rfl⟩, by simp [testBit_setBits_zero],
    fun k hk => by simp [testBit_setBits_zero, hk]⟩

theorem power_withholds {s : State} {n : Nat} (hn : s.args = [n]) : ∃ t, exec .packagePowerOverPwrcap s = .next t ∧
    Unmoved s t ∧ t.hubGet 0x829 0 / 2 ^ 8 % 2 ^ 8 = min 255 n := by
  refine ⟨_, rfl, (Unmoved.refl s).hubSet .., ?_⟩
  rw [arg_of_one hn]
  exact hubGet_setByte rfl (by decide) ..

/-! ### THERMAL_TRIP (R499) -/

theorem posted_loseOps (s : State) (p : Nat → Nat → Bool) : Posted s (s.loseOps p) := by
  refine Posted.foldl _ (fun t e => ?_) _ _
  dsimp only
  split
  · exact Posted.foldl _ (fun _ _ => Posted.post ..) _ _
  · split
    · exact Posted.post ..
    · exact Posted.refl t
  · split
    · exact Posted.post ..
    · exact Posted.refl t
  · exact Posted.refl t

theorem Posted.hub {s t : State} (h : Posted s t) : t.hub = s.hub := (congrArg State.hub h.outside :)
theorem Posted.ctxs {s t : State} (h : Posted s t) : t.ctxs = s.ctxs := (congrArg State.ctxs h.outside :)
theorem Posted.colls {s t : State} (h : Posted s t) : t.colls = s.colls := (congrArg State.colls h.outside :)

/-- With no collective in progress, a link that goes down changes its own register and ends what was sent on it. -/
theorem linkDown_of_up {s : State} {l : Nat} (quiet : s.colls = []) (up : s.linkUp l = true) : s.linkDown l =
    { (s.loseOps fun _ k => k == l + 1).hubSet 0x811 l (setBits (setBits (s.hubGet 0x811 l) 0 0 0) 2 2 1) with
      interrupts := (s.loseOps fun _ k => k == l + 1).interrupts + 1, free := (s.loseOps fun _ k => k == l + 1).free + 1 } := by
  simp only [State.linkDown, if_pos up, quiet, List.filter_nil, List.foldl_nil, ite_self]
  rfl

theorem linkDown_of_down {s : State} {l : Nat} (down : s.linkUp l = false) : s.linkDown l = s := if_neg (by simp [down])

/-- What a link that goes down keeps, with no collective in progress: contexts, collectives, and the other links. -/
theorem linkDown_keeps {s : State} (quiet : s.colls = []) (l : Nat) : (s.linkDown l).ctxs = s.ctxs ∧
    (s.linkDown l).colls = [] ∧ ∀ k, (s.linkDown l).linkUp k = (s.linkUp k && decide (k ≠ l)) := by
  cases up : s.linkUp l with
  | false =>
    rw [linkDown_of_down up]
    refine ⟨rfl, quiet, fun k => ?_⟩
    by_cases h : k = l
    · simp [h, up]
    · simp [h]
  | true =>
    have posted := posted_loseOps s fun _ k => k == l + 1
    rw [linkDown_of_up quiet up]
    refine ⟨posted.ctxs, posted.colls.trans quiet, fun k => ?_⟩
    change ((State.hubSet _ 0x811 l _).hubGet 0x811 k).testBit 0 = _
    by_cases h : k = l
    · subst h
      rw [hubGet_hubSet_self, Nat.testBit_mod_two_pow, testBit_setBits (by decide), testBit_setBits (by decide)]
      simp
    · rw [hubGet_hubSet_ne _ _ (by omega), hubGet_congr posted.hub, decide_eq_true h, Bool.and_true]
      rfl

/-- Each link of the list goes down, and no other. -/
theorem foldl_linkDown (ls : List Nat) : ∀ {s : State}, s.colls = [] → (ls.foldl State.linkDown s).ctxs = s.ctxs ∧
    ∀ k, (ls.foldl State.linkDown s).linkUp k = (s.linkUp k && decide (k ∉ ls)) := by
  induction ls with
  | nil => exact fun _ => ⟨rfl, fun k => by simp⟩
  | cons l ls ih =>
    intro s quiet
    obtain ⟨ctxs, colls, links⟩ := linkDown_keeps quiet l
    obtain ⟨ctxs', links'⟩ := ih colls
    refine ⟨ctxs'.trans ctxs, fun k => ?_⟩
    rw [List.foldl_cons, links', links, Bool.and_assoc]
    simp [not_or]

/-- The package with every link down. -/
def State.linksDown (s : State) : State := (List.range 32).foldl State.linkDown s

theorem mem_linksDown (s : State) : s.linksDown.mem = s.mem := mem_fold_state mem_linkDown _ s

theorem ctxs_linksDown {s : State} (quiet : s.colls = []) : s.linksDown.ctxs = s.ctxs := (foldl_linkDown _ quiet).1

theorem linkUp_linksDown {s : State} (quiet : s.colls = []) {l : Nat} (hl : l < 32) : s.linksDown.linkUp l = false :=
  ((foldl_linkDown _ quiet).2 l).trans (by simp [hl])

/-- A package that has tripped, once its links are down. -/
def State.tripped (s : State) (c : Nat) : State :=
  { (s.hubSet 0x829 0 (setBits (setBits (s.hubGet 0x829 0) 7 0 (Nat.min 255 c)) 16 16 1)).setSvc 2 0 3 with hot := 15 }

theorem exec_thermalTrip (s : State) : exec .thermalTrip s = .next (s.linksDown.tripped (s.arg 0)) := rfl

theorem unmoved_tripped (s : State) (c : Nat) : Unmoved s (s.tripped c) :=
  (((Unmoved.refl s).hubSet ..).setSvc ..).withHot 15

theorem hot_tripped (s : State) (c : Nat) : (s.tripped c).hot = 15 := rfl

theorem hub_tripped (s : State) (c : Nat) : (s.tripped c).hub =
    ((s.hubSet 0x829 0 (setBits (setBits (s.hubGet 0x829 0) 7 0 (Nat.min 255 c)) 16 16 1)).setSvc 2 0 3).hub := rfl

theorem svc_tripped (s : State) (c : Nat) : bits ((s.tripped c).hubGet 0x800 0) 2 0 = 3 := by
  rw [hubGet_congr (hub_tripped s c), hubGet_setSvc (by decide) (by decide)]
  exact bits_setBits_self (by decide) ..

theorem linkUp_tripped (s : State) (c : Nat) {l : Nat} (hl : l < 32) : (s.tripped c).linkUp l = s.linkUp l := by
  have apart (u : State) (v : Nat) : (u.setSvc 2 0 v).hubGet 0x811 l = u.hubGet 0x811 l := hubGet_hubSet_ne _ _ (by omega)
  rw [State.linkUp, hubGet_congr (hub_tripped s c), apart, hubGet_hubSet_ne _ _ (by omega)]
  rfl

theorem thermalTrip_stops {s : State} (quiet : s.colls = []) : ∃ t, exec .thermalTrip s = .next t ∧ t.mem = s.mem ∧
    t.ctxs = s.ctxs ∧ bits (t.hubGet 0x800 0) 2 0 = 3 ∧ t.hot = 15 ∧ ∀ l, l < 32 → (t.hubGet 0x811 l).testBit 0 = false := by
  obtain ⟨mem, ctxs, -⟩ := unmoved_tripped s.linksDown (s.arg 0)
  exact ⟨_, exec_thermalTrip s, mem.trans (mem_linksDown s), ctxs.trans (ctxs_linksDown quiet), svc_tripped .., hot_tripped ..,
    fun _ hl => (linkUp_tripped _ _ hl).trans (linkUp_linksDown quiet hl)⟩

/-- Settles O57, command by command and event by event: each is refused or applied as the fields of SVC say. -/
theorem bringUp : Obligations.BringUp := by
  unfold Obligations.BringUp
  exact ⟨packageReset_resets, fun _ => verify_refused, fun _ => verify_applied,
    fun _ => ⟨leavedawn_refused, leavedawn_applied⟩,
    fun s => ⟨train_refused, train_applied (untrained_eq s)⟩,
    fun _ _ => trainComplete_applied,
    fun _ _ hv => ⟨pkgnumWrite_refused hv, pkgnumWrite_applied hv⟩,
    fun _ _ _ hkv hk hv => ⟨feataccWrite_refused hkv hk hv, feataccWrite_applied hkv hk hv⟩,
    fun _ _ => pwrcapWrite_clamps,
    fun _ _ _ => thermalThrottle_withholds,
    fun _ _ _ => dieCools_releases,
    fun _ _ _ => thermalTrip_stops,
    fun _ _ => power_withholds⟩

end Sys2Proof.Machine
end

section
/-! PROOFS. Proofs/Yield.lean: yield. -/

namespace Sys2Proof.Machine

/-- A change of the lanes of a list, as one of every lane. -/
theorem modLanes_eq (s : State) (c w : Nat) (ls : List Nat) (f : Lane → Lane) :
    s.modLanes c w ls f = s.modLanesBy c w fun l n => if l ∈ ls then f n else n := by
  unfold State.modLanes
  congr 1
  funext l n
  by_cases h : l ∈ ls <;> simp [h]

/-- Settles O6: yield passes and then changes the lanes of its active set alone. -/
theorem yield : Obligations.Yield := by
  unfold Obligations.Yield
  intro s b x v act h
  refine ⟨_, (show execYield s = _ from issue_go h _), ?_⟩
  rw [settle, modLanes_eq]
  exact effect_lanes h fun l n => if l ∈ act then { n with deferred := true } else n

end Sys2Proof.Machine
end

section
/-! PROOFS. Proofs/StepRunsIssued.lean: a wave that waited for a page walk, in a state in which the bundle that the statement performs
is not the one that a step performs. -/

namespace Sys2Proof.Machine

/-- The address where placeWord places its word. -/
def nopAddress : Dword := 0x2000000000010000

/-- A wave of one lane, which stands at that word and waits for the walk of its page. -/
def walkingWave : Wave := { Wave.start 0 [(0, Lane.start .present nopAddress)] with walk := true }

/-- The block of that wave. -/
def walkingCtx : Ctx := Ctx.start 15 0 0 0 0 0 0 placedDesc 0 0 (0, 0, 0) 0 0 0 [(0, walkingWave)] 0xFF true 0 0

/-- The machine with that block alone, on a nop: each hypothesis of the last clause of StepRunsIssued holds of it. -/
def walkingNop : State := { State.reset.placeWord 32 3 with ctxs := [(0, walkingCtx)] }

/-- The fetch of the nop, as BUNDLE_ISSUE of the next port makes it. -/
def walkingFetch : Fetched := fetch (walkingNop.serve.hold (walkingNop.nextPort / 4) 0) walkingCtx nopAddress.toNat

/-- Whether the wave waits for a walk after an outcome. -/
def stillWalks (r : Host.Outcome State Fault Refusal) : Option Bool := match r with
  | .next t => (t.wave? 0 0).map (·.walk)
  | _ => none

/-- The word that a fetch gives, and whether the wave waits for a walk after the nop performed as StepRunsIssued says. -/
def nopStillWalks (f : Fetched) : Option (Nat × Option Bool) := match f with
  | .ok raw u => some (raw, stillWalks (exec .nop { u with
      cur := some ⟨0, 0, nopAddress, [0], .nop, if raw % 2 = 0 then raw % 2 ^ 16 else raw % 2 ^ 32⟩, free := u.free + 1 }))
  | _ => none

/-- The wave no longer waits when it has tried its bundle (State.endWalk). -/
theorem stillWalks_step : stillWalks (stepBundle walkingNop) = some false := by decide +kernel

/-- The nop alone leaves the wave waiting. -/
theorem nopStillWalks_fetch : nopStillWalks walkingFetch = some (3, some true) := by decide +kernel

/-- Refutes O1: its last clause does not ask that the wave wait for no walk, and BUNDLE_ISSUE ends the wait before it fetches. -/
theorem not_stepRunsIssued : ¬ Obligations.StepRunsIssued := by
  unfold Obligations.StepRunsIssued
  rintro ⟨-, -, -, performs⟩
  have ran := nopStillWalks_fetch
  cases fetched : walkingFetch with
  | ok raw u =>
    simp only [fetched, nopStillWalks, Option.some.injEq, Prod.mk.injEq] at ran
    obtain ⟨rfl, walks⟩ := ran
    have same := performs walkingNop 0 0 0 walkingCtx walkingWave nopAddress [0] 3 .nop u (by decide +kernel) (by decide +kernel)
      rfl rfl (by decide +kernel) (by simp [walkingWave, Wave.start]) (.inr (by decide +kernel)) fetched (by decide +kernel)
    exact absurd ((congrArg stillWalks same).symm.trans stillWalks_step) (by rw [walks]; decide)
  | _ => simp [fetched, nopStillWalks] at ran

end Sys2Proof.Machine
end

section
/-! PROOFS. Proofs/BundleIssue.lean: the wave that an issue slot selects, the bundle it issues and the breakpoint it stops at. -/

namespace Sys2Proof.Machine

/-! ### The least of a list -/

theorem least_eq_none {ls : List Nat} (h : least ls = none) : ls = [] := by
  cases ls with
  | nil => rfl
  | cons x xs =>
    rw [least] at h
    split at h <;> cases h

theorem least_eq_some {ls : List Nat} {k : Nat} (h : least ls = some k) : k ∈ ls ∧ ∀ j ∈ ls, k ≤ j := by
  induction ls generalizing k with
  | nil => cases h
  | cons x xs ih =>
    rw [least] at h
    split at h
    · rename_i none
      cases h
      simp [least_eq_none none]
    · rename_i y some
      obtain ⟨mem, le⟩ := ih some
      cases h
      split
      · rename_i hxy
        exact ⟨List.mem_cons_self .., List.forall_mem_cons.2 ⟨le_rfl, fun j hj => hxy.trans (le j hj)⟩⟩
      · rename_i hxy
        exact ⟨List.mem_cons_of_mem _ mem, List.forall_mem_cons.2 ⟨by omega, le⟩⟩

/-! ### Selecting a wave (R41, R48) -/

theorem firstAbove_eq_some {lo : Nat} {ws : List (Nat × Nat × Nat)} {r : Nat × Nat × Nat} (h : firstAbove lo ws = some r) :
    r ∈ ws ∧ lo ≤ r.1 ∧ ∀ e ∈ ws, lo ≤ e.1 → r.1 ≤ e.1 := by
  unfold firstAbove at h
  split at h
  · rename_i k hk
    obtain ⟨mem, le⟩ := least_eq_some hk
    obtain ⟨e, he, rfl⟩ := List.mem_map.1 mem
    have hr : r.1 = e.1 := by simpa using List.find?_some h
    have lo_le : lo ≤ e.1 := by simpa using (List.mem_filter.1 he).2
    refine ⟨List.mem_of_find?_eq_some h, hr ▸ lo_le, fun d hd hlo => ?_⟩
    exact hr ▸ le d.1 (List.mem_map_of_mem (List.mem_filter.2 ⟨hd, by simpa using hlo⟩))
  · cases h

theorem firstAbove_eq_none {lo : Nat} {ws : List (Nat × Nat × Nat)} (h : firstAbove lo ws = none) : ∀ e ∈ ws, e.1 < lo := by
  unfold firstAbove at h
  split at h
  · rename_i k hk
    obtain ⟨e, he, hek⟩ := List.mem_map.1 (least_eq_some hk).1
    have := List.find?_eq_none.1 h e (List.mem_filter.1 he).1
    simp [hek] at this
  · rename_i hk
    have none := List.map_eq_nil_iff.1 (least_eq_none hk)
    intro e he
    simpa using List.filter_eq_nil_iff.1 none e he

/-- A wave slot of a core that an issue slot may select: it stands in the slot's list and has not been found unable to issue. -/
def State.Selectable (s : State) (p j : Nat) (e : Nat × Nat × Nat) : Prop :=
  (∃ x v, (e.2.1, x) ∈ s.ctxs ∧ (e.2.2, v) ∈ x.waves ∧ x.issues v = true ∧ x.place = p ∧ v.slot = e.1 ∧ e.1 % 4 = j) ∧
    e.1 ∉ (s.core p).held

theorem mem_slotWaves {s : State} {p j : Nat} {e : Nat × Nat × Nat} : e ∈ s.slotWaves p j ↔ s.hot.testBit (p / 768) = false ∧
    ∃ x v, (e.2.1, x) ∈ s.ctxs ∧ (e.2.2, v) ∈ x.waves ∧ x.issues v = true ∧ x.place = p ∧ v.slot = e.1 ∧ e.1 % 4 = j := by
  obtain ⟨k, c, w⟩ := e
  unfold State.slotWaves
  cases s.hot.testBit (p / 768) with
  | true => simp
  | false =>
    simp only [Bool.false_eq_true, if_false, List.mem_flatMap, Prod.exists, true_and]
    constructor
    · rintro ⟨d, x, hx, h⟩
      split at h
      · rename_i place
        simp only [List.mem_map, List.mem_filter, Bool.and_eq_true, beq_iff_eq, Prod.exists, Prod.mk.injEq] at h
        obtain ⟨q, v, ⟨hv, hj, issues⟩, rfl, rfl, rfl⟩ := h
        exact ⟨x, v, hx, hv, issues, place, rfl, hj⟩
      · cases h
    · rintro ⟨x, v, hx, hv, issues, place, rfl, hj⟩
      refine ⟨c, x, hx, ?_⟩
      rw [if_pos place]
      exact List.mem_map.2 ⟨(w, v), List.mem_filter.2 ⟨hv, by simp [hj, issues]⟩, rfl⟩

/-- The selected wave is the first that may be selected from the last one on, or, with none there, the first of all. -/
theorem selectWave_eq_some {s : State} {p j : Nat} {r : Nat × Nat × Nat} (h : s.selectWave p j = some r) :
    s.Selectable p j r ∧
    (SMap.get 0 (s.core p).last j ≤ r.1 ∨ ∀ e, s.Selectable p j e → e.1 < SMap.get 0 (s.core p).last j) ∧
    ∀ e, s.Selectable p j e → (SMap.get 0 (s.core p).last j ≤ e.1 ↔ SMap.get 0 (s.core p).last j ≤ r.1) → r.1 ≤ e.1 := by
  unfold State.selectWave at h
  dsimp only at h
  generalize hws : ((s.slotWaves p j).filter fun (k, _) => !(s.core p).held.contains k) = ws at h
  have mem {e : Nat × Nat × Nat} : e ∈ ws ↔ s.hot.testBit (p / 768) = false ∧ s.Selectable p j e := by
    simp [← hws, mem_slotWaves, State.Selectable, and_assoc]
  generalize SMap.get 0 (s.core p).last j = last at h ⊢
  cases hf : firstAbove last ws with
  | some r' =>
    rw [hf] at h
    cases h
    obtain ⟨hr, above, least⟩ := firstAbove_eq_some hf
    obtain ⟨cool, sel⟩ := mem.1 hr
    exact ⟨sel, .inl above, fun e he same => least e (mem.2 ⟨cool, he⟩) (same.2 above)⟩
  | none =>
    rw [hf] at h
    obtain ⟨hr, -, least⟩ := firstAbove_eq_some h
    obtain ⟨cool, sel⟩ := mem.1 hr
    have below := firstAbove_eq_none hf
    exact ⟨sel, .inr fun e he => below e (mem.2 ⟨cool, he⟩), fun e he _ => least e (mem.2 ⟨cool, he⟩) (Nat.zero_le _)⟩

theorem issues_iff {x : Ctx} {v : Wave} : x.issues v = true ↔
    ((x.state = .resident ∧ x.goal = .none) ∨ (x.goal ≠ .none ∧ v.walk = true)) ∧ v.eligible = true := by
  simp [Ctx.issues]

theorem Wave.eligible_waits {v : Wave} (h : v.eligible = true) : v.trap = none ∧ v.rend = none := by
  simp only [Wave.eligible, Bool.and_eq_true, Option.isNone_iff_eq_none] at h
  exact ⟨h.1.2, h.2⟩

/-! ### Issuing the bundle -/

/-- No window closed and no breakpoint matched: the word fetched stands issued for the run. -/
theorem issueWave_fetches {s u : State} {c w : Nat} {x : Ctx} {v : Wave} {pc : Dword} {run : List Nat} {raw : Nat} {i : Instr}
    (hx : s.ctx? c = some x) (hv : SMap.find? x.waves w = some v) (next : v.nextRun = some (pc, run))
    (windows : ∀ k ∈ v.windows, k.pos < k.span ∨ s.inFlight k.id = false) (units : v.active run = [] ∨ pcMatch s x v pc = none)
    (hf : fetch s x pc.toNat = .ok raw u) (hd : decode raw = .ok i) : issueWave s c w = { u with
      cur := some ⟨c, w, pc, run, i, if raw % 2 = 0 then raw % 2 ^ 16 else raw % 2 ^ 32⟩, free := u.free + 1 } := by
  have opened : (v.windows.any fun k : Window => decide (k.span ≤ k.pos) && s.inFlight k.id) = false := by
    simp only [List.any_eq_false, Bool.and_eq_true, decide_eq_true_eq]
    rintro k hk ⟨closed, busy⟩
    rcases windows k hk with h | h
    · omega
    · simp [h] at busy
  have passed : (!(v.active run).isEmpty && (pcMatch s x v pc).isSome) = false := by
    rcases units with h | h <;> simp [h]
  unfold issueWave
  rw [hx, wave?_of hx, hv]
  dsimp only
  rw [next]
  dsimp only
  rw [opened, passed, hf]
  dsimp only
  rw [hd]
  rfl

/-- A wave that waits for no walk is left as it is when it tries its bundle. -/
theorem endWalk_of_not_walk {s : State} {c w : Nat} {x : Ctx} {v : Wave} (hx : s.ctx? c = some x) (hv : SMap.find? x.waves w = some v)
    (walk : v.walk = false) : s.endWalk c w = s := by
  unfold State.endWalk
  rw [wave?_of hx, hv]
  simp [walk]

theorem execBundleIssue_selected {s : State} {p slot c w : Nat} (ha : s.args = [p]) (hw : s.withheld = false)
    (hs : s.selectWave (p / 4) (p % 4) = some (slot, c, w)) :
    exec .bundleIssue s = .next (issueWave ((s.hold (p / 4) slot).endWalk c w) c w) := by
  have arg : s.arg 0 = p := by simp [State.arg, ha]
  show execBundleIssue s = _
  simp only [execBundleIssue, arg, hw, hs, Bool.false_eq_true, if_false]

theorem execBundleIssue_unselected {s : State} {p : Nat} (ha : s.args = [p]) (hw : s.withheld = false)
    (hs : s.selectWave (p / 4) (p % 4) = none) :
    exec .bundleIssue s = .next (idle ((s.unhold (p / 4) (p % 4)).idleSample (p / 4) (p % 4))) := by
  have arg : s.arg 0 = p := by simp [State.arg, ha]
  show execBundleIssue s = _
  simp only [execBundleIssue, arg, hw, hs, Bool.false_eq_true, if_false]

/-- A sample given as IDLE changes a core, but not what it holds back, and brings a record. -/
theorem idleSample_outside (s : State) (core islot : Nat) :
    { s.idleSample core islot with cores := [], agenda := [] } = { s with cores := [], agenda := [] } ∧
      ((s.idleSample core islot).core core).held = (s.core core).held := by
  unfold State.idleSample
  split
  · split
    · refine ⟨rfl, ?_⟩
      simp [State.giveSample, State.produce, State.core, State.setCore]
    · exact ⟨rfl, rfl⟩
  · exact ⟨rfl, rfl⟩

theorem held_unhold (s : State) (core islot : Nat) : ∀ k ∈ ((s.unhold core islot).core core).held, k % 4 ≠ islot := by
  simp [State.unhold, State.core, State.setCore]

/-! ### When the bundle has issued -/

theorem core_noteIssue {s : State} {b : Bundle} {x : Ctx} {v : Wave} (hx : s.ctx? b.ctx = some x)
    (hv : SMap.find? x.waves b.wave = some v) : (s.noteIssue b).core x.place = { s.core x.place with
      last := SMap.set 0 (s.core x.place).last (v.slot % 4) (v.slot + 1)
      held := (s.core x.place).held.filter fun j => j % 4 != v.slot % 4 } := by
  unfold State.noteIssue State.issuedAt
  rw [hx, wave?_of hx, hv]
  exact SMap.get_set_self ..

theorem wave?_noteIssue {s : State} {b : Bundle} {x : Ctx} {v : Wave} (hx : s.ctx? b.ctx = some x)
    (hv : SMap.find? x.waves b.wave = some v) :
    (s.noteIssue b).wave? b.ctx b.wave = some { v with skip := v.skip.filter fun k => k.2 != b.pc } := by
  unfold State.noteIssue State.issuedAt
  rw [hx, wave?_of hx, hv]
  have hx' : (s.slotIssued x.place v.slot).ctx? b.ctx = some x := hx
  simp [State.modWave, State.wave?, hx', hv]

/-! ### Drains and stops of a span -/

/-- What one element of a list brings about, and the others leave, holds when all have been taken. -/
theorem foldl_reaches {α β : Type} {f : α → β → α} {P Q : α → Prop} {c : β} (hP : ∀ t b, b ≠ c → P t → P (f t b))
    (hc : ∀ t, P t → Q (f t c)) (hQ : ∀ t b, Q t → Q (f t b)) {bs : List β} (h : c ∈ bs) {t : α} (ht : P t) : Q (bs.foldl f t) := by
  have keeps (bs : List β) : ∀ t, Q t → Q (bs.foldl f t) := by
    induction bs with
    | nil => exact fun _ h => h
    | cons b bs ih => exact fun t h => ih _ (hQ t b h)
  induction bs generalizing t with
  | nil => cases h
  | cons b bs ih =>
    by_cases hb : b = c
    · subst hb
      exact keeps bs _ (hc t ht)
    · exact ih ((List.mem_cons.1 h).resolve_left (Ne.symm hb)) (hP t b hb ht)

theorem mem_spanOf_self {s : State} {c : Nat} {x : Ctx} (hx : s.ctx? c = some x) (live : x.state ≠ .free ∧ x.state ≠ .retiring) :
    c ∈ s.spanOf c := by
  unfold State.spanOf
  rw [hx]
  exact List.mem_map.2 ⟨(c, x), List.mem_filter.2 ⟨SMap.mem_of_find?_eq_some hx, by simp [live]⟩, rfl⟩

/-- A block that begins to drain. -/
def Ctx.draining (x : Ctx) (g : Goal) : Ctx :=
  { x with
    goal := g, state := (if g = .stopped then .resident else .saving), busy := true
    waves := SMap.mapVals x.waves fun _ v => { v with rend := none }, mat := { x.mat with latch := none } }

/-- A resident block drains when its span does, and the event that ends the drain comes. -/
theorem startDrain_self {s : State} {c : Nat} {x : Ctx} {g : Goal} (e : Instr) (hx : s.ctx? c = some x)
    (issuing : x.state = .resident ∧ x.goal = .none) (hg : g ≠ .none) : (s.startDrain c g e).ctx? c = some (x.draining g) ∧ (e, [c]) ∈ (s.startDrain c g e).agenda := by
  unfold State.startDrain
  refine foldl_reaches (P := fun t : State => t.ctx? c = some x)
    (Q := fun t : State => t.ctx? c = some (x.draining g) ∧ (e, [c]) ∈ t.agenda) (fun t b hb ht => ?_) (fun t ht => ?_) (fun t b ht => ?_)
    (mem_spanOf_self hx (by simp [issuing])) hx
  · dsimp only
    split
    · split
      · exact (ctx?_modCtx_ne t _ hb).trans ht
      · exact ht
    · exact ht
  · dsimp only
    rw [ht]
    dsimp only
    rw [if_pos (.inl issuing)]
    exact ⟨(ctx?_modCtx_self t c _).trans (congrArg _ ht), by simp⟩
  · obtain ⟨hc, posted⟩ := ht
    dsimp only
    split
    · rename_i y hy
      split
      · rename_i drains
        by_cases hb : b = c
        · subst hb
          cases hc.symm.trans hy
          rcases drains with ⟨-, goal⟩ | ⟨rfl, goal⟩
          · exact absurd goal hg
          · simp [Ctx.draining] at goal
        · exact ⟨(ctx?_modCtx_ne t _ hb).trans hc, List.mem_append_left _ posted⟩
      · exact ⟨hc, posted⟩
    · exact ⟨hc, posted⟩

theorem markStop_self {s : State} {c : Nat} {x : Ctx} (k : StopRec) (hx : s.ctx? c = some x) (live : x.state ≠ .free ∧ x.state ≠ .retiring) :
    (s.markStop c k).ctx? c = some { x with stop := k } := by
  unfold State.markStop
  refine foldl_reaches (P := fun t : State => t.ctx? c = some x) (Q := fun t : State => t.ctx? c = some { x with stop := k })
    (fun t b hb ht => (ctx?_modCtx_ne t _ hb).trans ht) (fun t ht => ?_) (fun t b ht => ?_) (mem_spanOf_self hx live) hx
  · simp [ht]
  · by_cases hb : b = c
    · subst hb
      simp [ht]
    · exact (ctx?_modCtx_ne t _ hb).trans ht

theorem agenda_markStop (s : State) (c : Nat) (k : StopRec) : (s.markStop c k).agenda = s.agenda := by
  unfold State.markStop
  refine List.foldlRecOn (motive := fun t : State => t.agenda = s.agenda) _ _ rfl fun t ht b _ => ht

/-! ### Breakpoints (R472) -/

/-- A wave that is not to match a breakpoint unit again at an address. -/
def Wave.passes (v : Wave) (u : Nat) (pc : Dword) : Wave := { v with skip := (u, pc) :: v.skip }

/-- The span stopped at a breakpoint of one of its waves. -/
def State.stoppedAt (s : State) (c w u : Nat) (pc : Dword) : State :=
  ((s.modWave c w fun v => v.passes u pc).startDrain c .stopped .stopComplete).markStop c ⟨3, u, 0, w, 0⟩

/-- A unit that matches stops the span before the bundle, and is not to match it again. -/
theorem breakpointStop_matched {s : State} {c w u : Nat} {x : Ctx} {v : Wave} {pc : Dword} {run : List Nat} (hx : s.ctx? c = some x)
    (hv : SMap.find? x.waves w = some v) (issuing : x.state = .resident ∧ x.goal = .none) (eligible : v.eligible = true)
    (next : v.nextRun = some (pc, run)) (active : v.active run ≠ []) (unit : pcMatch s x v pc = some u) :
    breakpointStop s c w = s.stoppedAt c w u pc := by
  unfold breakpointStop
  rw [hx, wave?_of hx, hv]
  simp [issuing, eligible, next, active, unit, State.stoppedAt, Wave.passes]

theorem execBreakpointPcStop_eq {s : State} {c w : Nat} (ha : s.args = [c, w]) :
    exec .breakpointPcStop s = .next (breakpointStop s c w) := by
  show execBreakpointPcStop s = _
  simp [execBreakpointPcStop, State.arg, ha]

/-- The block of a resident span stopped at a breakpoint, and the event that ends its drain. -/
theorem stoppedAt_self {s : State} {c : Nat} {x : Ctx} (w u : Nat) (pc : Dword) (hx : s.ctx? c = some x)
    (issuing : x.state = .resident ∧ x.goal = .none) :
    (s.stoppedAt c w u pc).ctx? c = some { ({ x with waves := SMap.modify x.waves w fun v => v.passes u pc } : Ctx).draining .stopped with
      stop := ⟨3, u, 0, w, 0⟩ } ∧ (.stopComplete, [c]) ∈ (s.stoppedAt c w u pc).agenda := by
  have hx' : (s.modWave c w fun v => v.passes u pc).ctx? c =
      some { x with waves := SMap.modify x.waves w fun v => v.passes u pc } := by
    simp [State.modWave, hx]
  obtain ⟨drains, posted⟩ := startDrain_self (g := .stopped) .stopComplete hx' issuing (by decide)
  refine ⟨markStop_self _ drains (by simp [Ctx.draining]), ?_⟩
  unfold State.stoppedAt
  rwa [agenda_markStop]

theorem pcMatch_eq_some {s : State} {x : Ctx} {v : Wave} {pc : Dword} {u : Nat} (h : pcMatch s x v pc = some u) :
    x.dbgen = true ∧ u < 4 ∧ (u, pc) ∉ v.skip ∧ (s.hubGet 0x731 (4 * x.part + u)) % 8 = 1 ∧
      s.hubGet64 0x732 (4 * x.part + u) ≤ pc.toNat ∧ pc.toNat ≤ s.hubGet64 0x734 (4 * x.part + u) := by
  unfold pcMatch at h
  split at h
  · rename_i dbg
    have low := List.mem_range.1 (List.mem_of_find?_eq_some h)
    have found := List.find?_some h
    simp only [Bool.and_eq_true, decide_eq_true_eq, beq_iff_eq, Bool.not_eq_true', bits, bpSel, Nat.testBit_zero,
      List.contains_eq_mem, decide_eq_false_iff_not] at found dbg
    obtain ⟨⟨⟨⟨on, kind⟩, skipped⟩, lo⟩, hi⟩ := found
    exact ⟨dbg.1, low, skipped, by omega, of_decide_eq_true lo, of_decide_eq_true hi⟩
  · cases h

/-- Settles O49: the selection by the least of the slots from the last one on, the bundle by its fetch, and a stop by the drain of the
span. -/
theorem bundleIssue : Obligations.BundleIssue := by
  unfold Obligations.BundleIssue
  refine ⟨fun s p slot c w x v pc run raw i u ha hw hs hx hv next walk windows units hf hd => ?_, fun s p ha hw hs => ?_,
    fun s p j slot c w hs => ?_, fun s b x v hx hv => ⟨?_, fun k => ?_, _, wave?_noteIssue hx hv, fun e => ?_⟩,
    fun s c w x v pc run u ha hx hv state goal eligible next active unit _ => ?_, fun s x v pc u unit => pcMatch_eq_some unit⟩
  · rw [execBundleIssue_selected ha hw hs, endWalk_of_not_walk (s := s.hold (p / 4) slot) hx hv walk,
      issueWave_fetches (s := s.hold (p / 4) slot) hx hv next windows units hf hd]
  · obtain ⟨out, held⟩ := idleSample_outside (s.unhold (p / 4) (p % 4)) (p / 4) (p % 4)
    refine ⟨_, execBundleIssue_unselected ha hw hs, rfl, congrArg (· + 1) (congrArg State.clock out :), (congrArg State.mem out :),
      (congrArg State.ctxs out :), (congrArg State.ops out :), (congrArg State.hub out :), fun k hk => ?_⟩
    exact held_unhold s (p / 4) (p % 4) k (held ▸ hk)
  · obtain ⟨⟨⟨x, v, hx, hv, issues, place, hslot, hj⟩, held⟩, wrap, first⟩ := selectWave_eq_some hs
    obtain ⟨how, eligible⟩ := issues_iff.1 issues
    obtain ⟨trap, rend⟩ := v.eligible_waits eligible
    refine ⟨⟨c, x, w, v, hx, hv, how, place, hslot, hj, eligible, held⟩, ⟨x, v, hx, hv, place, hslot, trap, rend⟩,
      wrap.imp_right fun all k ⟨d, y, q, z, hy, hz, how, place, hk, hj, eligible, held⟩ =>
        all (k, d, q) ⟨⟨y, z, hy, hz, issues_iff.2 ⟨how, eligible⟩, place, hk, hj⟩, held⟩,
      fun k ⟨d, y, q, z, hy, hz, how, place, hk, hj, eligible, held⟩ =>
        first (k, d, q) ⟨⟨y, z, hy, hz, issues_iff.2 ⟨how, eligible⟩, place, hk, hj⟩, held⟩⟩
  · show SMap.get 0 ((s.noteIssue b).core x.place).last _ = _
    rw [core_noteIssue hx hv]
    simp
  · rw [core_noteIssue hx hv]
    simp
  · simp
  · have stopped := breakpointStop_matched hx hv ⟨state, goal⟩ eligible next active unit
    obtain ⟨drains, posted⟩ := stoppedAt_self w u pc hx ⟨state, goal⟩
    refine ⟨_, _, { v.passes u pc with rend := none }, (execBreakpointPcStop_eq ha).trans (congrArg _ stopped), ?_, drains,
      rfl, rfl, posted, ?_, rfl⟩
    · simp [State.stoppedAt]
    · simp [Ctx.draining, hv]

end Sys2Proof.Machine
end

section
/-! PROOFS. Proofs/BlockBarriers.lean: what an arrival at a named barrier leaves alone, the block after the end of a phase, and why
the phases that waiting arrivals complete come to an end. -/

namespace Sys2Proof.Machine.SMap
variable {α : Type}

/-- A filter on keys keeps or drops all that is listed for a key. -/
theorem find?_filter_key (m : List (Nat × α)) (p : Nat → Bool) (k : Nat) :
    find? (m.filter fun e => p e.1) k = if p k = true then find? m k else none := by
  induction m with
  | nil => simp [find?]
  | cons e m ih =>
    obtain ⟨j, v⟩ := e
    rw [List.filter_cons]
    by_cases hjk : j = k
    · subst hjk
      by_cases hp : p j = true <;> simp [hp, find?, ih]
    · by_cases hp : p j = true <;> simp [hp, find?, hjk, ih]

theorem get_filter_key (d : α) (m : List (Nat × α)) (p : Nat → Bool) (k : Nat) :
    get d (m.filter fun e => p e.1) k = if p k = true then get d m k else d := by
  unfold get
  rw [find?_filter_key]
  split <;> rfl

/-- Keys f j set to true for each j of a list. -/
theorem get_foldl_set_true (f : Nat → Nat) (ks : List Nat) (m : List (Nat × Bool)) (k : Nat) :
    get false (ks.foldl (fun m j => set false m (f j) true) m) k = true ↔ (∃ j ∈ ks, f j = k) ∨ get false m k = true := by
  induction ks generalizing m with
  | nil => simp
  | cons j ks ih =>
    rw [List.foldl_cons, ih, get_set]
    by_cases hj : f j = k <;> simp [hj]

theorem mem_mapVals {m : List (Nat × α)} {f : Nat → α → α} {k : Nat} {v : α} :
    (k, v) ∈ mapVals m f ↔ ∃ u, (k, u) ∈ m ∧ f k u = v := by
  simp [mapVals]

theorem mapVals_mapVals (m : List (Nat × α)) (f g : Nat → α → α) :
    mapVals (mapVals m f) g = mapVals m fun k v => g k (f k v) := by
  simp [mapVals]

theorem mem_modify {m : List (Nat × α)} {k : Nat} {f : α → α} {e : Nat × α} (h : e ∈ modify m k f) :
    e ∈ m ∨ ∃ v, (k, v) ∈ m ∧ e = (k, f v) := by
  unfold modify at h
  split at h
  · rename_i v hv
    rcases mem_insert h with rfl | h
    · exact .inr ⟨v, mem_of_find?_eq_some hv, rfl⟩
    · exact .inl h
  · exact .inl h

end Sys2Proof.Machine.SMap

namespace Sys2Proof.Machine

/-! ### What arrivals leave alone -/

/-- A lane but for where it waits: its parked states and the arrivals still to be applied. -/
def Lane.unparked (m : Lane) : Lane := { m with park := .none, owed := [], kept := { m.kept with park := .none } }

/-- A wave but for where its lanes wait. -/
def Wave.unparked (v : Wave) : Wave := { v with lanes := SMap.mapVals v.lanes fun _ m => m.unparked }

/-- From s to t only block c and L1 lines have changed, and of the block's waves only where lanes wait. -/
structure ParksOnly (c : Nat) (s t : State) : Prop where
  outside : { t with ctxs := [], l1 := [] } = { s with ctxs := [], l1 := [] }
  others : ∀ d, d ≠ c → t.ctx? d = s.ctx? d
  waves : ∀ w, (t.wave? c w).map Wave.unparked = (s.wave? c w).map Wave.unparked

namespace ParksOnly
variable {c : Nat} {s t u : State}

theorem refl (s : State) : ParksOnly c s s := ⟨rfl, fun _ _ => rfl, fun _ => rfl⟩

theorem trans (h : ParksOnly c s t) (h' : ParksOnly c t u) : ParksOnly c s u :=
  ⟨h'.outside.trans h.outside, fun d hd => (h'.others d hd).trans (h.others d hd), fun w => (h'.waves w).trans (h.waves w)⟩

theorem foldl {α : Type} {g : State → α → State} (hg : ∀ t a, ParksOnly c t (g t a)) (as : List α) (s : State) :
    ParksOnly c s (as.foldl g s) := by
  induction as generalizing s with
  | nil => exact refl s
  | cons a as ih => exact (hg s a).trans (ih _)

/-- A change of the block that leaves its waves alone but for where lanes wait. -/
theorem modCtx (s : State) (f : Ctx → Ctx) (hf : ∀ x w, (SMap.find? (f x).waves w).map Wave.unparked =
    (SMap.find? x.waves w).map Wave.unparked) : ParksOnly c s (s.modCtx c f) := by
  refine ⟨rfl, fun d hd => ctx?_modCtx_ne s f hd.symm, fun w => ?_⟩
  unfold State.wave?
  rw [ctx?_modCtx_self]
  cases s.ctx? c with
  | none => rfl
  | some x => exact hf x w

theorem dropL1 (s : State) (k : Nat) : ParksOnly c s (s.dropL1 k) := ⟨rfl, fun _ _ => rfl, fun _ => rfl⟩

theorem mem (h : ParksOnly c s t) : t.mem = s.mem := (congrArg State.mem h.outside :)
theorem hub (h : ParksOnly c s t) : t.hub = s.hub := (congrArg State.hub h.outside :)
theorem ops (h : ParksOnly c s t) : t.ops = s.ops := (congrArg State.ops h.outside :)
theorem agenda (h : ParksOnly c s t) : t.agenda = s.agenda := (congrArg State.agenda h.outside :)

end ParksOnly

/-- Lane by lane, a wave that differs only in where lanes wait. -/
theorem lane?_of_unparked_eq {y z : Wave} (h : z.unparked = y.unparked) {l : Nat} {m : Lane} (hm : y.lane? l = some m) :
    ∃ k, z.lane? l = some k ∧ k.unparked = m.unparked := by
  have hl : z.unparked.lane? l = y.unparked.lane? l := by rw [h]
  simp only [Wave.unparked, Wave.lane?_mapVals, hm, Option.map_some] at hl
  exact Option.map_eq_some_iff.1 hl

/-- Changes of lanes that leave all but where they wait. -/
theorem unparked_mapVals (v : Wave) {f : Nat → Lane → Lane} (hf : ∀ l m, (f l m).unparked = m.unparked) :
    ({ v with lanes := SMap.mapVals v.lanes f } : Wave).unparked = v.unparked := by
  simp only [Wave.unparked, SMap.mapVals_mapVals, hf]

theorem parksOnly_modLanes (s : State) (c w : Nat) (ls : List Nat) {f : Lane → Lane} (hf : ∀ m, (f m).unparked = m.unparked) :
    ParksOnly c s (s.modLanes c w ls f) := by
  refine ParksOnly.modCtx s _ fun x k => ?_
  rw [SMap.find?_modify]
  split
  · rw [Option.map_map]
    congr 1
    funext v
    refine unparked_mapVals v fun l m => ?_
    split
    · exact hf m
    · rfl
  · rfl

/-! ### The end of a phase -/

/-- The threads of a block whose oldest waiting arrival at barrier n is made when a phase of it ends. -/
def Ctx.owing (x : Ctx) (n : Nat) : List Nat :=
  (List.range 512).filter fun k => ((SMap.find? x.waves (k / 32)).bind fun v => v.lane? (k % 32)).any (owes n)

/-- A wave at the end of a phase of barrier n. -/
def Wave.nextPhase (n : Nat) (v : Wave) : Wave :=
  { v with lanes := SMap.mapVals v.lanes fun _ m => if m.exited then m else releaseLane n m }

/-- A block after the end of a phase of barrier n. -/
def Ctx.nextPhase (n : Nat) (x : Ctx) : Ctx :=
  { x with
    nbar := (x.owing n).foldl (fun m k => SMap.set false m (512 * n + k) true) (x.nbar.filter fun (k, _) => k / 512 ≠ n)
    waves := SMap.mapVals x.waves fun _ v => v.nextPhase n }

/-- Some lane of the block waits at bar.sync for the phase of barrier n to end. -/
def Ctx.syncs (x : Ctx) (n : Nat) : Bool := x.waves.any fun (_, v) => v.lanes.any fun (_, m) => waitsAt n m

section
variable {s : State} {c n : Nat} {x : Ctx}

theorem ctx?_barrierEnd (h : s.ctx? c = some x) : (barrierEnd s c n).ctx? c = some (x.nextPhase n) := by
  unfold barrierEnd
  rw [h]
  dsimp only
  split <;> simp [h, Ctx.nextPhase, Ctx.owing, Wave.nextPhase]

theorem l1_barrierEnd (h : s.ctx? c = some x) : (barrierEnd s c n).l1 =
    if x.syncs n = true then s.l1.filter fun e => e.1 / 0x200000000 ≠ x.place else s.l1 := by
  unfold barrierEnd Ctx.syncs
  rw [h]
  dsimp only
  split <;> rfl

end

theorem parksOnly_barrierEnd (s : State) (c n : Nat) : ParksOnly c s (barrierEnd s c n) := by
  unfold barrierEnd
  split
  · exact ParksOnly.refl s
  · dsimp only
    have h (f : Ctx → List (Nat × Bool)) : ParksOnly c s (s.modCtx c fun y => { y with
        nbar := f y
        waves := SMap.mapVals y.waves fun _ v =>
          { v with lanes := SMap.mapVals v.lanes fun _ m => if m.exited then m else releaseLane n m } }) := by
      refine ParksOnly.modCtx s _ fun y w => ?_
      rw [SMap.find?_mapVals, Option.map_map]
      congr 1
      funext v
      refine unparked_mapVals v fun l m => ?_
      split <;> rfl
    split
    · exact (h _).trans (ParksOnly.dropL1 ..)
    · exact h _

theorem parksOnly_barrierRounds (c n k : Nat) : ∀ s, ParksOnly c s (barrierRounds c n k s) := by
  induction k with
  | zero =>
    intro s
    unfold barrierRounds
    split
    · split
      · exact parksOnly_barrierEnd s c n
      · exact ParksOnly.refl s
    · exact ParksOnly.refl s
  | succ k ih =>
    intro s
    unfold barrierRounds
    split
    · split
      · exact (parksOnly_barrierEnd s c n).trans (ih _)
      · exact ParksOnly.refl s
    · exact ParksOnly.refl s

theorem parksOnly_barrierCheck (s : State) (c n : Nat) : ParksOnly c s (barrierCheck s c n) := by
  unfold barrierCheck
  split
  · exact parksOnly_barrierRounds ..
  · exact ParksOnly.refl s

/-- A lane that waits at a barrier keeps its place there. -/
theorem parksOnly_arriveAt (b : Bundle) (n : Nat) (sync : Bool) (s : State) (l : Nat) :
    ParksOnly b.ctx s (arriveAt b n sync s l) := by
  unfold arriveAt
  split
  · exact ParksOnly.refl s
  · split
    · exact parksOnly_modLanes s b.ctx b.wave [l] fun _ => rfl
    · have once : ParksOnly b.ctx s (s.modCtx b.ctx fun y =>
          { y with nbar := SMap.set false y.nbar (512 * n + 32 * b.wave + l) true }) := ParksOnly.modCtx s _ fun _ _ => rfl
      dsimp only
      split
      · exact (once.trans (parksOnly_modLanes (f := fun m => { m with park := .bar n }) _ b.ctx b.wave [l] fun _ => rfl)).trans
          (parksOnly_barrierCheck ..)
      · exact once.trans (parksOnly_barrierCheck ..)

/-! ### The lanes and arrivals of the next phase -/

theorem Lane.owesFor_iff {m : Lane} {n : Nat} {w : Waits} :
    m.owesFor n w = true ↔ ∃ o ∈ m.owed, o.bar = n ∧ o.waits = w := by
  simp [Lane.owesFor]

theorem owes_iff {m : Lane} {n : Nat} : owes n m = true ↔ m.exited = false ∧ ∃ o ∈ m.owed, o.bar = n := by
  simp [owes, Lane.nextOwed]

theorem syncs_iff {x : Ctx} {n : Nat} : x.syncs n = true ↔ ∃ w v l m, (w, v) ∈ x.waves ∧ (l, m) ∈ v.lanes ∧ m.exited = false ∧
    ((m.park = .bar n ∧ ¬ ∃ o ∈ m.owed, o.bar = n ∧ o.waits = .lane) ∨
      (m.kept.park = .bar n ∧ ¬ ∃ o ∈ m.owed, o.bar = n ∧ o.waits = .kept)) := by
  simp only [Ctx.syncs, List.any_eq_true, Prod.exists, waitsAt, Bool.and_eq_true, Bool.or_eq_true, Bool.not_eq_true', beq_iff_eq,
    ← Lane.owesFor_iff, Bool.not_eq_true]
  constructor
  · rintro ⟨w, v, hv, l, m, hm, h⟩
    exact ⟨w, v, l, m, hv, hm, h⟩
  · rintro ⟨w, v, l, m, hv, hm, h⟩
    exact ⟨w, v, hv, l, m, hm, h⟩

theorem mem_owing {x : Ctx} {n w l : Nat} (hl : l < 32) : 32 * w + l ∈ x.owing n ↔ w < 16 ∧ ∃ v m, SMap.find? x.waves w = some v ∧
    v.lane? l = some m ∧ m.exited = false ∧ ∃ o ∈ m.owed, o.bar = n := by
  have hw : (32 * w + l) / 32 = w := by omega
  have hk : (32 * w + l) % 32 = l := by omega
  simp only [Ctx.owing, List.mem_filter, List.mem_range, hw, hk, Option.any_eq_true, Option.bind_eq_some_iff, owes_iff]
  constructor
  · rintro ⟨hlt, m, ⟨v, hv, hm⟩, ho⟩
    exact ⟨by omega, v, m, hv, hm, ho⟩
  · rintro ⟨hlt, v, m, hv, hm, ho⟩
    exact ⟨by omega, m, ⟨v, hv, hm⟩, ho⟩

theorem owing_lt {x : Ctx} {n k : Nat} (h : k ∈ x.owing n) : k < 512 := by
  simp only [Ctx.owing, List.mem_filter, List.mem_range] at h
  exact h.1

/-- In the new phase the lanes have arrived whose waiting arrival has been made. -/
theorem arrived_nextPhase {x : Ctx} {n w l : Nat} (hw : w < 16) (hl : l < 32) :
    (x.nextPhase n).arrived n w l = true ↔ 32 * w + l ∈ x.owing n := by
  unfold Ctx.arrived Ctx.nextPhase
  dsimp only
  rw [SMap.get_foldl_set_true (fun k => 512 * n + k), SMap.get_filter_key false x.nbar (fun k => decide (k / 512 ≠ n)), if_neg]
  · constructor
    · rintro (⟨k, hk, e⟩ | h)
      · rwa [show 32 * w + l = k by omega]
      · cases h
    · exact fun h => .inl ⟨_, h, by omega⟩
  · simp only [decide_eq_true_eq, not_not]
    omega

theorem arrived_nextPhase_ne {x : Ctx} {n m w l : Nat} (hm : m ≠ n) (hw : w < 16) (hl : l < 32) :
    (x.nextPhase n).arrived m w l = x.arrived m w l := by
  unfold Ctx.arrived Ctx.nextPhase
  dsimp only
  rw [Bool.eq_iff_iff, SMap.get_foldl_set_true (fun k => 512 * n + k),
    SMap.get_filter_key false x.nbar (fun k => decide (k / 512 ≠ n)), if_pos]
  · constructor
    · rintro (⟨k, hk, e⟩ | h)
      · have := owing_lt hk
        omega
      · exact h
    · exact .inr
  · simp only [decide_eq_true_eq]
    omega

theorem parkAfter_ne {m : Lane} {n : Nat} {w : Waits} {p : Park} (h : p ≠ .bar n) : m.parkAfter n w p = p := if_pos h

theorem parkAfter_released {m : Lane} {n : Nat} {w : Waits} (h : ¬ ∃ o ∈ m.owed, o.bar = n ∧ o.waits = w) :
    m.parkAfter n w (.bar n) = .none := by
  rw [← Lane.owesFor_iff, Bool.not_eq_true] at h
  simp [Lane.parkAfter, h]

theorem parkAfter_made {m : Lane} {n : Nat} {w : Waits} {o : Owed} (h : ∃ o ∈ m.owed, o.bar = n ∧ o.waits = w)
    (ho : m.owed.find? (fun o => o.bar == n) = some o) :
    m.parkAfter n w (.bar n) = if o.waits = w ∧ o.sync = false then .none else .bar n := by
  rw [← Lane.owesFor_iff] at h
  have hn : m.nextOwed n = some o := ho
  simp only [Lane.parkAfter, ne_eq, not_true_eq_false, if_false, h, Bool.true_eq_false, hn]
  by_cases hw : o.waits = w <;> cases hs : o.sync <;> simp [hw]

/-! ### How often waiting arrivals end a phase -/

/-- The block has a lane that has not exited, and each such lane has arrived at barrier n. -/
def Ctx.AllArrived (n : Nat) (y : Ctx) : Prop :=
  (∃ w v k m, (w, v) ∈ y.waves ∧ (k, m) ∈ v.lanes ∧ m.exited = false) ∧
    ∀ w v k m, (w, v) ∈ y.waves → (k, m) ∈ v.lanes → m.exited = false → y.arrived n w k = true

/-- Waves and lanes have the numbers of a block's waves and of a wave's lanes. -/
def Ctx.Bounded (x : Ctx) : Prop := ∀ w v, (w, v) ∈ x.waves → w < 16 ∧ ∀ k m, (k, m) ∈ v.lanes → k < 32

/-- No lane that has not exited has more than k arrivals at barrier n waiting. -/
def Ctx.OwesAtMost (n k : Nat) (x : Ctx) : Prop :=
  ∀ w v l m, (w, v) ∈ x.waves → (l, m) ∈ v.lanes → m.exited = false → m.owed.countP (fun o => o.bar == n) ≤ k

theorem mem_liveLanes {x : Ctx} {w l : Nat} :
    (w, l) ∈ liveLanes x ↔ ∃ v m, (w, v) ∈ x.waves ∧ (l, m) ∈ v.lanes ∧ m.exited = false := by
  simp only [liveLanes, List.mem_flatMap, List.mem_map, List.mem_filter, Prod.exists, Prod.mk.injEq, Bool.not_eq_true']
  constructor
  · rintro ⟨w', v, hv, l', m, ⟨hm, he⟩, rfl, rfl⟩
    exact ⟨v, m, hv, hm, he⟩
  · rintro ⟨v, m, hv, hm, he⟩
    exact ⟨w, v, hv, l, m, ⟨hm, he⟩, rfl, rfl⟩

theorem barrierFull_iff {x : Ctx} {n : Nat} : barrierFull x n = true ↔ x.AllArrived n := by
  unfold barrierFull Ctx.AllArrived
  simp only [Bool.and_eq_true, Bool.not_eq_true', List.isEmpty_eq_false_iff_exists_mem, List.all_eq_true, Prod.exists, Prod.forall,
    mem_liveLanes]
  constructor
  · rintro ⟨⟨w, l, v, m, h⟩, all⟩
    exact ⟨⟨w, v, l, m, h⟩, fun w v k m hv hm he => all w k ⟨v, m, hv, hm, he⟩⟩
  · rintro ⟨⟨w, v, l, m, h⟩, all⟩
    exact ⟨⟨w, l, v, m, h⟩, fun w k ⟨v, m, hv, hm, he⟩ => all w v k m hv hm he⟩

theorem le_foldl {α : Type} {f : Nat → α → Nat} (hf : ∀ a e, a ≤ f a e) (es : List α) (a : Nat) : a ≤ es.foldl f a := by
  induction es generalizing a with
  | nil => exact le_rfl
  | cons e es ih => exact (hf a e).trans (ih _)

theorem le_foldl_of_mem {α : Type} {f : Nat → α → Nat} (hf : ∀ a e, a ≤ f a e) {b : Nat} {e : α} {es : List α} (he : e ∈ es)
    (hb : ∀ a, b ≤ f a e) (a : Nat) : b ≤ es.foldl f a := by
  induction es generalizing a with
  | nil => cases he
  | cons d es ih =>
    rcases List.mem_cons.1 he with rfl | he
    · exact (hb a).trans (le_foldl hf es _)
    · exact ih he _

theorem owesAtMost_mostOwed (x : Ctx) (n : Nat) : x.OwesAtMost n x.mostOwed := by
  intro w v l m hv hm _
  have inner (a : Nat) (e : Nat × Lane) : a ≤ Nat.max a e.2.owed.length := Nat.le_max_left ..
  refine List.countP_le_length.trans (le_foldl_of_mem (e := (w, v)) (fun a e => le_foldl inner _ a) hv (fun a => ?_) 0)
  exact le_foldl_of_mem (e := (l, m)) inner hm (fun a => Nat.le_max_right ..) a

theorem countP_eraseP {α : Type} (p : α → Bool) (l : List α) : (l.eraseP p).countP p = l.countP p - 1 := by
  induction l with
  | nil => rfl
  | cons a l ih =>
    by_cases ha : p a = true
    · simp [ha]
    · simp [ha, ih]

theorem mem_waves_nextPhase {x : Ctx} {n w : Nat} {u : Wave} (h : (w, u) ∈ (x.nextPhase n).waves) :
    ∃ v, (w, v) ∈ x.waves ∧ u = v.nextPhase n := by
  obtain ⟨v, hv, e⟩ := (SMap.mem_mapVals (f := fun _ (v : Wave) => v.nextPhase n)).1 h
  exact ⟨v, hv, e.symm⟩

theorem mem_lanes_nextPhase {v : Wave} {n l : Nat} {k : Lane} (h : (l, k) ∈ (v.nextPhase n).lanes) :
    ∃ m, (l, m) ∈ v.lanes ∧ k = if m.exited then m else releaseLane n m := by
  obtain ⟨m, hm, e⟩ := (SMap.mem_mapVals (f := fun _ m => if m.exited then m else releaseLane n m)).1 h
  exact ⟨m, hm, e.symm⟩

theorem Ctx.Bounded.nextPhase {x : Ctx} (h : x.Bounded) (n : Nat) : (x.nextPhase n).Bounded := by
  intro w u hu
  obtain ⟨v, hv, rfl⟩ := mem_waves_nextPhase hu
  refine ⟨(h w v hv).1, fun l k hk => ?_⟩
  obtain ⟨m, hm, -⟩ := mem_lanes_nextPhase hk
  exact (h w v hv).2 l m hm

/-- The end of a phase makes one waiting arrival of each lane. -/
theorem Ctx.OwesAtMost.nextPhase {x : Ctx} {n k : Nat} (h : x.OwesAtMost n (k + 1)) : (x.nextPhase n).OwesAtMost n k := by
  intro w u l r hu hr hx
  obtain ⟨v, hv, rfl⟩ := mem_waves_nextPhase hu
  obtain ⟨m, hm, rfl⟩ := mem_lanes_nextPhase hr
  cases he : m.exited with
  | true => simp [he] at hx
  | false =>
    have := h w v l m hv hm he
    simp only [Bool.false_eq_true, if_false, releaseLane, countP_eraseP]
    omega

/-- With no arrival waiting, the next phase begins without any. -/
theorem Ctx.OwesAtMost.not_allArrived {x : Ctx} {n : Nat} (h : x.OwesAtMost n 0) (hb : x.Bounded) : ¬ (x.nextPhase n).AllArrived n := by
  rintro ⟨⟨w, u, l, k, hu, hk, hx⟩, all⟩
  have arrived := all w u l k hu hk hx
  obtain ⟨hw, hl⟩ := hb.nextPhase n w u hu
  obtain ⟨-, v, m, hv, hm, he, o, ho, hn⟩ := (mem_owing (hl l k hk)).1 ((arrived_nextPhase hw (hl l k hk)).1 arrived)
  have none := h w v l m (SMap.mem_of_find?_eq_some hv) (SMap.mem_of_find?_eq_some hm) he
  rw [Nat.le_zero, List.countP_eq_zero] at none
  exact none o ho (by simpa using hn)

/-- Every lane of block c that has not exited has arrived at barrier n. -/
def State.FullAt (s : State) (c n : Nat) : Prop := ∃ y, s.ctx? c = some y ∧ y.AllArrived n

theorem fullAt_iff {s : State} {c n : Nat} {x : Ctx} (h : s.ctx? c = some x) : s.FullAt c n ↔ barrierFull x n = true := by
  rw [barrierFull_iff]
  constructor
  · rintro ⟨y, hy, all⟩
    cases h.symm.trans hy
    exact all
  · exact fun all => ⟨x, h, all⟩

/-- The phases that end are those that were complete, one after another, up to the first that is not: each end uses up an arrival of
every lane, so k rounds and one more are enough where no lane has more than k waiting. -/
theorem barrierRounds_eq (c n k : Nat) : ∀ {s : State} {x : Ctx}, s.ctx? c = some x → x.Bounded → x.OwesAtMost n k →
    ∃ j, barrierRounds c n k s = (fun u => barrierEnd u c n)^[j] s ∧
      (∀ i, i < j → ((fun u => barrierEnd u c n)^[i] s).FullAt c n) ∧ ¬ ((fun u => barrierEnd u c n)^[j] s).FullAt c n := by
  induction k with
  | zero =>
    intro s x hx hb ho
    unfold barrierRounds
    rw [hx]
    dsimp only
    by_cases full : barrierFull x n = true
    · refine ⟨1, by rw [if_pos full]; rfl, fun i hi => ?_, fun hf => ?_⟩
      · rw [Nat.lt_one_iff.1 hi]
        exact (fullAt_iff hx).2 full
      · obtain ⟨y, hy, all⟩ := hf
        cases (ctx?_barrierEnd hx).symm.trans hy
        exact ho.not_allArrived hb all
    · exact ⟨0, by rw [if_neg full]; rfl, fun i hi => absurd hi (Nat.not_lt_zero i), fun hf => full ((fullAt_iff hx).1 hf)⟩
  | succ k ih =>
    intro s x hx hb ho
    unfold barrierRounds
    rw [hx]
    dsimp only
    by_cases full : barrierFull x n = true
    · obtain ⟨j, hj, before, after⟩ := ih (ctx?_barrierEnd hx) (hb.nextPhase n) ho.nextPhase
      refine ⟨j + 1, by rw [if_pos full, hj]; rfl, fun i hi => ?_, after⟩
      cases i with
      | zero => exact (fullAt_iff hx).2 full
      | succ i => exact before i (Nat.lt_of_succ_lt_succ hi)
    · exact ⟨0, by rw [if_neg full]; rfl, fun i hi => absurd hi (Nat.not_lt_zero i), fun hf => full ((fullAt_iff hx).1 hf)⟩

theorem barrierCheck_eq {s : State} {c : Nat} {x : Ctx} (n : Nat) (hx : s.ctx? c = some x) (hb : x.Bounded) :
    ∃ j, barrierCheck s c n = (fun u => barrierEnd u c n)^[j] s ∧
      (∀ i, i < j → ((fun u => barrierEnd u c n)^[i] s).FullAt c n) ∧ ¬ ((fun u => barrierEnd u c n)^[j] s).FullAt c n := by
  unfold barrierCheck
  rw [hx]
  exact barrierRounds_eq c n x.mostOwed hx hb (owesAtMost_mostOwed x n)

/-- The state in which the arrival of lane l is counted, and bar.sync has parked the lane. -/
def countArrival (b : Bundle) (n : Nat) (sync : Bool) (s : State) (l : Nat) : State :=
  let once := s.modCtx b.ctx fun y => { y with nbar := SMap.set false y.nbar (512 * n + 32 * b.wave + l) true }
  if sync then once.modLanes b.ctx b.wave [l] fun m => { m with park := .bar n } else once

theorem Ctx.Bounded.modLanes {x : Ctx} (h : x.Bounded) (w : Nat) (f : Nat → Lane → Lane) :
    ({ x with waves := SMap.modify x.waves w fun v => { v with lanes := SMap.mapVals v.lanes f } } : Ctx).Bounded := by
  intro k u hu
  rcases SMap.mem_modify hu with hu | ⟨v, hv, e⟩
  · exact h k u hu
  · cases e
    refine ⟨(h w v hv).1, fun l m hm => ?_⟩
    obtain ⟨m', hm', -⟩ := SMap.mem_mapVals.1 hm
    exact (h w v hv).2 l m' hm'

theorem ctx?_countArrival {b : Bundle} {n l : Nat} {sync : Bool} {s : State} {x : Ctx} (hx : s.ctx? b.ctx = some x)
    (hb : x.Bounded) : ∃ y, (countArrival b n sync s l).ctx? b.ctx = some y ∧ y.Bounded := by
  unfold countArrival
  have counted := hx ▸ ctx?_modCtx_self s b.ctx fun y => { y with nbar := SMap.set false y.nbar (512 * n + 32 * b.wave + l) true }
  cases sync with
  | false => exact ⟨_, counted, hb⟩
  | true => exact ⟨_, (ctx?_modCtx_self ..).trans (congrArg _ counted), Ctx.Bounded.modLanes (x := { x with nbar := _ }) hb _ _⟩

/-- The arrival of a lane that has arrived in the phase waits, and the lane with it. -/
theorem arriveAt_again {b : Bundle} {n l : Nat} {sync : Bool} {s : State} {x : Ctx} (hx : s.ctx? b.ctx = some x)
    (h : x.arrived n b.wave l = true) : arriveAt b n sync s l =
      s.modLanes b.ctx b.wave [l] fun m => { m with park := .bar n, owed := m.owed ++ [⟨n, sync, .lane⟩] } := by
  unfold arriveAt
  rw [hx]
  exact if_pos h

theorem arriveAt_first {b : Bundle} {n l : Nat} {sync : Bool} {s : State} {x : Ctx} (hx : s.ctx? b.ctx = some x)
    (h : x.arrived n b.wave l = false) : arriveAt b n sync s l = barrierCheck (countArrival b n sync s l) b.ctx n := by
  unfold arriveAt
  rw [hx]
  exact if_neg (by simp [h])

/-! ### The two instructions -/

theorem arrive_passes {i : Instr} {n : Nat} {sync : Bool} {s : State} {b : Bundle} {x : Ctx} {v : Wave} {act : List Nat}
    (h : Passes i s b x v act) : arrive i s n sync = .next (act.foldl (arriveAt b n sync) (pass i b act s)) := issue_go h _

theorem exec_bar {i : Instr} {n : Nat} {sync : Bool} (h : (i = .barSync n ∧ sync = true) ∨ (i = .barArrive n ∧ sync = false))
    (s : State) : exec i s = arrive i s n sync := by
  rcases h with ⟨rfl, rfl⟩ | ⟨rfl, rfl⟩ <;> rfl

/-- What bar.sync and bar.arrive do, once issued: one arrival of each active lane, and nothing outside the block's lanes. -/
theorem bar_passes {i : Instr} {n : Nat} {sync : Bool} (hi : (i = .barSync n ∧ sync = true) ∨ (i = .barArrive n ∧ sync = false))
    {s : State} {b : Bundle} {x : Ctx} {v : Wave} {act : List Nat} (h : Passes i s b x v act) :
    ∃ t u, Passed i s b x v act t ∧ exec i s = .next u ∧ u = act.foldl (arriveAt b n sync) t ∧ ParksOnly b.ctx t u :=
  ⟨_, _, passed_pass h, (exec_bar hi s).trans (arrive_passes h), rfl, ParksOnly.foldl (parksOnly_arriveAt b n sync) act _⟩

/-- A wave and its lanes keep registers, pending bits, program counters and status words where only waiting changes. -/
theorem ParksOnly.wave {c w : Nat} {t u : State} (h : ParksOnly c t u) {y : Wave} (hy : t.wave? c w = some y) :
    ∃ z, u.wave? c w = some z ∧ z.regs = y.regs ∧ z.pend = y.pend ∧
      ∀ l m, y.lane? l = some m → ∃ k, z.lane? l = some k ∧ k.pc = m.pc ∧ k.exited = m.exited ∧ k.lsw = m.lsw := by
  have hw := h.waves w
  rw [hy] at hw
  obtain ⟨z, hz, e⟩ := Option.map_eq_some_iff.1 hw
  refine ⟨z, hz, (congrArg Wave.regs e :), (congrArg Wave.pend e :), fun l m hm => ?_⟩
  obtain ⟨k, hk, ek⟩ := lane?_of_unparked_eq e hm
  exact ⟨k, hk, (congrArg Lane.pc ek :), (congrArg Lane.exited ek :), (congrArg Lane.lsw ek :)⟩

/-- A lane that has not exited, at the end of a phase. -/
theorem lane?_nextPhase {v : Wave} {n l : Nat} {m : Lane} (hm : v.lane? l = some m) (he : m.exited = false) :
    (v.nextPhase n).lane? l = some (releaseLane n m) := by
  simp [Wave.nextPhase, hm, he]

/-- Settles O21: the arrivals change nothing but where lanes wait; each end of a phase uses up one waiting arrival of every lane, which
bounds the ends; and the next phase is read off the block after one. -/
theorem blockBarriers : Obligations.BlockBarriers := by
  unfold Obligations.BlockBarriers
  refine ⟨⟨fun i n sync hi s b x v act h => ?_, fun s b n sync l x hx hb => ⟨fun h => arriveAt_again hx h, fun h => ?_⟩⟩,
    fun s c n x hx => ⟨x.nextPhase n, ctx?_barrierEnd hx, mem_barrierEnd s c n, (parksOnly_barrierEnd s c n).others, ⟨?_, ?_⟩,
      fun m w l hm hw hl => arrived_nextPhase_ne hm hw hl, fun w l hw hl => ?_, fun w v hv => ?_⟩⟩
  · obtain ⟨t, u, passed, next, fold, parks⟩ := bar_passes hi h
    exact ⟨t, u, passed, next, fold, parks.mem, parks.hub, parks.ops, parks.agenda, parks.others, fun w y hy => parks.wave hy⟩
  · obtain ⟨y, hy, bounded⟩ := ctx?_countArrival (n := n) (l := l) (sync := sync) hx hb
    obtain ⟨k, ends, before, after⟩ := barrierCheck_eq n hy bounded
    exact ⟨k, (arriveAt_first hx h).trans ends, before, after⟩
  · intro waits
    rw [l1_barrierEnd hx, if_pos (syncs_iff.2 waits)]
  · intro waits
    rw [l1_barrierEnd hx, if_neg fun h => waits (syncs_iff.1 h)]
  · rw [arrived_nextPhase hw hl, mem_owing hl]
    exact and_iff_right hw
  · refine ⟨v.nextPhase n, by simp [Ctx.nextPhase, hv], rfl, fun l m hm he => ⟨_, lane?_nextPhase hm he, rfl, he, rfl, ?_, ?_, ?_⟩⟩
    · exact parkAfter_ne
    · intro park free
      simpa only [releaseLane, park] using parkAfter_released free
    · intro park waits o ho
      simpa only [releaseLane, park] using parkAfter_made waits ho

end Sys2Proof.Machine
end

section
/-! PROOFS. Proofs/Placement.lean: the least free context number, the waves and registers of a new block, and what its placement
leaves alone. -/

namespace Sys2Proof.Machine.SMap
variable {α : Type}

/-- A map that lists f k for each key k of a list. -/
theorem find?_map_keys (f : Nat → α) (ks : List Nat) (k : Nat) :
    find? (ks.map fun j => (j, f j)) k = if k ∈ ks then some (f k) else none := by
  induction ks with
  | nil => rfl
  | cons j ks ih =>
    rw [List.map_cons, find?, ih]
    by_cases hjk : j = k
    · simp [hjk]
    · simp [hjk, Ne.symm hjk]

/-- A map that lists, for each key of a list, what f gives for it, if anything. -/
theorem find?_filterMap_keys {f : Nat → Option (Nat × α)} (hf : ∀ j e, f j = some e → e.1 = j) (ks : List Nat) (k : Nat) :
    find? (ks.filterMap f) k = if k ∈ ks then (f k).map (·.2) else none := by
  induction ks with
  | nil => rfl
  | cons j ks ih =>
    rw [List.filterMap_cons]
    cases hj : f j with
    | none =>
      rw [ih]
      by_cases hjk : k = j
      · subst hjk
        simp [hj]
      · simp [hjk]
    | some e =>
      obtain ⟨i, v⟩ := e
      obtain rfl : i = j := hf j _ hj
      rw [find?, ih]
      by_cases hjk : i = k
      · subst hjk
        simp [hj]
      · simp [hjk, Ne.symm hjk]

theorem isSome_find?_iff {m : List (Nat × α)} {k : Nat} : (find? m k).isSome = true ↔ k ∈ m.map (·.1) := by
  induction m with
  | nil => simp [find?]
  | cons e m ih =>
    obtain ⟨j, v⟩ := e
    rw [find?]
    by_cases hjk : j = k
    · simp [hjk]
    · simp [hjk, Ne.symm hjk, ih]

end Sys2Proof.Machine.SMap

namespace Sys2Proof.Machine

/-! ### The least free context number -/

/-- Of one number more than there are contexts, one is not in use. -/
theorem exists_free_ctx (s : State) : ∃ c ∈ List.range (s.ctxs.length + 1), (s.ctx? c).isNone = true := by
  by_contra! h
  have used : List.range (s.ctxs.length + 1) ⊆ s.ctxs.map (·.1) := fun c hc =>
    SMap.isSome_find?_iff.1 (by simpa [State.ctx?, Option.isSome_iff_ne_none] using h c hc)
  have := (List.subperm_of_subset List.nodup_range used).length_le
  simp at this

theorem ctx?_freeCtxNum (s : State) : s.ctx? (freeCtxNum s) = none := by
  obtain ⟨c, hc, none⟩ := exists_free_ctx s
  unfold freeCtxNum
  cases hf : (List.range (s.ctxs.length + 1)).find? fun c => (s.ctx? c).isNone with
  | none => exact absurd none (List.find?_eq_none.1 hf c hc)
  | some d => exact Option.isNone_iff_eq_none.1 (List.find?_some hf :)

/-! ### The waves of a new block -/

theorem lane?_startWave (slot w n arg : Nat) (pc : Dword) {j : Nat} (hj : j < 32) : (startWave slot w n pc arg).lane? j =
    if 32 * w + j < n then some (Lane.start .present pc)
    else if 32 * w + j / 4 * 4 < n then some (Lane.start .helper pc) else none := by
  unfold startWave startLanes Wave.lane? Wave.start
  rw [SMap.find?_filterMap_keys fun i e he => ?_]
  · rw [if_pos (List.mem_range.2 hj)]
    split
    · rfl
    · split <;> rfl
  · split at he
    · cases he
      rfl
    · split at he
      · cases he
        rfl
      · cases he

/-- The kernel argument, written to v0 and v1 of each lane of a list. -/
theorem get_argRegs (arg : Nat) {r j : Nat} (hj : j < 32) (ls : List (Nat × Lane)) (h : ∀ e ∈ ls, e.1 < 32) : ∀ m : List (Nat × Word),
    SMap.get 0 (ls.foldl (fun m (l, _) => SMap.set 0 (SMap.set 0 m l (word arg)) (32 + l) (word (arg / 2 ^ 32))) m) (32 * r + j) =
      if j ∈ ls.map (·.1) ∧ r = 0 then word arg
      else if j ∈ ls.map (·.1) ∧ r = 1 then word (arg / 2 ^ 32) else SMap.get 0 m (32 * r + j) := by
  induction ls with
  | nil => intro m; simp
  | cons e ls ih =>
    intro m
    have lt := h e (List.mem_cons_self ..)
    have high : 32 + e.1 = 32 * r + j ↔ r = 1 ∧ j = e.1 := by omega
    have low : e.1 = 32 * r + j ↔ r = 0 ∧ j = e.1 := by omega
    rw [List.foldl_cons, ih fun d hd => h d (List.mem_cons_of_mem _ hd), SMap.get_set, SMap.get_set]
    simp only [high, low, List.map_cons, List.mem_cons]
    grind

theorem reg_startWave (slot w n arg : Nat) (pc : Dword) (r : Nat) {j : Nat} (hj : j < 32) : (startWave slot w n pc arg).reg r j =
    if ((startWave slot w n pc arg).lane? j).isSome = true then
      (if r = 0 then BitVec.ofNat 32 arg else if r = 1 then BitVec.ofNat 32 (arg / 2 ^ 32) else 0)
    else 0 := by
  have keys : ∀ e ∈ startLanes w n pc, e.1 < 32 := by
    intro e he
    obtain ⟨i, hi, hf⟩ := List.mem_filterMap.1 he
    have hi := List.mem_range.1 hi
    split at hf
    · cases hf
      exact hi
    · split at hf
      · cases hf
        exact hi
      · cases hf
  have listed : ((startWave slot w n pc arg).lane? j).isSome = true ↔ j ∈ (startLanes w n pc).map (·.1) := SMap.isSome_find?_iff
  refine (get_argRegs arg hj _ keys []).trans ?_
  by_cases hl : j ∈ (startLanes w n pc).map (·.1)
  · simp [listed, hl, word]
  · simp [listed, hl]

/-! ### Placing a block -/

theorem posted_blockEvent (s : State) (c e : Nat) : Posted s (s.blockEvent c e) := by
  unfold State.blockEvent
  split
  · dsimp only
    split
    · exact Posted.post ..
    · exact Posted.refl s
  · exact Posted.refl s

/-- Preparing a core changes the core and lines of its L1. -/
theorem carveCore_outside (s : State) (k d : Nat) (acq : Bool) :
    { s.carveCore k d acq with cores := [], l1 := [] } = { s with cores := [], l1 := [] } := by
  unfold State.carveCore
  dsimp only
  split
  · rfl
  · split <;> rfl

theorem gen_carveCore (s : State) (k d : Nat) (acq : Bool) : ((s.carveCore k d acq).core k).gen = (s.core k).gen := by
  unfold State.carveCore
  dsimp only
  split
  · simp [State.dropL1, State.core, State.setCore]
  · split <;> rfl

/-- Block i of the next span of launch n, as it is placed on core k. -/
def State.newBlock (s : State) (n : Nat) (l : Launch) (k i : Nat) : Ctx :=
  let d := l.desc
  let part := s.qpart l.queue
  let nx := bits d 223 192 / bits d 165 160
  let ny := bits d 239 224 / bits d 171 166
  let threads := bits d 137 128 * bits d 147 138 * bits d 157 148
  let slots := s.freeSlots k ((threads + 31) / 32)
  { Ctx.start part (s.hubGet 0x701 part % 0x10000) l.queue n l.next i (BitVec.ofNat 64 (pktWord l.image 0)) d
      (BitVec.ofNat 64 (s.hubGet64 0x40C l.queue)) (BitVec.ofNat 64 (s.hubGet64 0x40E l.queue))
      (l.next % nx * bits d 165 160 + i % bits d 165 160,
        l.next / nx % ny * bits d 171 166 + i / bits d 165 160 % bits d 171 166,
        l.next / (nx * ny) * bits d 177 172 + i / (bits d 165 160 * bits d 171 166))
      (k / 768) (k % 768) (s.core k).gen
      ((List.range slots.length).map fun w =>
        (w, startWave (slots.getD w 0) w threads (BitVec.ofNat 64 (bits d 63 0)) (pktWord l.image 1)))
      (s.hubGet 0x80C 0) ((s.qctl l.queue).testBit 9) s.clock.toNat l.index with
    dbgen := (s.qctl l.queue).testBit 10 && !s.conf part }

theorem placeBlock_eq (n : Nat) (l : Launch) (cluster base : Nat) (s : State) (i : Nat) :
    State.placeBlock n l cluster base s i =
      ({ s.carveCore (48 * cluster + base + i) l.desc (l.image.testBit 9) with
          ctxs := SMap.insert s.ctxs (freeCtxNum s) (s.newBlock n l (48 * cluster + base + i) i) } : State).blockEvent (freeCtxNum s) 1 := by
  have out := carveCore_outside s (48 * cluster + base + i) l.desc (l.image.testBit 9)
  have gen := gen_carveCore s (48 * cluster + base + i) l.desc (l.image.testBit 9)
  unfold State.placeBlock State.newBlock
  dsimp only
  generalize s.carveCore (48 * cluster + base + i) l.desc (l.image.testBit 9) = t at out gen ⊢
  have ctxs : t.ctxs = s.ctxs := (congrArg State.ctxs out :)
  have hub : t.hub = s.hub := (congrArg State.hub out :)
  have clock : t.clock = s.clock := (congrArg State.clock out :)
  simp only [freeCtxNum, State.ctx?, State.freeSlots, State.onCore, State.hubGet64, State.hubGet, State.qctl, State.qpart,
    State.conf, ctxs, hub, clock, gen]

/-- The next span of a launch of one-block spans is placed. -/
theorem placeFresh_one {s : State} {n : Nat} {l : Launch} (hl : SMap.find? s.launches n = some l) (one : descSpanBlocks l.desc = 1)
    (cluster base : Nat) : ∃ ps, s.placeFresh n cluster base =
      { State.placeBlock n l cluster base s 0 with
        launches := SMap.insert (State.placeBlock n l cluster base s 0).launches n { l with next := l.next + 1 }, placed := ps } := by
  unfold State.placeFresh
  rw [hl]
  dsimp only
  rw [one]
  exact ⟨_, rfl⟩

theorem ctx?_placeBlock (n : Nat) (l : Launch) (cluster base : Nat) (s : State) (i c : Nat) :
    (State.placeBlock n l cluster base s i).ctx? c =
      if freeCtxNum s = c then some (s.newBlock n l (48 * cluster + base + i) i) else s.ctx? c := by
  rw [placeBlock_eq]
  have h := (posted_blockEvent ({ s.carveCore (48 * cluster + base + i) l.desc (l.image.testBit 9) with
    ctxs := SMap.insert s.ctxs (freeCtxNum s) (s.newBlock n l (48 * cluster + base + i) i) } : State) (freeCtxNum s) 1).outside
  unfold State.ctx?
  rw [(congrArg State.ctxs h :)]
  exact SMap.find?_insert ..

/-- The waves of a new block, where the core has the slots for them. -/
theorem find?_waves_newBlock {s : State} {l : Launch} {k nw : Nat} (n i w : Nat)
    (hw : nw = (bits l.desc 137 128 * bits l.desc 147 138 * bits l.desc 157 148 + 31) / 32) (room : nw ≤ (s.freeSlots k nw).length) :
    SMap.find? (s.newBlock n l k i).waves w = if w < nw then
      some (startWave ((s.freeSlots k nw).getD w 0) w (bits l.desc 137 128 * bits l.desc 147 138 * bits l.desc 157 148)
        (BitVec.ofNat 64 (bits l.desc 63 0)) (pktWord l.image 1)) else none := by
  have len : (s.freeSlots k nw).length = nw := Nat.le_antisymm (List.length_take_le ..) room
  subst hw
  refine (SMap.find?_map_keys _ _ w).trans ?_
  rw [len]
  simp only [List.mem_range]

/-- Settles O51: the new block is the one of State.newBlock, at the least free number, and its waves and registers are read off it. -/
theorem placement : Obligations.Placement := by
  unfold Obligations.Placement
  intro s n l k base hl one
  dsimp only
  intro _ room
  obtain ⟨ps, placed⟩ := placeFresh_one hl one k base
  have ctx (c : Nat) : (s.placeFresh n k base).ctx? c = (State.placeBlock n l k base s 0).ctx? c := by
    rw [placed]
    rfl
  have waves (w : Nat) := find?_waves_newBlock n 0 w rfl room
  refine ⟨ctx?_freeCtxNum s, fun b hb => ?_, ?_, mem_placeFresh s n k base, s.newBlock n l (48 * k + base) 0, ?_, rfl, rfl, rfl, rfl, rfl,
    rfl, rfl, rfl, rfl, rfl, rfl, rfl, rfl, rfl, rfl, rfl, rfl, rfl, rfl, ?_, fun w => ?_, fun w v hv => ?_⟩
  · rw [ctx, ctx?_placeBlock, if_neg hb.symm]
  · rw [placed]
    exact SMap.find?_insert_self ..
  · rw [ctx, ctx?_placeBlock, if_pos rfl]
    rfl
  · simp [State.newBlock, Ctx.start]
  · rw [waves]
    split <;> simp [*]
  · rw [waves] at hv
    split at hv
    · cases hv
      exact ⟨rfl, rfl, rfl, fun j hj => lane?_startWave _ _ _ _ _ hj, fun r j hj => reg_startWave _ _ _ _ _ r hj⟩
    · cases hv

end Sys2Proof.Machine
end

section
/-! PROOFS. Proofs/Launches.lean: the word written at the end of a launch has 64 bits, and a launch whose code does not fit in it. -/

namespace Sys2Proof.Machine

/-- n bytes of memory, as a number. -/
theorem readMem_lt (m : List Host.Cell) (k n : Nat) : readMem m k n < 256 ^ n := by
  induction n generalizing k with
  | zero => simp [readMem]
  | succ n ih =>
    have low := (readByte m k).isLt
    have high := ih (k + 1)
    rw [readMem, pow_succ]
    omega

/-- The packet of a launch, whose W2 is the first address of control space. -/
def overcodedImage : Nat := 1 + 0x1000000000000000 * 2 ^ 192

/-- A launch with its one span placed, and with a code of 64 bits. -/
def overcodedLaunch : Launch := ⟨4095, 9, overcodedImage, 0, 1, 1, 2 ^ 63, 15, false⟩

/-- LAUNCH_COMPLETE of that launch, where its word is in a page of control space that partition 15 may write. -/
def overcoded : State :=
  { ((((((State.reset.hubSet 0x701 15 0x40000000).hubSet 0x605 0 0x80000000).hubSet 0x709 241 7).hubSet 0x70C 241 0xFFFFFFFF).hubSet 0x501 15
      0x10000).hubSet 0x502 15 0) with
    mem := writeMem (writeMem [] (ctlKey 0x10000) 8 0x11001) (ctlKey 0x11000) 8 0x3B
    queues := [(4095, { Queue.reset with entries := [⟨9, 9, overcodedImage, true⟩] })]
    launches := [(2, overcodedLaunch)]
    args := [2] }

/-- A place found for the word, the machine as it was in all that Launches asks of it. -/
def wordPlaced (s : State) (r : Except (Nat ⊕ Nat) (Bool × Nat) × State) : Bool := match r with
  | (.ok (false, pa), z) => z.launches == s.launches && z.ctxs == s.ctxs && z.queues == s.queues && z.hub == s.hub &&
      !poisoned z (ctlKey pa) 8 && pa % 8 == 0
  | _ => false

theorem exists_of_wordPlaced {s : State} {r : Except (Nat ⊕ Nat) (Bool × Nat) × State} (h : wordPlaced s r = true) :
    ∃ pa z, r = (.ok (false, pa), z) ∧ (z.launches = s.launches ∧ z.ctxs = s.ctxs) ∧ z.queues = s.queues ∧ z.hub = s.hub ∧
      poisoned z (ctlKey pa) 8 = false ∧ pa % 8 = 0 := by
  unfold wordPlaced at h
  split at h
  · rename_i pa z
    simp only [Bool.and_eq_true, beq_iff_eq, Bool.not_eq_true'] at h
    obtain ⟨⟨⟨⟨⟨launches, ctxs⟩, queues⟩, hub⟩, clean⟩, aligned⟩ := h
    exact ⟨pa, z, rfl, ⟨launches, ctxs⟩, queues, hub, clean, aligned⟩
  · cases h

theorem wordPlaced_overcoded : wordPlaced overcoded (overcoded.matinsPlace 15 (pktWord overcodedImage 2) 8 permW) = true := by
  decide +kernel

/-- Refutes O45: a launch's code is not bounded in its last clause, and 2^63 plus a code of 2^63 is the value of no eight bytes. -/
theorem not_launches : ¬ Obligations.Launches := by
  unfold Obligations.Launches
  rintro ⟨-, ends⟩
  obtain ⟨pa, z, placed, same, queues, hub, clean, aligned⟩ := exists_of_wordPlaced wordPlaced_overcoded
  obtain ⟨t, -, -, -, -, word⟩ := ends overcoded 2 overcodedLaunch ⟨9, 9, overcodedImage, true⟩ [] rfl (fun _ h => nomatch h) rfl
    (.inl le_rfl) (fun _ _ h => nomatch h) rfl rfl rfl (by decide) rfl (fun _ h => nomatch h) (.inr ⟨pa, z, placed, same⟩)
  obtain ⟨-, read⟩ := word pa z (by decide +kernel) placed queues hub clean aligned
  have small : readMem t.mem (ctlKey pa) 8 < 2 ^ 64 := readMem_lt ..
  rw [read] at small
  exact absurd small (by decide)

end Sys2Proof.Machine
end

section
/-! PROOFS. Proofs/LeavingAndResuming.lean: a block whose end brings its queue to its cap, so that an event is written as it ends. -/

namespace Sys2Proof.Machine

/-- A block of queue 0 that retires, resident since clock 0. -/
def cappedCtx : Ctx :=
  { Ctx.start 0 0 0 0 0 0 0 placedDesc 0 0 (0, 0, 0) 0 0 0 [] 0 false 0 0 with state := .retiring, onCore := true }

/-- BLOCK_RETIRE of that block, whose core cycles of an epoch that has passed reach its queue's cap (QCAP of 1) with the end of the block
and have still to be reported in the queue's event ring. -/
def cappedRetire : State :=
  (({ State.reset with ctxs := [(0, cappedCtx)], args := [0], clock := 0x100000 } : State).hubSet 0x406 0 1).hubSet 0x432 0 1

/-- The first byte of control memory after an outcome. -/
def firstControlByte (r : Host.Outcome State Fault Refusal) : Option Byte := match r with
  | .next t => some (readByte t.mem (ctlKey 0))
  | _ => none

/-- The byte is that of an event record of type 3. -/
theorem firstControlByte_blockRetire : firstControlByte (exec .blockRetire cappedRetire) = some 3 := by decide +kernel

/-- Refutes O48: the end of a block may bring the event of a queue that reached its cap, which BLOCK_RETIRE writes to control memory. -/
theorem not_leavingAndResuming : ¬ Obligations.LeavingAndResuming := by
  unfold Obligations.LeavingAndResuming
  rintro ⟨⟨-, -, ends, -⟩, -⟩
  obtain ⟨t, next, -, -, mem⟩ := ends cappedRetire 0 cappedCtx rfl rfl rfl
  have written := firstControlByte_blockRetire
  rw [next] at written
  have kept : readByte t.mem (ctlKey 0) = 0 := mem (ctlKey 0)
  exact absurd ((congrArg some kept).symm.trans written) (by decide)

end Sys2Proof.Machine
end

section
/-! PROOFS. Proofs/PassedState.lean: what stands when an instruction has passed, the checks of an access to the own scratchpad and the
own commons window, and locks given back. -/
namespace Sys2Proof.Machine

/-! ### What passing leaves alone -/

/-- The machine but for contexts, cores, L1 lines, the agenda, the bundle issued, the clock and the number of the next operation. -/
def State.unissued (s : State) : State :=
  { s with ctxs := [], cores := [], l1 := [], agenda := [], cur := none, nextId := 0, clock := 0 }

@[simp] theorem unissued_noteSample (s : State) (b : Bundle) (act : List Nat) : (s.noteSample b act).unissued = s.unissued := by
  unfold State.noteSample State.bundleSample
  repeat' split
  all_goals rfl

@[simp] theorem unissued_countBundle (b : Bundle) (n : Nat) (s : State) : (countBundle b n s).unissued = s.unissued := by
  unfold countBundle
  repeat' split
  all_goals rfl

@[simp] theorem unissued_noteIssue (s : State) (b : Bundle) : (s.noteIssue b).unissued = s.unissued := by
  unfold State.noteIssue State.issuedAt
  split <;> rfl

theorem unissued_modWave (s : State) (c w : Nat) (f : Wave → Wave) : (s.modWave c w f).unissued = s.unissued := rfl

@[simp] theorem unissued_acquire (s : State) (k sc : Nat) : (s.acquire k sc).unissued = s.unissued := by
  unfold State.acquire
  split <;> rfl

@[simp] theorem unissued_acquireArrivals (i : Instr) (b : Bundle) (act : List Nat) (s : State) :
    (acquireArrivals i b act s).unissued = s.unissued := by
  unfold acquireArrivals
  split
  · dsimp only
    split
    · rfl
    · rw [unissued_acquire, unissued_modWave]
  · rfl

/-- Passing changes contexts, cores, L1 lines, the agenda, the bundle, the clock and the next number alone. -/
theorem unissued_pass (i : Instr) (b : Bundle) (act : List Nat) (s : State) : (pass i b act s).unissued = s.unissued :=
  calc (pass i b act s).unissued
      = (acquireArrivals i b act (((countBundle b (issueRate i) (s.noteSample b act)).noteIssue b).modWave b.ctx b.wave
          fun v => v.pass i b.run act s.nextId s.inFlight)).unissued := rfl
    _ = s.unissued := by
      rw [unissued_acquireArrivals, unissued_modWave, unissued_noteIssue, unissued_countBundle, unissued_noteSample]

section
variable (i : Instr) (b : Bundle) (act : List Nat) (s : State)

@[simp] theorem hub_pass : (pass i b act s).hub = s.hub := (congrArg State.hub (unissued_pass i b act s) :)
@[simp] theorem ops_pass : (pass i b act s).ops = s.ops := (congrArg State.ops (unissued_pass i b act s) :)
@[simp] theorem poison_pass : (pass i b act s).poison = s.poison := (congrArg State.poison (unissued_pass i b act s) :)
@[simp] theorem recs_pass : (pass i b act s).recs = s.recs := (congrArg State.recs (unissued_pass i b act s) :)
@[simp] theorem free_pass : (pass i b act s).free = s.free := (congrArg State.free (unissued_pass i b act s) :)
@[simp] theorem waiting_pass : (pass i b act s).waiting = s.waiting := (congrArg State.waiting (unissued_pass i b act s) :)

@[simp] theorem hubGet_pass (n k : Nat) : (pass i b act s).hubGet n k = s.hubGet n k := by simp [State.hubGet]
@[simp] theorem pkg_pass : (pass i b act s).pkg = s.pkg := by simp [State.pkg]
@[simp] theorem cmWindow_pass (die part : Nat) : (pass i b act s).cmWindow die part = s.cmWindow die part := by simp [State.cmWindow]
@[simp] theorem unwritten_pass (c o n : Nat) : (pass i b act s).unwritten c o n = s.unwritten c o n := by simp [State.unwritten]

end

/-- The block of an instruction that has passed: all but its waves and the latch stands. -/
theorem ctx?_pass {i : Instr} {s : State} {b : Bundle} {x : Ctx} {v : Wave} {act : List Nat} (h : Passes i s b x v act) :
    ∃ y, (pass i b act s).ctx? b.ctx = some y ∧ y.rest = x.rest := by
  obtain ⟨_, _, own⟩ := oneWave_pass (act := act) (i := i) h.ctx h.wave
  obtain ⟨y, hy, hr, -, -⟩ := own.own
  exact ⟨y, hy, hr⟩

/-! ### Cores without locks -/

/-- No range lock stands (R91). -/
def State.Unlocked (s : State) : Prop := ∀ p c, (p, c) ∈ s.cores → c.locks = []

theorem State.Unlocked.core {s : State} (h : s.Unlocked) (k : Nat) : (s.core k).locks = [] := by
  unfold State.core SMap.get
  cases hk : SMap.find? s.cores k with
  | none => rfl
  | some c => exact h k c (SMap.mem_of_find?_eq_some hk)

theorem State.Unlocked.setCore {s : State} (h : s.Unlocked) {k : Nat} {y : Core} (hy : y.locks = []) : (s.setCore k y).Unlocked := by
  intro p c hc
  simp only [State.setCore, SMap.set] at hc
  split at hc
  · rw [SMap.erase_eq_filter] at hc
    exact h p c (List.mem_filter.1 hc).1
  · rcases SMap.mem_insert hc with e | hc
    · cases e; exact hy
    · exact h p c hc

theorem State.Unlocked.noteSample {s : State} (h : s.Unlocked) (b : Bundle) (act : List Nat) : (s.noteSample b act).Unlocked := by
  unfold State.noteSample State.bundleSample
  repeat' split
  · exact h.setCore (h.core _)
  all_goals exact h

theorem State.Unlocked.countBundle {s : State} (h : s.Unlocked) (b : Bundle) (n : Nat) : (countBundle b n s).Unlocked := by
  unfold Machine.countBundle
  repeat' split
  · exact h.setCore (h.core _)
  all_goals exact h

theorem State.Unlocked.noteIssue {s : State} (h : s.Unlocked) (b : Bundle) : (s.noteIssue b).Unlocked := by
  unfold State.noteIssue State.issuedAt
  split
  · exact State.Unlocked.setCore h (h.core _)
  · exact h

theorem State.Unlocked.acquireArrivals {s : State} (h : s.Unlocked) (i : Instr) (b : Bundle) (act : List Nat) :
    (acquireArrivals i b act s).Unlocked := by
  unfold Machine.acquireArrivals
  split
  · dsimp only
    split
    · exact h
    · unfold State.acquire
      split <;> exact h
  · exact h

/-- Passing takes no lock. -/
theorem State.Unlocked.pass {s : State} (h : s.Unlocked) (i : Instr) (b : Bundle) (act : List Nat) : (pass i b act s).Unlocked :=
  have h1 := ((h.noteSample b act).countBundle b (issueRate i)).noteIssue b
  State.Unlocked.acquireArrivals (s := State.modWave _ b.ctx b.wave fun v => v.pass i b.run act s.nextId s.inFlight) h1 i b act

theorem State.Unlocked.scratchLocks {s : State} (h : s.Unlocked) (c : Nat) : s.scratchLocks c = [] := by
  unfold State.scratchLocks
  split
  · rw [h.core]; rfl
  · rfl

theorem State.Unlocked.commonsLocks {s : State} (h : s.Unlocked) (die : Nat) : s.commonsLocks die = [] := by
  unfold State.commonsLocks
  refine List.flatMap_eq_nil_iff.2 fun e he => ?_
  obtain ⟨k, c⟩ := e
  dsimp only
  split
  · rw [h k c he]; rfl
  · rfl

theorem State.Unlocked.lockKind {s : State} (h : s.Unlocked) (c : Nat) (x : Ctx) (q : Req) (p : Place) : lockKind s c x q p = none := by
  unfold Machine.lockKind
  split <;> simp [h.scratchLocks, h.commonsLocks]

/-! ### Accesses to the own scratchpad and the own commons window -/

/-- The operations of a wave that have nothing left to touch hold no access of it back. -/
theorem ownPending_of_none {s : State} {c w : Nat}
    (h : ∀ id o, (id, o) ∈ s.ops → o.ctx = c → o.wave = w → o.kind.pending.1 = []) (l k n : Nat) :
    s.ownPending c w l k n = false := by
  unfold State.ownPending
  rw [List.any_eq_false]
  rintro ⟨id, o⟩ ho hp
  simp only [Bool.and_eq_true, beq_iff_eq, List.any_eq_true] at hp
  obtain ⟨⟨⟨hc, hw⟩, j, hj, -⟩, -⟩ := hp
  have := List.map_eq_nil_iff.1 (h id o ho hc hw)
  rw [this] at hj
  cases hj

/-- Bytes of which none lies in a poisoned unit. -/
theorem units_of_bytes {p : List (Nat × Nat)} {k n : Nat} (hn : 0 < n) (h : ∀ j, j < n → SMap.get 0 p ((k + j) / 32) = 0) :
    ∀ j, j < (k % 32 + n + 31) / 32 → SMap.get 0 p (k / 32 + j) = 0 := by
  intro j hj
  have e : k / 32 + j = (k + (32 * j - k % 32)) / 32 := by omega
  rw [e]
  exact h _ (by omega)

theorem readsPoison_of_bytes {s : State} {c : Nat} {x : Ctx} {q : Req} {p : Place} (hn : 0 < q.n)
    (h : ∀ j, j < q.n → SMap.get 0 s.poison ((p.key + j) / 32) = 0) : s.readsPoison c x q p = false := by
  unfold State.readsPoison
  rw [Bool.and_eq_false_iff]
  refine .inr (List.any_eq_false.2 fun j hj => ?_)
  rw [units_of_bytes hn h j (List.mem_range.1 hj)]
  simp

/-- The place at memory key k of such an address. -/
def nearPlace (s : State) (b : Bundle) (x : Ctx) (a k : Nat) : Place :=
  if addrSpace a = 3 then ⟨3, k, b.ctx, a % 2 ^ 18, false⟩ else ⟨4, k, 0, (s.cmWindow x.die x.part).1 + a % 2 ^ 27, false⟩

@[simp] theorem key_nearPlace (s : State) (b : Bundle) (x : Ctx) (a k : Nat) : (nearPlace s b x a k).key = k := by
  unfold nearPlace; split <;> rfl

theorem nearPlace_scratch {s : State} {b : Bundle} {x : Ctx} {a k : Nat} (h : addrSpace a = 3) :
    nearPlace s b x a k = ⟨3, k, b.ctx, a % 2 ^ 18, false⟩ := if_pos h

theorem nearPlace_commons {s : State} {b : Bundle} {x : Ctx} {a k : Nat} (h : addrSpace a = 4) :
    nearPlace s b x a k = ⟨4, k, 0, (s.cmWindow x.die x.part).1 + a % 2 ^ 27, false⟩ := if_neg (by omega)

/-- Such a place has no record, or is one of the commons. -/
theorem space_nearPlace {s : State} {b : Bundle} {x : Ctx} {n a k : Nat} (h : Plain s b x n a k) :
    (nearPlace s b x a k).space = 3 ∨ ((nearPlace s b x a k).space = 4 ∧ 0x4000000000000000 ≤ k) := by
  obtain ⟨-, -, ⟨space, -, -, -, rfl⟩ | ⟨space, -, -, rfl⟩⟩ := h
  · exact .inl (by rw [nearPlace_scratch space])
  · exact .inr ⟨by rw [nearPlace_commons space], by unfold commonsKey; omega⟩

theorem key_of_plain {s : State} {b : Bundle} {x : Ctx} {n a k : Nat} (h : Plain s b x n a k) : 0x3000000000000000 ≤ k := by
  obtain ⟨-, -, ⟨-, -, -, -, rfl⟩ | ⟨-, -, -, rfl⟩⟩ := h
  · unfold scratchKey; omega
  · unfold commonsKey; omega

section
variable {i : Instr} {s : State} {b : Bundle} {x : Ctx} {v : Wave} {act : List Nat} {n a k : Nat} {q : Req}

theorem boundCheck_pass_scratch (h : Passes i s b x v act) {l : Nat} (space : addrSpace a = 3) (own : a / 2 ^ 18 % 64 = 63)
    (inside : a % 2 ^ 18 < x.scratchBytes) : boundCheck (pass i b act s) b.ctx x act l a = .ok (b.ctx, a % 2 ^ 18) := by
  obtain ⟨y, hy, hr⟩ := ctx?_pass h
  have hd : y.scratchBytes = x.scratchBytes := (congrArg Ctx.scratchBytes hr :)
  have e : bits a 23 18 = 63 := own
  have e' : bits a 17 0 = a % 2 ^ 18 := by simp [bits]
  simp only [boundCheck, space, e, e', State.windowCtx, true_or, if_true, hy, hd, if_pos inside]

/-- The checks 1 to 4 of such an access pass, and its place has no translation. -/
theorem place_of_plain (h : Passes i s b x v act) (hp : Plain s b x n a k) (hq : q.cls = .ldst) (hn : q.n = n) (l : Nat) :
    ∃ r, earlyCheck (pass i b act s) b.ctx x act q l a = .ok r ∧
      placeOf (pass i b act s) x q l a r = (.ok (nearPlace s b x a k), pass i b act s) := by
  obtain ⟨align, -, ⟨space, zero, own, inside, rfl⟩ | ⟨space, zero, inside, rfl⟩⟩ := hp
  · have ok : ¬ Malformed (pass i b act s) a := by unfold Malformed; omega
    have cls : ClassAllows (pass i b act s) q.cls a := by rw [hq]; exact .inr (.inr (.inl space))
    refine ⟨(b.ctx, a % 2 ^ 18), (earlyCheck_of_align ok cls (boundCheck_pass_scratch h space own inside)).trans ?_, ?_⟩
    · rw [hn, if_pos align]
    · simp [placeOf, space, nearPlace_scratch]
  · have ok : ¬ Malformed (pass i b act s) a := by unfold Malformed; omega
    have cls : ClassAllows (pass i b act s) q.cls a := by rw [hq]; exact .inr (.inr (.inr space))
    have bound : boundCheck (pass i b act s) b.ctx x act l a = .ok (0, (s.cmWindow x.die x.part).1 + a % 2 ^ 27) :=
      (boundCheck_commons space).trans (by rw [cmWindow_pass, if_pos inside])
    refine ⟨(0, (s.cmWindow x.die x.part).1 + a % 2 ^ 27), (earlyCheck_of_align ok cls bound).trans ?_, ?_⟩
    · rw [hn, if_pos align]
    · simp [placeOf, space, nearPlace_commons]

/-- Every check of such an access passes when nothing holds it back, and an acquire meets no record. -/
theorem laneCheck_of_plain (h : Passes i s b x v act) (quiet : Quiet s b x n) (hp : Plain s b x n a k) (hq : q.cls = .ldst)
    (hn : q.n = n) (hpos : 0 < n) (hr : q.sync ≠ none → k < 0x4000000000000000 ∨ SMap.find? s.recs (k / 128) = none) (l : Nat) :
    laneCheck (pass i b act s) b x act q l a = (.ok (nearPlace s b x a k), pass i b act s) := by
  obtain ⟨r, early, place⟩ := place_of_plain h hp hq hn l
  have space := space_nearPlace hp
  have hkey := key_nearPlace s b x a k
  obtain ⟨-, noPoison, -⟩ := hp
  obtain ⟨-, noLock, noAccess⟩ := quiet
  generalize nearPlace s b x a k = p at place space hkey
  have pending (k' n' : Nat) : (pass i b act s).ownPending b.ctx b.wave l k' n' = false :=
    ownPending_of_none (by rw [ops_pass]; exact noAccess) l k' n'
  have lock := State.Unlocked.lockKind (State.Unlocked.pass noLock i b act) b.ctx x q p
  have poison : (pass i b act s).readsPoison b.ctx x q p = false := by
    refine readsPoison_of_bytes (by omega) ?_
    rw [hkey, hn, poison_pass]
    exact noPoison
  have keep : (if q.sync.isSome then (pass i b act s).loseRecord p l else pass i b act s) = pass i b act s := by
    have : ¬ (p.space = 2 ∧ (pass i b act s).freeBit (96 + l) = false) := fun h => by omega
    rw [State.loseRecord, if_neg this, ite_self]
  have norec (hs : q.sync ≠ none) : (pass i b act s).record? p = none := by
    unfold State.record?
    rw [hkey, recs_pass]
    rcases space with h3 | ⟨-, hk⟩
    · rw [if_pos h3]
    · rw [(hr hs).resolve_left (by omega), ite_self]
  unfold laneCheck
  rw [early]
  dsimp only
  rw [place]
  dsimp only
  rw [if_neg (by simp [pending]), lock]
  dsimp only
  rw [keep, poison]
  by_cases hs : q.sync = none
  · simp [hs]
  · simp [norec hs]

/-- The checks of all lanes, each with its key, let such an access go on, and change nothing. -/
theorem planFrom_of_plain (h : Passes i s b x v act) (quiet : Quiet s b x n) (hq : q.cls = .ldst) (hn : q.n = n) (hpos : 0 < n)
    (f : Nat → Nat) (ks : List (Nat × Nat)) (hks : ∀ p ∈ ks, Plain s b x n (f p.1) p.2)
    (hr : q.sync ≠ none → ∀ p ∈ ks, p.2 < 0x4000000000000000 ∨ SMap.find? s.recs (p.2 / 128) = none) :
    ∀ ps, planFrom b x v act q (ks.map fun p => (p.1, f p.1)) ps (pass i b act s) =
      .go (ps.reverse ++ ks.map fun p => (p.1, f p.1, some (nearPlace s b x (f p.1) p.2))) (pass i b act s) := by
  induction ks with
  | nil => intro ps; simp [planFrom]
  | cons p ks ih =>
    intro ps
    have ih := ih (fun p hp => hks p (List.mem_cons_of_mem _ hp)) fun hs p hp => hr hs p (List.mem_cons_of_mem _ hp)
    have check := laneCheck_of_plain h quiet (hks p (List.mem_cons_self ..)) hq hn hpos (fun hs => hr hs p (List.mem_cons_self ..)) p.1
    rw [List.map_cons, planFrom, check]
    dsimp only
    rw [if_neg (by simp [hq]), ih]
    simp

theorem plan_of_plain (h : Passes i s b x v act) (quiet : Quiet s b x n) (hq : q.cls = .ldst) (hn : q.n = n) (hpos : 0 < n)
    (f : Nat → Nat) (ks : List (Nat × Nat)) (hks : ∀ p ∈ ks, Plain s b x n (f p.1) p.2)
    (hr : q.sync ≠ none → ∀ p ∈ ks, p.2 < 0x4000000000000000 ∨ SMap.find? s.recs (p.2 / 128) = none) :
    plan (pass i b act s) b x v act q (ks.map fun p => (p.1, f p.1)) =
      .go (ks.map fun p => (p.1, f p.1, some (nearPlace s b x (f p.1) p.2))) (pass i b act s) :=
  planFrom_of_plain h quiet hq hn hpos f ks hks hr []

end

theorem touches_of_none {c n : Nat} {x : Ctx} (h : ∀ o, x.touched o n = []) (ps : List Place) : touches c x n ps = [] := by
  unfold touches
  simp [h]

/-- A place outside control and tensor space is read as memory stands. -/
theorem loadPlace_of_near {s : State} {x : Ctx} {p : Place} (h : p.space = 3 ∨ p.space = 4) (n l : Nat) (acq : Bool) :
    s.loadPlace x p n l acq = (readMem s.mem p.key n, s) := by
  unfold State.loadPlace
  split
  · omega
  · omega
  · rfl

/-- A descriptor at such an address is read as memory stands (R501). -/
theorem readImages_of_plain {i : Instr} {s : State} {b : Bundle} {x : Ctx} {v : Wave} {act : List Nat} {n a k : Nat}
    (h : Passes i s b x v act) (quiet : Quiet s b x n) (hp : Plain s b x n a k) (hpos : 0 < n) (l : Nat) :
    readImages s (pass i b act s) b x v act n [(l, a)] =
      .ok [(l, readMem s.mem k n)] (pinIf b [nearPlace s b x a k] (pass i b act s)) := by
  have go := plan_of_plain (q := ⟨.ldst, n, permR, true, none, none⟩) h quiet rfl rfl hpos (fun _ => a) [(l, k)]
    (by simpa using hp) (fun hs => absurd rfl hs)
  simp only [List.map_cons, List.map_nil] at go
  have space : (nearPlace s b x a k).space = 3 ∨ (nearPlace s b x a k).space = 4 := (space_nearPlace hp).imp_right (·.1)
  have one : List.filterMap (fun (e : Nat × Nat × Option Place) => e.2.2) [(l, a, some (nearPlace s b x a k))] =
      [nearPlace s b x a k] := rfl
  unfold readImages
  rw [go]
  dsimp only
  rw [touches_of_none fun o => (quiet.1 o).1, one]
  dsimp only
  rw [if_neg (by simp [(quiet.1 _).2]), imageValues, loadPlace_of_near space]
  simp [imageValues]

/-- A touch of the commons region changes the block alone. -/
theorem pinIf_keeps (b : Bundle) (ps : List Place) (s : State) :
    { pinIf b ps s with ctxs := [] } = { s with ctxs := [] } ∧ ∀ c w, (pinIf b ps s).wave? c w = s.wave? c w := by
  unfold pinIf
  split
  · refine ⟨rfl, fun c w => ?_⟩
    simp only [State.wave?, ctx?_modCtx]
    by_cases hc : b.ctx = c
    · rw [if_pos hc]; cases s.ctx? c <;> rfl
    · rw [if_neg hc]
  · exact ⟨rfl, fun _ _ => rfl⟩

@[simp] theorem hub_pinIf (b : Bundle) (ps : List Place) (s : State) : (pinIf b ps s).hub = s.hub := (congrArg State.hub (pinIf_keeps b ps s).1 :)
@[simp] theorem ops_pinIf (b : Bundle) (ps : List Place) (s : State) : (pinIf b ps s).ops = s.ops := (congrArg State.ops (pinIf_keeps b ps s).1 :)

end Sys2Proof.Machine
end

section
/-! PROOFS. Proofs/Chains.lean: what the step of a transaction barrier and the release of locks leave alone, and the chains of the
engine. -/
namespace Sys2Proof.Machine

/-! ### Steps of transaction barriers -/

/-- A step of a barrier changes memory and contexts alone. -/
theorem stepBarrier_outside (s : State) (c i : Nat) (r : Nat × Bool) :
    { s.stepBarrier c i r with ctxs := [], mem := [] } = { s with ctxs := [], mem := [] } := by
  unfold State.stepBarrier
  dsimp only
  split <;> rfl

theorem mem_stepBarrier (s : State) (c i : Nat) (r : Nat × Bool) :
    (s.stepBarrier c i r).mem = writeMem s.mem (scratchKey c (16 * i)) 16 r.1 := by
  unfold State.stepBarrier
  dsimp only
  split <;> rfl

/-- What a step of a barrier does to memory depends on memory alone. -/
theorem mem_barrierArrive_congr {s t : State} (h : t.mem = s.mem) (c i n sec : Nat) :
    (t.barrierArrive c i n sec).mem = (s.barrierArrive c i n sec).mem := by
  simp only [State.barrierArrive, mem_stepBarrier, State.barrier, h]

theorem mem_barrierFail_congr {s t : State} (h : t.mem = s.mem) (c i k : Nat) : (t.barrierFail c i k).mem = (s.barrierFail c i k).mem := by
  simp only [State.barrierFail, mem_stepBarrier, State.barrier, h]

@[simp] theorem hub_barrierArrive (s : State) (c i n sec : Nat) : (s.barrierArrive c i n sec).hub = s.hub :=
  (congrArg State.hub (stepBarrier_outside ..) :)
@[simp] theorem hub_barrierFail (s : State) (c i k : Nat) : (s.barrierFail c i k).hub = s.hub :=
  (congrArg State.hub (stepBarrier_outside ..) :)
@[simp] theorem cores_barrierArrive (s : State) (c i n sec : Nat) : (s.barrierArrive c i n sec).cores = s.cores :=
  (congrArg State.cores (stepBarrier_outside ..) :)
@[simp] theorem cores_barrierFail (s : State) (c i k : Nat) : (s.barrierFail c i k).cores = s.cores :=
  (congrArg State.cores (stepBarrier_outside ..) :)
@[simp] theorem ops_barrierArrive (s : State) (c i n sec : Nat) : (s.barrierArrive c i n sec).ops = s.ops :=
  (congrArg State.ops (stepBarrier_outside ..) :)
@[simp] theorem ops_barrierFail (s : State) (c i k : Nat) : (s.barrierFail c i k).ops = s.ops :=
  (congrArg State.ops (stepBarrier_outside ..) :)

theorem cores_endOp (s : State) (id : Nat) : (s.endOp id).cores = s.cores := (congrArg State.cores (endOp_outside s id) :)

/-! ### Locks given back (R91) -/

/-- Operation id holds no lock. -/
def State.Frees (s : State) (id : Nat) : Prop := ∀ p k l, l.op = id → SMap.find? (s.core p).locks k ≠ some l

theorem State.Frees.of_cores {s t : State} {id : Nat} (h : s.Frees id) (e : t.cores = s.cores) : t.Frees id := by
  intro p k l hl
  have := h p k l hl
  unfold State.core at this ⊢
  rwa [e]

theorem posted_retryLocks (s : State) : Posted s s.retryLocks := by
  unfold State.retryLocks
  refine Posted.foldl _ (fun t e => ?_) _ _
  obtain ⟨j, o⟩ := e
  dsimp only
  split
  · exact Posted.foldl _ (fun t c => Posted.post ..) _ _
  · exact Posted.refl t

/-- Releasing locks changes cores, and lets events come. -/
theorem releaseLocks_outside (s : State) (id : Nat) (p : Lock → Bool) :
    { s.releaseLocks id p with cores := [], agenda := [] } = { s with cores := [], agenda := [] } := by
  unfold State.releaseLocks
  exact (congrArg (fun r : State => { r with cores := [] }) (posted_retryLocks _).outside :)

@[simp] theorem hub_releaseLocks (s : State) (id : Nat) (p : Lock → Bool) : (s.releaseLocks id p).hub = s.hub :=
  (congrArg State.hub (releaseLocks_outside s id p) :)
@[simp] theorem ops_releaseLocks (s : State) (id : Nat) (p : Lock → Bool) : (s.releaseLocks id p).ops = s.ops :=
  (congrArg State.ops (releaseLocks_outside s id p) :)
@[simp] theorem ctxs_releaseLocks (s : State) (id : Nat) (p : Lock → Bool) : (s.releaseLocks id p).ctxs = s.ctxs :=
  (congrArg State.ctxs (releaseLocks_outside s id p) :)

/-- Core x without the locks of an operation that p selects. -/
def Core.keep (x : Core) (id : Nat) (p : Lock → Bool) : Core := { x with locks := x.locks.filter fun (_, l) => !(l.op == id && p l) }

theorem cores_releaseLocks (s : State) (id : Nat) (p : Lock → Bool) : (s.releaseLocks id p).cores =
    s.cores.filterMap fun (k, x) => if x.keep id p = Core.reset then none else some (k, x.keep id p) := by
  unfold State.releaseLocks
  exact (congrArg State.cores (posted_retryLocks _).outside :)

/-- A lock that stands after a release is not one of those released. -/
theorem lock_releaseLocks {s : State} {id : Nat} {p : Lock → Bool} {c k : Nat} {l : Lock}
    (h : SMap.find? ((s.releaseLocks id p).core c).locks k = some l) : ¬ (l.op = id ∧ p l = true) := by
  unfold State.core SMap.get at h
  rw [cores_releaseLocks] at h
  cases hy : SMap.find? (s.cores.filterMap fun (k, x) => if x.keep id p = Core.reset then none else some (k, x.keep id p)) c with
  | none =>
    rw [hy] at h
    cases h
  | some y =>
    rw [hy] at h
    obtain ⟨⟨j, x⟩, -, hx⟩ := List.mem_filterMap.1 (SMap.mem_of_find?_eq_some hy)
    dsimp only at hx
    split at hx
    · cases hx
    · obtain ⟨rfl, rfl⟩ := Prod.mk.inj (Option.some.inj hx)
      have := (List.mem_filter.1 (SMap.mem_of_find?_eq_some h)).2
      rintro ⟨e, hp⟩
      simp [e, hp] at this

theorem frees_releaseLocks (s : State) (id : Nat) : (s.releaseLocks id fun _ => true).Frees id :=
  fun _ _ _ hl h => lock_releaseLocks h ⟨hl, rfl⟩

/-! ### The end of a chain -/

/-- The barrier of a chain with its arrival, and before it a code that is not 0. -/
def chainArrived (s : State) (o : Op) (k code : Nat) : State :=
  (if code = 0 then s else s.barrierFail o.ctx k code).barrierArrive o.ctx k 1 0

/-- A chain that ends is in flight no more, has made its arrival, and holds no lock. -/
theorem chainEndOp_ends (s : State) (id : Nat) (o : Op) (d code : Nat) :
    (chainEndOp s id o d code).hub = s.hub ∧ (chainEndOp s id o d code).op? id = none ∧
      (chainEndOp s id o d code).mem = (chainArrived s o (chainTbar d) code).mem ∧ (chainEndOp s id o d code).Frees id := by
  unfold chainEndOp chainArrived
  by_cases hc : code = 0
  · simp only [if_pos hc]
    refine ⟨by simp [hub_endOp], op?_endOp_self .., ?_, (frees_releaseLocks s id).of_cores ?_⟩
    · rw [mem_endOp]; exact mem_barrierArrive_congr (mem_releaseLocks ..) ..
    · rw [cores_endOp, cores_barrierArrive]
  · simp only [if_neg hc]
    refine ⟨by simp [hub_endOp], op?_endOp_self .., ?_, (frees_releaseLocks s id).of_cores ?_⟩
    · rw [mem_endOp]; exact mem_barrierArrive_congr (mem_barrierFail_congr (mem_releaseLocks ..) ..) ..
    · rw [cores_endOp, cores_barrierArrive, cores_barrierFail]

/-! ### The issue of a chain (R340, R344) -/

/-- A chain whose descriptor has been read, and whose barrier stands, goes to the engine once it has its locks. -/
theorem execChain_of_read {a l : Nat} {s u : State} {b : Bundle} {x : Ctx} {v : Wave} {act : List Nat} {k d : Nat}
    {ws : List (Nat × Nat)} (h : Passes (.chain a l) s b x v act)
    (hr : readImages s (pass (.chain a l) b act s) b x v act 64 [(act.headD 0, v.pair a (act.headD 0))] = .ok ((k, d) :: ws) u)
    (hb : chainTbar d < x.ntbars) (hs : 16 * chainTbar d + 16 ≤ x.scratchBytes) :
    exec (.chain a l) s = .next (match chainReserve u b.ctx x d with
      | some w => (w.launchAt s.nextId b act (.chain d false)).post .chainStart [s.nextId]
      | none => idle s) := by
  obtain ⟨low, rest, rfl⟩ := List.exists_cons_of_ne_nil h.active
  simp only [List.headD_cons] at hr
  have arm : exec (.chain a l) s = execChain a l s := rfl
  rw [arm, execChain, issue_go h, h.ctx, h.wave']
  dsimp only
  rw [hr]
  dsimp only
  rw [if_neg (by omega), if_neg (by omega), thisId_pass]
  cases chainReserve u b.ctx x d <;> rfl

theorem chainLocks_of_no_commons {s : State} {id c : Nat} {x : Ctx} {d : Nat} (h : ∀ p ∈ chainStreams d, addrSpace p ≠ 4) :
    chainLocks s id c x d = [] := by
  unfold chainLocks
  exact List.filterMap_eq_nil_iff.2 fun p hp => if_neg (h p hp)

/-- A chain that is not to run, or has no stream in the commons, takes no lock. -/
theorem chainReserve_of_no_locks {s : State} {c : Nat} {x : Ctx} {d : Nat}
    (h : chainMalformed s.pkg d = true ∨ chainCount d = 0 ∨ ∀ p ∈ chainStreams d, addrSpace p ≠ 4) :
    chainReserve s c x d = some s := by
  unfold chainReserve
  split
  · rfl
  · rename_i hn
    rw [Bool.or_eq_true, not_or, beq_iff_eq] at hn
    have hc := (h.resolve_left hn.1).resolve_left hn.2
    rw [chainLocks_of_no_commons hc]
    simp

/-- Settles O35: the issue of a chain by what its descriptor's read and its locks answer, and each end by one lemma. -/
theorem chains : Obligations.Chains := by
  unfold Obligations.Chains
  dsimp only
  refine ⟨fun a l s b x v act k d ws u h hr hb hs => ?_, fun a l s b x v act p h quiet plain hb hs streams => ?_,
    fun s id o x d ha ho hk hx => ?_, fun s id o x d code u ha ho hk hx hc => ?_⟩
  · have run := execChain_of_read h hr hb hs
    exact ⟨fun w hw => by rw [run, hw], fun hn => by rw [run, hn]; rfl, chainReserve_of_no_locks⟩
  · have run := execChain_of_read h (readImages_of_plain h quiet plain (by omega) _) hb hs
    rw [chainReserve_of_no_locks (.inr (.inr streams))] at run
    refine ⟨_, run, ?_, ?_, ?_, ?_, fun c w => ?_⟩
    · simp [State.launchAt]
    · simp [State.launchAt]
    · simp [State.launchAt, State.op?, State.post]
    · simp [State.launchAt, State.post]
    · exact (pinIf_keeps ..).2 c w
  · have run : exec .chainStart s = .next (if chainMalformed s.pkg d then chainEndOp s id o d 6
        else if chainCount d = 0 then chainEndOp s id o d 0
        else ({ s with ops := SMap.insert s.ops id { o with kind := .chain d true } } : State).post .chainComplete [id]) := by
      change execChainStart s = _
      have hid : s.arg 0 = id := by simp [State.arg, ha]
      unfold execChainStart
      rw [hid]
      dsimp only
      rw [ho]
      dsimp only
      rw [hk]
    refine ⟨_, run, ?_, fun hm => ?_, fun hm hz => ?_, fun hm hz => ?_⟩
    · split
      · exact (chainEndOp_ends ..).1
      · split
        · exact (chainEndOp_ends ..).1
        · rfl
    · rw [if_pos hm]
      exact (chainEndOp_ends ..).2
    · rw [if_neg (by simp [hm]), if_pos hz]
      exact (chainEndOp_ends ..).2
    · rw [if_neg (by simp [hm]), if_neg hz]
      exact ⟨by simp [State.op?, State.post], rfl, rfl⟩
  · have run : exec .chainComplete s = .next (chainEndOp u id o d code) := by
      change execChainComplete s = _
      have hid : s.arg 0 = id := by simp [State.arg, ha]
      unfold execChainComplete
      rw [hid]
      dsimp only
      rw [ho]
      dsimp only
      rw [hk]
      dsimp only
      rw [hx]
      dsimp only
      rw [hc]
    exact ⟨_, run, (chainEndOp_ends ..).2⟩

end Sys2Proof.Machine
end

section
/-! PROOFS. Proofs/RegionCopies.lean: bytes moved in memory, and the steps of region copies (R79 to R84, R88). -/
namespace Sys2Proof.Machine

/-! ### Bytes moved -/

/-- Byte i of a value read from memory. -/
theorem byte_readMem {m : List Host.Cell} {n : Nat} : ∀ {k i : Nat}, i < n →
    BitVec.ofNat 8 (readMem m k n / 256 ^ i) = readByte m (k + i) := by
  induction n with
  | zero => intro k i h; omega
  | succ n ih =>
    intro k i h
    rw [readMem]
    cases i with
    | zero =>
      refine BitVec.eq_of_toNat_eq ?_
      have := (readByte m k).isLt
      simp only [pow_zero, Nat.div_one, BitVec.toNat_ofNat, Nat.add_zero]
      omega
    | succ i =>
      have e : ((readByte m k).toNat + 256 * readMem m (k + 1) n) / 256 = readMem m (k + 1) n := by
        have := (readByte m k).isLt
        omega
      rw [pow_succ', ← Nat.div_div_eq_div_mul, e, ih (by omega), Nat.add_right_comm, Nat.add_assoc]

/-- A block of bytes read at one key and written at another. -/
theorem readByte_copy {m : List Host.Cell} {from' to' n j : Nat} : readByte (writeMem m to' n (readMem m from' n)) j =
    if to' ≤ j ∧ j < to' + n then readByte m (from' + (j - to')) else readByte m j := by
  rw [readByte_writeMem]
  split
  · exact byte_readMem (by omega)
  · rfl

/-- A write of bytes changes memory and poison alone. -/
theorem put_outside (s : State) (k n v : Nat) : { s.put k n v with mem := [], poison := [] } = { s with mem := [], poison := [] } := by
  unfold State.put clearPoison
  split <;> rfl

@[simp] theorem mem_put (s : State) (k n v : Nat) : (s.put k n v).mem = writeMem s.mem k n v := mem_clearPoison ..
@[simp] theorem hub_put (s : State) (k n v : Nat) : (s.put k n v).hub = s.hub := (congrArg State.hub (put_outside s k n v) :)
@[simp] theorem ops_put (s : State) (k n v : Nat) : (s.put k n v).ops = s.ops := (congrArg State.ops (put_outside s k n v) :)
@[simp] theorem ctxs_put (s : State) (k n v : Nat) : (s.put k n v).ctxs = s.ctxs := (congrArg State.ctxs (put_outside s k n v) :)

/-! ### Loads that waited for a sector -/

/-- Loads that go on change operations in flight, and let events come. -/
theorem wakeLoads_outside (s : State) (c : Nat) : { s.wakeLoads c with ops := [], agenda := [] } = { s with ops := [], agenda := [] } := by
  unfold State.wakeLoads
  generalize hl : s.ops = l
  clear hl
  induction l generalizing s with
  | nil => rfl
  | cons e l ih =>
    rw [List.foldl_cons, ih]
    dsimp only
    split
    · split
      · split <;> rfl
      · rfl
    · rfl

theorem ctxs_wakeLoads (s : State) (c : Nat) : (s.wakeLoads c).ctxs = s.ctxs := (congrArg State.ctxs (wakeLoads_outside s c) :)

/-- An operation that is no load stands when loads go on. -/
theorem op?_wakeLoads {s : State} {c id : Nat}
    (h : ∀ p, (id, p) ∈ s.ops → ∀ d n ext vals waits todo acq, p.kind ≠ .load d n ext vals waits todo acq) :
    (s.wakeLoads c).op? id = s.op? id := by
  unfold State.wakeLoads
  suffices ∀ (l : List (Nat × Op)) (t : State), (∀ e ∈ l, e ∈ s.ops) →
      (l.foldl _ t).op? id = t.op? id from this s.ops s fun _ h => h
  intro l
  induction l with
  | nil => exact fun _ _ => rfl
  | cons e l ih =>
    intro t hl
    rw [List.foldl_cons, ih _ fun f hf => hl f (List.mem_cons_of_mem _ hf)]
    obtain ⟨j, p⟩ := e
    dsimp only
    split
    · rename_i d n ext vals waits todo acq hk
      have hj : j ≠ id := by
        rintro rfl
        exact h p (hl _ (List.mem_cons_self ..)) _ _ _ _ _ _ _ hk
      split
      · split
        · exact SMap.find?_insert_ne hj
        · exact SMap.find?_insert_ne hj
      · rfl
    · rfl

/-! ### The steps of a copy -/

theorem pickSector_mem {s : State} {left : List Nat} (h : left ≠ []) : s.pickSector left ∈ left := by
  unfold State.pickSector
  have hl := Nat.mod_lt (Config.freeNat s.free) (List.length_pos_iff.2 h)
  rw [List.getD_eq_getElem _ _ hl]
  exact List.getElem_mem hl

section
variable {s u : State} {id : Nat} {o : Op} {x : Ctx} {d n j : Nat} {drop : Bool} {org : List Int} {done : List (Nat × Bool)}

/-- A local copy moves a sector of its choice into the window, or fails. -/
theorem inbound_local (ha : s.args = [id]) (ho : s.op? id = some o) (hk : o.kind = .copy n false drop d org done [] [] 0)
    (hx : s.ctx? o.ctx = some x) (hl : leftSectors d done ≠ []) (hj : j = s.pickSector (leftSectors d done)) :
    (∀ c, s.sectorIn x d org j = (.error c, u) → exec .inboundSectorWritten s = .next (u.takeFree.2.post .copyFail [id, c])) ∧
    ∀ v, s.sectorIn x d org j = (.ok v, u) → exec .inboundSectorWritten s =
      .next ((u.takeFree.2.put (scratchKey o.ctx (boxSwin d + 32 * j)) (Nat.min 32 (boxSize d - 32 * j)) v).sectorDone id j o) := by
  have hid : s.arg 0 = id := by simp [State.arg, ha]
  have hmem : j ∈ leftSectors d done := hj ▸ pickSector_mem hl
  obtain ⟨k, ks, hks⟩ := List.exists_cons_of_ne_nil hl
  rw [hks] at hmem hj
  have arm : exec .inboundSectorWritten s = execInboundSectorWritten s := rfl
  rw [arm, execInboundSectorWritten, hid]
  dsimp only
  rw [ho]
  dsimp only
  rw [hk]
  dsimp only
  rw [hx, hks]
  dsimp only
  rw [if_neg (by simp : ¬ (0 != 0) = true), if_neg (by simp : ¬ (0 != 0) = true), ← hj, if_neg (by simp [hmem])]
  exact ⟨fun c hs => by rw [hs], fun v hs => by rw [hs]⟩

/-- A local copy without reduction moves a sector of its choice to the box, or fails; one with it combines the sector first. -/
theorem outbound_local (ha : s.args = [id]) (ho : s.op? id = some o) (hk : o.kind = .copy n true drop d org done [] [] 0)
    (hx : s.ctx? o.ctx = some x) (hl : leftSectors d done ≠ []) (hj : j = s.pickSector (leftSectors d done)) :
    (boxRedop d = 0 → (∀ c, s.takeFree.2.sectorOut o.ctx x d org j = (some c, u) →
        exec .outboundSectorAck s = .next (u.post .copyFail [id, c])) ∧
      (s.takeFree.2.sectorOut o.ctx x d org j = (none, u) → exec .outboundSectorAck s = .next (u.sectorDone id j o))) ∧
    (boxRedop d ≠ 0 → exec .outboundSectorAck s = .next (s.takeFree.2.post .reduceOnStoreCombine [id, j + 1])) := by
  have hid : s.arg 0 = id := by simp [State.arg, ha]
  have hone : s.arg 1 = 0 := by simp [State.arg, ha]
  obtain ⟨k, ks, hks⟩ := List.exists_cons_of_ne_nil hl
  rw [hks] at hj
  have arm : exec .outboundSectorAck s = execOutboundSectorAck s := rfl
  rw [arm, execOutboundSectorAck, hid]
  dsimp only
  rw [ho]
  dsimp only
  rw [hk]
  dsimp only
  rw [hx, hks]
  dsimp only
  rw [if_neg (by simp [hone]), ← hj]
  refine ⟨fun h0 => ⟨fun c hs => ?_, fun hs => ?_⟩, fun h0 => ?_⟩
  · rw [if_pos h0, hs]
  · rw [if_pos h0, hs]
  · rw [if_neg h0]

/-- A sector that has been combined counts as moved. -/
theorem outbound_combined (ha : s.args = [id, j + 1]) (ho : s.op? id = some o)
    (hk : o.kind = .copy n true drop d org done [] [] 0) (hx : s.ctx? o.ctx = some x) (hj : j ∈ leftSectors d done) :
    exec .outboundSectorAck s = .next (s.sectorDone id j o) := by
  have hid : s.arg 0 = id := by simp [State.arg, ha]
  have hone : s.arg 1 = j + 1 := by simp [State.arg, ha]
  obtain ⟨k, ks, hks⟩ := List.exists_cons_of_ne_nil (List.ne_nil_of_mem hj)
  rw [hks] at hj
  have arm : exec .outboundSectorAck s = execOutboundSectorAck s := rfl
  rw [arm, execOutboundSectorAck, hid]
  dsimp only
  rw [ho]
  dsimp only
  rw [hk]
  dsimp only
  rw [hx, hks]
  dsimp only
  rw [if_pos (by simp [hone]), hone, Nat.add_sub_cancel, if_pos (by simpa using hj)]

theorem combine_local (ha : s.args = [id, j + 1]) (ho : s.op? id = some o)
    (hk : o.kind = .copy n true drop d org done [] [] 0) (hx : s.ctx? o.ctx = some x) (hj : j ∈ leftSectors d done) :
    (∀ c, s.sectorOut o.ctx x d org j = (some c, u) → exec .reduceOnStoreCombine s = .next (u.post .copyFail [id, c])) ∧
    (s.sectorOut o.ctx x d org j = (none, u) → exec .reduceOnStoreCombine s = .next (u.post .outboundSectorAck [id, j + 1])) := by
  have hid : s.arg 0 = id := by simp [State.arg, ha]
  have hone : s.arg 1 = j + 1 := by simp [State.arg, ha]
  have arm : exec .reduceOnStoreCombine s = execReduceOnStoreCombine s := rfl
  rw [arm, execReduceOnStoreCombine, hid, hone, ho]
  dsimp only
  rw [hk]
  simp only [hx, Nat.add_sub_cancel, List.contains_iff_mem, hj, if_true]
  exact ⟨fun c hs => by rw [hs], fun hs => by rw [hs]⟩

end

/-- A sector counted as moved: the barrier counts it, the copy keeps it, and goes on or completes. -/
theorem sectorDone_of_copy {s : State} {id : Nat} {o : Op} {d n j : Nat} {out drop : Bool} {org : List Int} {done : List (Nat × Bool)}
    (hk : o.kind = .copy n out drop d org done [] [] 0) (hid : ∀ p, (id, p) ∈ s.ops → p = o) :
    let t := s.sectorDone id j o
    let all := SMap.insert done j true
    t.mem = (s.barrierArrive o.ctx (boxTbar d) 0 1).mem ∧ t.op? id = some { o with kind := .copy n out drop d org all [] [] 0 } ∧
      (if all.length < boxSectors d then (if out then .outboundSectorAck else .inboundSectorWritten, [id]) else (.copyComplete, [id]))
        ∈ t.agenda := by
  intro t all
  let o' : Op := { o with kind := .copy n out drop d org all [] [] 0 }
  let u : State := ({ s with ops := SMap.insert s.ops id o' } : State).barrierArrive o.ctx (boxTbar d) 0 1
  let w : State := if out then u else u.wakeLoads o.ctx
  have hu : u.ops = SMap.insert s.ops id o' := ops_barrierArrive ..
  have um : u.mem = (s.barrierArrive o.ctx (boxTbar d) 0 1).mem :=
    mem_barrierArrive_congr (s := s) (t := { s with ops := SMap.insert s.ops id o' }) rfl ..
  have uo : u.op? id = some o' := by rw [State.op?, hu]; exact SMap.find?_insert_self ..
  have wm : w.mem = u.mem := by
    unfold w
    split
    · rfl
    · exact mem_wakeLoads ..
  have wo : w.op? id = some o' := by
    unfold w
    split
    · exact uo
    · refine (op?_wakeLoads fun p hp => ?_).trans uo
      rw [hu] at hp
      rcases SMap.mem_insert hp with e | hp
      · cases e; intros; exact fun h => by cases h
      · rw [hid p hp, hk]; intros; exact fun h => by cases h
  have ht : t = if all.length < boxSectors d then
        w.post (if out then .outboundSectorAck else .inboundSectorWritten) [id] else w.post .copyComplete [id] := by
    unfold t State.sectorDone
    rw [hk]
    rfl
  rw [ht]
  split
  · exact ⟨wm.trans um, wo, List.mem_append_right _ (List.mem_singleton.2 rfl)⟩
  · exact ⟨wm.trans um, wo, List.mem_append_right _ (List.mem_singleton.2 rfl)⟩

/-! ### Completion and failure (R82, R84) -/

/-- The regions of a block stand at a step of a barrier. -/
theorem regions_stepBarrier (s : State) (c i : Nat) (r : Nat × Bool) (e : Nat) :
    ((s.stepBarrier c i r).ctx? e).map Ctx.regions = (s.ctx? e).map Ctx.regions := by
  unfold State.stepBarrier
  dsimp only
  split
  · unfold State.wakeTbar
    rw [ctx?_modCtx]
    split
    · change ((s.ctx? e).map _).map _ = _
      cases s.ctx? e <;> rfl
    · rfl
  · rfl

/-- Entry n of context c. -/
def State.entry (s : State) (c n : Nat) : Option Region := (s.ctx? c).bind fun y => SMap.find? y.regions n

theorem entry_eq (s : State) (c n : Nat) : s.entry c n = ((s.ctx? c).map Ctx.regions).bind fun m => SMap.find? m n := by
  unfold State.entry
  cases s.ctx? c <;> rfl

theorem entry_of_ctxs {s t : State} (h : t.ctxs = s.ctxs) (c n : Nat) : t.entry c n = s.entry c n := by
  simp only [State.entry, State.ctx?, h]

@[simp] theorem entry_barrierArrive (s : State) (c i m sec e n : Nat) : (s.barrierArrive c i m sec).entry e n = s.entry e n := by
  rw [entry_eq, entry_eq, State.barrierArrive, regions_stepBarrier]

@[simp] theorem entry_barrierFail (s : State) (c i k e n : Nat) : (s.barrierFail c i k).entry e n = s.entry e n := by
  rw [entry_eq, entry_eq, State.barrierFail, regions_stepBarrier]

@[simp] theorem entry_failBarrier (s : State) (c i code left e n : Nat) : (s.failBarrier c i code left).entry e n = s.entry e n := by
  unfold State.failBarrier
  dsimp only
  split <;> simp

theorem mem_failBarrier_congr {s t : State} (h : t.mem = s.mem) (c i code left : Nat) :
    (t.failBarrier c i code left).mem = (s.failBarrier c i code left).mem := by
  have h1 := mem_barrierArrive_congr (mem_barrierFail_congr h c i code) c i 1 0
  unfold State.failBarrier
  dsimp only
  split
  · exact h1
  · exact mem_barrierArrive_congr h1 ..

/-- The entry of a copy that has ended is present, or absent after a drop, and no copy of it is in flight. -/
theorem entry_entryAfter {s : State} {c n : Nat} {x : Ctx} {r : Region} (out drop : Bool) (hx : s.ctx? c = some x)
    (hr : SMap.find? x.regions n = some r) :
    (s.entryAfter c n out drop).entry c n = some { r with state := if out && drop then .absent else .present, copy := none } := by
  unfold State.entry State.entryAfter
  rw [ctx?_modCtx_self, hx]
  simp [hr]

section
variable {s : State} {id : Nat} {o : Op} {d n : Nat} {out drop : Bool} {org : List Int} {done : List (Nat × Bool)}

theorem copyComplete_done (ha : s.args = [id]) (ho : s.op? id = some o) (hk : o.kind = .copy n out drop d org done [] [] 0)
    (hd : done.length = boxSectors d) : exec .copyComplete s = .next
      ((((s.releaseLocks id fun _ => true).entryAfter o.ctx n out drop).barrierArrive o.ctx (boxTbar d) 1 0).endOp id) := by
  have hid : s.arg 0 = id := by simp [State.arg, ha]
  have arm : exec .copyComplete s = execCopyComplete s := rfl
  rw [arm, execCopyComplete, hid]
  dsimp only
  rw [ho]
  dsimp only
  rw [hk]
  dsimp only
  rw [if_pos ⟨hd, rfl⟩]

/-- A failed copy ends, its locks given back, its entry as after its end, and the code and all its sectors at its barrier. -/
theorem copyFail_run {code : Nat} (ha : s.args = [id, code]) (ho : s.op? id = some o) (hk : o.kind = .copy n out drop d org done [] [] 0)
    (h1 : 1 ≤ code) (h9 : code ≤ 9)  : ∃ u : State, exec .copyFail s = .next ((u.wakeLoads o.ctx).endOp id) ∧
      u.mem = (((s.releaseLocks id fun _ => true).entryAfter o.ctx n out drop).failBarrier o.ctx (boxTbar d) code
        (leftSectors d done).length).mem ∧
      u.ctxs = (((s.releaseLocks id fun _ => true).entryAfter o.ctx n out drop).failBarrier o.ctx (boxTbar d) code
        (leftSectors d done).length).ctxs := by
  have hid : s.arg 0 = id := by simp [State.arg, ha]
  have hone : s.arg 1 = code := by simp [State.arg, ha]
  have arm : exec .copyFail s = execCopyFail s := rfl
  rw [arm, execCopyFail, hid, hone]
  dsimp only
  rw [if_neg (by simp [errorCode, h1, h9]), ho]
  dsimp only
  rw [hk]
  exact ⟨_, rfl, rfl, rfl⟩

end

/-! ### Landings (R80) -/

/-- The window of context o copied to that of context c, 16 bytes at a time. -/
def State.land (s : State) (c o w m : Nat) : State := (List.range m).foldl (fun (t : State) k =>
  t.put (scratchKey c (w + 16 * k)) 16 (readMem t.mem (scratchKey o (w + 16 * k)) 16)) s

theorem land_succ (s : State) (c o w m : Nat) : s.land c o w (m + 1) =
    (s.land c o w m).put (scratchKey c (w + 16 * m)) 16 (readMem (s.land c o w m).mem (scratchKey o (w + 16 * m)) 16) := by
  simp [State.land, List.range_succ]

theorem land_keeps (s : State) (c o w m : Nat) : (s.land c o w m).hub = s.hub ∧ (s.land c o w m).ops = s.ops := by
  induction m with
  | zero => exact ⟨rfl, rfl⟩
  | succ m ih => rw [land_succ, hub_put, ops_put]; exact ih

/-- The windows of two contexts are apart, so each byte of the one is the byte of the other as it was. -/
theorem readByte_land {s : State} {c o w m : Nat} (_hc : c ≠ o) (hw : w + 16 * m ≤ 0x40000) (j : Nat) :
    readByte (s.land c o w m).mem j = if scratchKey c w ≤ j ∧ j < scratchKey c (w + 16 * m) then
      readByte s.mem (scratchKey o w + (j - scratchKey c w)) else readByte s.mem j := by
  induction m generalizing j with
  | zero => rw [if_neg (by unfold scratchKey; omega)]; rfl
  | succ m ih =>
    have ih := ih (by omega)
    rw [land_succ, mem_put, readByte_copy, ih, ih]
    unfold scratchKey
    split
    · rw [if_neg (by omega), if_pos (by omega)]
      congr 1
      omega
    · by_cases hj : 0x3000000000000000 + c * 0x40000 + w ≤ j ∧ j < 0x3000000000000000 + c * 0x40000 + (w + 16 * m)
      · rw [if_pos hj, if_pos (by omega)]
      · rw [if_neg hj, if_neg (by omega)]

theorem readByte_barrierArrive {s : State} {c i n sec j : Nat} (h : j < scratchKey c (16 * i) ∨ scratchKey c (16 * i) + 16 ≤ j) :
    readByte (s.barrierArrive c i n sec).mem j = readByte s.mem j := by
  rw [State.barrierArrive, mem_stepBarrier, readByte_writeMem_other h]

/-- The sectors of a landing counted at its barrier. -/
def State.countSectors (s : State) (c i m : Nat) : State := (List.range m).foldl (fun t _ => t.barrierArrive c i 0 1) s

theorem countSectors_succ (s : State) (c i m : Nat) : s.countSectors c i (m + 1) = (s.countSectors c i m).barrierArrive c i 0 1 := by
  simp [State.countSectors, List.range_succ]

theorem countSectors_keeps (s : State) (c i m : Nat) : (s.countSectors c i m).hub = s.hub ∧ (s.countSectors c i m).ops = s.ops ∧
    ∀ j, j < scratchKey c (16 * i) ∨ scratchKey c (16 * i) + 16 ≤ j → readByte (s.countSectors c i m).mem j = readByte s.mem j := by
  induction m with
  | zero => exact ⟨rfl, rfl, fun _ _ => rfl⟩
  | succ m ih =>
    obtain ⟨hh, ho, hm⟩ := ih
    rw [countSectors_succ, hub_barrierArrive, ops_barrierArrive]
    exact ⟨hh, ho, fun j hj => (readByte_barrierArrive hj).trans (hm j hj)⟩

/-- The state of a landing whose window has been written, but for the completion of its copy. -/
def State.landed (s : State) (id c : Nat) (o o' : Op) (d : Nat) : State :=
  let t := s.land c o.ctx (boxSwin d) (boxSize d / 16)
  (((({ t with ops := SMap.insert t.ops id o' } : State).releaseLocks id fun l => l.ctx == c && !l.commons).countSectors c (boxTbar d)
    (boxSectors d)).barrierArrive c (boxTbar d) 1 0)

theorem multicastLanding_run {s : State} {id c : Nat} {o : Op} {y : Ctx} {d n : Nat} {drop : Bool} {org : List Int} {done : List (Nat × Bool)}
    {ts ld : List Nat} {rm : Nat} (ha : s.args = [id, c]) (ho : s.op? id = some o)
    (hk : o.kind = .copy n false drop d org done ts ld rm) (hy : s.ctx? c = some y) (hc : c ∈ ts) (hl : c ∉ ld)
    (hd : done.length = boxSectors d) (held : ∃ l ∈ s.scratchLocks c, l.op = id) :
    exec .multicastLanding s = .next
      (let t := s.landed id c o { o with kind := .copy n false drop d org done ts (c :: ld) rm } d
      if ts.all fun b => b == c || ld.contains b then t.post .copyComplete [id] else t) := by
  have hid : s.arg 0 = id := by simp [State.arg, ha]
  have hone : s.arg 1 = c := by simp [State.arg, ha]
  have hheld : ((s.scratchLocks c).any fun l => l.op == id) = true := by
    obtain ⟨l, hl, e⟩ := held
    exact List.any_eq_true.2 ⟨l, hl, by simp [e]⟩
  have arm : exec .multicastLanding s = execMulticastLanding s := rfl
  rw [arm, execMulticastLanding, hid, hone]
  dsimp only
  rw [ho]
  dsimp only
  rw [hk]
  dsimp only
  rw [hy]
  dsimp only
  rw [if_neg (by simp [hc, hl]), if_neg (by simp [hheld]), if_neg (by simp [hd])]
  rfl

/-- A landing writes the window, lets its locks go and counts at its barrier: no hub register changes, and the window holds the bytes of
the issuing block's when the barrier is apart from it. -/
theorem landed_keeps (s : State) (id c : Nat) (o o' : Op) (d : Nat) :
    (s.landed id c o o' d).hub = s.hub ∧ (s.landed id c o o' d).op? id = some o' ∧
    ∀ j, j < scratchKey c (16 * boxTbar d) ∨ scratchKey c (16 * boxTbar d) + 16 ≤ j →
      readByte (s.landed id c o o' d).mem j = readByte (s.land c o.ctx (boxSwin d) (boxSize d / 16)).mem j := by
  unfold State.landed
  dsimp only
  generalize hr : State.releaseLocks { s.land c o.ctx (boxSwin d) (boxSize d / 16) with
    ops := SMap.insert (s.land c o.ctx (boxSwin d) (boxSize d / 16)).ops id o' } id _ = t
  have th : t.hub = s.hub := by rw [← hr, hub_releaseLocks]; exact (land_keeps ..).1
  have to' : t.ops = SMap.insert (s.land c o.ctx (boxSwin d) (boxSize d / 16)).ops id o' := by rw [← hr, ops_releaseLocks]
  have tm : t.mem = (s.land c o.ctx (boxSwin d) (boxSize d / 16)).mem := by rw [← hr, mem_releaseLocks]
  obtain ⟨ch, co, cm⟩ := countSectors_keeps t c (boxTbar d) (boxSectors d)
  refine ⟨?_, ?_, fun j hj => ?_⟩
  · rw [hub_barrierArrive, ch, th]
  · rw [State.op?, ops_barrierArrive, co, to']
    exact SMap.find?_insert_self ..
  · rw [readByte_barrierArrive hj, cm j hj, tm]

/-- Settles O36: each event's run, with what a sector, a barrier step and a landing leave alone. -/
theorem copyEvents : Obligations.CopyEvents := by
  unfold Obligations.CopyEvents
  dsimp only
  refine ⟨fun s id o x d n drop org done ha ho hk hx hl => ?_, fun s id o x d n drop org done ha ho hk hx hl => ?_,
    fun s id o d n out drop org done j hk _ hid => sectorDone_of_copy hk hid,
    fun s id o x d n drop org done j ha ho hk hx hj => ⟨outbound_combined ha ho hk hx hj, ?_⟩,
    fun s id o x d n out drop org done r ha ho hk hx hr hd => ?_,
    fun s id o x d n out drop org done r code ha ho hk hx hr h1 h9 => ?_,
    fun s id c o y d n drop org done ts ld rm ha ho hk hy hc hl hne hd held _ hw h16 hb => ?_⟩
  · obtain ⟨t, run⟩ : ∃ t, exec .inboundSectorWritten s = .next t := ⟨_, rfl⟩
    refine ⟨_, pickSector_mem (s := s) hl, t, run, fun c u hs => ?_, fun v u hs => ?_⟩
    · exact Host.Outcome.next.inj (run.symm.trans ((inbound_local ha ho hk hx hl rfl).1 c hs))
    · exact Host.Outcome.next.inj (run.symm.trans ((inbound_local ha ho hk hx hl rfl).2 v hs))
  · obtain ⟨t, run⟩ : ∃ t, exec .outboundSectorAck s = .next t := ⟨_, rfl⟩
    refine ⟨_, pickSector_mem (s := s) hl, t, run, fun h0 => ⟨fun c u hs => ?_, fun u hs => ?_⟩, fun h0 => ?_⟩
    · exact Host.Outcome.next.inj (run.symm.trans (((outbound_local ha ho hk hx hl rfl).1 h0).1 c hs))
    · exact Host.Outcome.next.inj (run.symm.trans (((outbound_local ha ho hk hx hl rfl).1 h0).2 hs))
    · exact Host.Outcome.next.inj (run.symm.trans ((outbound_local (u := s) ha ho hk hx hl rfl).2 h0))
  · obtain ⟨t, run⟩ : ∃ t, exec .reduceOnStoreCombine s = .next t := ⟨_, rfl⟩
    refine ⟨t, run, fun c u hs => ?_, fun u hs => ?_⟩
    · exact Host.Outcome.next.inj (run.symm.trans ((combine_local ha ho hk hx hj).1 c hs))
    · exact Host.Outcome.next.inj (run.symm.trans ((combine_local ha ho hk hx hj).2 hs))
  · refine ⟨_, copyComplete_done ha ho hk hd, op?_endOp_self .., ?_, ?_, fun k l hl => ?_⟩
    · rw [mem_endOp]
      exact mem_barrierArrive_congr ((mem_entryAfter ..).trans (mem_releaseLocks ..)) ..
    · change State.entry _ _ _ = _
      rw [entry_of_ctxs (ctxs_endOp ..), entry_barrierArrive]
      exact entry_entryAfter out drop (by rw [State.ctx?, ctxs_releaseLocks]; exact hx) hr
    · exact (frees_releaseLocks s id).of_cores (by rw [cores_endOp, cores_barrierArrive]; rfl) _ k l hl
  · obtain ⟨u, run, hm, hc⟩ := copyFail_run ha ho hk h1 h9
    refine ⟨_, run, op?_endOp_self .., ?_, ?_⟩
    · rw [mem_endOp, mem_wakeLoads, hm]
      exact mem_failBarrier_congr ((mem_entryAfter ..).trans (mem_releaseLocks ..)) ..
    · change State.entry _ _ _ = _
      rw [entry_of_ctxs ((ctxs_endOp ..).trans ((ctxs_wakeLoads ..).trans hc)), entry_failBarrier]
      exact entry_entryAfter out drop (by rw [State.ctx?, ctxs_releaseLocks]; exact hx) hr
  · have run := multicastLanding_run ha ho hk hy hc hl hd held
    obtain ⟨lh, lo, lm⟩ := landed_keeps s id c o { o with kind := .copy n false drop d org done ts (c :: ld) rm } d
    obtain ⟨es, tail⟩ : ∃ t, exec .multicastLanding s = .next t ∧
        Posted (s.landed id c o { o with kind := .copy n false drop d org done ts (c :: ld) rm } d) t := by
      refine ⟨_, run, ?_⟩
      dsimp only
      split
      · exact Posted.post ..
      · exact Posted.refl _
    obtain ⟨run', posted⟩ := tail
    have tm : es.mem = _ := (congrArg State.mem posted.outside :)
    have to' : es.ops = _ := (congrArg State.ops posted.outside :)
    refine ⟨es, run', fun k hk => ?_, ?_, posted.hub.trans lh⟩
    · have apart : scratchKey c (boxSwin d + k) < scratchKey c (16 * boxTbar d) ∨
          scratchKey c (16 * boxTbar d) + 16 ≤ scratchKey c (boxSwin d + k) := by
        have := hb (boxSwin d + k - 16 * boxTbar d)
        unfold scratchKey
        omega
      have land := readByte_land (s := s) (w := boxSwin d) (m := boxSize d / 16) hne (by omega) (scratchKey c (boxSwin d + k))
      rw [tm, lm _ apart, land, if_pos (by unfold scratchKey; omega)]
      congr 1
      unfold scratchKey
      omega
    · rw [State.op?, to']
      exact lo

end Sys2Proof.Machine
end

section
/-! PROOFS. Proofs/RemoteAtomicsAtTargets.lean: the addresses of engines, and remote atomics at issue, at their targets and acknowledged
(R87, R124, R312, R443). -/
namespace Sys2Proof.Machine

theorem wave?_of_ctxs {s t : State} (h : t.ctxs = s.ctxs) (c w : Nat) : t.wave? c w = s.wave? c w := by
  simp only [State.wave?, State.ctx?, h]

/-! ### Addresses of engines (R443) -/

/-- The machine but for cached translations and pointer entries. -/
def State.uncached (s : State) : State := { s with tlb := [], walkers := [] }

theorem uncached_walkTables_tensor (s : State) (die agent part root va : Nat) (k : Option Nat) :
    (s.walkTables die agent part true root va k).2.uncached = s.uncached := by
  unfold State.walkTables
  dsimp only
  have h := walkAt_tensor agent root va (s.heldPointer die part true va k) s
  revert h
  rcases walkAt agent true root va (s.heldPointer die part true va k) s with ⟨m | x, w⟩ <;> (intro h; subst h; rfl)

/-- A translation of a tensor address changes nothing but what is cached of the tables. -/
theorem uncached_translate_tensor (s : State) (place part va need : Nat) (k : Option Nat) :
    (s.translate place part true va need k).2.uncached = s.uncached :=
  translate_keeps (P := fun u => u.uncached = s.uncached) rfl (fun _ _ h => h) (fun _ _ h => h) (fun _ _ h => h)
    fun u die agent root j h => (uncached_walkTables_tensor u die agent part root va j).trans h

theorem uncached_engineAddr (s : State) (x : Ctx) (a n need : Nat) : (s.engineAddr x a n need).2.uncached = s.uncached := by
  unfold State.engineAddr
  split
  · have h := uncached_translate_tensor s x.place x.part (a % 2 ^ 40) need (some (256 + 4 * (a % 2 ^ 40 / 2 ^ 16)))
    revert h
    rcases s.translate x.place x.part true (a % 2 ^ 40) need (some (256 + 4 * (a % 2 ^ 40 / 2 ^ 16))) with ⟨m | ⟨pa, leaf⟩, u⟩ <;> intro h
    · cases m <;> exact h
    · dsimp only
      split <;> exact h
  · dsimp only
    split <;> rfl
  · rfl

theorem agenda_of_uncached {s t : State} (h : t.uncached = s.uncached) : t.agenda = s.agenda := (congrArg State.agenda h :)
theorem mem_of_uncached {s t : State} (h : t.uncached = s.uncached) : t.mem = s.mem := (congrArg State.mem h :)

/-- A write of an engine changes memory, poison and the record of the line alone. -/
theorem engineStore_outside (s : State) (k n v : Nat) :
    { s.engineStore k n v with mem := [], poison := [], recs := [] } = { s with mem := [], poison := [], recs := [] } := by
  unfold State.engineStore clearPoison
  split <;> rfl

@[simp] theorem mem_engineStore (s : State) (k n v : Nat) : (s.engineStore k n v).mem = writeMem s.mem k n v := mem_clearPoison ..
@[simp] theorem agenda_engineStore (s : State) (k n v : Nat) : (s.engineStore k n v).agenda = s.agenda :=
  (congrArg State.agenda (engineStore_outside s k n v) :)

/-! ### At the target (R312, R443) -/

section
variable {s u : State} {x : Ctx} {op f n a y key c : Nat}

theorem ratomStep_refused (h : s.engineAddr x a n (permR + permW) = (.error c, u)) : ratomStep s x op f n a y = (c, u) := by
  rw [ratomStep, h]

theorem ratomStep_poisoned (h : s.engineAddr x a n (permR + permW) = (.ok key, u)) (hp : poisoned u key n = true) :
    ratomStep s x op f n a y = (4, u) := by
  rw [ratomStep, h]
  exact if_pos hp

theorem ratomStep_ok (h : s.engineAddr x a n (permR + permW) = (.ok key, u)) (hp : poisoned u key n = false) :
    ratomStep s x op f n a y = (0, u.engineStore key n (atomicNew op f n (readMem u.mem key n) y 0)) := by
  rw [ratomStep, h]
  exact if_neg (by simp [hp])

end

theorem agenda_ratomStep (s : State) (x : Ctx) (op f n a y : Nat) : (ratomStep s x op f n a y).2.agenda = s.agenda := by
  have h := agenda_of_uncached (uncached_engineAddr s x a n (permR + permW))
  revert h
  unfold ratomStep
  rcases s.engineAddr x a n (permR + permW) with ⟨c | k, u⟩ <;> intro h
  · exact h
  · dsimp only
    split
    · exact h
    · rw [agenda_engineStore]; exact h

/-- The operations of the lanes that name word a, in their order, each acknowledged. -/
def State.ratomsAt (s : State) (id : Nat) (x : Ctx) (op f n a : Nat) (es : List (Nat × Nat × Nat)) : State :=
  es.foldl (fun t e => (ratomStep t x op f n a e.2.2).2.post .ratomAcknowledged [id, e.1, (ratomStep t x op f n a e.2.2).1]) s

theorem ratomsAt_acknowledges (id : Nat) (x : Ctx) (op f n a : Nat) (es : List (Nat × Nat × Nat)) : ∀ s : State,
    (∀ g ∈ s.agenda, g ∈ (s.ratomsAt id x op f n a es).agenda) ∧
    ∀ e ∈ es, ∃ code, (.ratomAcknowledged, [id, e.1, code]) ∈ (s.ratomsAt id x op f n a es).agenda := by
  induction es with
  | nil => exact fun s => ⟨fun _ h => h, by simp⟩
  | cons e es ih =>
    intro s
    obtain ⟨keep, all⟩ := ih ((ratomStep s x op f n a e.2.2).2.post .ratomAcknowledged [id, e.1, (ratomStep s x op f n a e.2.2).1])
    refine ⟨fun g hg => keep g (List.mem_append_left _ (by rw [agenda_ratomStep]; exact hg)), fun g hg => ?_⟩
    rcases List.mem_cons.1 hg with rfl | hg
    · exact ⟨_, keep _ (List.mem_append_right _ (List.mem_singleton.2 rfl))⟩
    · exact all g hg

/-- The operation of those lanes is done; the others are still to do. -/
theorem ratomAtTarget_run {s : State} {id k : Nat} {o : Op} {x : Ctx} {op f n tb : Nat} {steps : List (Nat × Nat × Nat)}
    {todo : List (Nat × Nat)} {a y : Nat} (ha : s.args = [id, k]) (ho : s.op? id = some o) (hx : s.ctx? o.ctx = some x)
    (hk : o.kind = .ratom op f n tb steps todo) (hs : SMap.find? steps k = some (a, y)) :
    exec .ratomAtTarget s = .next (({ s with
      ops := SMap.insert s.ops id { o with kind := .ratom op f n tb (steps.filter fun e => e.2.1 != a) todo } } : State).ratomsAt id x op f n a
        (steps.filter fun e => e.2.1 == a)) := by
  have hid : s.arg 0 = id := by simp [State.arg, ha]
  have hone : s.arg 1 = k := by simp [State.arg, ha]
  have arm : exec .ratomAtTarget s = execRatomAtTarget s := rfl
  rw [arm, execRatomAtTarget, hid, hone]
  dsimp only
  rw [ho]
  dsimp only
  rw [hk]
  dsimp only
  rw [hx, hs]
  rfl

/-! ### Acknowledged -/

theorem ratomAcknowledged_run {s : State} {id k code : Nat} {o : Op} {op f n tb : Nat} {steps : List (Nat × Nat × Nat)}
    {todo : List (Nat × Nat)} {z : Nat} (ha : s.args = [id, k, code]) (ho : s.op? id = some o)
    (hk : o.kind = .ratom op f n tb steps todo) (hz : SMap.find? todo k = some z) (hc : code ≤ 9) {r : State}
    (hr : r = if code = 0 then s else s.barrierFail o.ctx tb code) :
    exec .ratomAcknowledged s = .next (if SMap.erase todo k = [] then (r.barrierArrive o.ctx tb 1 0).endOp id
      else { r with ops := SMap.insert r.ops id { o with kind := .ratom op f n tb steps (SMap.erase todo k) } }) := by
  have hid : s.arg 0 = id := by simp [State.arg, ha]
  have hone : s.arg 1 = k := by simp [State.arg, ha]
  have htwo : s.arg 2 = code := by simp [State.arg, ha]
  have known : ((SMap.find? todo k).isSome && (code == 0 || errorCode code)) = true := by
    rw [hz]
    simp only [errorCode, Option.isSome_some, Bool.true_and, Bool.or_eq_true, beq_iff_eq, Bool.and_eq_true, decide_eq_true_eq]
    omega
  have arm : exec .ratomAcknowledged s = execRatomAcknowledged s := rfl
  rw [arm, execRatomAcknowledged, hid, hone, htwo]
  dsimp only
  rw [ho]
  dsimp only
  rw [hk]
  dsimp only
  rw [if_pos known, ← hr]
  by_cases he : SMap.erase todo k = []
  · rw [if_pos he, if_pos (by simp [he])]
  · rw [if_neg he, if_neg (by simp [he])]

/-! ### At issue (R312) -/

/-- The lanes of a remote atomic, none acknowledged, each with the link that its flit takes. -/
def State.ratomLinks (t : State) (v : Wave) (a : Nat) (ls : List Nat) : List (Nat × Nat) :=
  ls.map fun k => (k, if addrPkg (v.pair a k) = t.pkg then 0 else t.flitLink (addrPkg (v.pair a k)) 3)

/-- The first event of each lane's operation: due on the own package, and a failure where no link leads to the target. -/
def State.postRatoms (s : State) (id : Nat) (v : Wave) (a : Nat) (ls : List Nat) : State :=
  ls.foldl (fun u l =>
    let p := addrPkg (v.pair a l)
    if p = u.pkg then u.post .ratomAtTarget [id, l]
    else if u.pathUp p 3 then u else u.post .ratomAcknowledged [id, l, 5]) s

theorem posted_postRatoms (s : State) (id : Nat) (v : Wave) (a : Nat) (ls : List Nat) : Posted s (s.postRatoms id v a ls) := by
  unfold State.postRatoms
  refine Posted.foldl _ (fun t l => ?_) _ _
  dsimp only
  split
  · exact Posted.post ..
  · split
    · exact Posted.refl t
    · exact Posted.post ..

theorem mem_postRatoms (id : Nat) (v : Wave) (a : Nat) (ls : List Nat) : ∀ s : State,
    ∀ k ∈ ls, addrPkg (v.pair a k) = s.pkg → (.ratomAtTarget, [id, k]) ∈ (s.postRatoms id v a ls).agenda := by
  induction ls with
  | nil => simp
  | cons l ls ih =>
    intro s k hk own
    have step : s.postRatoms id v a (l :: ls) = (s.postRatoms id v a [l]).postRatoms id v a ls := rfl
    have keep : (s.postRatoms id v a [l]).pkg = s.pkg := by simp only [State.pkg, State.hubGet, (posted_postRatoms ..).hub]
    rw [step]
    rcases List.mem_cons.1 hk with rfl | hk
    · obtain ⟨es, e⟩ := (posted_postRatoms (s.postRatoms id v a [k]) id v a ls).agenda
      have one : s.postRatoms id v a [k] = s.post .ratomAtTarget [id, k] := if_pos own
      rw [e, one]
      exact List.mem_append_left _ (List.mem_append_right _ (List.mem_singleton.2 rfl))
    · exact ih _ k hk (own.trans keep.symm)

section
variable {i : Instr} {s : State} {b : Bundle} {x : Ctx} {v : Wave} {act : List Nat} {a rb op tb f w l : Nat}

/-- A ratom whose lanes' addresses pass their checks is issued: it goes in flight, or with helper lanes alone arrives at once. -/
theorem execRatom_checked {t : State} {ls : List Nat} (h : Passes (.ratom a rb op tb f w l) s b x v act)
    (ht : t = pass (.ratom a rb op tb f w l) b act s) (hls : ls = v.present act)
    (hc : ∀ k ∈ ls, ∃ r, earlyCheck t b.ctx x act ⟨.ratom, 2 ^ w, permR + permW, false, none, none⟩ k (v.pair a k) = .ok r) :
    exec (.ratom a rb op tb f w l) s = .next (if ls.isEmpty then t.barrierArrive b.ctx tb 1 0
      else watchStop ((t.launchAt s.nextId b ls (.ratom op f (2 ^ w) tb (ls.map fun k => (k, v.pair a k, atomicOperand v rb (2 ^ w) k))
        (t.ratomLinks v a ls))).postRatoms s.nextId v a ls) b v 3 (2 ^ w) (ls.map fun k => (k, v.pair a k))) := by
  have arm : exec (.ratom a rb op tb f w l) s = execRatom a rb op tb f w l s := rfl
  rw [arm, execRatom, issue_go h, h.ctx, h.wave', ← ht]
  dsimp only
  rw [if_neg (by simpa using h.active), ← hls, show t.thisId = s.nextId from ht ▸ thisId_pass ..]
  split
  · rename_i k hk
    obtain ⟨l, hl, bad⟩ := List.exists_of_findSome?_eq_some hk
    obtain ⟨r, ok⟩ := hc l hl
    rw [ok] at bad
    cases bad
  · split <;> rfl

end

theorem pow_eq_eight {w : Nat} : 2 ^ w = 8 ↔ w = 3 :=
  ⟨fun h => Nat.pow_right_injective (le_refl 2) (h : 2 ^ w = 2 ^ 3), fun h => by rw [h]; rfl⟩

theorem atomicOperand_eq (v : Wave) (r w l : Nat) :
    atomicOperand v r (2 ^ w) l = (v.reg r l).toNat + if w = 3 then 2 ^ 32 * (v.reg (r + 1) l).toNat else 0 := by
  unfold atomicOperand Wave.pair
  by_cases h : w = 3
  · rw [if_pos (pow_eq_eight.2 h), if_pos h]
    rfl
  · rw [if_neg (mt pow_eq_eight.1 h), if_neg h, Nat.add_zero]

/-- Settles O26: the issue by its checks, each target by one lane's operation, and the acknowledgements by what is left. -/
theorem remoteAtomics : Obligations.RemoteAtomics := by
  unfold Obligations.RemoteAtomics
  dsimp only
  refine ⟨fun a rb op tb f w l s b x v act h => ⟨fun helpers => ?_, fun lanes hc => ?_⟩,
    fun s id k o x op f n tb steps todo a y ha ho hx hk hs => ⟨?_, fun same => ?_⟩,
    fun s id k code o op f n tb steps todo z ha ho hk hz hc => ⟨fun left => ?_, fun last => ?_⟩⟩
  · have helpers : v.present act = [] := helpers
    exact ⟨_, passed_pass h, execRatom_checked h rfl helpers.symm (by simp)⟩
  · have lanes : v.present act ≠ [] := lanes
    have run := execRatom_checked h rfl rfl hc
    rw [if_neg (by simpa using lanes)] at run
    generalize hp : pass (.ratom a rb op tb f w l) b act s = p at run
    generalize ht : State.launchAt p _ _ _ _ = t at run
    have pkg : p.pkg = s.pkg := hp ▸ pkg_pass ..
    have still := stilled_watchStop (t.postRatoms s.nextId v a (v.present act)) b v 3 (2 ^ w) ((v.present act).map fun k => (k, v.pair a k))
    have posted := posted_postRatoms t s.nextId v a (v.present act)
    refine ⟨_, p.ratomLinks v a (v.present act), run, ?_, ?_, fun c k => ?_, ?_, ?_, fun k hk own => ⟨?_, ?_⟩⟩
    · rw [still.mem, show State.mem _ = t.mem from (congrArg State.mem posted.outside :), ← ht, ← hp]
      exact mem_pass ..
    · rw [still.hub, posted.hub, ← ht, ← hp]
      exact hub_pass ..
    · refine (still.waves c k).trans ?_
      rw [wave?_of_ctxs posted.ctxs, ← ht]
      rfl
    · rw [State.op?, still.ops, show State.ops _ = t.ops from (congrArg State.ops posted.outside :), ← ht]
      simp only [atomicOperand_eq]
      exact SMap.find?_insert_self ..
    · simp [State.ratomLinks, Wave.present, Function.comp_def]
    · refine List.mem_map.2 ⟨k, hk, ?_⟩
      rw [if_pos (own.trans pkg.symm)]
    · obtain ⟨es, e⟩ := still.agenda
      rw [e]
      exact List.mem_append_left _ (mem_postRatoms _ _ _ _ t k hk (by rw [own, ← pkg, ← ht]; rfl))
  · exact ⟨_, ratomAtTarget_run ha ho hx hk hs, (ratomsAt_acknowledges ..).2⟩
  · have run := ratomAtTarget_run ha ho hx hk hs
    rw [same] at run
    refine ⟨_, run, fun key u he hp => ?_, fun key u he hp => ?_, fun c u he => ?_⟩
    · simp only [State.ratomsAt, List.foldl_cons, List.foldl_nil]
      rw [ratomStep_ok he hp]
      refine ⟨by simp [State.post], fun j => ?_⟩
      change readByte (u.engineStore ..).mem j = _
      rw [mem_engineStore, readByte_writeMem]
    · simp only [State.ratomsAt, List.foldl_cons, List.foldl_nil]
      rw [ratomStep_poisoned he hp]
      exact ⟨rfl, rfl⟩
    · simp only [State.ratomsAt, List.foldl_cons, List.foldl_nil]
      rw [ratomStep_refused he]
      exact ⟨rfl, rfl⟩
  · rw [ratomAcknowledged_run ha ho hk hz hc rfl, if_neg left]
  · rw [ratomAcknowledged_run ha ho hk hz hc rfl, if_pos last]
    exact ⟨rfl, op?_endOp_self ..⟩

end Sys2Proof.Machine
end

section
/-! PROOFS. Proofs/Regions.lean: region entries, and the start of a region copy (R82, R334 to R336). -/
namespace Sys2Proof.Machine

/-! ### What passing leaves of a block -/

/-- Passing changes no register. -/
theorem regs_pass {i : Instr} {s : State} {b : Bundle} {x : Ctx} {v : Wave} {act : List Nat} (h : Passes i s b x v act) :
    ∃ y, (pass i b act s).ctx? b.ctx = some y ∧ y.rest = x.rest ∧
      ∀ w u, SMap.find? x.waves w = some u → ∃ z, SMap.find? y.waves w = some z ∧ z.regs = u.regs := by
  obtain ⟨_, _, one⟩ := oneWave_pass (act := act) (i := i) h.ctx h.wave
  obtain ⟨y, hy, hr, others, own⟩ := one.own
  refine ⟨y, hy, hr, fun w u hu => ?_⟩
  by_cases hw : w = b.wave
  · subst hw
    cases h.wave.symm.trans hu
    exact ⟨_, own, rfl⟩
  · exact ⟨u, (others w hw).trans hu, rfl⟩

/-- Register writes, after an instruction has passed. -/
theorem effect_regs {i : Instr} {s : State} {b : Bundle} {x : Ctx} {v : Wave} {act : List Nat}
    (h : Passes i s b x v act) (wr : Nat → List (Nat × Word))
    (hf : ∀ l, ∀ p ∈ wr l, ∀ q ∈ wr l, p.1 = q.1 → p.2 = q.2) :
    Effect i s (s.noteSample b act) b x v act wr (fun _ n => n) ((pass i b act s).setRegs b.ctx b.wave (laneWrites act wr)) := by
  obtain ⟨aq, sk, one⟩ := oneWave_pass (act := act) (i := i) h.ctx h.wave
  refine Effect.of h (u := (v.pass i b.run act s.nextId s.inFlight).setKeys (laneWrites act wr)) (aq := aq) (sk := sk) rfl rfl
    (fun l => Wave.lane?_pass v i b.run act s.nextId s.inFlight l) (one.setRegs _) ?_ ?_ hf
  · exact cur_setRegs ..
  · exact (clock_setRegs ..).trans (pass_clock ..)

/-- One register that each lane of the active set writes. -/
theorem laneWrites_one (act : List Nat) (d : Nat) (f : Nat → Word) :
    laneWrites act (fun l => [(d, f l)]) = act.map fun l => (32 * d + l, f l) := by
  rw [List.map_eq_flatMap]
  rfl

theorem locks_pass {i : Instr} {s : State} {b : Bundle} {x : Ctx} {v : Wave} {act : List Nat} (h : Passes i s b x v act) (k : Nat) :
    ((pass i b act s).core k).locks = (s.core k).locks := by
  obtain ⟨_, _, one⟩ := oneWave_pass (act := act) (i := i) h.ctx h.wave
  exact (congrArg Core.locks (one.cores k) :)

/-! ### The start of a copy within the package (R82, R92) -/

/-- The state in which the copy of entry n, with the lock on its window as lock k of its core, has started. -/
def State.copyStarted (s : State) (x : Ctx) (c w n : Nat) (r : Region) (out drop : Bool) (k : Nat) : State :=
  ((((s.setCore x.place { s.core x.place with
      locks := SMap.insert (s.core x.place).locks k (windowLock s.nextId c (if out then 1 else 0) r.desc) }).modCtx c fun y =>
    { y with
      pinned := y.pinned || addrSpace (boxBase r.desc) == 4
      regions := SMap.insert y.regions n { r with state := if out then .dirty else .filling, copy := some s.nextId } }).addOp
    ⟨c, w, [], .copy n out drop r.desc r.origin [] [] [] 0⟩).post (if out then .outboundSectorAck else .inboundSectorWritten) [s.nextId])

theorem lockMeets_of_none {s : State} (h : ∀ id o, (id, o) ∈ s.ops → o.kind.pending.1 = []) (die : Nat) (l : Lock) :
    s.lockMeets die l = false := by
  unfold State.lockMeets
  dsimp only
  rw [List.any_eq_false]
  rintro ⟨id, o⟩ ho hm
  dsimp only at hm
  rw [Bool.and_eq_true] at hm
  unfold OpKind.meets at hm
  rw [h id o ho] at hm
  simp at hm

/-- A lock is taken at a free entry of the table when no access is still to be performed. -/
theorem takeLock_free {s : State} {core : Nat} (hk : ∃ k, k < 32 ∧ SMap.find? (s.core core).locks k = none)
    (ho : ∀ id o, (id, o) ∈ s.ops → o.kind.pending.1 = []) (l : Lock) : ∃ k, k < 32 ∧ SMap.find? (s.core core).locks k = none ∧
      s.takeLock core l = some (s.setCore core { s.core core with locks := SMap.insert (s.core core).locks k l }) := by
  obtain ⟨k, hlt, hfree⟩ := hk
  cases hf : (List.range 32).find? fun i => (SMap.find? (s.core core).locks i).isNone with
  | none => exact absurd (by rw [hfree]; rfl) (List.find?_eq_none.1 hf k (List.mem_range.2 hlt))
  | some j =>
    refine ⟨j, List.mem_range.1 (List.mem_of_find?_eq_some hf), by simpa using List.find?_some hf, ?_⟩
    unfold State.takeLock
    dsimp only
    rw [if_neg (by simp [lockMeets_of_none ho]), hf]

/-- A copy of the own package's tensor memory starts when a lock entry is free and no access is still to be performed. -/
theorem startCopy_own {s : State} {c w n : Nat} {x : Ctx} {r : Region} (out drop : Bool) (hx : s.ctx? c = some x)
    (hr : SMap.find? x.regions n = some r) (size : boxSize r.desc ≠ 0) (space : addrSpace (boxBase r.desc) = 2)
    (pkg : addrPkg (boxBase r.desc) = s.pkg) (mcast : boxMcast r.desc = 0)
    (hk : ∃ k, k < 32 ∧ SMap.find? (s.core x.place).locks k = none) (ho : ∀ id o, (id, o) ∈ s.ops → o.kind.pending.1 = []) :
    ∃ k, k < 32 ∧ SMap.find? (s.core x.place).locks k = none ∧
      s.startCopy c w n out drop = some (s.copyStarted x c w n r out drop k) := by
  obtain ⟨k, hlt, hfree, take⟩ := takeLock_free hk ho (windowLock s.nextId c (if out then 1 else 0) r.desc)
  have alone : (if out then [] else s.mcastTargets c r.desc) = [] := by
    unfold State.mcastTargets
    simp [mcast]
  refine ⟨k, hlt, hfree, ?_⟩
  unfold State.startCopy
  rw [hx]
  dsimp only
  rw [hr]
  dsimp only
  have direct : ¬ addrSpace (boxBase r.desc) = 4 := by omega
  rw [if_neg size, if_neg direct, State.takeLocks, take]
  dsimp only
  rw [State.takeLocks, alone]
  have here : (addrSpace (boxBase r.desc) == 2 && addrPkg (boxBase r.desc) != s.pkg) = false := by simp [pkg]
  rw [here]
  rfl

/-! ### Entries -/

theorem region_of_find {x : Ctx} {n : Nat} {r : Region} (h : SMap.find? x.regions n = some r) : x.region n = r := by
  unfold Ctx.region SMap.get
  rw [h]
  rfl

theorem region_of_none {x : Ctx} {n : Nat} (h : SMap.find? x.regions n = none) : x.region n = ⟨.unbound, 0, [], none⟩ := by
  unfold Ctx.region SMap.get
  rw [h]
  rfl

/-- Five 32-bit registers as signed origins. -/
theorem signExtend_word (y : Word) : signExtend y.toNat 32 = y.toInt := by
  have h := y.isLt
  unfold signExtend
  dsimp only
  rw [Nat.mod_eq_of_lt h, BitVec.toInt_eq_toNat_cond]
  by_cases hy : 2 * y.toNat < 2 ^ 32
  · rw [if_pos hy, if_pos (by omega)]
  · rw [if_neg hy, if_neg (by omega)]

/-- The entry that rgn.set binds to a descriptor, with the origin from the registers after vd. -/
def Wave.boundEntry (v : Wave) (d low desc : Nat) : Region :=
  ⟨.absent, desc, (List.range 5).map fun i => (v.reg (d + 1 + i) low).toInt, none⟩

/-- A touch of the commons region changes no entry. -/
theorem regions_pinIf (b : Bundle) (ps : List Place) (s : State) (c : Nat) :
    ((pinIf b ps s).ctx? c).map Ctx.regions = (s.ctx? c).map Ctx.regions := by
  unfold pinIf
  split
  · rw [ctx?_modCtx]
    split
    · cases s.ctx? c <;> rfl
    · rfl
  · rfl

section
variable {s u : State} {b : Bundle} {x : Ctx} {v : Wave} {act : List Nat} {d a l k desc : Nat} {ws : List (Nat × Nat)}

/-- rgn.set, once it has read its descriptor, binds the entry or takes the fault of the first check that fails (R335). -/
theorem execRgnSet_of_read (h : Passes (.rgnSet d a l) s b x v act)
    (hr : readImages s (pass (.rgnSet d a l) b act s) b x v act 64 [(act.headD 0, v.pair a (act.headD 0))] = .ok ((k, desc) :: ws) u) :
    (regionSetFault x act (v.reg d (act.headD 0)).toNat desc (v.pair a (act.headD 0)) = none → exec (.rgnSet d a l) s =
      .next (u.modCtx b.ctx fun y => { y with
        regions := SMap.insert y.regions (v.reg d (act.headD 0)).toNat (v.boundEntry d (act.headD 0) desc) })) ∧
    ∀ f, regionSetFault x act (v.reg d (act.headD 0)).toNat desc (v.pair a (act.headD 0)) = some f →
      v.isHelper (act.headD 0) = false → Takes (.rgnSet d a l) s b f := by
  obtain ⟨low, rest, rfl⟩ := List.exists_cons_of_ne_nil h.active
  simp only [List.headD_cons] at hr ⊢
  have arm : exec (.rgnSet d a l) s = execRgnSet d a l s := rfl
  unfold Takes
  rw [arm, execRgnSet, issue_go h, h.ctx, h.wave']
  dsimp only
  rw [hr]
  dsimp only
  refine ⟨fun hf => ?_, fun f hf own => ?_⟩
  · rw [hf]
    simp only [signExtend_word, settle, Wave.boundEntry]
  · rw [hf]
    simp only [faultOnce, List.headD_cons, own, Bool.false_eq_true, if_false, settle]
    rfl

/-- An entry may be bound whose descriptor is well formed and fits, where no other window of the block is in use. -/
theorem regionSetFault_of_fits {n at' : Nat} (malformed : boxMalformed desc x.spanBlocks = false) (tbar : boxTbar desc < x.ntbars)
    (bar : 16 * boxTbar desc + 16 ≤ x.scratchBytes) (window : boxSwin desc + boxWindow desc ≤ x.scratchBytes)
    (idle : ∀ k r, (k, r) ∈ x.regions → r.state = .absent ∨ r.state = .unbound) : regionSetFault x act n desc at' = none := by
  have apart : (x.regions.any fun (k, r) => k != n && r.state != .absent && r.state != .unbound &&
      overlaps (boxSwin desc) (boxWindow desc) (boxSwin r.desc) (boxWindow r.desc)) = false := by
    rw [List.any_eq_false]
    rintro ⟨k, r⟩ hr
    rcases idle k r hr with e | e <;> simp [e]
  have unused : (x.region n).state = .absent ∨ (x.region n).state = .unbound := by
    cases hn : SMap.find? x.regions n with
    | none => exact .inr (by rw [region_of_none hn])
    | some r => rw [region_of_find hn]; exact idle n r (SMap.mem_of_find?_eq_some hn)
  unfold regionSetFault
  rw [if_neg (by simp [malformed]), if_neg (by omega), if_neg (by omega), if_neg (by omega), if_neg fun e => Bool.false_ne_true (apart.symm.trans e)]
  rcases unused with e | e <;> rw [e]

end

/-- The state code of an entry with bit 7 for a copy in flight (R336). -/
theorem regionStatus_eq (r : Region) : regionStatus r = (match r.state with
    | .unbound => 0
    | .absent => 1
    | .filling => 2
    | .present => 3
    | .dirty => 4) + if r.copy = none then 0 else 128 := by
  unfold regionStatus
  cases r.copy <;> rfl

/-! ### rgn.pre, rgn.flush and rgn.drop (R82, R336) -/

section
variable {i : Instr} {s : State} {b : Bundle} {x : Ctx} {v : Wave} {act : List Nat} {a n : Nat} {r : Region}

/-- What the entry's state makes of a region instruction. -/
theorem regionOp_run (h : Passes i s b x v act) (hn : n = (v.reg a (act.headD 0)).toNat)
    (body : Bundle → List Nat → State → Nat → Region → Option Result) {q : Result}
    (hq : body b act (pass i b act s) n (x.region n) = some q) : regionOp i s a body = .next (settle b s q) := by
  obtain ⟨low, rest, rfl⟩ := List.exists_cons_of_ne_nil h.active
  simp only [List.headD_cons] at hn
  unfold regionOp
  rw [issue_go h, h.ctx, h.wave']
  dsimp only
  rw [← hn, hq]

theorem regionOp_fault (h : Passes i s b x v act) (hn : n = (v.reg a (act.headD 0)).toNat)
    (body : Bundle → List Nat → State → Nat → Region → Option Result)
    (hq : body b act (pass i b act s) n (x.region n) = none) (own : v.isHelper (act.headD 0) = false) :
    regionOp i s a body = .next (faultBundle b s (trapOf 0x15 n act 0)) := by
  obtain ⟨low, rest, rfl⟩ := List.exists_cons_of_ne_nil h.active
  simp only [List.headD_cons] at hn own
  unfold regionOp
  rw [issue_go h, h.ctx, h.wave']
  dsimp only
  rw [← hn, hq]
  simp only [faultOnce, List.headD_cons, own, Bool.false_eq_true, if_false, settle]

/-- What a started copy leaves: the entry and the lock on its window, the copy in flight, and its first event. -/
structure CopyStarts (i : Instr) (s : State) (b : Bundle) (act : List Nat) (x : Ctx) (n : Nat) (r : Region) (out drop : Bool) (t : State) :
    Prop where
  mem : t.mem = s.mem
  hub : t.hub = s.hub
  agenda : t.agenda = (pass i b act s).agenda ++ [(if out then .outboundSectorAck else .inboundSectorWritten, [s.nextId + 1])]
  op : t.op? (s.nextId + 1) = some ⟨b.ctx, b.wave, [], .copy n out drop r.desc r.origin [] [] [] 0⟩
  lock : ∃ k, k < 32 ∧ SMap.find? (s.core x.place).locks k = none ∧ SMap.find? (t.core x.place).locks k =
    some ⟨s.nextId + 1, b.ctx, false, if out then 1 else 0, boxSwin r.desc, boxSwin r.desc + boxWindow r.desc - 1⟩
  block : ∃ y, t.ctx? b.ctx = some y ∧ (∀ w v, SMap.find? x.waves w = some v → ∃ u, SMap.find? y.waves w = some u ∧ u.regs = v.regs) ∧
    SMap.find? y.regions n = some { r with state := if out then .dirty else .filling, copy := some (s.nextId + 1) } ∧
    ∀ k, k ≠ n → SMap.find? y.regions k = SMap.find? x.regions k

/-- A region instruction that starts a copy of the own package's memory does so at once when a lock entry is free. -/
theorem startOrStall_starts (h : Passes i s b x v act) (out drop : Bool)
    (hr : SMap.find? x.regions n = some r) (size : boxSize r.desc ≠ 0) (space : addrSpace (boxBase r.desc) = 2)
    (pkg : addrPkg (boxBase r.desc) = s.pkg) (mcast : boxMcast r.desc = 0)
    (hk : ∃ k, k < 32 ∧ SMap.find? (s.core x.place).locks k = none) (ho : ∀ id o, (id, o) ∈ s.ops → o.kind.pending.1 = []) :
    ∃ t, settle b s (startOrStall s (pass i b act s) b n out drop) = t ∧ CopyStarts i s b act x n r out drop t := by
  obtain ⟨y, hy, rest, regs⟩ := regs_pass h
  have place : y.place = x.place := (congrArg Ctx.place rest :)
  have regions : y.regions = x.regions := (congrArg Ctx.regions rest :)
  have locks : ((pass i b act s).core y.place).locks = (s.core x.place).locks := by rw [place]; exact locks_pass h _
  obtain ⟨k, hlt, hfree, start⟩ := startCopy_own (w := b.wave) out drop hy (by rw [regions]; exact hr) size space
    (pkg.trans (pkg_pass ..).symm) mcast (by rw [locks]; exact hk) (by rw [ops_pass]; exact ho)
  rw [locks] at hfree
  refine ⟨_, rfl, ?_⟩
  unfold startOrStall
  rw [start]
  refine ⟨mem_pass .., hub_pass .., rfl, SMap.find?_insert_self .., ⟨k, hlt, hfree, ?_⟩, ?_⟩
  · rw [← place]
    have core : ((pass i b act s).copyStarted y b.ctx b.wave n r out drop k).core y.place = { (pass i b act s).core y.place with
        locks := SMap.insert ((pass i b act s).core y.place).locks k
          (windowLock (pass i b act s).nextId b.ctx (if out then 1 else 0) r.desc) } := SMap.get_set_self ..
    exact (congrArg (fun c : Core => SMap.find? c.locks k) core).trans (SMap.find?_insert_self ..)
  · refine ⟨_, (ctx?_modCtx_self ..).trans (congrArg _ hy), regs, SMap.find?_insert_self .., fun j hj => ?_⟩
    exact (SMap.find?_insert_ne hj.symm).trans (by rw [regions])

end

/-- Settles O33: rgn.set and the region instructions by the entry's state, each copy by the start of one. -/
theorem regionInstructions : Obligations.RegionInstructions := by
  unfold Obligations.RegionInstructions
  dsimp only
  refine ⟨fun d a l s b x v act k desc ws u h hr => ⟨(execRgnSet_of_read h hr).1, fun bad own => ?_⟩,
    fun d a l s b x v act p h quiet plain ok tbar bar window idle => ?_, fun d a l s b x v act h => ?_,
    fun i a l s b x v act hi h hn own => ?_,
    fun a l s b x v act r hr => ⟨fun h unbound absent => ?_, fun h absent own free => ?_, fun h clean => ?_,
      fun i drop hi h dirty still own free => ?_, fun h present => ?_⟩⟩
  · exact (execRgnSet_of_read h hr).2 _ (if_pos bad) own
  · have run := (execRgnSet_of_read h (readImages_of_plain h quiet plain (by omega) _)).1
      (regionSetFault_of_fits ok tbar bar window idle)
    obtain ⟨y, hy, rest⟩ := ctx?_pass h
    have kept := regions_pinIf b [nearPlace s b x (v.pair a (act.headD 0)) p] (pass (.rgnSet d a l) b act s) b.ctx
    rw [hy] at kept
    obtain ⟨z, hz, regions⟩ := Option.map_eq_some_iff.1 kept
    have regions : z.regions = x.regions := regions.trans (congrArg Ctx.regions rest :)
    refine ⟨_, _, run, ?_, ?_, ?_, (ctx?_modCtx_self ..).trans (congrArg _ hz), SMap.find?_insert_self .., fun k hk => ?_⟩
    · rw [mem_modCtx, mem_pinIf, mem_pass]
    · rw [hub_modCtx, hub_pinIf, hub_pass]
    · rw [ops_modCtx, ops_pinIf, ops_pass]
    · exact (SMap.find?_insert_ne hk.symm).trans (by rw [regions])
  · have arm : exec (.rgnStat d a l) s = execRgnStat d a l s := rfl
    refine ⟨_, (arm.trans (issue_go h _)), ?_⟩
    rw [h.ctx, h.wave']
    obtain ⟨low, rest, rfl⟩ := List.exists_cons_of_ne_nil h.active
    dsimp only [settle, List.headD_cons]
    rw [← laneWrites_one, regionStatus_eq]
    exact effect_regs h _ (by simp)
  · have unbound := region_of_none hn
    rcases hi with rfl | rfl | rfl
    · have arm : exec (.rgnPre a l) s = execRgnPre a l s := rfl
      exact arm.trans (regionOp_fault h rfl _ (by rw [unbound]) own)
    · have arm : exec (.rgnFlush a l) s = execRgnFlush a l s := rfl
      exact arm.trans (regionOp_fault h rfl _ (by rw [unbound]) own)
    · have arm : exec (.rgnDrop a l) s = execRgnDrop a l s := rfl
      exact arm.trans (regionOp_fault h rfl _ (by rw [unbound]) own)
  · have arm : exec (.rgnPre a l) s = execRgnPre a l s := rfl
    refine arm.trans (regionOp_run h rfl _ (q := .done (pass (.rgnPre a l) b act s)) ?_)
    rw [region_of_find hr]
    revert unbound absent
    cases r.state <;> simp
  · obtain ⟨size, space, pkg, mcast⟩ := own
    obtain ⟨t, run, starts⟩ := startOrStall_starts h false false hr size space pkg mcast free.1 free.2
    refine ⟨t, ?_, starts.mem, starts.hub, starts.agenda, starts.op, starts.lock, starts.block⟩
    have arm : exec (.rgnPre a l) s = execRgnPre a l s := rfl
    rw [← run]
    exact arm.trans (regionOp_run h rfl _ (by rw [region_of_find hr, absent]))
  · have arm : exec (.rgnFlush a l) s = execRgnFlush a l s := rfl
    refine arm.trans (regionOp_run h rfl _ (q := .done (pass (.rgnFlush a l) b act s)) ?_)
    rw [region_of_find hr]
    rcases clean with e | e | e <;> rw [e]
  · obtain ⟨size, space, pkg, mcast⟩ := own
    obtain ⟨t, run, starts⟩ := startOrStall_starts h true drop hr size space pkg mcast free.1 free.2
    refine ⟨t, ?_, starts.mem, starts.hub, starts.agenda, starts.op, starts.lock, starts.block⟩
    rw [← run]
    rcases hi with ⟨rfl, rfl⟩ | ⟨rfl, rfl⟩
    · have arm : exec (.rgnFlush a l) s = execRgnFlush a l s := rfl
      exact arm.trans (regionOp_run h rfl _ (by rw [region_of_find hr, dirty, still]; rfl))
    · have arm : exec (.rgnDrop a l) s = execRgnDrop a l s := rfl
      exact arm.trans (regionOp_run h rfl _ (by rw [region_of_find hr, dirty, still]; rfl))
  · have arm : exec (.rgnDrop a l) s = execRgnDrop a l s := rfl
    refine arm.trans (regionOp_run h rfl _ (q := .done ((pass (.rgnDrop a l) b act s).modCtx b.ctx fun y =>
      { y with regions := SMap.insert y.regions (v.reg a (act.headD 0)).toNat { r with state := .absent } })) ?_)
    rw [region_of_find hr, present]

end Sys2Proof.Machine
end

section
/-! PROOFS. Proofs/TransactionBarriers.lean: the step of a transaction barrier and the barrier instructions (R85, R86, R337 to R339). -/
namespace Sys2Proof.Machine

/-! ### The step (R85, R86) -/

/-- More arrivals or sectors come than are pending. -/
def barrierUnder (b arr sec : Nat) : Bool := decide (bits b 19 4 < arr) || decide (bits b 43 20 < sec)

/-- The barrier with the error of R86 recorded, where there is one and none was before. -/
def barrierMarked (b arr sec : Nat) : Nat :=
  if barrierUnder b arr sec && !b.testBit 84 then setBits (setBits b 84 84 1) 91 85 1 else b

/-- The counts below the error bit are those of the barrier before. -/
theorem bits_barrierMarked {b arr sec i j : Nat} (h : i < 84) : bits (barrierMarked b arr sec) i j = bits b i j := by
  unfold barrierMarked
  split
  · rw [bits_setBits_apart (by decide) (.inl (by omega)), bits_setBits_apart (by decide) (.inl h)]
  · rfl

theorem barrierMarked_lt {b arr sec : Nat} (h : b < 2 ^ 92) : barrierMarked b arr sec < 2 ^ 92 := by
  unfold barrierMarked
  split
  · exact setBits_lt (by decide) (by decide) (setBits_lt (by decide) (by decide) h _) _
  · exact h

theorem barrierMarked_of_enough {b arr sec : Nat} (h : barrierUnder b arr sec = false) : barrierMarked b arr sec = b := by
  unfold barrierMarked
  rw [h]
  rfl

/-- The error bit is set when more come than are pending, with code 1 unless one stood. -/
theorem barrierMarked_of_under {b arr sec : Nat} (h : barrierUnder b arr sec = true) : bits (barrierMarked b arr sec) 84 84 = 1 ∧
    bits (barrierMarked b arr sec) 91 85 = if bits b 84 84 = 1 then bits b 91 85 else 1 := by
  unfold barrierMarked
  rw [h, Bool.true_and]
  by_cases ht : b.testBit 84 = true
  · have e := bits_one_eq_one_iff.2 ht
    rw [if_neg (by simp [ht]), e, if_pos rfl]
    exact ⟨rfl, rfl⟩
  · rw [if_pos (by simpa using ht), if_neg (mt bits_one_eq_one_iff.1 ht)]
    refine ⟨?_, bits_setBits_self (by decide) _ _⟩
    rw [bits_setBits_apart (by decide) (.inl (by decide))]
    exact bits_setBits_self (by decide) _ _

theorem barrierStep_malformed {b arr sec : Nat} (h : bits b 127 92 ≠ 0) : barrierStep b arr sec = (b, false) := by
  unfold barrierStep
  exact if_pos (by simpa [barrierMalformed] using h)

/-- The step of a barrier that no store has spoilt. -/
theorem barrierStep_eq {b arr sec : Nat} (h : b < 2 ^ 92) : barrierStep b arr sec =
    if bits b 19 4 ≤ arr ∧ bits b 43 20 ≤ sec then
      (setBits (setBits (setBits (barrierMarked b arr sec) 3 0 (bits b 3 0 + 1)) 19 4 (bits b 59 44)) 43 20 (bits b 83 60), true)
    else (setBits (setBits (barrierMarked b arr sec) 19 4 (bits b 19 4 - arr)) 43 20 (bits b 43 20 - sec),
      barrierUnder b arr sec && !b.testBit 84) := by
  have sound : ¬ barrierMalformed b = true := by
    have : b / 2 ^ 92 = 0 := Nat.div_eq_of_lt h
    simp only [barrierMalformed, bits, this, Nat.zero_mod, bne_self_eq_false, Bool.false_eq_true, not_false_eq_true]
  unfold barrierStep
  rw [if_neg sound]
  dsimp only
  change (if _ then (setBits (setBits (setBits (barrierMarked b arr sec) 3 0 (bits (barrierMarked b arr sec) 3 0 + 1)) 19 4
    (bits (barrierMarked b arr sec) 59 44)) 43 20 (bits (barrierMarked b arr sec) 83 60), true) else _) = _
  rw [bits_barrierMarked (by decide), bits_barrierMarked (by decide), bits_barrierMarked (by decide)]
  simp only [Nat.sub_eq_zero_iff_le]
  rfl

/-- A field that a step sets neither of the counts nor of the phase. -/
theorem bits_barrierStep_above {b arr sec i j : Nat} (h : b < 2 ^ 92) (hj : 43 < j) :
    bits (barrierStep b arr sec).1 i j = bits (barrierMarked b arr sec) i j := by
  rw [barrierStep_eq h]
  split
  · rw [bits_setBits_apart (by decide) (.inr hj), bits_setBits_apart (by decide) (.inr (by omega)),
      bits_setBits_apart (by decide) (.inr (by omega))]
  · rw [bits_setBits_apart (by decide) (.inr hj), bits_setBits_apart (by decide) (.inr (by omega))]

theorem barrierStep_lt {b arr sec : Nat} (h : b < 2 ^ 92) : (barrierStep b arr sec).1 < 2 ^ 92 := by
  have hm := barrierMarked_lt (arr := arr) (sec := sec) h
  rw [barrierStep_eq h]
  split
  · exact setBits_lt (by decide) (by decide) (setBits_lt (by decide) (by decide) (setBits_lt (by decide) (by decide) hm _) _) _
  · exact setBits_lt (by decide) (by decide) (setBits_lt (by decide) (by decide) hm _) _

/-- With no more than the arrivals or sectors to come, the phase completes. -/
theorem barrierStep_completes {b arr sec : Nat} (h : b < 2 ^ 92) (ha : bits b 19 4 ≤ arr) (hs : bits b 43 20 ≤ sec) :
    bits (barrierStep b arr sec).1 3 0 = (bits b 3 0 + 1) % 16 ∧ bits (barrierStep b arr sec).1 19 4 = bits b 59 44 ∧
      bits (barrierStep b arr sec).1 43 20 = bits b 83 60 ∧ (barrierStep b arr sec).2 = true := by
  rw [barrierStep_eq h, if_pos ⟨ha, hs⟩]
  refine ⟨?_, ?_, ?_, rfl⟩
  · rw [bits_setBits_apart (by decide) (.inl (by decide)), bits_setBits_apart (by decide) (.inl (by decide))]
    exact bits_setBits_self (by decide) _ _
  · rw [bits_setBits_apart (by decide) (.inl (by decide)), bits_setBits_self (by decide)]
    exact Nat.mod_mod _ _
  · rw [bits_setBits_self (by decide)]
    exact Nat.mod_mod _ _

/-- With fewer, the counts go down and the phase stands. -/
theorem barrierStep_counts {b arr sec : Nat} (h : b < 2 ^ 92) (hn : arr < bits b 19 4 ∨ sec < bits b 43 20) :
    bits (barrierStep b arr sec).1 3 0 = bits b 3 0 ∧ bits (barrierStep b arr sec).1 19 4 = bits b 19 4 - arr ∧
      bits (barrierStep b arr sec).1 43 20 = bits b 43 20 - sec := by
  have la : bits b 19 4 < 2 ^ 16 := Nat.mod_lt _ (by decide)
  have ls : bits b 43 20 < 2 ^ 24 := Nat.mod_lt _ (by decide)
  rw [barrierStep_eq h, if_neg (by omega)]
  refine ⟨?_, ?_, ?_⟩
  · rw [bits_setBits_apart (by decide) (.inl (by decide)), bits_setBits_apart (by decide) (.inl (by decide)),
      bits_barrierMarked (by decide)]
  · rw [bits_setBits_apart (by decide) (.inl (by decide)), bits_setBits_self (by decide)]
    exact Nat.mod_eq_of_lt (by omega)
  · rw [bits_setBits_self (by decide)]
    exact Nat.mod_eq_of_lt (by omega)

/-- Too many release the parked lanes, unless an error stood. -/
theorem barrierStep_releases {b arr sec : Nat} (h : b < 2 ^ 92) (hu : barrierUnder b arr sec = true) :
    (barrierStep b arr sec).2 = true ∨ bits b 84 84 = 1 := by
  rw [barrierStep_eq h]
  split
  · exact .inl rfl
  · rw [bits_one_eq_one_iff, hu, Bool.true_and]
    cases b.testBit 84 <;> simp

/-! ### The checks of a barrier instruction (R83, R91, R337) -/

theorem scratchLocks_pass {i : Instr} {s : State} {b : Bundle} {x : Ctx} {v : Wave} {act : List Nat} (h : Passes i s b x v act) :
    (pass i b act s).scratchLocks b.ctx = s.scratchLocks b.ctx := by
  obtain ⟨y, hy, rest⟩ := ctx?_pass h
  have place : y.place = x.place := (congrArg Ctx.place rest :)
  unfold State.scratchLocks
  rw [hy, h.ctx]
  dsimp only
  rw [place, locks_pass h]

/-- Barrier i lies in the allocation, no range lock keeps the access from it, and a reader has no sector of it to wait for. -/
def BarrierReady (s : State) (c : Nat) (x : Ctx) (i : Nat) (reads : Bool) : Prop :=
  i < x.ntbars ∧ 16 * i + 16 ≤ x.scratchBytes ∧
    (∀ k ∈ s.scratchLocks c, k.covers (16 * i) 16 = true → reads = true ∧ k.kind = 0) ∧
    (reads = true → s.unwritten c (16 * i) 16 = false)

section
variable {i : Instr} {s : State} {b : Bundle} {x : Ctx} {v : Wave} {act : List Nat} {a : Nat}

theorem barrierCheckLane_free {k l : Nat} {reads : Bool} (h : Passes i s b x v act) (hr : BarrierReady s b.ctx x k reads) :
    barrierCheckLane (pass i b act s) b.ctx x act l k reads = .free := by
  obtain ⟨-, inside, unlocked, written⟩ := hr
  have none : (s.scratchLocks b.ctx).find? (fun j => j.covers (16 * k) 16 && !(reads && j.kind == 0)) = none := by
    refine List.find?_eq_none.2 fun j hj hc => ?_
    rw [Bool.and_eq_true] at hc
    obtain ⟨hr, hk⟩ := unlocked j hj hc.1
    simp [hr, hk] at hc
  unfold barrierCheckLane
  rw [if_neg (by omega), scratchLocks_pass h, none, unwritten_pass]
  dsimp only
  rw [if_neg]
  rw [Bool.and_eq_true]
  rintro ⟨hr, hw⟩
  rw [written hr] at hw
  cases hw

/-- Bytes beyond the allocation are resource overreach. -/
theorem barrierCheckLane_outside {k l : Nat} {reads : Bool} (t : State) (h : x.scratchBytes < 16 * k + 16) :
    barrierCheckLane t b.ctx x act l k reads = .fail (trapOf 4 4 act (16 * k)) := if_pos h

/-- A range lock on the bytes of the barrier keeps a writer from it. -/
theorem barrierCheckLane_locked {k l : Nat} (h : Passes i s b x v act) (inside : 16 * k + 16 ≤ x.scratchBytes)
    (hl : ∃ j ∈ s.scratchLocks b.ctx, j.covers (16 * k) 16 = true) : ∃ j ∈ s.scratchLocks b.ctx, j.covers (16 * k) 16 = true ∧
      barrierCheckLane (pass i b act s) b.ctx x act l k false = .fail (trapLane 0x10 j.kind l (scratchAddr (16 * k))) := by
  cases hf : (s.scratchLocks b.ctx).find? (fun j => j.covers (16 * k) 16 && !(false && j.kind == 0)) with
  | none =>
    obtain ⟨j, hj, hc⟩ := hl
    exact absurd (by simpa using hc) (List.find?_eq_none.1 hf j hj)
  | some j =>
    refine ⟨j, List.mem_of_find?_eq_some hf, by simpa using List.find?_some hf, ?_⟩
    unfold barrierCheckLane
    rw [if_neg (by omega), scratchLocks_pass h, hf]

/-- tbar.init and tbar.arrive, where the barrier of the lowest lane stands ready. -/
theorem barrierOnce_ready (h : Passes i s b x v act) (hr : BarrierReady s b.ctx x (barrierIndex v a (act.headD 0)) false)
    (body : Bundle → Wave → Nat → Nat → State → State) : barrierOnce i s a body =
      .next (body b v (act.headD 0) (barrierIndex v a (act.headD 0)) (pass i b act s)) := by
  obtain ⟨low, rest, rfl⟩ := List.exists_cons_of_ne_nil h.active
  simp only [List.headD_cons] at hr ⊢
  unfold barrierOnce
  rw [issue_go h, h.ctx, h.wave']
  dsimp only
  rw [if_neg (Nat.not_le.2 hr.1), barrierCheckLane_free h hr]
  rfl

theorem barrierOnce_fault (h : Passes i s b x v act) {f : Trap} (own : v.isHelper (act.headD 0) = false)
    (hi : barrierIndex v a (act.headD 0) < x.ntbars)
    (hf : barrierCheckLane (pass i b act s) b.ctx x act (act.headD 0) (barrierIndex v a (act.headD 0)) false = .fail f)
    (body : Bundle → Wave → Nat → Nat → State → State) : barrierOnce i s a body = .next (faultBundle b s f) := by
  obtain ⟨low, rest, rfl⟩ := List.exists_cons_of_ne_nil h.active
  simp only [List.headD_cons] at own hi hf
  unfold barrierOnce
  rw [issue_go h, h.ctx, h.wave']
  dsimp only
  rw [if_neg (Nat.not_le.2 hi), hf]
  dsimp only
  rw [faultOnce, List.headD_cons, own, if_neg Bool.false_ne_true]
  rfl

/-- A lane whose barrier has an error, which the instruction reports. -/
def laneErrs (s : State) (b : Bundle) (v : Wave) (a l : Nat) : Bool := (s.barrier b.ctx (barrierIndex v a l)).testBit 84 && !v.isHelper l

theorem barrier_pass (c k : Nat) : (pass i b act s).barrier c k = s.barrier c k := by
  unfold State.barrier
  rw [mem_pass]

/-- The checks of the lanes pass where each barrier stands ready, and no lane that may report one has an error. -/
theorem barrierLanes_free {errs : Bool} (h : Passes i s b x v act) (ls : List Nat)
    (hr : ∀ l ∈ ls, BarrierReady s b.ctx x (barrierIndex v a l) true) (he : ∀ l ∈ ls, (errs && laneErrs s b v a l) = false) :
    barrierLanes (pass i b act s) b.ctx x v act a errs ls = .free := by
  induction ls with
  | nil => rfl
  | cons l ls ih =>
    have ih := ih (fun j hj => hr j (List.mem_cons_of_mem _ hj)) fun j hj => he j (List.mem_cons_of_mem _ hj)
    have none := he l (List.mem_cons_self ..)
    rw [laneErrs, ← Bool.and_assoc] at none
    rw [barrierLanes, barrierCheckLane_free h (hr l (List.mem_cons_self ..)), barrier_pass]
    dsimp only
    rw [none, ih]
    rfl

/-- The lowest lane that reports an error decides the fault. -/
theorem barrierLanes_error (h : Passes i s b x v act) (ls : List Nat) (hr : ∀ l ∈ ls, BarrierReady s b.ctx x (barrierIndex v a l) true)
    {l : Nat} (hl : l ∈ ls) (he : laneErrs s b v a l = true) (below : ∀ j ∈ ls, j < l → laneErrs s b v a j = false)
    (sorted : ls.Pairwise (· < ·)) : barrierLanes (pass i b act s) b.ctx x v act a true ls =
      .fail (trapLane 0x18 (bits (s.barrier b.ctx (barrierIndex v a l)) 91 85) l (barrierIndex v a l)) := by
  induction ls with
  | nil => cases hl
  | cons j ls ih =>
    obtain ⟨first, sorted⟩ := List.pairwise_cons.1 sorted
    rw [barrierLanes, barrierCheckLane_free h (hr j (List.mem_cons_self ..)), barrier_pass]
    dsimp only
    rw [Bool.true_and]
    rcases List.mem_cons.1 hl with rfl | hl
    · exact if_pos he
    · rw [if_neg (by rw [← laneErrs, below j (List.mem_cons_self ..) (first l hl)]; simp)]
      exact ih (fun k hk => hr k (List.mem_cons_of_mem _ hk)) hl (fun k hk => below k (List.mem_cons_of_mem _ hk)) sorted

/-- A barrier reader, where the checks of every lane pass. -/
theorem barrierEach_ready {errs : Bool} (h : Passes i s b x v act) (hr : ∀ l ∈ act, BarrierReady s b.ctx x (barrierIndex v a l) true)
    (he : ∀ l ∈ act, (errs && laneErrs s b v a l) = false) (body : Bundle → Ctx → Wave → List Nat → State → State) :
    barrierEach i s a errs body = .next (body b x v act (pass i b act s)) := by
  unfold barrierEach
  rw [issue_go h, h.ctx, h.wave']
  dsimp only
  rw [barrierLanes_free h act hr he]
  rfl

theorem barrierEach_error (h : Passes i s b x v act) (hr : ∀ l ∈ act, BarrierReady s b.ctx x (barrierIndex v a l) true)
    {l : Nat} (hl : l ∈ act) (he : laneErrs s b v a l = true) (below : ∀ j ∈ act, j < l → laneErrs s b v a j = false)
    (sorted : act.Pairwise (· < ·)) (body : Bundle → Ctx → Wave → List Nat → State → State) : barrierEach i s a true body =
      .next (faultBundle b s (trapLane 0x18 (bits (s.barrier b.ctx (barrierIndex v a l)) 91 85) l (barrierIndex v a l))) := by
  unfold barrierEach
  rw [issue_go h, h.ctx, h.wave']
  dsimp only
  rw [barrierLanes_error h act hr hl he below sorted]
  rfl

end

/-! ### Parking at a barrier (R339) -/

/-- Lane n of a wave parked at barrier k, otherwise as before the instruction. -/
def Lane.parkedAt (n : Lane) (k : Nat) : Lane := { n with park := .tbar k, deferred := false }

/-- The lanes of a wave after those of a list have parked, as they stood in wave v. -/
def parkLanes (v : Wave) (a : Nat) (ks : List Nat) (ls : List (Nat × Lane)) : List (Nat × Lane) :=
  ks.foldl (fun m k => match v.lane? k with
    | some n => SMap.mapVals m fun l y => if [k].contains l then n.parkedAt (barrierIndex v a k) else y
    | none => m) ls

/-- The state after they have parked. -/
def State.parkAt (s : State) (c w : Nat) (v : Wave) (a : Nat) (ks : List Nat) : State :=
  ks.foldl (fun t k => match v.lane? k with
    | some n => t.modLanes c w [k] fun _ => n.parkedAt (barrierIndex v a k)
    | none => t) s

theorem OneWave.parkAt {s o t : State} {c w : Nat} {x : Ctx} {u : Wave} (v : Wave) (a : Nat) (ks : List Nat)
    (h : OneWave s o c w x u t) : OneWave s o c w x { u with lanes := parkLanes v a ks u.lanes } (t.parkAt c w v a ks) := by
  induction ks generalizing t u with
  | nil => exact h
  | cons k ks ih =>
    have hl : parkLanes v a (k :: ks) u.lanes = parkLanes v a ks (parkLanes v a [k] u.lanes) := rfl
    have hs : t.parkAt c w v a (k :: ks) = (t.parkAt c w v a [k]).parkAt c w v a ks := rfl
    have step : OneWave s o c w x { u with lanes := parkLanes v a [k] u.lanes } (t.parkAt c w v a [k]) := by
      simp only [parkLanes, State.parkAt, List.foldl_cons, List.foldl_nil]
      cases v.lane? k with
      | none => exact h
      | some n =>
        exact h.modWave fun u => { u with
          lanes := SMap.mapVals u.lanes fun l y => if [k].contains l then n.parkedAt (barrierIndex v a k) else y }
    rw [hl, hs]
    exact ih step

theorem find?_parkLanes (v : Wave) (a : Nat) (ks : List Nat) (l : Nat) : ∀ ls : List (Nat × Lane),
    SMap.find? (parkLanes v a ks ls) l = (SMap.find? ls l).map fun n =>
      if l ∈ ks then ((v.lane? l).map fun m => m.parkedAt (barrierIndex v a l)).getD n else n := by
  induction ks with
  | nil => intro ls; simp [parkLanes]
  | cons k ks ih =>
    intro ls
    have hl : parkLanes v a (k :: ks) ls = parkLanes v a ks (parkLanes v a [k] ls) := rfl
    rw [hl, ih]
    simp only [parkLanes, List.foldl_cons, List.foldl_nil]
    by_cases hk : l = k
    · subst hk
      cases v.lane? l <;> cases hf : SMap.find? ls l <;> simp [hf]
    · cases v.lane? k <;> cases hf : SMap.find? ls l <;> simp [hk, hf]

@[simp] theorem cur_parkAt (s : State) (c w : Nat) (v : Wave) (a : Nat) (ks : List Nat) : (s.parkAt c w v a ks).cur = s.cur := by
  unfold State.parkAt
  induction ks generalizing s with
  | nil => rfl
  | cons k ks ih =>
    rw [List.foldl_cons, ih]
    split <;> rfl

@[simp] theorem clock_parkAt (s : State) (c w : Nat) (v : Wave) (a : Nat) (ks : List Nat) : (s.parkAt c w v a ks).clock = s.clock := by
  unfold State.parkAt
  induction ks generalizing s with
  | nil => rfl
  | cons k ks ih =>
    rw [List.foldl_cons, ih]
    split <;> rfl

/-- Lanes of a list park after an instruction has passed; each keeps its program counter and guard. -/
theorem effect_parkAt {i : Instr} {s : State} {b : Bundle} {x : Ctx} {v : Wave} {act : List Nat} (h : Passes i s b x v act) (a : Nat)
    (ks : List Nat) : Effect i s (s.noteSample b act) b x v act (fun _ => [])
      (fun l n => if l ∈ ks then ((v.lane? l).getD n).parkedAt (barrierIndex v a l) else n)
      ((pass i b act s).parkAt b.ctx b.wave v a ks) := by
  obtain ⟨aq, sk, one⟩ := oneWave_pass (act := act) (i := i) h.ctx h.wave
  have one := one.parkAt v a ks
  refine Effect.of h (aq := aq) (sk := sk) (u := { v.pass i b.run act s.nextId s.inFlight with
    lanes := parkLanes v a ks (v.pass i b.run act s.nextId s.inFlight).lanes }) rfl ?_ (fun l => ?_) one ?_ ?_ (by simp)
  · rw [show laneWrites act (fun _ => []) = [] by simp [laneWrites]]
    rfl
  · have passed : SMap.find? (v.pass i b.run act s.nextId s.inFlight).lanes l = (v.lane? l).map (Lane.passed i b.run act l) :=
      Wave.lane?_pass v i b.run act s.nextId s.inFlight l
    refine (find?_parkLanes v a ks l _).trans ?_
    rw [passed]
    cases v.lane? l <;> rfl
  · exact cur_parkAt ..
  · exact (clock_parkAt ..).trans (pass_clock ..)

/-- The acquire side at block scope drops the L1 lines of the core (R118). -/
theorem acquired_of_phase {x : Ctx} {t : State} {p : Prop} {q : Bool} (h : q = true ↔ ¬ p) :
    (p → (if q then t else t.acquire x.place 1) = { t with l1 := t.l1.filter fun e => e.1 / 0x200000000 ≠ x.place }) ∧
    (¬ p → (if q then t else t.acquire x.place 1) = t) := by
  refine ⟨fun hp => ?_, fun hp => if_pos (h.2 hp)⟩
  rw [if_neg fun hq => h.1 hq hp]
  rfl

theorem phaseMoved_iff {i : Instr} {s : State} {b : Bundle} {act : List Nat} {v : Wave} {a l : Nat} :
    phaseMoved (pass i b act s) b.ctx v a l = true ↔
      readMem s.mem (scratchKey b.ctx (16 * barrierIndex v a l)) 16 % 16 ≠ (v.reg (a + 1) l).toNat % 16 := by
  unfold phaseMoved
  rw [barrier_pass, bne_iff_ne]
  unfold State.barrier bits
  rw [Nat.pow_zero, Nat.div_one]
  exact Iff.rfl

/-- No lane passes exactly when no phase has moved. -/
theorem none_moved_iff {i : Instr} {s : State} {b : Bundle} {act : List Nat} {v : Wave} {a : Nat} :
    (act.filter fun k => phaseMoved (pass i b act s) b.ctx v a k).isEmpty = true ↔ ¬ ∃ l ∈ act,
      readMem s.mem (scratchKey b.ctx (16 * barrierIndex v a l)) 16 % 16 ≠ (v.reg (a + 1) l).toNat % 16 := by
  simp only [List.isEmpty_iff, List.filter_eq_nil_iff, phaseMoved_iff, not_exists, not_and]

theorem laneErrs_of_sound {s : State} {b : Bundle} {v : Wave} {a l : Nat}
    (h : v.isHelper l = true ∨ (readMem s.mem (scratchKey b.ctx (16 * barrierIndex v a l)) 16).testBit 84 = false) :
    laneErrs s b v a l = false := by
  unfold laneErrs State.barrier
  rcases h with e | e <;> simp [e]

/-- Settles O34: the step by its fields, and each instruction by the checks of its barriers. -/
theorem transactionBarriers : Obligations.TransactionBarriers := by
  unfold Obligations.TransactionBarriers
  refine ⟨⟨fun b arr sec h => barrierStep_malformed h, fun b arr sec h => ?_⟩, ?_⟩
  · have low (w : Nat) : bits w 3 0 = w % 16 := by rw [bits, Nat.pow_zero, Nat.div_one]; rfl
    have under (hu : b / 2 ^ 4 % 2 ^ 16 < arr ∨ b / 2 ^ 20 % 2 ^ 24 < sec) : barrierUnder b arr sec = true := by
      rw [barrierUnder, Bool.or_eq_true, decide_eq_true_eq, decide_eq_true_eq]
      exact hu
    refine ⟨?_, Nat.div_eq_of_lt (barrierStep_lt h), fun ha hs => ?_, fun hu => barrierStep_releases h (under hu), fun hu => ⟨?_, ?_⟩,
      fun ha hs => ?_, fun hn => ?_⟩
    · exact (bits_barrierStep_above (i := 83) (j := 44) h (by decide)).trans (bits_barrierMarked (by decide))
    · refine (bits_barrierStep_above (i := 91) (j := 84) h (by decide)).trans (congrArg (bits · 91 84) (barrierMarked_of_enough ?_))
      simp only [barrierUnder, Bool.or_eq_false_iff, decide_eq_false_iff_not, Nat.not_lt]
      exact ⟨ha, hs⟩
    · exact (bits_barrierStep_above (i := 84) (j := 84) h (by decide)).trans (barrierMarked_of_under (under hu)).1
    · exact (bits_barrierStep_above (i := 91) (j := 85) h (by decide)).trans (barrierMarked_of_under (under hu)).2
    · have := barrierStep_completes h ha hs
      rwa [low, low] at this
    · have := barrierStep_counts h hn
      rwa [low, low] at this
  dsimp only
  refine ⟨fun a k s b x v act h ready => ?_, fun a k s b x v act h ready => ?_, fun d a k' s b x v act h ready => ?_,
    fun d a k s b x v act h ready errs => ?_, fun a k s b x v act h ready errs => ?_,
    fun i d a k hi s b x v act h ready l hl own err below sorted => ?_, fun i a k hi s b x v act h own index => ⟨fun outside => ?_, fun inside locked => ?_⟩⟩
  · have ready : BarrierReady s b.ctx x (barrierIndex v a (act.headD 0)) false := ready _ (List.mem_singleton.2 rfl)
    have arm : exec (.tbarInit a k) s = execTbarInit a k s := rfl
    refine ⟨_, passed_pass h, (arm.trans (barrierOnce_ready h ready _)).trans ?_⟩
    dsimp only [barrierInit]
    congr 2
    omega
  · have ready : BarrierReady s b.ctx x (barrierIndex v a (act.headD 0)) false := ready _ (List.mem_singleton.2 rfl)
    have arm : exec (.tbarArrive a k) s = execTbarArrive a k s := rfl
    exact ⟨_, passed_pass h, arm.trans (barrierOnce_ready h ready _)⟩
  · have ready : ∀ l ∈ act, BarrierReady s b.ctx x (barrierIndex v a l) true := ready
    have arm : exec (.tbarRead d a k') s = execTbarRead d a k' s := rfl
    refine ⟨_, arm.trans (barrierEach_ready h ready (by simp) _), ?_⟩
    have writes : (act.flatMap fun k => (List.range 4).map fun i =>
        (32 * (d + i) + k, word ((pass (.tbarRead d a k') b act s).barrier b.ctx (barrierIndex v a k) / 2 ^ (32 * i)))) =
        laneWrites act fun l => (List.range 4).map fun j => (d + j, word (s.barrier b.ctx (barrierIndex v a l) / 2 ^ (32 * j))) := by
      simp only [laneWrites, List.map_map, barrier_pass]
      rfl
    dsimp only
    rw [writes]
    refine effect_regs h _ fun l p hp q hq e => ?_
    obtain ⟨i, -, rfl⟩ := List.mem_map.1 hp
    obtain ⟨j, -, rfl⟩ := List.mem_map.1 hq
    rw [Nat.add_left_cancel e]
  · have ready : ∀ l ∈ act, BarrierReady s b.ctx x (barrierIndex v a l) true := ready
    have arm : exec (.tbarTest d a k) s = execTbarTest d a k s := rfl
    have sound : ∀ l ∈ act, (true && laneErrs s b v a l) = false := fun l hl => laneErrs_of_sound (errs l hl)
    refine ⟨_, _, ?_, arm.trans (barrierEach_ready h ready sound _), acquired_of_phase none_moved_iff⟩
    have writes : (act.map fun j => (32 * d + j, if (act.filter fun k' => phaseMoved (pass (.tbarTest d a k) b act s) b.ctx v a k').contains j
        then (1 : Word) else 0)) = laneWrites act fun l => [(d, if readMem s.mem (scratchKey b.ctx (16 * barrierIndex v a l)) 16 % 16 =
          (v.reg (a + 1) l).toNat % 16 then 0 else 1)] := by
      rw [laneWrites_one]
      refine List.map_congr_left fun l hl => ?_
      simp only [List.contains_iff_mem, List.mem_filter, hl, true_and, phaseMoved_iff, ne_eq, ite_not]
    rw [writes]
    exact effect_regs h _ (by simp)
  · have ready : ∀ l ∈ act, BarrierReady s b.ctx x (barrierIndex v a l) true := ready
    have arm : exec (.tbarWait a k) s = execTbarWait a k s := rfl
    have sound : ∀ l ∈ act, (true && laneErrs s b v a l) = false := fun l hl => laneErrs_of_sound (errs l hl)
    refine ⟨_, _, ?_, arm.trans (barrierEach_ready h ready sound _), acquired_of_phase none_moved_iff⟩
    have effect := effect_parkAt h a (act.filter fun j => !phaseMoved (pass (.tbarWait a k) b act s) b.ctx v a j)
    have parks : (fun (l : Nat) (n : Lane) => if l ∈ act.filter fun j => !phaseMoved (pass (.tbarWait a k) b act s) b.ctx v a j then
        ((v.lane? l).getD n).parkedAt (barrierIndex v a l) else n) = fun l n =>
        if l ∈ act ∧ readMem s.mem (scratchKey b.ctx (16 * barrierIndex v a l)) 16 % 16 = (v.reg (a + 1) l).toNat % 16 then
          ((v.lane? l).getD n).parkedAt (barrierIndex v a l) else n := by
      funext l n
      simp only [List.mem_filter, Bool.not_eq_true', ← Bool.not_eq_true, phaseMoved_iff, ne_eq, not_not]
    rw [parks] at effect
    exact effect
  · have ready : ∀ l ∈ act, BarrierReady s b.ctx x (barrierIndex v a l) true := ready
    have he : laneErrs s b v a l = true := by
      have err : (s.barrier b.ctx (barrierIndex v a l)).testBit 84 = true := err
      rw [laneErrs, err, own]
      rfl
    have below : ∀ j ∈ act, j < l → laneErrs s b v a j = false := fun j hj hlt => laneErrs_of_sound (below j hj hlt)
    rcases hi with rfl | rfl
    · have arm : exec (.tbarTest d a k) s = execTbarTest d a k s := rfl
      exact arm.trans (barrierEach_error h ready hl he below sorted _)
    · have arm : exec (.tbarWait a k) s = execTbarWait a k s := rfl
      exact arm.trans (barrierEach_error h ready hl he below sorted _)
  · rcases hi with rfl | rfl
    · have arm : exec (.tbarInit a k) s = execTbarInit a k s := rfl
      exact arm.trans (barrierOnce_fault h own index (barrierCheckLane_outside _ outside) _)
    · have arm : exec (.tbarArrive a k) s = execTbarArrive a k s := rfl
      exact arm.trans (barrierOnce_fault h own index (barrierCheckLane_outside _ outside) _)
  · obtain ⟨j, hj, hc, check⟩ := barrierCheckLane_locked (l := act.headD 0) h inside locked
    refine ⟨j, hj, hc, ?_⟩
    rcases hi with rfl | rfl
    · have arm : exec (.tbarInit a k) s = execTbarInit a k s := rfl
      exact arm.trans (barrierOnce_fault h own index check _)
    · have arm : exec (.tbarArrive a k) s = execTbarArrive a k s := rfl
      exact arm.trans (barrierOnce_fault h own index check _)

end Sys2Proof.Machine
end


section
/-! PROOFS. Proofs/Links.lean: what a link that goes down or trains, a flit, an acknowledgement and the declaration of a lost package do
(R482, R491 to R498). -/
namespace Sys2Proof.Machine

/-! ### Requests that end in the order they are held -/

theorem Posted.mono {s t : State} (h : Posted s t) {e : Instr × List Nat} (he : e ∈ s.agenda) : e ∈ t.agenda := by
  obtain ⟨es, app⟩ := h.agenda
  rw [app]
  exact List.mem_append_left _ he

theorem mem_agenda_post (s : State) (e : Instr) (as : List Nat) : (e, as) ∈ (s.post e as).agenda :=
  List.mem_append_right _ (List.mem_singleton.2 rfl)

theorem posted_ite {s t u : State} {p : Prop} [Decidable p] (ht : Posted s t) (hu : Posted s u) : Posted s (if p then t else u) := by
  split
  · exact ht
  · exact hu

/-- What one element of a list posts is in the agenda when every element has had its turn. -/
theorem mem_agenda_foldl {α : Type} {g : State → α → State} (grows : ∀ t a, Posted t (g t a)) {a : α} {e : Instr × List Nat}
    (hit : ∀ t, e ∈ (g t a).agenda) : ∀ {as : List α}, a ∈ as → ∀ s, e ∈ (as.foldl g s).agenda := by
  intro as
  induction as with
  | nil => intro h; cases h
  | cons b as ih =>
    intro h s
    rcases List.mem_cons.1 h with rfl | h
    · exact (Posted.foldl g grows as _).mono (hit s)
    · exact ih h _

/-- The operations in flight are lost one after another: what that does to a lane write and to a copy that is selected. -/
theorem loseOps_eq_foldl (s : State) (p : Nat → Nat → Bool) : ∃ g : State → Nat × Op → State, s.loseOps p = s.ops.foldl g s ∧
    (∀ t e, Posted t (g t e)) ∧
    (∀ t id o cap k m v tag sl nm rel link, o.kind = .laneWrite cap k m v tag sl nm rel 0 link → bits cap 63 44 ≠ s.pkg →
      p (bits cap 63 44) link = true → g t (id, o) = t.post .sendOutcomeReturn [id, 3]) ∧
    ∀ t id o n out drop d og dn ts ld link, o.kind = .copy n out drop d og dn ts ld link → link ≠ 0 → dn.length < boxSectors d →
      p (addrPkg (boxBase d)) link = true → g t (id, o) = t.post .copyFail [id, 5] := by
  refine ⟨_, rfl, fun t e => ?_, fun t id o cap k m v tag sl nm rel link hk away sel => ?_,
    fun t id o n out drop d og dn ts ld link hk far more sel => ?_⟩
  · dsimp only
    split
    · exact Posted.foldl _ (fun _ _ => Posted.post ..) _ _
    · exact posted_ite (Posted.post ..) (Posted.refl t)
    · exact posted_ite (Posted.post ..) (Posted.refl t)
    · exact Posted.refl t
  · simp only [hk]
    exact if_pos ⟨away, sel⟩
  · simp only [hk]
    exact if_pos ⟨far, more, sel⟩

/-- What the answer to a request of the own package as to a lost peer, of this kind and operands, keeps, and what it ends. -/
structure Answered (s t : State) (kind : Nat) (as : List Nat) : Prop where
  mem : t.mem = s.mem
  ctxs : t.ctxs = s.ctxs
  ratom : ∀ id o op f n tb st todo j k, kind = 3 → (id, o) ∈ s.ops → o.kind = .ratom op f n tb st todo → (j, k) ∈ todo → k ≠ 0 →
    (SMap.get (0, 0) st j).1 = as.getD 1 0 → (.ratomAcknowledged, [id, j, 5]) ∈ t.agenda
  laneWrite : ∀ id o cap j m v tag sl nm rel k, kind = 5 → (id, o) ∈ s.ops → o.kind = .laneWrite cap j m v tag sl nm rel 0 k → k ≠ 0 →
    cap = as.getD 0 0 → (.sendOutcomeReturn, [id, 3]) ∈ t.agenda

theorem answered_lostFlit {s : State} {kind : Nat} (as : List Nat) (h : kind ≠ 7) : Answered s (s.lostFlit kind as) kind as := by
  have eq : ∃ g : State → Nat × Op → State, s.lostFlit kind as = s.ops.foldl g s ∧ (∀ t e, Posted t (g t e)) ∧
      (∀ t id o op f n tb st todo j k, kind = 3 → o.kind = .ratom op f n tb st todo → (j, k) ∈ todo → k ≠ 0 →
        (SMap.get (0, 0) st j).1 = as.getD 1 0 → (.ratomAcknowledged, [id, j, 5]) ∈ (g t (id, o)).agenda) ∧
      ∀ t id o cap j m v tag sl nm rel k, kind = 5 → o.kind = .laneWrite cap j m v tag sl nm rel 0 k → k ≠ 0 →
        cap = as.getD 0 0 → (.sendOutcomeReturn, [id, 3]) ∈ (g t (id, o)).agenda := by
    refine ⟨_, if_neg h, fun t e => ?_, fun t id o op f n tb st todo j k hk ho hj far named => ?_,
      fun t id o cap j m v tag sl nm rel k hk ho far named => ?_⟩
    · dsimp only
      split
      · exact posted_ite (Posted.foldl _ (fun _ _ => Posted.post ..) _ _) (Posted.refl t)
      · exact posted_ite (Posted.post ..) (Posted.refl t)
      · exact posted_ite (Posted.post ..) (Posted.refl t)
      · exact Posted.refl t
    · simp only [ho, if_pos hk]
      have sel : (j, k) ∈ todo.filter fun x => x.2 != 0 && (SMap.get (0, 0) st x.1).1 == as.getD 1 0 :=
        List.mem_filter.2 ⟨hj, by simp [far, named]⟩
      exact mem_agenda_foldl (g := fun (t : State) x => t.post .ratomAcknowledged [id, x.1, 5]) (fun _ _ => Posted.post ..)
        (fun t => mem_agenda_post ..) sel t
    · simp only [ho]
      rw [if_pos ⟨hk, far, named⟩]
      exact mem_agenda_post ..
  obtain ⟨g, fold, grows, ratom, laneWrite⟩ := eq
  rw [fold]
  have posted := Posted.foldl g grows s.ops s
  exact ⟨(congrArg State.mem posted.outside :), posted.ctxs,
    fun id o op f n tb st todo j k hk held ho hj far named =>
      mem_agenda_foldl grows (fun t => ratom t id o op f n tb st todo j k hk ho hj far named) held s,
    fun id o cap j m v tag sl nm rel k hk held ho far named =>
      mem_agenda_foldl grows (fun t => laneWrite t id o cap j m v tag sl nm rel k hk ho far named) held s⟩

/-! ### A link that goes down, or trains (R482, R494, R495) -/

section
variable {s : State} {l : Nat} (quiet : s.colls = []) (up : s.linkUp l = true)
include quiet up

theorem hubGet_linkDown_self : (s.linkDown l).hubGet 0x811 l = setBits (setBits (s.hubGet 0x811 l) 0 0 0) 2 2 1 := by
  rw [linkDown_of_up quiet up]
  refine (hubGet_hubSet_self ..).trans (Nat.mod_eq_of_lt ?_)
  exact setBits_lt (by decide) (by decide) (setBits_lt (by decide) (by decide) (hubGet_lt ..) _) _

theorem testBit_linkDown (k : Nat) : ((s.linkDown l).hubGet 0x811 l).testBit k =
    if k = 2 then true else if k = 0 then false else (s.hubGet 0x811 l).testBit k := by
  rw [hubGet_linkDown_self quiet up, testBit_setBits (Nat.le_refl 2), testBit_setBits_zero]
  by_cases two : k = 2
  · rw [if_pos (by omega), if_pos two, two]
    rfl
  · rw [if_neg (by omega), if_neg two]

theorem hubGet_linkDown_ne {m : Nat} (h : m ≠ l) : (s.linkDown l).hubGet 0x811 m = s.hubGet 0x811 m := by
  rw [linkDown_of_up quiet up]
  exact (hubGet_hubSet_ne _ _ (by omega)).trans (hubGet_congr (posted_loseOps ..).hub ..)

theorem interrupts_linkDown : (s.linkDown l).interrupts = s.interrupts + 1 := by
  rw [linkDown_of_up quiet up]
  exact congrArg (· + 1) (congrArg State.interrupts (posted_loseOps s fun _ k => k == l + 1).outside :)

theorem agenda_linkDown : (s.linkDown l).agenda = (s.loseOps fun _ k => k == l + 1).agenda := by
  rw [linkDown_of_up quiet up]
  rfl

theorem laneWrite_linkDown {id cap k m tag sl nm rel : Nat} {v} {o : Op} (held : (id, o) ∈ s.ops)
    (ho : o.kind = .laneWrite cap k m v tag sl nm rel 0 (l + 1)) (away : cap / 2 ^ 44 % 2 ^ 20 ≠ s.pkg) :
    (.sendOutcomeReturn, [id, 3]) ∈ (s.linkDown l).agenda := by
  obtain ⟨g, fold, grows, lane, -⟩ := loseOps_eq_foldl s fun _ k => k == l + 1
  rw [agenda_linkDown quiet up, fold]
  exact mem_agenda_foldl grows (fun t => by rw [lane t id o _ _ _ _ _ _ _ _ _ ho away (by simp)]; exact mem_agenda_post ..) held s

theorem copy_linkDown {id n : Nat} {out drop : Bool} {d : Nat} {og : List Int} {dn : List (Nat × Bool)} {ts ld : List Nat} {o : Op}
    (held : (id, o) ∈ s.ops) (ho : o.kind = .copy n out drop d og dn ts ld (l + 1)) (more : dn.length < boxSectors d) :
    (.copyFail, [id, 5]) ∈ (s.linkDown l).agenda := by
  obtain ⟨g, fold, grows, -, copy⟩ := loseOps_eq_foldl s fun _ k => k == l + 1
  rw [agenda_linkDown quiet up, fold]
  exact mem_agenda_foldl grows (fun t => by
    rw [copy t id o _ _ _ _ _ _ _ _ _ ho (Nat.succ_ne_zero l) more (by simp)]; exact mem_agenda_post ..) held s

end

theorem exec_linkDown {i : Instr} (hi : i = .linkReceiveTimeout ∨ i = .linkRetryExhausted) {s : State} {l : Nat} (hs : s.args = [l])
    (hl : l < 32) : exec i s = .next (s.linkDown l) := by
  have event : exec i s = .next (s.linkDown (s.arg 0 % 32)) := by rcases hi with rfl | rfl <;> rfl
  rw [event, arg_of_one hs, Nat.mod_eq_of_lt hl]

/-- The register of a link that has trained: TRAINED, and UP when its peer has answered, with that peer's link and package. -/
def linkWord (v : Nat) (up : Bool) (link pkg : Nat) : Nat :=
  if up then setBits (setBits (v ||| 3) 7 3 link) 27 8 pkg else v ||| 2

theorem linkWord_lt {v : Nat} (h : v < 2 ^ 32) (up : Bool) (link pkg : Nat) : linkWord v up link pkg < 2 ^ 32 := by
  cases up
  · exact Nat.or_lt_two_pow h (by decide)
  · exact setBits_lt (by decide) (by decide) (setBits_lt (by decide) (by decide) (Nat.or_lt_two_pow h (by decide)) _) _

theorem exec_linkTrained {s : State} {l ans link pkg : Nat} (hs : s.args = [l, ans, link, pkg]) (hl : l < 32) (service : s.svcState ≠ 3)
    (trains : s.training.testBit 4 = true ∨ (s.hubGet 0x811 l).testBit 1 = true) :
    ∃ t, exec .linkTrained s = .next t ∧ t.mem = s.mem ∧
      t.hubGet 0x811 l = linkWord (s.hubGet 0x811 l) (decide (ans = 1)) link pkg ∧
      (ans = 1 → (.controlFlitReissue, []) ∈ t.agenda) := by
  have arm : exec .linkTrained s = execLinkTrained s := rfl
  have a0 : s.arg 0 % 32 = l := by rw [State.arg, hs]; exact Nat.mod_eq_of_lt hl
  have a1 : s.arg 1 = ans := by rw [State.arg, hs]; rfl
  have a2 : s.arg 2 = link := by rw [State.arg, hs]; rfl
  have a3 : s.arg 3 = pkg := by rw [State.arg, hs]; rfl
  have go : ¬ (s.svcState = 3 ∨ (s.training.testBit 4 = false ∧ (s.hubGet 0x811 l).testBit 1 = false)) := by
    rintro (h | ⟨h, h'⟩)
    · exact service h
    · rw [h, h'] at trains; simp at trains
  rw [arm, execLinkTrained, a0, a1, a2, a3]
  dsimp only
  rw [if_neg go]
  refine ⟨_, rfl, ?_, ?_, ?_⟩
  · rw [apply_ite State.mem, mem_post, ite_self, mem_hubSet, mem_hubSet]
  · have word : (if decide (ans = 1) = true then setBits (setBits (s.hubGet 0x811 l ||| if decide (ans = 1) = true then 3 else 2) 7 3 link)
        27 8 pkg else s.hubGet 0x811 l ||| if decide (ans = 1) = true then 3 else 2) =
        linkWord (s.hubGet 0x811 l) (decide (ans = 1)) link pkg := by
      rw [linkWord]
      cases decide (ans = 1)
      · simp only [Bool.false_eq_true, if_false]
      · simp only [if_true]
    rw [word, hubGet_congr (posted_ite (Posted.post ..) (Posted.refl _)).hub, hubGet_hubSet_ne _ _ (by omega), hubGet_hubSet_self]
    have small := linkWord_lt (hubGet_lt s 0x811 l) (decide (ans = 1)) link pkg
    generalize linkWord (s.hubGet 0x811 l) (decide (ans = 1)) link pkg = w at small
    exact Nat.mod_eq_of_lt small
  · intro h
    rw [if_pos (decide_eq_true h)]
    exact mem_agenda_post ..

theorem testBit_linkWord_trained (v : Nat) (up : Bool) (link pkg : Nat) : (linkWord v up link pkg).testBit 1 = true := by
  cases up
  · rw [linkWord, if_neg Bool.false_ne_true, Nat.testBit_or, Bool.or_eq_true]; exact .inr rfl
  · rw [linkWord, if_pos rfl, testBit_setBits (by decide), testBit_setBits (by decide), if_neg (by decide), if_neg (by decide),
      Nat.testBit_or, Bool.or_eq_true]
    exact .inr rfl

theorem testBit_linkWord_up (v : Nat) (up : Bool) (link pkg : Nat) :
    (linkWord v up link pkg).testBit 0 = (v.testBit 0 || up) := by
  cases up
  · rw [linkWord, if_neg Bool.false_ne_true, Nat.testBit_or]; rfl
  · rw [linkWord, if_pos rfl, testBit_setBits (by decide), testBit_setBits (by decide), if_neg (by decide), if_neg (by decide),
      Nat.testBit_or]
    rfl

/-- The peer's link and package stand in the register. -/
theorem linkWord_peer {link pkg : Nat} (hl : link < 32) (hp : pkg < 2 ^ 20) (v : Nat) :
    linkWord v true link pkg / 2 ^ 3 % 2 ^ 5 = link ∧ linkWord v true link pkg / 2 ^ 8 % 2 ^ 20 = pkg := by
  rw [linkWord, if_pos rfl]
  refine ⟨?_, (bits_setBits_self (hi := 27) (lo := 8) (by decide) ..).trans (Nat.mod_eq_of_lt hp)⟩
  refine (bits_setBits_apart (hi := 27) (lo := 8) (i := 7) (j := 3) (by decide) (.inl (by decide)) _ _).trans ?_
  exact (bits_setBits_self (by decide) ..).trans (Nat.mod_eq_of_lt hl)

/-! ### Requests that wait are examined anew (R494) -/

theorem foldl_post (ws : List Waiting) : ∀ s : State, ws.foldl (fun t w => t.post w.event w.args) s =
    { s with agenda := s.agenda ++ ws.map fun w => (w.event, w.args) } := by
  induction ws with
  | nil => intro s; simp
  | cons w ws ih => intro s; rw [List.foldl_cons, ih]; simp [State.post]

theorem repost_eq (s : State) (p : Waiting → Bool) : s.repost p = { s with
    waiting := (s.waiting.filter fun w => !(p w && w.line == 0)).map fun w => { w with posted := w.posted || p w }
    agenda := s.agenda ++ (s.waiting.filter fun w => p w && !w.posted).map fun w => (w.event, w.args) } := foldl_post ..

/-! ### Flits (R491, R493) -/

theorem exec_flitArrive {s : State} {l src dst hops kind : Nat} {as : List Nat}
    (hs : s.args = l :: src :: dst :: hops :: kind :: as) (hl : l < 32) : exec .flitArrive s = .next
      (if (!s.linkUp l || SMap.get false s.dead src) = true then s
      else if dst ≠ s.pkg then s.forwardFlit src dst hops kind as
      else s.consumeFlit l kind as) := by
  have arm : exec .flitArrive s = execFlitArrive s := rfl
  have a0 : s.arg 0 = l := by rw [State.arg, hs]; rfl
  have a1 : s.arg 1 = src := by rw [State.arg, hs]; rfl
  have a2 : s.arg 2 = dst := by rw [State.arg, hs]; rfl
  have a3 : s.arg 3 = hops := by rw [State.arg, hs]; rfl
  have a4 : s.arg 4 = kind := by rw [State.arg, hs]; rfl
  have a5 : s.args.drop 5 = as := by rw [hs]; rfl
  have fresh : ¬ (l = keptLink ∧ kind = 5) := fun h => absurd (h.1 ▸ hl) (by decide)
  rw [arm, execFlitArrive, a0, a1, a2, a3, a4, a5, Nat.mod_eq_of_lt hl, if_neg fresh]

section
variable {s : State} {l src dst hops kind : Nat} {as : List Nat} (hs : s.args = l :: src :: dst :: hops :: kind :: as) (hl : l < 32)
include hs hl

theorem flitArrive_discarded (h : s.linkUp l = false ∨ SMap.get false s.dead src = true) : exec .flitArrive s = .next s := by
  rw [exec_flitArrive hs hl, if_pos (by rcases h with h | h <;> simp [h])]

variable (up : s.linkUp l = true) (alive : SMap.get false s.dead src = false)
include up alive

theorem flitArrive_forwarded (h : dst ≠ s.pkg) : exec .flitArrive s = .next (s.forwardFlit src dst hops kind as) := by
  rw [exec_flitArrive hs hl, if_neg (by simp [up, alive]), if_pos h]

theorem flitArrive_consumed (h : dst = s.pkg) : exec .flitArrive s = .next (s.consumeFlit l kind as) := by
  rw [exec_flitArrive hs hl, if_neg (by simp [up, alive]), if_neg (by simpa using h)]

end

theorem sendFlit_of_up {s : State} {src dst m kind : Nat} (hop : Nat) (as : List Nat)
    (hm : s.linkFor src dst (flitChannel kind) = some m) (up : s.linkUp m = true) : s.sendFlit src dst hop kind as =
      some { s with egress := s.egress ++ [m :: src :: dst :: hop :: kind :: as] } := by
  rw [State.sendFlit, hm]
  exact if_pos up

theorem sendFlit_of_down {s : State} {src dst kind : Nat} (hop : Nat) (as : List Nat)
    (h : ∀ m, s.linkFor src dst (flitChannel kind) = some m → s.linkUp m = false) : s.sendFlit src dst hop kind as = none := by
  rw [State.sendFlit]
  cases hm : s.linkFor src dst (flitChannel kind) with
  | none => rfl
  | some m => exact if_neg (by simp [h m hm])

theorem forwardFlit_sent {s t : State} {src dst hops kind : Nat} {as : List Nat} (h : hops < 64)
    (sent : s.sendFlit src dst (hops + 1) kind as = some t) : s.forwardFlit src dst hops kind as = t := by
  rw [State.forwardFlit, if_neg (Nat.not_le.2 h), sent]

/-- A flit that has made its hops, or that no link takes, is answered, but for answers themselves. -/
theorem forwardFlit_unsent {s : State} {src dst hops kind : Nat} (as : List Nat)
    (h : 64 ≤ hops ∨ ∀ m, s.linkFor src dst (flitChannel kind) = some m → s.linkUp m = false) :
    s.forwardFlit src dst hops kind as = if kind = 6 ∨ kind = lostKind then s
      else if src = s.pkg then s.lostFlit kind as
      else (s.sendFlit s.pkg src 1 lostKind (kind :: as)).getD s := by
  have unsent : (if 64 ≤ hops then none else s.sendFlit src dst (hops + 1) kind as) = none := by
    rcases h with h | h
    · exact if_pos h
    · rw [sendFlit_of_down _ _ h, ite_self]
  rw [State.forwardFlit, unsent]

/-- A coherence request goes to its unit with its operands. -/
theorem consumeFlit_coherence {s : State} (l : Nat) {as bs : List Nat} {e : Instr}
    (h : (as = 0 :: bs ∧ e = .cohRead) ∨ (as = 1 :: bs ∧ e = .cohWrite) ∨ (as = 2 :: bs ∧ e = .cohRollout) ∨
      (as = 3 :: bs ∧ e = .commAddRequest) ∨ (as = 4 :: bs ∧ e = .agentReport) ∨ (as = 5 :: bs ∧ e = .homeAtomicRecall)) :
    s.consumeFlit l 1 as = s.post e bs := by
  rcases h with h | h | h | h | h | h <;> (obtain ⟨rfl, rfl⟩ := h; rfl)

/-- A write by an engine leaves its bytes and no other changed. -/
theorem readMem_engineStore (s : State) (k n v : Nat) : readMem (s.engineStore k n v).mem k n = v % 256 ^ n := by
  rw [mem_engineStore, readMem_writeMem_self]

theorem readByte_engineStore_other {s : State} {k n v j : Nat} (h : j < k ∨ k + n ≤ j) :
    readByte (s.engineStore k n v).mem j = readByte s.mem j := by
  rw [mem_engineStore]
  exact readByte_writeMem_other h

theorem consumeFlit_write {s : State} (l : Nat) {tag a n v : Nat} (hn : n ≤ 32) : s.consumeFlit l 2 [tag, a, n, v] =
    s.remoteWrite tag a n v :=
  congrArg (s.remoteWrite tag a · v) (Nat.min_eq_right hn)

theorem remoteWrite_of_ok {s u : State} {tag a n k : Nat} (v : Nat) (h : s.remoteAddr tag a n permW = (.ok k, u)) :
    s.remoteWrite tag a n v = u.engineStore k n v := by
  rw [State.remoteWrite, h]

theorem remoteWrite_of_error {s u : State} {tag a n c : Nat} (v : Nat) (h : s.remoteAddr tag a n permW = (.error c, u)) :
    s.remoteWrite tag a n v = u := by
  rw [State.remoteWrite, h]

/-- The atomics that an instruction's lanes ask of one word are made in lane order. -/
theorem consumeFlit_atomics (s : State) (l tag a op z : Nat) (ys : List Nat) {n : Nat} (hn : n = if z % 2 = 1 then 8 else 4) :
    s.consumeFlit l 3 ([tag, a, op, z] ++ ys) = s.remoteUpdate tag (a / n * n) n
      fun x => ys.foldl (fun x y => atomicNew (op % 8) (z / 2 % 4) n x y 0) x := by
  rw [hn]
  rfl

theorem remoteUpdate_of_ok {s u : State} {tag a n k : Nat} (f : Nat → Nat)
    (h : s.remoteAddr tag a n (permR + permW) = (.ok k, u)) (clean : poisoned u k n = false) :
    s.remoteUpdate tag a n f = u.engineStore k n (f (readMem u.mem k n)) := by
  rw [State.remoteUpdate, h]
  exact if_neg (by simp [clean])

/-! ### Acknowledgements (R494, R496, R498) -/

section
variable {s : State} {l id k code data : Nat} {o : Op} (hs : s.args = [l, id, k, code, data]) (hl : l < 32) (ho : s.op? id = some o)
include hs

theorem exec_remoteAckArrive : exec .remoteAckArrive s = .next (s.ackArrive l id k code data) := by
  have arm : exec .remoteAckArrive s = execRemoteAckArrive s := rfl
  have a0 : s.arg 0 = l := by rw [State.arg, hs]; rfl
  have a1 : s.arg 1 = id := by rw [State.arg, hs]; rfl
  have a2 : s.arg 2 = k := by rw [State.arg, hs]; rfl
  have a3 : s.arg 3 = code := by rw [State.arg, hs]; rfl
  have a4 : s.arg 4 = data := by rw [State.arg, hs]; rfl
  rw [arm, execRemoteAckArrive, a0, a1, a2, a3, a4]

include hl

theorem ack_of_down (down : s.linkUp l = false) : exec .remoteAckArrive s = .next s := by
  rw [exec_remoteAckArrive hs, State.ackArrive, Nat.mod_eq_of_lt hl, if_pos (by simp [down])]

include ho
variable (up : s.linkUp l = true)
include up

theorem ack_ratom {op f n tb : Nat} {st : List (Nat × Nat × Nat)} {todo : List (Nat × Nat)} (h : o.kind = .ratom op f n tb st todo) :
    exec .remoteAckArrive s = .next
      (if SMap.get 0 todo k = 0 ∨ SMap.get false s.dead ((SMap.get (0, 0) st k).1 / 2 ^ 40 % 2 ^ 20) = true then s
      else s.post .ratomAcknowledged [id, k, code]) := by
  rw [exec_remoteAckArrive hs, State.ackArrive, Nat.mod_eq_of_lt hl, if_neg (by simp [up]), ho]
  dsimp only
  rw [h]
  rfl

theorem ack_copy {n d link : Nat} {out drop : Bool} {og : List Int} {dn : List (Nat × Bool)} {ts ld : List Nat}
    (h : o.kind = .copy n out drop d og dn ts ld link) : exec .remoteAckArrive s = .next
      (if link = 0 ∨ SMap.get false s.dead (boxBase d / 2 ^ 40 % 2 ^ 20) = true then s
      else if code ≠ 0 then s.post .copyFail [id, code]
      else s.post (if out = true then .outboundSectorAck else .inboundSectorWritten) [id, k, data]) := by
  rw [exec_remoteAckArrive hs, State.ackArrive, Nat.mod_eq_of_lt hl, if_neg (by simp [up]), ho]
  dsimp only
  rw [h]
  rfl

theorem ack_laneWrite {cap j m tag sl nm rel out link : Nat} {v : Word} (h : o.kind = .laneWrite cap j m v tag sl nm rel out link) :
    exec .remoteAckArrive s = .next
      (if cap / 2 ^ 44 % 2 ^ 20 = s.pkg ∨ SMap.get false s.dead (cap / 2 ^ 44 % 2 ^ 20) = true then s
      else s.post .sendOutcomeReturn [id, code + 1]) := by
  rw [exec_remoteAckArrive hs, State.ackArrive, Nat.mod_eq_of_lt hl, if_neg (by simp [up]), ho]
  dsimp only
  rw [h]
  rfl

end

/-! ### Declaration of a loss, and admission (R444, R462, R463, R496) -/

/-- The contexts and the packages declared lost are kept. -/
structure KeepsLost (s t : State) : Prop where
  ctxs : t.ctxs = s.ctxs
  dead : t.dead = s.dead

theorem KeepsLost.refl (s : State) : KeepsLost s s := ⟨rfl, rfl⟩

theorem KeepsLost.trans {s t u : State} (h : KeepsLost s t) (h' : KeepsLost t u) : KeepsLost s u :=
  ⟨h'.ctxs.trans h.ctxs, h'.dead.trans h.dead⟩

theorem KeepsLost.after {s t u : State} (h : KeepsLost t u) (ctxs : t.ctxs = s.ctxs) (dead : t.dead = s.dead) : KeepsLost s u :=
  ⟨h.ctxs.trans ctxs, h.dead.trans dead⟩

theorem KeepsLost.foldl {α : Type} {g : State → α → State} (hg : ∀ t a, KeepsLost t (g t a)) (as : List α) (s : State) :
    KeepsLost s (as.foldl g s) := by
  induction as generalizing s with
  | nil => exact KeepsLost.refl s
  | cons a as ih => exact (hg s a).trans (ih _)

theorem KeepsLost.ite {s t u : State} {p : Prop} [Decidable p] (ht : KeepsLost s t) (hu : KeepsLost s u) :
    KeepsLost s (if p then t else u) := by
  split
  · exact ht
  · exact hu

theorem Posted.keepsLost {s t : State} (h : Posted s t) : KeepsLost s t := ⟨h.ctxs, (congrArg State.dead h.outside :)⟩

theorem keepsLost_failGroup (s : State) (c : Coll) (code : Nat) : KeepsLost s (s.failGroup c code) := by
  refine KeepsLost.trans ?_ (KeepsLost.foldl (fun t e => ?_) _ _)
  · exact ⟨rfl, rfl⟩
  · exact KeepsLost.ite ⟨rfl, rfl⟩ (KeepsLost.refl t)

theorem keepsLost_loseHome (p : Nat) (s : State) (h : Nat) : KeepsLost s (State.loseHome p s h) := by
  refine KeepsLost.ite ?_ ⟨rfl, rfl⟩
  have reports := fun (as : List Nat) (t : State) => (Posted.foldl (fun u a => u.post .agentReport [a, h]) (fun _ _ => Posted.post ..) as t).keepsLost
  refine KeepsLost.trans ?_ (posted_ite (Posted.post ..) (Posted.refl _)).keepsLost
  exact (reports ..).after rfl rfl

theorem repairLine_keeps (s : State) (n : Nat) (x : CLine) : KeepsLost s (s.repairLine n x) ∧
    (s.repairLine n x).waiting = s.waiting := by
  have set (t : State) (y : CLine) : KeepsLost t (t.setLine n y) ∧ (t.setLine n y).waiting = t.waiting := by
    unfold State.setLine
    dsimp only
    split
    · exact ⟨⟨rfl, rfl⟩, rfl⟩
    · exact ⟨⟨rfl, rfl⟩, rfl⟩
  have data (y : CLine) (d : Nat) : KeepsLost s ((s.setHomeData n d).setLine n y) ∧
      ((s.setHomeData n d).setLine n y).waiting = s.waiting :=
    ⟨(set _ y).1.after rfl rfl, (set _ y).2⟩
  unfold State.repairLine
  dsimp only
  split
  · exact data ..
  · split
    · exact data ..
    · exact set ..

/-- What holds of a state and is kept by each step of a fold holds in the end. -/
theorem foldl_keeps {α : Type} {P : State → Prop} {g : State → α → State} (hg : ∀ t a, P t → P (g t a)) (as : List α) :
    ∀ s, P s → P (as.foldl g s) := by
  induction as with
  | nil => exact fun _ h => h
  | cons a as ih => exact fun s h => ih _ (hg s a h)

theorem repairLists_keeps (s : State) : KeepsLost s s.repairLists ∧ s.repairLists.waiting = s.waiting := by
  refine foldl_keeps (P := fun t => KeepsLost s t ∧ t.waiting = s.waiting) (fun t e h => ?_) _ s ⟨KeepsLost.refl s, rfl⟩
  dsimp only
  split
  · obtain ⟨keeps, waiting⟩ := repairLine_keeps t e.1 e.2
    exact ⟨h.1.trans keeps, waiting.trans h.2⟩
  · exact h

theorem dropReporters_keeps (s : State) : KeepsLost s s.dropReporters ∧ s.dropReporters.waiting = s.waiting := by
  refine foldl_keeps (P := fun t => KeepsLost s t ∧ t.waiting = s.waiting) (fun t e h => ?_) _ s ⟨KeepsLost.refl s, rfl⟩
  dsimp only
  split
  · exact ⟨h.1.trans ⟨rfl, rfl⟩, h.2⟩
  · exact ⟨h.1.trans ⟨rfl, rfl⟩, h.2⟩

theorem keepsLost_retryWaiting (s : State) : KeepsLost s s.retryWaiting := by
  rw [State.retryWaiting, repost_eq]
  exact ⟨rfl, rfl⟩

/-- A request that waits still after all were examined anew waited before, as the same event with the same operands. -/
theorem waiting_retryWaiting {s : State} {w : Waiting} (h : w ∈ s.retryWaiting.waiting) :
    ∃ u ∈ s.waiting, u.event = w.event ∧ u.args = w.args := by
  rw [State.retryWaiting, repost_eq] at h
  obtain ⟨u, hu, rfl⟩ := List.mem_map.1 h
  exact ⟨u, List.mem_of_mem_filter hu, rfl, rfl⟩

/-- The repair after a declaration leaves no request waiting that an agent of a lost package made. -/
theorem repair_keeps (s : State) : KeepsLost s s.repair ∧ ∀ w ∈ s.repair.waiting, s.ofDead w.event w.args = false := by
  let t : State := { s with
    waiting := s.waiting.filter fun w => !s.ofDead w.event w.args
    agenda := s.agenda.filter fun (e, as) => !s.ofDead e as
    leaving := s.leaving.filter fun (a, _) => !s.deadAgent a }
  obtain ⟨reporters, waiting⟩ := dropReporters_keeps t
  obtain ⟨lists, waiting'⟩ := repairLists_keeps t.dropReporters
  have shape : s.repair = t.dropReporters.repairLists.retryWaiting := rfl
  rw [shape]
  refine ⟨(reporters.trans (lists.trans (keepsLost_retryWaiting _))).after rfl rfl, fun w hw => ?_⟩
  obtain ⟨u, hu, event, args⟩ := waiting_retryWaiting hw
  rw [waiting', waiting] at hu
  have alive := (List.mem_filter.1 hu).2
  rw [event, args] at alive
  simpa using alive

theorem ofDead_coherence {s : State} {e : Instr} {as : List Nat} (h : s.ofDead e as = false)
    (he : e = .cohRead ∨ e = .cohWrite ∨ e = .cohRollout ∨ e = .commAddRequest ∨ e = .agentReport) :
    s.deadAgent (as.headD 0) = false := by
  rcases he with rfl | rfl | rfl | rfl | rfl <;> exact h

/-- DECLARE marks the package as lost, and keeps the contexts and every other package's mark. -/
theorem declare_keeps (s : State) (p : Nat) : (s.declare p).ctxs = s.ctxs ∧ (s.declare p).dead = SMap.set false s.dead p true := by
  let t : State := { s with
    dead := SMap.set false s.dead p true
    groups := SMap.mapVals s.groups fun _ g => if s.groupHas g (· == p) then g ||| 2 ^ 128 else g }
  have lost := (posted_loseOps t fun q _ => q == p).keepsLost
  suffices h : KeepsLost t (s.declare p) from ⟨h.ctxs, h.dead⟩
  have colls (u : State) (cs : List (Nat × Coll)) : KeepsLost u (cs.foldl (fun (t : State) (e : Nat × Coll) =>
      if e.2.code = 0 ∧ e.2.done = false ∧ t.groupHas (t.group e.2.group) (· == p) = true then t.failGroup e.2 5 else t) u) :=
    KeepsLost.foldl (fun t e => KeepsLost.ite (keepsLost_failGroup ..) (KeepsLost.refl t)) cs u
  have homes (u : State) (hs : List Nat) : KeepsLost u (hs.foldl (State.loseHome p) u) := KeepsLost.foldl (keepsLost_loseHome p) hs u
  unfold State.declare
  dsimp only
  refine KeepsLost.ite ?_ ?_
  · exact lost.trans ((colls ..).trans ((homes ..).trans (Posted.post ..).keepsLost))
  · exact lost.trans ((colls ..).trans ((homes ..).trans (repair_keeps _).1))

theorem keepsLost_refusal (s : State) (n : Nat) (r : Bool) : KeepsLost s (s.refusal n r) := ⟨rfl, rfl⟩

theorem peerDeclare_declares {s : State} (hs : s.args = []) : ∃ t, exec .peerDeclare s = .next t ∧
    t.dead = SMap.set false s.dead (s.hubGet 0x818 0 % 2 ^ 20) true ∧ t.ctxs = s.ctxs ∧ (t.hubGet 0x802 0).testBit 0 = false := by
  have arm : exec .peerDeclare s = execPeerDeclare s := rfl
  have command : exec .peerDeclare s = .next ((s.declare (s.hubGet 0x818 0 % 2 ^ 20)).refusal 0x802 false) := by
    rw [arm, execPeerDeclare, if_pos (by rw [State.arg, hs]; rfl)]
    rfl
  obtain ⟨ctxs, dead⟩ := declare_keeps s (s.hubGet 0x818 0 % 2 ^ 20)
  have status := keepsLost_refusal (s.declare (s.hubGet 0x818 0 % 2 ^ 20)) 0x802 false
  exact ⟨_, command, status.dead.trans dead, status.ctxs.trans ctxs, statusBit_refusal ..⟩

theorem peerDeclare_repairs {s : State} {p : Nat} (hs : s.args = [p + 1]) : exec .peerDeclare s = .next s.repair := by
  have arm : exec .peerDeclare s = execPeerDeclare s := rfl
  rw [arm, execPeerDeclare, arg_of_one hs, if_neg (Nat.succ_ne_zero p)]

/-- Slices that enter the domain anew: the lost ones among them are lost no more, and with none lost the memory stands. -/
theorem foldl_freshSlice (is : List Nat) : ∀ s : State, (is.foldl State.freshSlice s).dead = s.dead ∧
    (s.lost = [] → (is.foldl State.freshSlice s).mem = s.mem) ∧
    (∀ i, SMap.find? s.lost i = none → SMap.find? (is.foldl State.freshSlice s).lost i = none) ∧
    ∀ i ∈ is, SMap.find? s.lost i = some 0 → SMap.find? (is.foldl State.freshSlice s).lost i = none := by
  have one (s : State) (i : Nat) : (s.freshSlice i).dead = s.dead ∧ (s.lost = [] → s.freshSlice i = s) ∧
      ∀ k, SMap.find? (s.freshSlice i).lost k = if i = k ∧ SMap.find? s.lost k = some 0 then none else SMap.find? s.lost k := by
    unfold State.freshSlice
    split
    · rename_i gone
      refine ⟨rfl, fun whole => ?_, fun k => ?_⟩
      · rw [whole] at gone
        cases gone
      · rw [SMap.find?_erase]
        by_cases h : i = k
        · rw [if_pos h, if_pos ⟨h, h ▸ gone⟩]
        · rw [if_neg h, if_neg (fun g => h g.1)]
    · rename_i kept
      exact ⟨rfl, fun _ => rfl, fun k => (if_neg (by rintro ⟨rfl, h⟩; exact kept h)).symm⟩
  induction is with
  | nil => exact fun s => ⟨rfl, fun _ => rfl, fun _ h => h, fun _ h => nomatch h⟩
  | cons i is ih =>
    intro s
    obtain ⟨dead, same, find⟩ := one s i
    obtain ⟨dead', mem', there, fresh⟩ := ih (s.freshSlice i)
    refine ⟨dead'.trans dead, fun h => ?_, fun k h => there k ?_, fun k hk h => ?_⟩
    · rw [same h] at mem'
      rw [List.foldl_cons, same h]
      exact mem' h
    · rw [find, h, ite_self]
    · by_cases first : i = k
      · exact there k (by rw [find, if_pos ⟨first, h⟩])
      · refine fresh k ((List.mem_cons.1 hk).resolve_left (Ne.symm first)) ?_
        rw [find, if_neg (fun g => first g.1), h]

theorem lost_retryWaiting (s : State) : s.retryWaiting.lost = s.lost := by
  rw [State.retryWaiting, repost_eq]

theorem lost_refusal (s : State) (n : Nat) (r : Bool) : (s.refusal n r).lost = s.lost := rfl

theorem not_declaring {s : State} {p : Nat} (idle : s.rebuilds = []) (done : (.peerDeclare, [p + 1]) ∉ s.agenda) :
    s.declaring p = false := by
  rw [State.declaring, idle, List.any_nil, Bool.false_or, List.any_eq_false]
  rintro ⟨e, as⟩ held
  simp only [Bool.and_eq_true, beq_iff_eq, not_and]
  rintro rfl rfl
  exact done held

/-- ADMIT takes the mark from the package, and makes the slices that are its own and were gone slices of it. -/
theorem peerAdmit_admits {s : State} {p : Nat} (hp : p = s.hubGet 0x818 0 % 2 ^ 20) (idle : s.rebuilds = [])
    (done : (.peerDeclare, [p + 1]) ∉ s.agenda) : ∃ t, exec .peerAdmit s = .next t ∧ t.dead = SMap.set false s.dead p false ∧
      (s.lost = [] → t.mem = s.mem) ∧
      (∀ i, i < 1024 → s.domPkg? i = some p → SMap.find? s.lost i = some 0 → SMap.find? t.lost i = none) ∧
      (t.hubGet 0x802 0).testBit 0 = false := by
  have command : exec .peerAdmit s = .next ((s.admitPkg p).refusal 0x802 false) := by
    rw [← unless_of_applied (not_declaring idle done) (f := fun t => t.admitPkg p), hp]
    rfl
  let t : State := { s with dead := SMap.set false s.dead p false }
  obtain ⟨dead, mem, -, fresh⟩ := foldl_freshSlice ((List.range 1024).filter fun i => t.domPkg? i == some p) t
  have shape : s.admitPkg p = (((List.range 1024).filter fun i => t.domPkg? i == some p).foldl State.freshSlice t).retryWaiting := rfl
  refine ⟨_, command, ?_, fun h => ?_, fun i hi own gone => ?_, statusBit_refusal ..⟩
  · rw [(keepsLost_refusal (s.admitPkg p) 0x802 false).dead, shape, (keepsLost_retryWaiting _).dead, dead]
  · rw [mem_refusal, shape, mem_retryWaiting, mem h]
  · rw [lost_refusal, shape, lost_retryWaiting]
    exact fresh i (List.mem_filter.2 ⟨List.mem_range.2 hi, beq_iff_eq.2 own⟩) gone

/-- Settles O56, clause by clause: what a link, a flit, an acknowledgement and a declaration do. -/
theorem links : Obligations.Links := by
  unfold Obligations.Links
  dsimp only
  refine ⟨fun i hi s l hs hl => ⟨fun down => ?_, fun up quiet => ?_⟩, fun s l hs hl => ?_, fun s l hs => rfl, fun s => ?_,
    fun s l ans pl pp hs hl hpl hpp service trains => ?_,
    fun s l src dst hops kind as hs hl => ⟨flitArrive_discarded hs hl, fun up alive away => ?_, fun up alive own => ?_⟩,
    fun s l id o k code data hs hl ho => ⟨ack_of_down hs hl, fun up => ⟨fun _ _ _ _ _ _ => ack_ratom hs hl ho up,
      fun _ _ _ _ _ _ _ _ _ => ack_copy hs hl ho up, fun _ _ _ _ _ _ _ _ _ _ => ack_laneWrite hs hl ho up⟩⟩,
    fun s => ⟨fun hs => ?_, fun hs => ?_, fun idle done => ?_⟩⟩
  · rw [exec_linkDown hi hs hl, linkDown_of_down down]
  · refine ⟨_, exec_linkDown hi hs hl, mem_linkDown .., (linkDown_keeps quiet l).1, ?_, ?_, fun k zero two => ?_,
      interrupts_linkDown quiet up, fun m _ h => hubGet_linkDown_ne quiet up h,
      fun _ _ _ _ _ _ _ _ _ _ held ho away => laneWrite_linkDown quiet up held ho away,
      fun _ _ _ _ _ _ _ _ _ _ held ho more => copy_linkDown quiet up held ho more⟩
    · exact testBit_linkDown quiet up 0
    · exact testBit_linkDown quiet up 2
    · rw [testBit_linkDown quiet up, if_neg two, if_neg zero]
  · have arm : exec .keepAlive s = execKeepAlive s := rfl
    rw [arm, execKeepAlive, arg_of_one hs, Nat.mod_eq_of_lt hl]
  · exact congrArg Host.Outcome.next (repost_eq ..)
  · obtain ⟨t, run, mem, word, posted⟩ := exec_linkTrained hs hl service trains
    refine ⟨t, run, mem, ?_, fun answers => ?_, fun silent => ?_⟩
    · rw [word, testBit_linkWord_trained]
    · rw [decide_eq_true answers] at word
      obtain ⟨link, pkg⟩ := linkWord_peer hpl hpp (s.hubGet 0x811 l)
      exact ⟨by rw [word, testBit_linkWord_up, Bool.or_true], word ▸ link, word ▸ pkg, posted answers⟩
    · rw [word, testBit_linkWord_up, decide_eq_false silent, Bool.or_false]
  · have run := flitArrive_forwarded hs hl up alive away
    refine ⟨fun m few hm mup => ?_, fun unsent => ⟨fun answer => ?_, fun h6 h7 h12 self => ?_, fun m h6 h12 other hm mup => ?_⟩⟩
    · rw [run, forwardFlit_sent few (sendFlit_of_up _ _ hm mup)]
    · rw [run, forwardFlit_unsent as unsent, if_pos (show kind = 6 ∨ kind = lostKind from answer)]
    · rw [forwardFlit_unsent as unsent, if_neg (show ¬ (kind = 6 ∨ kind = lostKind) from not_or.2 ⟨h6, h12⟩), if_pos self] at run
      obtain ⟨mem, ctxs, ratom, lane⟩ := answered_lostFlit (s := s) as h7
      exact ⟨_, run, mem, ctxs, ratom, lane⟩
    · rw [run, forwardFlit_unsent as unsent, if_neg (show ¬ (kind = 6 ∨ kind = lostKind) from not_or.2 ⟨h6, h12⟩), if_neg other,
        sendFlit_of_up (kind := lostKind) 1 (kind :: as) hm mup]
      rfl
  · have run := flitArrive_consumed hs hl up alive own
    refine ⟨fun bs e hk he => ?_, fun e he => ?_, fun tag a n v k u hk has hn ok => ?_, fun req bs hk has seven => ?_,
      fun tag a op z ys k u hk has => ?_, fun tag a n v c u hk has hn bad => ?_⟩
    · rw [run, hk, consumeFlit_coherence l he]
    · rw [run]
      rcases he with he | he | he <;> (obtain ⟨rfl, rfl⟩ := he; rfl)
    · rw [hk, has, consumeFlit_write l hn, remoteWrite_of_ok v ok] at run
      exact ⟨_, run, readMem_engineStore .., fun j => readByte_engineStore_other⟩
    · rw [hk, has] at run
      obtain ⟨mem, ctxs, ratom, lane⟩ := answered_lostFlit (s := s) bs seven
      exact ⟨_, run, mem, ctxs, ratom, lane⟩
    · intro ok clean
      rw [hk, has, consumeFlit_atomics s l tag a op z ys rfl, remoteUpdate_of_ok _ ok clean] at run
      exact ⟨_, run, fun j => readByte_engineStore_other, readMem_engineStore ..⟩
    · rw [run, hk, has, consumeFlit_write l hn, remoteWrite_of_error v bad]
  · obtain ⟨t, run, dead, ctxs, status⟩ := peerDeclare_declares hs
    refine ⟨t, run, ?_, fun q hq => ?_, ctxs, status⟩
    · rw [dead, SMap.get_set_self]
    · rw [dead, SMap.get_set_ne (Ne.symm hq)]
  · obtain ⟨keeps, dropped⟩ := repair_keeps s
    exact ⟨_, peerDeclare_repairs hs, keeps.dead, keeps.ctxs, fun w hw he => ofDead_coherence (dropped w hw) he⟩
  · obtain ⟨t, run, dead, mem, fresh, status⟩ := peerAdmit_admits rfl idle done
    refine ⟨t, run, ?_, mem, fresh, fun q hq => ?_, status⟩
    · rw [dead, SMap.get_set_self]
    · rw [dead, SMap.get_set_ne (Ne.symm hq)]

end Sys2Proof.Machine
end


section
/-! PROOFS. Proofs/Loads.lean: the places that the checks of an access answer, and loads from their issue to being in flight (R83, R100,
R299, R304, R461). -/
namespace Sys2Proof.Machine

/-! ### Bytes within bytes -/

theorem readMem_add (m : List Host.Cell) (i n : Nat) : ∀ k, readMem m k (i + n) = readMem m k i + 256 ^ i * readMem m (k + i) n := by
  induction i with
  | zero => intro k; simp [readMem]
  | succ i ih =>
    intro k
    rw [Nat.succ_add, readMem, readMem, ih, Nat.pow_succ, show k + 1 + i = k + (i + 1) by omega]
    ring

/-- The n bytes at an offset of a line, of the line's data. -/
theorem dataBytes_readMem {m : List Host.Cell} {k o n z : Nat} (h : o + n ≤ z) :
    dataBytes (readMem m k z) o n = readMem m (k + o) n := by
  obtain ⟨r, rfl⟩ := Nat.exists_eq_add_of_le h
  have pow (i : Nat) : 2 ^ (8 * i) = 256 ^ i := by rw [Nat.pow_mul]
  rw [dataBytes, pow, pow, Nat.add_assoc, readMem_add, Nat.add_mul_div_left _ _ (Nat.pow_pos (by decide)),
    Nat.div_eq_of_lt (readMem_lt m k o), Nat.zero_add, readMem_add, Nat.add_mul_mod_self_left,
    Nat.mod_eq_of_lt (readMem_lt ..)]

/-! ### The places of an access whose checks pass -/

/-- The space of a place is that of its address, as far as it is control space; a place of another space has its key outside control
space, and one in tensor space its own offset's. -/
structure Place.Fits (p : Place) (a : Nat) : Prop where
  control : p.space = 1 → addrSpace a = 1
  apart : p.space ≠ 1 → 0x2000000000000000 ≤ p.key
  tensor : p.space = 2 → p.key = tensorKey p.off

theorem placeOf_fits {s u : State} {c : Nat} {x : Ctx} {act : List Nat} {q : Req} {l a : Nat} {r : Nat × Nat} {p : Place}
    (early : earlyCheck s c x act q l a = .ok r) (h : placeOf s x q l a r = (.ok p, u)) : p.Fits a := by
  unfold placeOf at h
  split at h
  · cases h
    exact ⟨nofun, fun _ => (by unfold scratchKey; omega : _ ≤ scratchKey r.1 r.2), nofun⟩
  · cases h
    exact ⟨nofun, fun _ => (by unfold commonsKey; omega : _ ≤ commonsKey x.die r.2), nofun⟩
  · rename_i not3 not4
    dsimp only at h
    split at h
    · cases m : (‹Miss› : Miss) <;> simp [missFault, m] at h
    · split at h
      · simp [missFault] at h
      · split at h
        · cases h
          exact ⟨nofun, fun _ => Nat.le_add_right .., fun _ => rfl⟩
        · rename_i not2
          have control : addrSpace a = 1 := by
            have space := earlyCheck_space early
            simp only [beq_iff_eq] at not2
            exact space.resolve_right (not_or.2 ⟨not2, not_or.2 ⟨not3, not4⟩⟩)
          split at h
          · cases h
          · simp [missFault] at h
          · cases h
            exact ⟨fun _ => control, fun h => absurd rfl h, nofun⟩

theorem laneCheck_fits {s u : State} {b : Bundle} {x : Ctx} {act : List Nat} {q : Req} {l a : Nat} {p : Place}
    (h : laneCheck s b x act q l a = (.ok p, u)) : p.Fits a := by
  unfold laneCheck at h
  split at h
  · cases h
  · rename_i r early
    split at h
    · cases h
    · cases h
    · rename_i p' u' place
      suffices e : p' = p from e ▸ placeOf_fits early place
      split at h
      · cases h
      · split at h
        · cases h
        · generalize (if q.sync.isSome = true then u'.loseRecord p' l else u') = w at h
          dsimp only at h
          split at h
          · cases h
          · split at h
            · cases h
            · cases h; rfl

/-- The checks of all lanes answer each lane in its turn, with a place that fits its address or with none. -/
theorem planFrom_places {b : Bundle} {x : Ctx} {v : Wave} {act : List Nat} {q : Req} (as : List (Nat × Nat)) :
    ∀ {ps qs : List (Nat × Nat × Option Place)} {s u : State}, planFrom b x v act q as ps s = .go qs u →
      ∃ rs, qs = ps.reverse ++ rs ∧ rs.map (·.1) = as.map (·.1) ∧
        ∀ k j p, (k, j, some p) ∈ rs → ∃ e ∈ as, p.Fits e.2 := by
  induction as with
  | nil =>
    intro ps qs s u h
    rw [planFrom] at h
    cases h
    exact ⟨[], by simp⟩
  | cons e as ih =>
    obtain ⟨l, a⟩ := e
    intro ps qs s u h
    rw [planFrom] at h
    have more {o : Option Place} {w : State} (fits : ∀ p, o = some p → p.Fits a)
        (h : planFrom b x v act q as ((l, a, o) :: ps) w = .go qs u) : ∃ rs, qs = ps.reverse ++ rs ∧
        rs.map (·.1) = ((l, a) :: as).map (·.1) ∧ ∀ k j p, (k, j, some p) ∈ rs → ∃ e ∈ (l, a) :: as, p.Fits e.2 := by
      obtain ⟨rs, list, keys, places⟩ := ih h
      refine ⟨(l, a, o) :: rs, by rw [list]; simp, by simp [keys], fun k j p hp => ?_⟩
      rcases List.mem_cons.1 hp with same | hp
      · injection same with _ same
        injection same with _ same
        exact ⟨(l, a), List.mem_cons_self .., fits p same.symm⟩
      · obtain ⟨e, he, fit⟩ := places k j p hp
        exact ⟨e, List.mem_cons_of_mem _ he, fit⟩
    split at h
    · cases h
    · split at h
      · exact more (o := none) nofun h
      · cases h
    · rename_i p w check
      split at h
      · cases h
      · refine more (fun p' hp => ?_) h
        cases hp
        exact laneCheck_fits check

section
variable {s u : State} {b : Bundle} {x : Ctx} {v : Wave} {act : List Nat} {q : Req} {as : List (Nat × Nat)}
  {ps : List (Nat × Nat × Option Place)} (h : plan s b x v act q as = .go ps u)
include h

theorem plan_lanes : ps.map (·.1) = as.map (·.1) := by
  obtain ⟨rs, rfl, keys, -⟩ := planFrom_places as h
  exact keys

theorem plan_fits {k j : Nat} {p : Place} (hp : (k, j, some p) ∈ ps) : ∃ e ∈ as, p.Fits e.2 := by
  obtain ⟨rs, rfl, -, places⟩ := planFrom_places as h
  exact places k j p hp

end

/-! ### What the lanes of a load read -/

/-- The machine but for what the checks of an access, and its reads, may change. -/
def State.unread (s : State) : State := { s.outer with l1 := [] }

theorem ops_of_unread {s t : State} (h : t.unread = s.unread) : t.ops = s.ops := (congrArg State.ops h :)

theorem unread_loadPlace (s : State) (x : Ctx) (p : Place) (n l : Nat) (acq : Bool) :
    (s.loadPlace x p n l acq).2.unread = s.unread := by
  unfold State.loadPlace
  split
  · exact congrArg (fun t : State => { t with l1 := [] }) (outer_ctlRead ..)
  · unfold State.tensorLoad
    dsimp only
    repeat' split
    all_goals rfl
  · rfl

theorem mem_loadPlace {p : Place} (h : p.space ≠ 1) (s : State) (x : Ctx) (n l : Nat) (acq : Bool) :
    (s.loadPlace x p n l acq).2.mem = s.mem := by
  unfold State.loadPlace
  split
  · exact absurd ‹_› h
  · exact mem_tensorLoad ..
  · rfl

/-- An acquire of tensor memory reads the bytes at the home, when they lie in one line. -/
theorem tensorLoad_acquire (s : State) (core l : Nat) {pa n : Nat} (h : pa % 128 + n ≤ 128) :
    (s.tensorLoad core pa n l true).1 = readMem s.mem (tensorKey pa) n := by
  have line : dataBytes (readMem s.mem (tensorKey (pa / 128 * 128)) 128) (pa % 128) n = readMem s.mem (tensorKey pa) n := by
    rw [dataBytes_readMem h, show tensorKey (pa / 128 * 128) + pa % 128 = tensorKey pa by unfold tensorKey; omega]
  unfold State.tensorLoad
  dsimp only
  split
  · exact line
  · exact line

/-- What a lane reads outside control space, but for a tensor line that the L1 may hold. -/
theorem loadPlace_reads {p : Place} {a : Nat} (fits : p.Fits a) (ha : addrSpace a ≠ 1) (s : State) (x : Ctx) {n l : Nat} {acq : Bool}
    (h : p.space ≠ 2 ∨ (acq = true ∧ p.key % 128 + n ≤ 128)) : (s.loadPlace x p n l acq).1 = readMem s.mem p.key n := by
  unfold State.loadPlace
  split
  · exact absurd (fits.control ‹_›) ha
  · rename_i tensor
    obtain ⟨rfl, line⟩ := h.resolve_left (· tensor)
    have key := fits.tensor tensor
    rw [key] at line ⊢
    exact tensorLoad_acquire s x.place l (by unfold tensorKey at line; omega)
  · rfl

/-- The place lies in a window of the own block that a copy has yet to write. -/
def Place.Waits (s : State) (b : Bundle) (n : Nat) (p : Place) : Prop :=
  p.space = 3 ∧ p.ctx = b.ctx ∧ s.unwritten b.ctx p.off n = true

theorem Place.waits_congr {s t : State} (h : t.ops = s.ops) {b : Bundle} {n : Nat} {p : Place} :
    p.Waits t b n ↔ p.Waits s b n := by
  simp only [Place.Waits, State.unwritten, h]

section
variable (b : Bundle) (x : Ctx) (n : Nat) (acq : Bool) (ps : List (Nat × Nat × Option Place)) (s : State) (vals waits : List (Nat × Nat))

theorem unread_readLanes : (readLanes b x n acq ps s vals waits).2.2.unread = s.unread := by
  fun_induction readLanes b x n acq ps s vals waits with
  | case1 => rfl
  | case2 _ _ _ _ _ _ ih => exact ih
  | case3 _ _ _ _ _ _ _ _ ih => exact ih
  | case4 l j p ps s vals waits now y t read ih => exact ih.trans (by simpa [read] using unread_loadPlace s x p n l acq)

variable {b x n acq ps}

/-- Reads outside control space leave memory alone. -/
theorem mem_readLanes (h : ∀ k j p, (k, j, some p) ∈ ps → p.space ≠ 1) : (readLanes b x n acq ps s vals waits).2.2.mem = s.mem := by
  fun_induction readLanes b x n acq ps s vals waits with
  | case1 => rfl
  | case2 _ _ _ _ _ _ ih => exact ih fun k j p hp => h k j p (List.mem_cons_of_mem _ hp)
  | case3 _ _ _ _ _ _ _ _ ih => exact ih fun k j p hp => h k j p (List.mem_cons_of_mem _ hp)
  | case4 l j p ps s vals waits now y t read ih =>
    have one := mem_loadPlace (h l j p (List.mem_cons_self ..)) s x n l acq
    rw [read] at one
    exact (ih fun k j p hp => h k j p (List.mem_cons_of_mem _ hp)).trans one

/-- A lane that waits, waits for a place of the list in such a window. -/
theorem mem_waits_readLanes {e : Nat × Nat} (he : e ∈ (readLanes b x n acq ps s vals waits).2.1) :
    e ∈ waits ∨ ∃ k j p, (k, j, some p) ∈ ps ∧ p.Waits s b n := by
  fun_induction readLanes b x n acq ps s vals waits with
  | case1 => exact .inl he
  | case2 l j ps s vals waits ih =>
    exact (ih he).imp_right fun ⟨k, j, p, hp, h⟩ => ⟨k, j, p, List.mem_cons_of_mem _ hp, h⟩
  | case3 l j p ps s vals waits late ih => exact .inr ⟨l, j, p, List.mem_cons_self .., late⟩
  | case4 l j p ps s vals waits now y t read ih =>
    have keeps := unread_loadPlace s x p n l acq
    rw [read] at keeps
    exact (ih he).imp_right fun ⟨k, j, p, hp, h⟩ => ⟨k, j, p, List.mem_cons_of_mem _ hp, (Place.waits_congr (ops_of_unread keeps)).1 h⟩

/-- Where no place lies in such a window no lane waits. -/
theorem waits_readLanes_of_none (h : ∀ k j p, (k, j, some p) ∈ ps → ¬ p.Waits s b n) :
    (readLanes b x n acq ps s vals []).2.1 = [] := by
  refine List.eq_nil_iff_forall_not_mem.2 fun e he => ?_
  rcases mem_waits_readLanes s vals [] he with he | ⟨k, j, p, hp, waits⟩
  · cases he
  · exact h k j p hp waits

/-- A lane that is not in the list keeps what it has read and what it waits for. -/
theorem readLanes_other {k : Nat} (h : k ∉ ps.map (·.1)) :
    SMap.find? (readLanes b x n acq ps s vals waits).1 k = SMap.find? vals k ∧
      SMap.find? (readLanes b x n acq ps s vals waits).2.1 k = SMap.find? waits k := by
  fun_induction readLanes b x n acq ps s vals waits with
  | case1 => exact ⟨rfl, rfl⟩
  | case2 l j ps s vals waits ih =>
    obtain ⟨first, rest⟩ := not_or.1 (mt List.mem_cons.2 h)
    obtain ⟨value, wait⟩ := ih rest
    exact ⟨value.trans (SMap.find?_insert_ne (Ne.symm first)), wait⟩
  | case3 l j p ps s vals waits late ih =>
    obtain ⟨first, rest⟩ := not_or.1 (mt List.mem_cons.2 h)
    obtain ⟨value, wait⟩ := ih rest
    exact ⟨value, wait.trans (SMap.find?_insert_ne (Ne.symm first))⟩
  | case4 l j p ps s vals waits now y t read ih =>
    obtain ⟨first, rest⟩ := not_or.1 (mt List.mem_cons.2 h)
    obtain ⟨value, wait⟩ := ih rest
    exact ⟨value.trans (SMap.find?_insert_ne (Ne.symm first)), wait⟩

/-- Each lane of a list without repetition waits, or has what is read at its place. -/
theorem readLanes_lane (once : (ps.map (·.1)).Nodup) {k j : Nat} {p : Place} (hp : (k, j, some p) ∈ ps) :
    (p.Waits s b n → SMap.find? (readLanes b x n acq ps s vals waits).2.1 k = some p.off) ∧
    (¬ p.Waits s b n → (∀ k j p, (k, j, some p) ∈ ps → p.space ≠ 1) → ∀ {a}, p.Fits a → addrSpace a ≠ 1 →
      p.space ≠ 2 ∨ (acq = true ∧ p.key % 128 + n ≤ 128) →
      SMap.find? (readLanes b x n acq ps s vals waits).1 k = some (readMem s.mem p.key n)) := by
  fun_induction readLanes b x n acq ps s vals waits with
  | case1 => cases hp
  | case2 l i ps s vals waits ih =>
    rcases List.mem_cons.1 hp with same | hp
    · cases same
    · obtain ⟨wait, value⟩ := ih (List.nodup_cons.1 once).2 hp
      exact ⟨wait, fun h near => value h fun k j p hp => near k j p (List.mem_cons_of_mem _ hp)⟩
  | case3 l i q ps s vals waits late ih =>
    rcases List.mem_cons.1 hp with same | hp
    · cases same
      obtain ⟨-, wait⟩ := readLanes_other (b := b) (x := x) (n := n) (acq := acq) s vals (SMap.insert waits k p.off)
        (List.nodup_cons.1 once).1
      exact ⟨fun _ => wait.trans (SMap.find?_insert_self ..), fun h => absurd late h⟩
    · obtain ⟨wait, value⟩ := ih (List.nodup_cons.1 once).2 hp
      exact ⟨wait, fun h near => value h fun k j p hp => near k j p (List.mem_cons_of_mem _ hp)⟩
  | case4 l i q ps s vals waits now y t read ih =>
    have keeps := unread_loadPlace s x q n l acq
    rw [read] at keeps
    rcases List.mem_cons.1 hp with same | hp
    · cases same
      obtain ⟨value, -⟩ := readLanes_other (b := b) (x := x) (n := n) (acq := acq) t (SMap.insert vals k y) waits
        (List.nodup_cons.1 once).1
      refine ⟨fun h => absurd h now, fun _ _ a fits ha h => value.trans ((SMap.find?_insert_self ..).trans ?_)⟩
      have reads := loadPlace_reads fits ha s x (n := n) (l := k) h
      rw [read] at reads
      exact congrArg some reads
    · obtain ⟨wait, value⟩ := ih (List.nodup_cons.1 once).2 hp
      refine ⟨fun h => wait ((Place.waits_congr (ops_of_unread keeps)).2 h), fun h near a fits ha reads => ?_⟩
      have one := mem_loadPlace (near l i q (List.mem_cons_self ..)) s x n l acq
      rw [read] at one
      rw [value (mt (Place.waits_congr (ops_of_unread keeps)).1 h) (fun k j p hp => near k j p (List.mem_cons_of_mem _ hp)) fits ha reads, one]

end

/-! ### An access that goes in flight -/

/-- What the end of an access at these keys waits for: 0 and the lines of a home with a mirror (R461). -/
def State.mirrors (s : State) (ks : List Nat) : List Nat := if s.mirroredLines ks = [] then [] else 0 :: s.mirroredLines ks

theorem mirroredLines_congr {s t : State} (h : t.hub = s.hub) (ks : List Nat) : t.mirroredLines ks = s.mirroredLines ks := by
  simp only [State.mirroredLines, hubGet_congr h]

/-- Keys outside control space name no line of a home. -/
theorem mirroredLines_of_apart {s : State} {ks : List Nat} (h : ∀ k ∈ ks, 0x2000000000000000 ≤ k) : s.mirroredLines ks = [] := by
  refine (congrArg List.eraseDups (List.filterMap_eq_nil_iff.2 fun k hk => if_neg fun control => ?_)).trans rfl
  have far := h k hk
  omega

theorem mirrors_of_apart {s : State} {ks : List Nat} (h : ∀ k ∈ ks, 0x2000000000000000 ≤ k) : s.mirrors ks = [] :=
  if_pos (mirroredLines_of_apart h)

theorem postEnd_eq (s : State) (e : Instr) (id : Nat) (ks : List Nat) : s.postEnd e id ks = s.post e (id :: s.mirrors ks) := by
  rw [State.postEnd, State.mirrors]
  cases s.mirroredLines ks <;> rfl

/-- An access put in flight under a number, once its end is posted or not and a watch has looked at it. -/
theorem launchAt_stands {u t : State} {id : Nat} {b : Bundle} {lanes : List Nat} {k : OpKind} (posted : Posted (u.launchAt id b lanes k) t)
    (v : Wave) (kinds n : Nat) (as : List (Nat × Nat)) : let r := watchStop (t.takeFree).2 b v kinds n as
    r.mem = u.mem ∧ r.hub = u.hub ∧ r.op? id = some ⟨b.ctx, b.wave, lanes, k⟩ ∧
      (∀ c j, (r.wave? c j).map Wave.still = (u.wave? c j).map Wave.still) ∧ ∀ e ∈ t.agenda, e ∈ r.agenda := by
  intro r
  have still := stilled_watchStop (t.takeFree).2 b v kinds n as
  have mem : t.mem = u.mem := (congrArg State.mem posted.outside :)
  have ops : t.ops = (u.launchAt id b lanes k).ops := (congrArg State.ops posted.outside :)
  refine ⟨still.mem.trans mem, still.hub.trans posted.hub, ?_, fun c j => (still.waves c j).trans ?_, fun e he => ?_⟩
  · have held : r.ops = (u.launchAt id b lanes k).ops := still.ops.trans ops
    rw [State.op?, held]
    exact SMap.find?_insert_self ..
  · exact congrArg _ (wave?_of_ctxs posted.ctxs c j)
  · obtain ⟨es, app⟩ := still.agenda
    rw [app]
    exact List.mem_append_left _ he

/-! ### Loads at issue (R83, R100, R304) -/

/-- The acquire side of a load on core k, if it is an acquire (R105). -/
def State.acquireIf (s : State) (k : Nat) : Option Nat → State
  | some sc => s.acquire k sc
  | none => s

theorem acquireIf_keeps (s : State) (k : Nat) (acq : Option Nat) :
    (s.acquireIf k acq).unread = s.unread ∧ (s.acquireIf k acq).mem = s.mem := by
  cases acq with
  | none => exact ⟨rfl, rfl⟩
  | some sc =>
    refine ⟨?_, mem_acquire ..⟩
    rw [State.acquireIf, State.acquire]
    split <;> rfl

section
variable {i : Instr} {s u : State} {b : Bundle} {x : Ctx} {v : Wave} {act : List Nat} {d a w : Nat} {ext own : Bool} {acq : Option Nat}
  {ps : List (Nat × Nat × Option Place)} {vals waits : List (Nat × Nat)} {u' : State}

/-- A load whose lanes' addresses pass every check, which starts no copy and may wait where it must, goes in flight with what its lanes
have read. -/
theorem load_launched (h : Passes i s b x v act) (untouched : ∀ o, x.touched o (2 ^ w) = [])
    (go : plan (pass i b act s) b x v act ⟨.ldst, 2 ^ w, permR, true, acq, none⟩ (act.map fun k => (k, laneAddr v own a k)) = .go ps u)
    (reads : readLanes b x (2 ^ w) acq.isSome ps u [] [] = (vals, waits, u'))
    (ready : waits ≠ [] → acq = none ∧ ∀ m, SMap.get 0 s.poison m = 0) :
    ∃ t, load i s d a w ext own acq = .next t ∧ t.mem = u'.mem ∧ t.hub = s.hub ∧
      (∀ c k, (t.wave? c k).map Wave.still = ((pass i b act s).wave? c k).map Wave.still) ∧
      t.op? s.nextId = some ⟨b.ctx, b.wave, act, .load d (2 ^ w) ext vals waits (lateReads (s.freeBit 0) ps waits)
        (if s.freeBit 0 then acq else none)⟩ ∧
      (waits = [] → (.loadDataReturn, s.nextId :: s.mirrors (ps.filterMap fun e => e.2.2.map fun p => p.key)) ∈ t.agenda) := by
  have waiting : ¬ (waits.any fun e => acq.isSome || poisoned (pass i b act s) (scratchKey b.ctx e.2) (2 ^ w)) = true := by
    rw [List.any_eq_true]
    rintro ⟨e, he, bad⟩
    obtain ⟨rfl, clean⟩ := ready (List.ne_nil_of_mem he)
    simp [poisoned, clean] at bad
  have noCopy : ¬ (!([] : List Nat).isEmpty && (pass i b act s).waveStores b.ctx b.wave) = true := Bool.false_ne_true
  have keeps : u'.unread = (pass i b act s).unread := by
    have lanes := unread_readLanes b x (2 ^ w) acq.isSome ps u [] []
    rw [reads] at lanes
    exact lanes.trans (congrArg (fun t : State => { t with l1 := [] }) (plan_go go).1)
  let placed := ps.filterMap fun e => e.2.2
  let acquired := u'.acquireIf x.place acq
  obtain ⟨acqKeeps, acqMem⟩ := acquireIf_keeps u' x.place acq
  let launched := (pinIf b placed acquired).launchAt s.nextId b act
    (.load d (2 ^ w) ext vals waits (lateReads (s.freeBit 0) ps waits) (if s.freeBit 0 then acq else none))
  let ended := if waits.isEmpty then launched.postEnd .loadDataReturn s.nextId (placed.map fun p => p.key) else launched
  have run : load i s d a w ext own acq = .next (watchStop (ended.takeFree).2 b v 1 (2 ^ w) (act.map fun k => (k, laneAddr v own a k))) := by
    unfold load
    rw [issue_go h, h.ctx, h.wave']
    dsimp only
    rw [if_neg (by simpa using h.active), go]
    dsimp only
    rw [touches_of_none untouched, if_neg noCopy, startTouched]
    dsimp only
    rw [reads]
    dsimp only
    rw [if_neg waiting, thisId_pass]
    cases acq <;> rfl
  have posted : Posted launched ended := posted_ite (by rw [postEnd_eq]; exact Posted.post ..) (Posted.refl _)
  obtain ⟨mem, hub, op, waves, agenda⟩ := launchAt_stands posted v 1 (2 ^ w) (act.map fun k => (k, laneAddr v own a k))
  have hubs : acquired.hub = s.hub := .trans (congrArg State.hub (acqKeeps.trans keeps) :) (hub_pass i b act s)
  have ctxs : acquired.ctxs = (pass i b act s).ctxs := (congrArg State.ctxs (acqKeeps.trans keeps) :)
  refine ⟨_, run, ?_, ?_, fun c k => ?_, op, fun done => agenda _ ?_⟩
  · rw [mem, mem_pinIf, acqMem]
  · rw [hub, hub_pinIf, hubs]
  · rw [waves, (pinIf_keeps b placed acquired).2, wave?_of_ctxs ctxs]
  · have keys : placed.map (fun p => p.key) = ps.filterMap fun e => e.2.2.map fun p => p.key := List.map_filterMap ..
    have same : launched.hub = s.hub := (hub_pinIf ..).trans hubs
    simp only [ended, done, List.isEmpty_nil, if_true, postEnd_eq, keys, State.mirrors, mirroredLines_congr same]
    exact mem_agenda_post ..

/-- A load whose lanes' addresses pass every check: what it has read, what waits, what it reads again, and what it leaves alone. -/
theorem load_goes (he : ∀ s, exec i s = load i s d a w ext own acq) (h : Passes i s b x v act) (untouched : ∀ o, x.touched o (2 ^ w) = [])
    (go : plan (pass i b act s) b x v act ⟨.ldst, 2 ^ w, permR, true, acq, none⟩ (act.map fun k => (k, laneAddr v own a k)) = .go ps u)
    (ready : ∀ k j p, (k, j, some p) ∈ ps → p.Waits s b (2 ^ w) → acq = none ∧ ∀ m, SMap.get 0 s.poison m = 0) :
    ∃ t vals waiting todo later, exec i s = .next t ∧
      (t.hub = s.hub ∧ ∀ c k, (t.wave? c k).map Wave.still = ((pass i b act s).wave? c k).map Wave.still) ∧
      t.op? s.nextId = some ⟨b.ctx, b.wave, act, .load d (2 ^ w) ext vals waiting todo later⟩ ∧
      ((todo = [] ∧ later = none) ∨ (later = acq ∧
        todo = ps.filterMap fun e => if (SMap.find? waiting e.1).isSome then none else e.2.2.map fun p => (e.1, p.key))) ∧
      ((∀ k j p, (k, j, some p) ∈ ps → ¬ p.Waits s b (2 ^ w)) → waiting = [] ∧
        (.loadDataReturn, s.nextId :: s.mirrors (ps.filterMap fun e => e.2.2.map fun p => p.key)) ∈ t.agenda) ∧
      (act.Nodup → ∀ k j p, (k, j, some p) ∈ ps → p.Waits s b (2 ^ w) → SMap.find? waiting k = some p.off) ∧
      ((∀ e ∈ act.map fun k => (k, laneAddr v own a k), addrSpace e.2 ≠ 1) → t.mem = u.mem ∧
        (act.Nodup → ∀ k j p, (k, j, some p) ∈ ps → ¬ p.Waits s b (2 ^ w) →
          p.space ≠ 2 ∨ (acq ≠ none ∧ p.key % 128 + 2 ^ w ≤ 128) → SMap.find? vals k = some (readMem u.mem p.key (2 ^ w)))) := by
  have same (p : Place) : p.Waits u b (2 ^ w) ↔ p.Waits s b (2 ^ w) :=
    Place.waits_congr ((ops_of_outer (plan_go go).1).trans (ops_pass ..))
  have lanes : ps.map (·.1) = act := by rw [plan_lanes go, List.map_map]; exact List.map_id _
  rcases reads : readLanes b x (2 ^ w) acq.isSome ps u [] [] with ⟨vals, waits, u'⟩
  have ready' (waiting : waits ≠ []) : acq = none ∧ ∀ m, SMap.get 0 s.poison m = 0 := by
    obtain ⟨e, he⟩ := List.exists_mem_of_ne_nil _ waiting
    rcases mem_waits_readLanes (b := b) (x := x) (n := 2 ^ w) (acq := acq.isSome) (ps := ps) u [] [] (by rw [reads]; exact he)
      with he | ⟨k, j, p, hp, late⟩
    · cases he
    · exact ready k j p hp ((same p).1 late)
  obtain ⟨t, run, mem, hub, waves, op, agenda⟩ := load_launched (d := d) (ext := ext) h untouched go reads ready'
  refine ⟨t, vals, waits, _, _, (he s).trans run, ⟨hub, waves⟩, op, ?_, fun ready => ?_, fun once k j p hp late => ?_, fun apart => ?_⟩
  · cases s.freeBit 0 with
    | false => exact .inl ⟨rfl, rfl⟩
    | true => exact .inr ⟨rfl, rfl⟩
  · have idle := waits_readLanes_of_none (x := x) (acq := acq.isSome) u [] fun k j p hp late => ready k j p hp ((same p).1 late)
    rw [reads] at idle
    exact ⟨idle, agenda idle⟩
  · have lane := (readLanes_lane (x := x) (acq := acq.isSome) u [] [] (lanes ▸ once) hp).1 ((same p).2 late)
    rwa [reads] at lane
  · have space (k j : Nat) (p : Place) (hp : (k, j, some p) ∈ ps) : p.space ≠ 1 := by
      obtain ⟨e, he, fits⟩ := plan_fits go hp
      exact fun control => apart e he (fits.control control)
    have kept := mem_readLanes (b := b) (x := x) (n := 2 ^ w) (acq := acq.isSome) u [] [] space
    rw [reads] at kept
    refine ⟨mem.trans kept, fun once k j p hp now near => ?_⟩
    obtain ⟨e, he, fits⟩ := plan_fits go hp
    have lane := (readLanes_lane (x := x) (acq := acq.isSome) u [] [] (lanes ▸ once) hp).2 (mt (same p).1 now) space fits (apart e he)
      (near.imp_right fun h => ⟨Option.isSome_iff_ne_none.2 h.1, h.2⟩)
    rwa [reads] at lane

theorem addrSpace_of_plain {n j k : Nat} (h : Plain s b x n j k) : addrSpace j ≠ 1 := by
  obtain ⟨-, -, ⟨space, -⟩ | ⟨space, -⟩⟩ := h <;> (rw [space]; decide)

/-- The places of lanes in the own scratchpad and the own commons window. -/
def nearPlaces (s : State) (b : Bundle) (x : Ctx) (f : Nat → Nat) (ks : List (Nat × Nat)) : List (Nat × Nat × Option Place) :=
  ks.map fun p => (p.1, f p.1, some (nearPlace s b x (f p.1) p.2))

theorem mem_nearPlaces {f : Nat → Nat} {ks : List (Nat × Nat)} {k j : Nat} {p : Place} :
    (k, j, some p) ∈ nearPlaces s b x f ks ↔ ∃ e ∈ ks, k = e.1 ∧ j = f e.1 ∧ p = nearPlace s b x (f e.1) e.2 := by
  simp [nearPlaces, Prod.ext_iff, eq_comm]

/-- What is made of each place's key, is made of the keys given. -/
theorem filterMap_nearPlaces {α : Type} (f : Nat → Nat) (ks : List (Nat × Nat)) (g : Nat → Nat → α) :
    ((nearPlaces s b x f ks).filterMap fun e => e.2.2.map fun p => g e.1 p.key) = ks.map fun p => g p.1 p.2 := by
  rw [nearPlaces, List.filterMap_map, ← List.filterMap_eq_map]
  refine List.filterMap_congr fun p _ => ?_
  simp

/-- A load in the own scratchpad and the own commons window, which nothing holds back. -/
theorem load_of_plain (he : ∀ s, exec i s = load i s d a w ext own acq) (h : Passes i s b x v act) (quiet : Quiet s b x (2 ^ w))
    {ks : List (Nat × Nat)} (lanes : ks.map (·.1) = act) (once : act.Nodup)
    (plain : ∀ p ∈ ks, Plain s b x (2 ^ w) (laneAddr v own a p.1) p.2)
    (fresh : acq ≠ none → ∀ p ∈ ks, p.2 < 0x4000000000000000 ∨ SMap.find? s.recs (p.2 / 128) = none) :
    ∃ t vals todo later, exec i s = .next t ∧
      (t.hub = s.hub ∧ ∀ c k, (t.wave? c k).map Wave.still = ((pass i b act s).wave? c k).map Wave.still) ∧ t.mem = s.mem ∧
      t.op? s.nextId = some ⟨b.ctx, b.wave, act, .load d (2 ^ w) ext vals [] todo later⟩ ∧
      ((todo = [] ∧ later = none) ∨ (todo = ks ∧ later = acq)) ∧ (.loadDataReturn, [s.nextId]) ∈ t.agenda ∧
      ∀ p ∈ ks, SMap.find? vals p.1 = some (readMem s.mem p.2 (2 ^ w)) := by
  have named : (act.map fun k => (k, laneAddr v own a k)) = ks.map fun p => (p.1, laneAddr v own a p.1) := by
    rw [← lanes, List.map_map]
    rfl
  have go := plan_of_plain (q := ⟨.ldst, 2 ^ w, permR, true, acq, none⟩) h quiet rfl rfl (Nat.two_pow_pos w) (laneAddr v own a) ks plain fresh
  rw [← named] at go
  change _ = Plan.go (nearPlaces s b x (laneAddr v own a) ks) _ at go
  have ready (k j : Nat) (p : Place) (_ : (k, j, some p) ∈ nearPlaces s b x (laneAddr v own a) ks) : ¬ p.Waits s b (2 ^ w) := by
    rintro ⟨-, -, late⟩
    rw [(quiet.1 p.off).2] at late
    exact Bool.false_ne_true late
  obtain ⟨t, vals, waiting, todo, later, run, left, op, todos, agenda, -, reads⟩ :=
    load_goes (d := d) (ext := ext) he h (fun o => (quiet.1 o).1) go fun k j p hp late => absurd late (ready k j p hp)
  obtain ⟨rfl, posted⟩ := agenda ready
  have apart : ∀ e ∈ act.map fun k => (k, laneAddr v own a k), addrSpace e.2 ≠ 1 := by
    rw [named]
    intro e he
    obtain ⟨p, hp, rfl⟩ := List.mem_map.1 he
    exact addrSpace_of_plain (plain p hp)
  obtain ⟨mem, vals_eq⟩ := reads apart
  refine ⟨t, vals, todo, later, run, left, mem.trans (mem_pass ..), op, ?_, ?_, fun p hp => ?_⟩
  · refine todos.imp_right fun ⟨same, all⟩ => ⟨all.trans ?_, same⟩
    exact (filterMap_nearPlaces _ ks fun k j => (k, j)).trans (List.map_id _)
  · have keys := filterMap_nearPlaces (s := s) (b := b) (x := x) (laneAddr v own a) ks fun _ j => j
    rw [keys, mirrors_of_apart fun k hk => ?_] at posted
    · exact posted
    · obtain ⟨p, hp, rfl⟩ := List.mem_map.1 hk
      have := key_of_plain (plain p hp)
      omega
  · have lane := vals_eq once p.1 _ _ (mem_nearPlaces.2 ⟨p, hp, rfl, rfl, rfl⟩) (ready _ _ _ (mem_nearPlaces.2 ⟨p, hp, rfl, rfl, rfl⟩))
      (.inl (by rcases space_nearPlace (plain p hp) with h | ⟨h, -⟩ <;> (rw [h]; decide)))
    rwa [key_nearPlace, mem_pass] at lane

end

end Sys2Proof.Machine
end


section
/-! PROOFS. Proofs/Stores.lean: stores from their issue to their acknowledgement, and loads and stores settled (R100, R124, R304,
R305). -/
namespace Sys2Proof.Machine

/-! ### What a store at a place changes -/

/-- The machine but for what a write of the stores of units may change: memory, poison, records, first-level lines and contexts. -/
def State.unstored (s : State) : State := { s with mem := [], poison := [], recs := [], l1 := [], ctxs := [] }

/-- The hub's registers and the waves are kept. -/
structure KeepsWaves (s t : State) : Prop where
  hub : t.hub = s.hub
  waves : ∀ c w, t.wave? c w = s.wave? c w

theorem KeepsWaves.refl (s : State) : KeepsWaves s s := ⟨rfl, fun _ _ => rfl⟩

theorem KeepsWaves.trans {s t u : State} (h : KeepsWaves s t) (h' : KeepsWaves t u) : KeepsWaves s u :=
  ⟨h'.hub.trans h.hub, fun c w => (h'.waves c w).trans (h.waves c w)⟩

theorem keepsWaves_of_ctxs {s t : State} (hub : t.hub = s.hub) (ctxs : t.ctxs = s.ctxs) : KeepsWaves s t :=
  ⟨hub, wave?_of_ctxs ctxs⟩

theorem keepsWaves_of_outer {s t : State} (h : t.outer = s.outer) : KeepsWaves s t :=
  keepsWaves_of_ctxs (hub_of_outer h) (ctxs_of_outer h)

theorem keepsWaves_clearPoison (s : State) (k n : Nat) : KeepsWaves s (clearPoison s k n) := by
  unfold clearPoison
  split <;> exact ⟨rfl, fun _ _ => rfl⟩

theorem updateL1_keeps (s : State) (core pa n v : Nat) :
    KeepsWaves s (s.updateL1 core pa n v) ∧ (s.updateL1 core pa n v).unstored = s.unstored := by
  unfold State.updateL1
  split <;> exact ⟨⟨rfl, fun _ _ => rfl⟩, rfl⟩

/-- A window that becomes dirty is one of the block's entries, none of its waves. -/
theorem markDirty_keeps (s : State) (c o n : Nat) : KeepsWaves s (s.markDirty c o n) ∧ (s.markDirty c o n).unstored = s.unstored := by
  unfold State.markDirty
  split
  · split
    · refine ⟨⟨rfl, fun k w => ?_⟩, rfl⟩
      simp only [State.wave?, ctx?_modCtx]
      by_cases h : c = k
      · rw [if_pos h]
        cases s.ctx? k <;> rfl
      · rw [if_neg h]
    · exact ⟨KeepsWaves.refl s, rfl⟩
  · exact ⟨KeepsWaves.refl s, rfl⟩

theorem unstored_setRecord (s : State) (p : Place) (r : Option Rec) : (s.setRecord p r).unstored = s.unstored := by
  unfold State.setRecord
  split
  · rfl
  · split <;> rfl

theorem put_keeps (s : State) (k n v : Nat) : KeepsWaves s (s.put k n v) ∧ (s.put k n v).unstored = s.unstored :=
  ⟨keepsWaves_of_ctxs (hub_put ..) (ctxs_put ..), (congrArg State.unstored (put_outside s k n v) :)⟩

theorem keepsWaves_storePlace (s : State) (x : Ctx) (p : Place) (n v : Nat) (r : Option Rec) :
    KeepsWaves s (s.storePlace x p n v r) := by
  have put := (put_keeps s p.key n v).1
  have record (t : State) : KeepsWaves t (t.setRecord p r) := keepsWaves_of_outer (outer_setRecord ..)
  unfold State.storePlace
  split
  · exact ((keepsWaves_of_outer (outer_ctlWrite ..)).trans (record _)).trans (keepsWaves_clearPoison ..)
  · exact (put.trans (record _)).trans (updateL1_keeps ..).1
  · exact put.trans (markDirty_keeps ..).1
  · exact put.trans (record _)

/-- A store outside control space writes its bytes. -/
theorem storePlace_apart {p : Place} (h : p.space ≠ 1) (s : State) (x : Ctx) (n v : Nat) (r : Option Rec) :
    (s.storePlace x p n v r).mem = writeMem s.mem p.key n v ∧ (s.storePlace x p n v r).unstored = s.unstored := by
  have put := (put_keeps s p.key n v).2
  unfold State.storePlace
  split
  · exact absurd ‹_› h
  · exact ⟨by simp, (updateL1_keeps ..).2.trans ((unstored_setRecord ..).trans put)⟩
  · exact ⟨by simp, (markDirty_keeps ..).2.trans put⟩
  · exact ⟨by simp, (unstored_setRecord ..).trans put⟩

/-! ### The stores of an access -/

theorem key_keyPlace (k : Nat) : (keyPlace k).key = k := by
  unfold keyPlace
  dsimp only
  split <;> rfl

theorem space_keyPlace (k : Nat) : (keyPlace k).space = k / 0x1000000000000000 := by
  unfold keyPlace
  dsimp only
  split
  · exact (‹_› : _ = 3).symm
  · rfl

theorem keepsWaves_performStores (c w : Nat) (x : Ctx) (n : Nat) (rel : Option Nat) (steps : List (Nat × Nat × Nat)) :
    ∀ s : State, KeepsWaves s (s.performStores c w x n rel steps) := by
  induction steps with
  | nil => exact KeepsWaves.refl
  | cons e steps ih =>
    intro s
    obtain ⟨l, k, v⟩ := e
    rw [State.performStores]
    refine KeepsWaves.trans ?_ (ih _)
    split
    · exact KeepsWaves.refl s
    · exact keepsWaves_storePlace ..

/-- Memory t is m with each step's n bytes written at its key, one after another. -/
def Written (n : Nat) (steps : List (Nat × Nat × Nat)) (m t : List Host.Cell) : Prop :=
  ∀ j, readByte t j = steps.foldl (fun y e => if e.2.1 ≤ j ∧ j < e.2.1 + n then
    BitVec.ofNat 8 (e.2.2 / 256 ^ (j - e.2.1)) else y) (readByte m j)

/-- Stores outside control space write their bytes, and change nothing outside the stores of units. -/
theorem performStores_apart {c w : Nat} {x : Ctx} {n : Nat} {rel : Option Nat} {steps : List (Nat × Nat × Nat)} :
    ∀ s : State, (∀ e ∈ steps, 0x2000000000000000 ≤ e.2.1) →
      Written n steps s.mem (s.performStores c w x n rel steps).mem ∧ (s.performStores c w x n rel steps).unstored = s.unstored := by
  induction steps with
  | nil => exact fun s _ => ⟨fun _ => rfl, rfl⟩
  | cons e steps ih =>
    intro s apart
    obtain ⟨l, k, v⟩ := e
    have far : 0x2000000000000000 ≤ k := apart (l, k, v) (List.mem_cons_self ..)
    have space : (keyPlace k).space ≠ 1 := by rw [space_keyPlace]; omega
    rw [State.performStores, decide_eq_false space, Bool.false_and, if_neg Bool.false_ne_true]
    obtain ⟨mem, outside⟩ := storePlace_apart space s x n v (rel.map fun sc => recOf s x c w l sc)
    rw [key_keyPlace] at mem
    obtain ⟨written, outside'⟩ := ih (s.storePlace x (keyPlace k) n v (rel.map fun sc => recOf s x c w l sc))
      fun e he => apart e (List.mem_cons_of_mem _ he)
    refine ⟨fun j => ?_, outside'.trans outside⟩
    rw [written, mem, readByte_writeMem, List.foldl_cons]

/-! ### Stores at issue (R100, R304) -/

section
variable {i : Instr} {s u : State} {b : Bundle} {x : Ctx} {v : Wave} {act : List Nat} {d a w : Nat} {own : Bool} {rel : Option Nat}
  {ps : List (Nat × Nat × Option Place)}

/-- A store of helper lanes alone changes nothing. -/
theorem store_of_helpers (h : Passes i s b x v act) (helpers : v.present act = []) : store i s d a w own rel = .next (pass i b act s) := by
  unfold store
  rw [issue_go h, h.ctx, h.wave']
  dsimp only
  rw [helpers]
  rfl

/-- The state in which the steps of a store are performed, those that it makes at once, as a free bit tells. -/
def State.storedNow (s u : State) (b : Bundle) (x : Ctx) (n : Nat) (rel : Option Nat) (ps : List (Nat × Nat × Option Place))
    (steps : List (Nat × Nat × Nat)) : State :=
  if s.freeBit 0 then pinIf b (ps.filterMap fun e => e.2.2) u
  else (pinIf b (ps.filterMap fun e => e.2.2) u).performStores b.ctx b.wave x n rel steps

theorem keepsWaves_storedNow (s u : State) (b : Bundle) (x : Ctx) (n : Nat) (rel : Option Nat) (ps : List (Nat × Nat × Option Place))
    (steps : List (Nat × Nat × Nat)) : KeepsWaves u (s.storedNow u b x n rel ps steps) := by
  have pinned : KeepsWaves u (pinIf b (ps.filterMap fun e => e.2.2) u) := ⟨hub_pinIf .., (pinIf_keeps ..).2⟩
  unfold State.storedNow
  split
  · exact pinned
  · exact pinned.trans (keepsWaves_performStores ..)

/-- A store whose lanes' addresses pass every check goes in flight, its bytes written or still to be written. -/
theorem store_launched (h : Passes i s b x v act) (present : v.present act ≠ [])
    (go : plan (pass i b act s) b x v act ⟨.ldst, 2 ^ w, permW, false, none, none⟩
      ((v.present act).map fun k => (k, laneAddr v own a k)) = .go ps u)
    {steps : List (Nat × Nat × Nat)} (hsteps : steps = storeSteps v d (2 ^ w) ps) :
    ∃ t, store i s d a w own rel = .next t ∧ t.mem = (s.storedNow u b x (2 ^ w) rel ps steps).mem ∧ t.hub = s.hub ∧
      (∀ c k, (t.wave? c k).map Wave.still = ((pass i b act s).wave? c k).map Wave.still) ∧
      t.op? s.nextId = some ⟨b.ctx, b.wave, v.present act, .store (2 ^ w) rel (if s.freeBit 0 then steps else [])⟩ ∧
      (.storeAcknowledged, s.nextId :: if s.freeBit 0 then [] else s.mirrors (steps.map fun e => e.2.1)) ∈ t.agenda := by
  let launched := (s.storedNow u b x (2 ^ w) rel ps steps).launchAt s.nextId b (v.present act)
    (.store (2 ^ w) rel (if s.freeBit 0 then steps else []))
  let ended := if s.freeBit 0 then launched.post .storeAcknowledged [s.nextId]
    else launched.postEnd .storeAcknowledged s.nextId (steps.map fun e => e.2.1)
  have run : store i s d a w own rel =
      .next (watchStop (ended.takeFree).2 b v 2 (2 ^ w) ((v.present act).map fun k => (k, laneAddr v own a k))) := by
    unfold store
    rw [issue_go h, h.ctx, h.wave']
    dsimp only
    rw [if_neg (by simpa using present), go]
    dsimp only
    rw [thisId_pass, ← hsteps]
    rfl
  have posted : Posted launched ended := posted_ite (Posted.post ..) (by rw [postEnd_eq]; exact Posted.post ..)
  obtain ⟨mem, hub, op, waves, agenda⟩ := launchAt_stands posted v 2 (2 ^ w) ((v.present act).map fun k => (k, laneAddr v own a k))
  have keeps : KeepsWaves (pass i b act s) (s.storedNow u b x (2 ^ w) rel ps steps) :=
    (keepsWaves_of_outer (plan_go go).1).trans (keepsWaves_storedNow ..)
  have hubs : launched.hub = s.hub := keeps.hub.trans (hub_pass ..)
  refine ⟨_, run, mem, hub.trans hubs, fun c k => (waves c k).trans (congrArg _ (keeps.waves c k)), op, agenda _ ?_⟩
  simp only [ended]
  split
  · exact mem_agenda_post ..
  · rw [postEnd_eq, State.mirrors, mirroredLines_congr hubs]
    exact mem_agenda_post ..

/-- The keys of a store outside control space. -/
theorem storeSteps_apart {n : Nat} {q : Req} {t : State} {as : List (Nat × Nat)} (go : plan t b x v act q as = .go ps u)
    (apart : ∀ e ∈ as, addrSpace e.2 ≠ 1) : ∀ e ∈ storeSteps v d n ps, 0x2000000000000000 ≤ e.2.1 := by
  intro e he
  obtain ⟨⟨l, j, p⟩, hp, step⟩ := List.mem_filterMap.1 he
  obtain ⟨p, rfl, rfl⟩ := Option.map_eq_some_iff.1 step
  obtain ⟨c, hc, fits⟩ := plan_fits go hp
  exact fits.apart fun control => apart c hc (fits.control control)

/-- A store whose lanes' addresses pass every check: what it has written or has yet to write, and what it leaves alone. -/
theorem store_goes (he : ∀ s, exec i s = store i s d a w own rel) (h : Passes i s b x v act) (present : v.present act ≠ [])
    (go : plan (pass i b act s) b x v act ⟨.ldst, 2 ^ w, permW, false, none, none⟩
      ((v.present act).map fun k => (k, laneAddr v own a k)) = .go ps u)
    {steps : List (Nat × Nat × Nat)} (hsteps : steps = storeSteps v d (2 ^ w) ps) :
    ∃ t todo, exec i s = .next t ∧
      (t.hub = s.hub ∧ ∀ c k, (t.wave? c k).map Wave.still = ((pass i b act s).wave? c k).map Wave.still) ∧
      t.op? s.nextId = some ⟨b.ctx, b.wave, v.present act, .store (2 ^ w) rel todo⟩ ∧
      ((todo = steps ∧ (.storeAcknowledged, [s.nextId]) ∈ t.agenda) ∨
        (todo = [] ∧ (.storeAcknowledged, s.nextId :: s.mirrors (steps.map fun e => e.2.1)) ∈ t.agenda)) ∧
      ((∀ e ∈ (v.present act).map fun k => (k, laneAddr v own a k), addrSpace e.2 ≠ 1) →
        (todo = steps → steps ≠ [] → t.mem = u.mem) ∧ (todo = [] → Written (2 ^ w) steps u.mem t.mem)) := by
  obtain ⟨t, run, mem, hub, waves, op, agenda⟩ := store_launched (rel := rel) h present go hsteps
  refine ⟨t, _, (he s).trans run, ⟨hub, waves⟩, op, ?_, fun apart => ?_⟩
  · cases later : s.freeBit 0 with
    | true => rw [later, if_pos rfl] at agenda; exact .inl ⟨if_pos rfl, agenda⟩
    | false => rw [later, if_neg Bool.false_ne_true] at agenda; exact .inr ⟨if_neg Bool.false_ne_true, agenda⟩
  · cases later : s.freeBit 0 with
    | true =>
      rw [State.storedNow, if_pos later, mem_pinIf] at mem
      refine ⟨fun _ _ => mem, fun empty => ?_⟩
      rw [if_pos rfl] at empty
      rw [empty, mem]
      exact fun _ => rfl
    | false =>
      have far := storeSteps_apart (d := d) (n := 2 ^ w) go apart
      rw [← hsteps] at far
      rw [State.storedNow, if_neg (by simp [later])] at mem
      refine ⟨fun all steps => absurd all.symm (by simpa using steps), fun _ => ?_⟩
      have written := (performStores_apart (c := b.ctx) (w := b.wave) (x := x) (n := 2 ^ w) (rel := rel)
        (pinIf b (ps.filterMap fun e => e.2.2) u) far).1
      rwa [mem_pinIf, ← mem] at written

/-- A store in the own scratchpad and the own commons window, which nothing holds back. -/
theorem store_of_plain (he : ∀ s, exec i s = store i s d a w own rel) (h : Passes i s b x v act) (quiet : Quiet s b x (2 ^ w))
    {ks : List (Nat × Nat)} (lanes : ks.map (·.1) = v.present act) (stores : ks ≠ [])
    (plain : ∀ p ∈ ks, Plain s b x (2 ^ w) (laneAddr v own a p.1) p.2) :
    ∃ t todo, exec i s = .next t ∧
      (t.hub = s.hub ∧ ∀ c k, (t.wave? c k).map Wave.still = ((pass i b act s).wave? c k).map Wave.still) ∧
      t.op? s.nextId = some ⟨b.ctx, b.wave, ks.map (·.1), .store (2 ^ w) rel todo⟩ ∧
      (.storeAcknowledged, [s.nextId]) ∈ t.agenda ∧
      ((todo = ks.map fun p => (p.1, p.2, storeData v d (2 ^ w) p.1)) ∧ t.mem = s.mem ∨
        todo = [] ∧ Written (2 ^ w) (ks.map fun p => (p.1, p.2, storeData v d (2 ^ w) p.1)) s.mem t.mem) := by
  have named : ((v.present act).map fun k => (k, laneAddr v own a k)) = ks.map fun p => (p.1, laneAddr v own a p.1) := by
    rw [← lanes, List.map_map]
    rfl
  have present : v.present act ≠ [] := lanes ▸ mt List.map_eq_nil_iff.1 stores
  have go := plan_of_plain (q := ⟨.ldst, 2 ^ w, permW, false, none, none⟩) h quiet rfl rfl (Nat.two_pow_pos w) (laneAddr v own a) ks plain
    (fun sync => absurd rfl sync)
  rw [← named] at go
  have steps : (ks.map fun p => (p.1, p.2, storeData v d (2 ^ w) p.1)) = storeSteps v d (2 ^ w) (nearPlaces s b x (laneAddr v own a) ks) :=
    (filterMap_nearPlaces _ ks fun k j => (k, j, storeData v d (2 ^ w) k)).symm
  obtain ⟨t, todo, run, left, op, agenda, mem⟩ := store_goes (rel := rel) he h present go steps
  obtain ⟨later, now⟩ := mem (by
    rw [named]
    intro e he
    obtain ⟨p, hp, rfl⟩ := List.mem_map.1 he
    exact addrSpace_of_plain (plain p hp))
  rw [mem_pass] at later now
  refine ⟨t, todo, run, left, lanes ▸ op, ?_, ?_⟩
  · rcases agenda with ⟨-, posted⟩ | ⟨-, posted⟩
    · exact posted
    · rwa [mirrors_of_apart fun k hk => ?_] at posted
      obtain ⟨e, he, rfl⟩ := List.mem_map.1 hk
      obtain ⟨p, hp, rfl⟩ := List.mem_map.1 he
      exact Nat.le_trans (by decide) (key_of_plain (plain p hp))
  · rcases agenda with ⟨all, -⟩ | ⟨finished, -⟩
    · exact .inl ⟨all, later all (mt List.map_eq_nil_iff.1 stores)⟩
    · exact .inr ⟨finished, now finished⟩

end

/-! ### STORE_ACKNOWLEDGED (R100, R124, R305) -/

theorem keyLine_of_apart {k : Nat} (h : 0x2000000000000000 ≤ k) : keyLine k = 0 :=
  if_neg (by rw [space_keyPlace]; omega)

theorem waitLines_nil (s : State) (e : Instr) (id : Nat) : s.waitLines e id [] = s.settled := rfl

/-- An event that waits for no line of its own is performed as it comes. -/
theorem taken_of_none_waiting {s : State} {e : Instr} (h : ∀ w ∈ s.waiting, ¬ (w.event = e ∧ w.args = s.args)) : s.taken e = s := by
  have absent : (s.waiting.findIdx? fun w => w.posted && w.event == e && w.args == s.args) = none := by
    rw [List.findIdx?_eq_none_iff]
    intro w hw
    have := h w hw
    simp only [Bool.and_eq_false_iff, beq_eq_false_iff_ne, ne_eq]
    tauto
  rw [State.taken, absent]

section
variable {s : State} {id : Nat} {o : Op} {x : Ctx} {n : Nat} {rel : Option Nat} {todo : List (Nat × Nat × Nat)}

/-- The state in which what a store has left to do outside control space has been done. -/
def State.storedAll (s : State) (id : Nat) (o : Op) (x : Ctx) (n : Nat) (rel : Option Nat) (todo : List (Nat × Nat × Nat)) : State :=
  let t := s.performStores o.ctx o.wave x n rel todo
  { t with ops := SMap.insert t.ops id { o with kind := .store n rel [] } }

/-- What a store has left to do outside control space is done at once, and the store ends. -/
theorem storeAcknowledged_ends (hs : s.args = [id]) (ho : s.op? id = some o) (hx : s.ctx? o.ctx = some x)
    (hk : o.kind = .store n rel todo) (apart : ∀ e ∈ todo, 0x2000000000000000 ≤ e.2.1)
    (mirrored : s.mirrorsAwaited .storeAcknowledged id = false)
    (free : ∀ k ∈ s.waiting, k.turn = false ∧ ¬ (k.event = .storeAcknowledged ∧ k.args.head? = some id)) :
    exec .storeAcknowledged s = .next ((s.storedAll id o x n rel todo).endOp id) := by
  have arm : exec .storeAcknowledged s = execStoreAcknowledged s := rfl
  have taken : s.taken .storeAcknowledged = s := by
    refine taken_of_none_waiting fun w hw => fun ⟨event, args⟩ => (free w hw).2 ⟨event, ?_⟩
    rw [args, hs]
    rfl
  have whole : ¬ s.unmirrored = true := by rw [State.unmirrored, hs]; exact Bool.false_ne_true
  have mine : (todo.filter fun e => s.partOf e.2.1) = todo := by
    refine List.filter_eq_self.2 fun e _ => ?_
    rw [State.partOf, hs]
  have line (e : Nat × Nat × Nat) (he : e ∈ todo) : s.keyWaits 1 x e.2.1 = false := by
    rw [State.keyWaits, keyLine_of_apart (apart e he)]
    rfl
  have wait : (todo.filter fun e => s.keyWaits 1 x e.2.1) = [] :=
    List.filter_eq_nil_iff.2 fun e he => by rw [line e he]; exact Bool.false_ne_true
  have now : (todo.filter fun e => !s.keyWaits 1 x e.2.1) = todo :=
    List.filter_eq_self.2 fun e he => by rw [line e he]; rfl
  have left : (todo.filter fun e => !todo.contains e) = [] :=
    List.filter_eq_nil_iff.2 fun e he => by simp [he]
  have outside := (performStores_apart (c := o.ctx) (w := o.wave) (x := x) (n := n) (rel := rel) s apart).2
  have waiting : (s.storedAll id o x n rel todo).waiting = s.waiting := (congrArg State.waiting outside :)
  have agenda : (s.storedAll id o x n rel todo).agenda = s.agenda := (congrArg State.agenda outside :)
  have lines : (s.storedAll id o x n rel todo).waitLines .storeAcknowledged id [] = s.storedAll id o x n rel todo :=
    (waitLines_nil ..).trans (settled_of_no_turn (by rw [waiting]; exact fun w hw => (free w hw).1))
  have mirrors : (s.storedAll id o x n rel todo).awaitMirrors .storeAcknowledged id (todo.map fun e => e.2.1) =
      s.storedAll id o x n rel todo := by
    rw [State.awaitMirrors, mirroredLines_of_apart fun k hk => ?_]
    obtain ⟨e, he, rfl⟩ := List.mem_map.1 hk
    exact apart e he
  have ends : (s.storedAll id o x n rel todo).storeOver id = (s.storedAll id o x n rel todo).endOp id := by
    have held : (s.storedAll id o x n rel todo).op? id = some { o with kind := .store n rel [] } := SMap.find?_insert_self ..
    have still : (s.storedAll id o x n rel todo).mirrorsAwaited .storeAcknowledged id = false := by
      rw [State.mirrorsAwaited, agenda]
      exact mirrored
    rw [State.storeOver, held]
    dsimp only
    rw [still]
    rfl
  rw [arm, execStoreAcknowledged, taken, arg_of_one hs]
  dsimp only
  rw [ho]
  dsimp only
  rw [hk]
  dsimp only
  rw [hx]
  dsimp only
  rw [if_neg whole, mine, wait, now, left]
  refine congrArg Host.Outcome.next ?_
  change (((s.storedAll id o x n rel todo).waitLines .storeAcknowledged id []).awaitMirrors .storeAcknowledged id
    (todo.map fun e => e.2.1)).storeOver id = _
  rw [lines, mirrors, ends]

/-- STORE_ACKNOWLEDGED writes what is left, the highest lane's bytes last, and ends the store. -/
theorem storeAcknowledged_performs (hs : s.args = [id]) (ho : s.op? id = some o) (hx : s.ctx? o.ctx = some x)
    (hk : o.kind = .store n rel todo) (apart : ∀ e ∈ todo, 0x2000000000000000 ≤ e.2.1)
    (mirrored : s.mirrorsAwaited .storeAcknowledged id = false)
    (free : ∀ k ∈ s.waiting, k.turn = false ∧ ¬ (k.event = .storeAcknowledged ∧ k.args.head? = some id)) :
    ∃ t, exec .storeAcknowledged s = .next t ∧ t.op? id = none ∧ t.hub = s.hub ∧ (∀ c w, t.wave? c w = s.wave? c w) ∧
      Written n todo s.mem t.mem := by
  have keeps := keepsWaves_performStores o.ctx o.wave x n rel todo s
  refine ⟨_, storeAcknowledged_ends hs ho hx hk apart mirrored free, op?_endOp_self .., (hub_endOp ..).trans keeps.hub,
    fun c w => (wave?_endOp ..).trans (keeps.waves c w), ?_⟩
  rw [mem_endOp]
  exact (performStores_apart s apart).1

end

/-! ### Loads and stores by instruction -/

/-- The four loads. -/
theorem exec_load {i : Instr} {d a sc w l e : Nat} {own ext : Bool} {acq : Option Nat}
    (hi : (i = .ld d a e w l ∧ own = false ∧ ext = decide (e = 1) ∧ acq = none) ∨
      (i = .ldAcq d a sc w l ∧ own = false ∧ ext = false ∧ acq = some sc) ∨
      (i = .lds d a e w l ∧ own = true ∧ ext = decide (e = 1) ∧ acq = none) ∨
      (i = .ldsAcq d a sc w l ∧ own = true ∧ ext = false ∧ acq = some sc)) (s : State) :
    exec i s = load i s d a w ext own acq := by
  rcases hi with hi | hi | hi | hi <;> (obtain ⟨rfl, rfl, rfl, rfl⟩ := hi; rfl)

/-- The four stores. -/
theorem exec_store {i : Instr} {d a sc w l : Nat} {own : Bool} {rel : Option Nat}
    (hi : (i = .st d a w l ∧ own = false ∧ rel = none) ∨ (i = .stRel d a sc w l ∧ own = false ∧ rel = some sc) ∨
      (i = .sts d a w l ∧ own = true ∧ rel = none) ∨ (i = .stsRel d a sc w l ∧ own = true ∧ rel = some sc)) (s : State) :
    exec i s = store i s d a w own rel := by
  rcases hi with hi | hi | hi | hi <;> (obtain ⟨rfl, rfl, rfl⟩ := hi; rfl)

/-- Settles O23: the accesses that nothing holds back, those whose checks pass, and the acknowledgement of a store. -/
theorem loadsAndStores : Obligations.LoadsAndStores := by
  unfold Obligations.LoadsAndStores
  refine ⟨fun d a sc w l e s b x v act ks quiet => ⟨fun i own ext acq hi h lanes once plain fresh => ?_,
      fun i own rel hi h lanes stores plain => ?_⟩,
    ⟨fun d a sc w l e i own ext acq hi s b x v act h untouched ps u go ready => ?_,
      fun d a sc w l i own rel hi s b x v act h => ⟨fun helpers => ?_, fun ps u present go => ?_⟩,
      fun s id o x n rel todo hs ho hx hk apart mirrored free => ?_⟩⟩
  · exact load_of_plain (exec_load hi) h quiet lanes once plain fresh
  · obtain ⟨t, todo, run, left, op, posted, mem⟩ := store_of_plain (exec_store hi) h quiet lanes stores plain
    refine ⟨t, todo, run, left, op, posted, mem.imp_right fun ⟨finished, written⟩ => ⟨finished, fun j => ?_⟩⟩
    rw [written j, List.foldl_map]
  · exact load_goes (exec_load hi) h untouched go ready
  · exact ⟨_, passed_pass h, (exec_store hi s).trans (store_of_helpers h (List.map_eq_nil_iff.1 helpers))⟩
  · have lanes : ((v.present act).map fun k => (k, laneAddr v own a k)).map (·.1) = v.present act := by
      rw [List.map_map]
      exact List.map_id _
    obtain ⟨t, todo, run, left, op, rest⟩ := store_goes (d := d) (exec_store hi) h (mt List.map_eq_nil_iff.2 present) go rfl
    exact ⟨t, todo, run, left, by rw [← lanes] at op; exact op, rest⟩
  · exact storeAcknowledged_performs hs ho hx hk (fun e he => (apart e he).1) mirrored free

end Sys2Proof.Machine
end
